-- ==== Sys2Proof/Word.lean ====
section
/-! DEFINITION. The words of the F5120 and the units of time (R8, R10, Table 0.6). -/

namespace Sys2Proof

/-- The native word of the F5120, 20 bits ("Words, fields and numbers", R8). -/
abbrev Word := BitVec 20
/-- A byte. -/
abbrev Byte := BitVec 8
/-- A host dword, 32 bits (R8, R401). -/
abbrev Dword := BitVec 32
/-- The 128 payload bits of a line block (R73). -/
abbrev Block := BitVec 128

/-- An instant or a span in ticks of 1 / 146,124,000,000,000 s: a nanosecond, a UI of 106.272 GBd
and a SLICE cycle of 2.2 GHz are whole numbers of ticks (Table 0.6, R363). -/
abbrev Ticks := Nat

end Sys2Proof
end

