-- ==== Sys2Proof/Config.lean ====
section
/-! DEFINITION. What stepping B1 fixes (R1, R3, R6, Tables 0.1 to 0.6), the units of time, and the values that
no part of the spec states (opaque constants without a body). -/

namespace Sys2Proof.Config

/-- Vendor ID, device ID, revision ID and class code of PCI Express (R6, Table 0.3). -/
def vendorId : BitVec 16 := 0x1F4E
def deviceId : BitVec 16 := 0x5120
def revisionId : BitVec 8 := 0x21
def classCode : BitVec 16 := 0x0280
/-- "F5120-B1", ASCII, NUL-padded to 16 bytes (R6, Table 0.3). -/
def steppingString : List Byte :=
  [0x46, 0x35, 0x31, 0x32, 0x30, 0x2D, 0x42, 0x31, 0, 0, 0, 0, 0, 0, 0, 0]

/-- Ticks of 1 ns, 1 UI, one SLICE cycle, one codeword time of 2,700 UI, one microsecond, millisecond, second. -/
def ns : Nat := 146124
def ui : Nat := 1375
def slicePeriod : Nat := 66420
def cwt : Nat := 2700 * ui
def us : Nat := 1000 * ns
def ms : Nat := 1000000 * ns
def sec : Nat := 1000000000 * ns
/-- One line frame, 13,284,000 UI (R31). -/
def frameTicks : Nat := 13284000 * ui

/-- Reserved AIDs 0xF_FFF0 to 0xF_FFFF (R27). -/
def aidReserved (aid : Word) : Bool := decide (0xFFFF0 ≤ aid.toNat)
def aidAnnounce : Word := 0xFFFF0
def aidRanging : Word := 0xFFFF1
def aidMgmt : Word := 0xFFFF2
def aidNotice : Word := 0xFFFFE

/-- Limits of R26, R30, R131, R246, R257, R65. -/
def maxAids : Nat := 4096
def maxFrame : Nat := 10240
def maxOpenAssemblies : Nat := 8192
def maxPlacedParcels : Nat := 1048576
def poolBuffers : Nat := 1048576
def privCells : Nat := 32768
def allCells : Nat := 524288
def stageSegments : Nat := 98304
def maxScans : Nat := 64

/-- Cipher cells: 12 for each line lane and direction, 768 in a slice (R1, R3, Table 0.1). -/
def cellsPerLane : Nat := 12
def sliceCells : Nat := 2 * 32 * cellsPerLane
def deviceCells : Nat := 8 * sliceCells

/-- Buffer sizes of the six pools (Table 8.1). -/
def poolSize : Nat → Nat
  | 0 => 256 | 1 => 640 | 2 => 1280 | 3 => 2560 | 4 => 5120 | _ => 10240

/-- Preamble lengths in UI (Table 4.5). -/
def preambleUi (code : BitVec 4) : Nat :=
  match code.toNat with
  | 0 => 64 | 1 => 96 | 2 => 128 | 3 => 192 | 4 => 256 | 5 => 384 | 6 => 512 | 7 => 768
  | 8 => 1024 | 9 => 1536 | 10 => 2048 | 11 => 3072 | 12 => 4096 | 13 => 5120 | 14 => 6144 | _ => 8192

/-- Boot back-off waits in seconds after failed attempt 1, 2, ... (R390). -/
def bootWait : Nat → Nat
  | 0 => 1 | 1 => 2 | 2 => 4 | 3 => 8 | 4 => 16 | 5 => 32 | _ => 60

/-- The boot ROM's digest of itself (R424), of which the spec gives no value. -/
opaque romDigest : BitVec 384

/-- The slot 0 certificate chain (R428), of whose bytes the spec gives no layout: its leaf certificate carries the serial and the identity
public key (R427). -/
opaque certChain : Nat → BitVec 768 → List Byte

/-- The identity private key that the device-unique secret and a label give (R427): the spec names neither the function under the derivation nor
the length of the extra random bits. -/
opaque identityKey : Nat → List Byte → Nat

/-- The secret number of an ECDSA signature, for a private key and a digest (FIPS 186-5): random, or the one of the deterministic form; the spec
does not say which. -/
opaque ecdsaSecret : Nat → BitVec 384 → Nat

/-- The change of rho that the firmware servo wants at a whole second, from the average offset of that second and of the one before: the
spec gives the bandwidth and the damping of its loop, and no coefficients (R350). -/
opaque servoChange : Int → Int → BitVec 64

/-- How far the crystal and the fallback oscillator of the AO domain are off, of which the spec gives the limits: 20 ppm (Table 18.9) and
2 % (R351). -/
opaque crystalDraw : Nat
opaque fallbackDraw : Nat

/-- The period of the crystal in 2^-32 ns, within 20 ppm of 40 ns, and the frequency of the fallback in kHz, within 2 % of 32 MHz. -/
def crystalPeriod : Nat := 171798691840 - 3435973 + crystalDraw % 6871947
def fallbackKhz : Nat := 32000 - 640 + fallbackDraw % 1281

/-- Where the counts of a family of the directory stand, and the bytes between two of them (R448). -/
opaque countOffset : Nat → BitVec 32
opaque countStride : Nat → BitVec 32

/-- The four check symbols of a word's 32 data bytes (R321): a Reed-Solomon code over GF(2^8) of which the spec gives no generator. -/
opaque rsCheck : BitVec 256 → BitVec 32

/-- A value that the spec leaves open, the n-th the block uses; nothing constrains it. -/
opaque freeValue : Nat → BitVec 64

end Sys2Proof.Config
end

