-- ==== Sys2Proof/Machine/Tab.lean ====
section
/-! DEFINITION. Sparse tables: an indexed store as a list of (index, value) pairs in one canonical form, indices strictly
rising and no value equal to what an unlisted index reads as. Every table, register file and memory of the block is
one of these. -/

namespace Sys2Proof

/-- A store indexed by Nat. Only the entries that differ from the reset value are listed. -/
abbrev Tab (α : Type) := List (Nat × α)

/-- The value at index i; d is what an unlisted index reads as. -/
def Tab.get {α : Type} (d : α) : Tab α → Nat → α
  | [], _ => d
  | (k, w) :: m, i => if k = i then w else Tab.get d m i

/-- Remove every entry of index i. -/
def Tab.erase {α : Type} : Tab α → Nat → Tab α
  | [], _ => []
  | (k, w) :: m, i => if k = i then Tab.erase m i else (k, w) :: Tab.erase m i

/-- Insert an entry before the first larger index. -/
def Tab.ins {α : Type} : Tab α → Nat → α → Tab α
  | [], i, v => [(i, v)]
  | (k, w) :: m, i, v => if i < k then (i, v) :: (k, w) :: m else (k, w) :: Tab.ins m i v

/-- Write index i. Writing what an unlisted index reads as removes the entry. -/
def Tab.set {α : Type} [DecidableEq α] (d : α) (m : Tab α) (i : Nat) (v : α) : Tab α :=
  if v = d then Tab.erase m i else Tab.ins (Tab.erase m i) i v

/-- Change index i by f. -/
def Tab.upd {α : Type} [DecidableEq α] (d : α) (m : Tab α) (i : Nat) (f : α → α) : Tab α :=
  Tab.set d m i (f (Tab.get d m i))

/-- Every index listed is above lo, and they rise strictly. -/
def Tab.risingFrom {α : Type} : Nat → Tab α → Bool
  | _, [] => true
  | lo, (k, _) :: m => decide (lo ≤ k) && Tab.risingFrom (k + 1) m

/-- The canonical form: indices strictly rising, no entry equal to the unlisted value. -/
def Tab.wf {α : Type} [DecidableEq α] (d : α) (m : Tab α) : Bool :=
  Tab.risingFrom 0 m && m.all (fun e => decide (e.2 ≠ d))

/-- Change every listed value; what an unlisted index reads as stays. -/
def Tab.mapV {α : Type} [DecidableEq α] (d : α) (m : Tab α) (f : Nat → α → α) : Tab α :=
  (m.map fun e => (e.1, f e.1 e.2)).filter fun e => decide (e.2 ≠ d)

/-- Write consecutive entries from index i. -/
def Tab.setMany {α : Type} [DecidableEq α] (d : α) (m : Tab α) (i : Nat) : List α → Tab α
  | [] => m
  | v :: vs => Tab.setMany d (Tab.set d m i v) (i + 1) vs

end Sys2Proof
end

