-- ==== Sys2Proof/Machine/Crc.lean ====
section
/-! DEFINITION. The checks of the line and of the address hash (R82, R98, R214), the Ethernet FCS, and cutting fields out
of blocks. -/

namespace Sys2Proof

/-- The bits of v, most significant first (R10: fields on the line are sent most significant bit first). -/
def bitsMsb {w : Nat} (v : BitVec w) : List Bool :=
  (List.range w).map (fun i => v.getLsbD (w - 1 - i))

/-- One step of a CRC register of width w held in a Nat: shift left, feed one bit, reduce by the polynomial. -/
def crcStep (w poly r : Nat) (b : Bool) : Nat :=
  let top := Nat.testBit r (w - 1)
  let sh := (2 * r) % 2 ^ w
  if xor top b then Nat.xor sh poly else sh

def crcBits (w poly : Nat) (init : Nat) (bs : List Bool) : Nat :=
  bs.foldl (crcStep w poly) init

/-- CRC-32 of R82: polynomial 0x04C1_1DB7, initial value all ones, result complemented, in transmission order. -/
def crc32 (bs : List Bool) : BitVec 32 :=
  ~~~ (BitVec.ofNat 32 (crcBits 32 0x04C11DB7 0xFFFFFFFF bs))

/-- CRC-16 of R98: polynomial x^16 + x^12 + x^5 + 1, initial value 0xFFFF, no final complement. -/
def crc16 (bs : List Bool) : BitVec 16 :=
  BitVec.ofNat 16 (crcBits 16 0x1021 0xFFFF bs)

/-- Bits [hi:lo] of v as a w-bit field, w = hi - lo + 1. -/
def fld {n : Nat} (w lo : Nat) (v : BitVec n) : BitVec w := BitVec.extractLsb' lo w v

/-- Place a field at bit lo of an n-bit word. -/
def put {w : Nat} (n lo : Nat) (v : BitVec w) : BitVec n := (v.setWidth n) <<< lo

/-- One bit as a field. -/
def b1 (b : Bool) : BitVec 1 := BitVec.ofBool b

/-- The CRC-16 over bits [127:16] of a block, as HCHK, ECHK, NCHK and BCHK cover it (R98, R109, R145, R122). -/
def blockChk (b : Block) : BitVec 16 := crc16 (bitsMsb (fld 112 16 b))

/-- A block with its check written into bits [15:0]. -/
def withChk (b : Block) : Block := (b &&& ~~~ (0xFFFF : Block)) ||| (blockChk b).setWidth 128

/-- CRC-32 over whole blocks, in transmission order (R82, TCHK of Table 5.2). -/
def crc32Blocks (bs : List Block) : BitVec 32 := crc32 (bs.flatMap (fun b => bitsMsb b))

/-- The bits of a byte, least significant first, as Ethernet sends them. -/
def bitsLsb8 (b : Byte) : List Bool := (List.range 8).map (fun i => b.getLsbD i)

/-- Reverse the bits of a byte. -/
def rev8 (b : Byte) : Byte := BitVec.ofNat 8 ((bitsLsb8 b).foldl (fun a x => 2 * a + x.toNat) 0)

/-- The IEEE 802.3 frame check sequence of a frame's bytes, as its four bytes in order of transmission. -/
def fcsBytes (body : List Byte) : List Byte :=
  let c := crc32 (body.flatMap bitsLsb8)
  [rev8 (fld 8 24 c), rev8 (fld 8 16 c), rev8 (fld 8 8 c), rev8 (fld 8 0 c)]

/-- The frame's last four bytes are its FCS. -/
def fcsOk (frame : List Byte) : Bool :=
  decide (4 ≤ frame.length) && decide (frame.drop (frame.length - 4) = fcsBytes (frame.take (frame.length - 4)))

/-- The address table's set index: bits [16:0] of the CRC-32 over four zero bits, the VLAN ID and the MAC (R214). -/
def addrSet (vlan : BitVec 12) (mac : BitVec 48) : Nat :=
  (crc32 ([false, false, false, false] ++ bitsMsb vlan ++ bitsMsb mac)).toNat % 131072

/-- Bytes, most significant first, of a w-byte number. -/
def bytesBE (w : Nat) (v : Nat) : List Byte :=
  (List.range w).map (fun i => BitVec.ofNat 8 (v / 256 ^ (w - 1 - i)))

/-- The number that bytes spell, most significant first. -/
def natBE (bs : List Byte) : Nat := bs.foldl (fun a b => 256 * a + b.toNat) 0

/-- Round up the quotient. -/
def cdiv (a b : Nat) : Nat := (a + b - 1) / b

end Sys2Proof
end

