-- ==== Sys2Proof/Machine/TBase.lean ====
section
/-! DEFINITION. Directions, completion codes, commands, events and what the block drives out
(14_control_mailbox.md, 16_observability.md). -/

namespace Sys2Proof

/-- A direction of a slice: downstream from the trees to the system ports, or upstream. -/
inductive Dir | down | up
  deriving DecidableEq, Repr

def Dir.num : Dir → Nat
  | .down => 0 | .up => 1

/-- A completion code (Table 14.10). -/
inductive Code
  | ok | async | notReady | range | refused | busy | unknown | length | notFound | exists | setFull
  | aborted | dmaError | fwFault | unconfigured
  deriving DecidableEq, Repr

def Code.num : Code → Nat
  | .ok => 0 | .async => 1 | .notReady => 2 | .range => 3 | .refused => 4 | .busy => 5 | .unknown => 6
  | .length => 7 | .notFound => 8 | .exists => 9 | .setFull => 0xA | .aborted => 0xB | .dmaError => 0xC
  | .fwFault => 0xD | .unconfigured => 0xE

/-- A mailbox command as it is copied from the command area (R399, R401): the mailbox, its tag, the parameter dwords
(direct or fetched under R403); host is what the host buffers named by the command hold. -/
structure Req where
  mb : Fin 16
  tag : Word := 0
  params : List Dword := []
  host : List (List Dword) := []
  deriving DecidableEq, Repr

/-- A response before its header is written: code, DETAIL and result dwords (R401, Table 14.10); later: it is written only when the
work that the command began ends, and the mailbox is busy until then (R380, R399). -/
structure Resp where
  code : Code := .ok
  detail : Nat := 0
  results : List Dword := []
  later : Bool := false
  deriving DecidableEq, Repr

/-- An event record (Tables 14.13 and 16.10) and the queue that R413 and R462 assign it. -/
structure Event where
  queue : Nat
  source : Nat
  code : Nat
  object : Nat
  detail : List Nat := []
  time : Nat
  deriving DecidableEq, Repr

/-- One entry of the event log (R463). -/
structure LogEntry where
  queue : Nat
  seq : Nat
  source : Nat
  code : Nat
  object : Nat
  detail : List Nat
  time : Nat
  logSeq : Nat
  deriving DecidableEq, Repr

/-- A parcel or a frame as it is driven out: its bytes, FCS included, and its marks. -/
structure SentFrame where
  bytes : List Byte
  poisoned : Bool := false
  deriving DecidableEq, Repr

/-- One item of a burst after its report (R115, R124 to R126): an assembled parcel with its header fields, an answer,
a cover or idle parcel. -/
inductive BurstItem
  | parcel (aid : Word) (cls epoch : Nat) (eps : Bool) (pn pos blocks : Nat) (frame : SentFrame)
  | answer (body : List Block)
  | idle (blocks : Nat)
  deriving DecidableEq, Repr

/-- What the block drives out of its balls or into host memory. -/
inductive Output
  | dma (channel addr : Nat) (dwords : List Dword)          -- a host memory write (R389)
  | msix (vector : Nat)                                     -- R418
  | sysFrame (port cls : Nat) (f : SentFrame)               -- a frame leaves a system port (R271)
  | pause (port : Nat) (bytes : List Byte)                  -- R273
  | burst (tree : Nat) (start : Ticks) (header : List Block) (region : List (Bool × Block))   -- R115, R126: header blocks, then those of the region
  | injected (lane n : Nat)                                 -- n symbols in a row that leave in error (R60, R61)
  | injecting (lane period : Nat)                           -- from here on each period-th symbol leaves in error; 0: none (R60, R61)
  | burstCut (tree : Nat)                                   -- R139
  | laneOut (lane : Nat) (on : Bool)                        -- burst enable outputs (R24)
  | tod (bitRate : Nat) (line : List Bool)                  -- R359: the levels of ToD_OUT, one for each bit time
  | pps (level : Bool)                                      -- R358
  | doe (bytes : List Byte) (blocks : List (Nat × List Byte))   -- R430, and the measurement blocks it reports (Table 15.1)
  | railSet (channel : Nat) (millivolt : Nat)               -- R480
  deriving DecidableEq, Repr

/-- Integrity of a queue's positions and path at one use (R252, R255, R256), or of the take log (R334). -/
inductive QFault
  | ok | copiesDiffer | cell | foreign | onePrivCopy | bothPriv | word (n : Fin 4) | takeLog
  deriving DecidableEq, Repr

end Sys2Proof
end

