-- ==== Sys2Proof/Machine/TInputs.lean ====
section
/-! DEFINITION. What the outside world presents to the block: line blocks, parcels, notices, and the outcomes of things that
happen outside it. Parcels, notices and shares come as their blocks, and the block's own cipher and curve read them; certificates, unlock tokens
and firmware images come as what they say (log entry 5). -/

namespace Sys2Proof

/-- A received line block after correction: its sync header says control or data; unc: its codeword was uncorrectable
(R73, R77). -/
structure RxBlock where
  ctl : Bool
  unc : Bool := false
  pl : Block
  deriving DecidableEq, Repr

/-- Where a notice stands (R146): in the overhead stream whose list header is hdr, or in the notice parcel whose header, received at an
instant, is hdr. -/
inductive NoticeSrc
  | list (hdr : RxBlock)
  | parcel (hdr : RxBlock) (at_ : Ticks)
  deriving DecidableEq, Repr

/-- A notice as it leaves deskew (R145): its stream, the block of the stream's notices at which its header stands, the header, and the data
blocks after it as far as they came: body and trailer are cut from them by BODY. -/
structure NoticeIn where
  src : NoticeSrc
  off : Nat := 0
  hdr : RxBlock
  rest : List RxBlock := []
  deriving DecidableEq, Repr

/-- What the decoder of a lane has counted since the lane's last frame start decision or the last whole second: symbols corrected,
uncorrectable codewords, invalid raw headers (R105, R106). -/
structure LaneTail where
  corr : Nat := 0
  uncorr : Nat := 0
  inv : Nat := 0
  deriving DecidableEq, Repr

/-- What link training or the start of a link found on one lane of a system port (R46, R52, R68): marker lock only under inversion, its PCS lane
not the one of its place, the partner's tap settings and its precoder request. -/
structure LinkLane where
  inv : Bool := false
  moved : Bool := false
  pre : Nat := 0
  main : Nat := 63
  post : Nat := 0
  precode : Bool := false
  deriving DecidableEq, Repr

/-- What a pattern checker has compared since its last report (R58): symbols, those in error, wrong bits. -/
structure CheckTail where
  symbols : Nat := 0
  errSyms : Nat := 0
  errBits : Nat := 0
  deriving DecidableEq, Repr

/-- A piece of a tree's streams, at the instant at which it is received (R75, R96, R496): a control block of the parcel stream, a parcel's
header among them, where accBad says that the accept word of its AID is found uncorrectable; the blocks that follow the header of the parcel in
reception, up to its tag block or the control block that cuts it, with the instants of the stamp point of R354 and of the arrival of R94; data
blocks outside any parcel; a control block of the overhead stream whose type is not allowed where it stands. -/
inductive StreamItem
  | control (blk : RxBlock) (accBad : Bool)
  | body (rest : List RxBlock) (stampAt tagAt : Ticks)
  | stray (n : Nat)
  | overhead (typ : BitVec 8)
  deriving DecidableEq, Repr

/-- What one certificate of a hub's chain says (R167): its subject key, the CA flag of its basicConstraints, whether it permits
digitalSignature, the key under which its ECDSA P-384 signature verifies, and the SHA-384 digest of its issuer's key. The DER bytes are kept as
they come; what X.509 reads in them is this (log entry 5). -/
structure CertView where
  key : Nat
  ca : Bool := true
  digSig : Bool := true
  signedBy : Nat
  issuer : Nat := 0
  deriving DecidableEq, Repr

/-- A vendor's unlock token (R436): the digest it has, the key that signed it, the serial and the nonce to which it is bound. -/
structure UnlockToken where
  digest : Nat
  signer : Nat
  serial : Nat
  nonce : Nat
  deriving DecidableEq, Repr

/-- What stands under a valid header in a boot source (R391, R425): the bytes of the image and of the policy blob; in the header, the
SHA-384 digest and the security version; the key that signed the header, and digest and version as it signed them; the hub trust anchors
that the blob lists (R167). -/
structure FwImage where
  image : List Byte
  blob : List Byte
  digest : Nat
  svn : Nat
  signer : Nat
  signed : Nat × Nat
  anchors : List Nat := []
  deriving DecidableEq, Repr

/-- What reading a boot source gives: no valid header, a read error, or an image. -/
inductive ImageTry
  | noImage | readError | found (x : FwImage)
  deriving DecidableEq, Repr

/-- The reading of an HBM word or of a control region's two copies (R313, R321, R323). -/
inductive ReadResult | ok | corrected | uncorrectable | poisoned
  deriving DecidableEq, Repr

/-- The word that a read finds (R321): how many of its 36 symbols are wrong, its syndrome, and what the code makes of more wrong symbols than it is
sure to detect. -/
structure WordRead where
  wrong : Fin 37 := 0
  syn : BitVec 32 := 0
  seen : ReadResult := .uncorrectable
  deriving DecidableEq, Repr

/-- What an HBM read was made for (Table 11.5). -/
inductive ReadUse
  | packetWrite (pool idx : Nat)                                   -- RMW of a header action
  | rmw (port : Fin 7)                                             -- RMW of another port's write (R322)
  | commit (tree frame pid item : Nat)                             -- transmit read of a committed parcel
  | egress (pool idx : Nat)
  | hostRing (pool idx : Nat)
  | spill (tree : Nat) (aid : Word)
  | table (code idx : Nat)
  | count (name inst : Nat)
  | hostDma (channel : Nat)
  | fwFetch (core : Nat)
  | fwData (core : Nat)
  | scrub
  | migration
  deriving DecidableEq, Repr

/-- A request that reached a channel of a stack since the last grant there (R315): at which instant, whether for the migration copy, and whether
it writes only part of its word (R322). -/
structure MemArrival where
  port : Fin 7
  write : Bool
  addr : Nat
  mig : Bool
  at_ : Nat
  part : Bool := false
  deriving DecidableEq, Repr

/-- The slot of a channel in which a request was granted: its instant, and the requests that had arrived (R310, R315). -/
structure MemSlot where
  at_ : Nat
  arrived : List MemArrival
  deriving DecidableEq, Repr

/-- What an SPDM request asks (R430 to R432): its code, and its fields as they matter to the block. -/
inductive SpdmKind
  | getVersion | getCapabilities | negotiate (offers : Bool) | getDigests | getCertificate (slot : Nat) | challenge (slot hash : Nat)
  | getMeasurements (signed : Bool) (idx : Nat) | other
  deriving DecidableEq, Repr

/-- A TAP instruction (R436); other: any that the list of R436 does not name. -/
inductive TapInstr | bypass | idcode | samplePreload | extest | other (code : Nat)
  deriving DecidableEq, Repr

end Sys2Proof
end

