-- ==== Sys2Proof/Syntax.lean ====
section
/-! DEFINITION. The commands and events of the F5120, one constructor per row of spec/opcode_table.json. The first operand
t of every row is the instant, in ticks, at which it takes effect (R14); the other operands are what the outside world
decides (log entries 1, 2 and 4). -/

namespace Sys2Proof

inductive Instr
  /-- AO_COLD_START (R340). -/
  | aoColdStart (t : Nat)
  /-- RAIL_EXCURSION (R485). -/
  | railExcursion (t : Nat) (rail : Fin 21)
  /-- MAIN_RAILS_RESTORED (R484). -/
  | mainRailsRestored (t : Nat)
  /-- PERST_RELEASE (R390). -/
  | perstRelease (t : Nat)
  /-- BOOT_ATTEMPT (R390). -/
  | bootAttempt (t : Nat) (src : ImageTry)
  /-- BOOT_WAIT_EXPIRY (R390). -/
  | bootWaitExpiry (t : Nat)
  /-- FIRMWARE_RUNNING (R391). -/
  | firmwareRunning (t : Nat)
  /-- FIRMWARE_START_TIMEOUT (R391). -/
  | firmwareStartTimeout (t : Nat)
  /-- FUNCTION_READY (R396). -/
  | functionReady (t : Nat) (f : Fin 43) (ok : Bool)
  /-- PERST_ASSERT (R394). -/
  | perstAssert (t : Nat)
  /-- FUNCTION_LEVEL_RESET (R394). -/
  | functionLevelReset (t : Nat)
  /-- PCIE_LINK_STATE_CHANGE (R367). -/
  | pcieLinkStateChange (t : Nat) (st : Fin 4)
  /-- HOST_IMG_POST (R392). -/
  | hostImgPost (t : Nat) (v : Dword)
  /-- MB_DOORBELL (R399). -/
  | mbDoorbell (t : Nat) (m : Fin 16) (v : Dword) (host : List (List Dword))
  /-- INDIRECT_PARAM_FETCH (R403). -/
  | indirectParamFetch (t : Nat) (m : Fin 16) (ok : Bool) (params : List Dword) (host : List (List Dword))
  /-- ASYNC_COMPLETION (R406). -/
  | asyncCompletion (t : Nat) (m : Fin 16) (tag : Word) (ok : Bool) (image : ImageTry)
  /-- MB_STATUS_WRITE (R399). -/
  | mbStatusWrite (t : Nat) (m : Fin 16) (v : Dword)
  /-- LANE_RX_STATUS_WRITE (R72). -/
  | laneRxStatusWrite (t : Nat) (l : Fin 512) (v : Dword)
  /-- LANE_TX_STATUS_READ (R72). -/
  | laneTxStatusRead (t : Nat) (l : Fin 512)
  /-- LANE_TX_STATUS_WRITE (R72). -/
  | laneTxStatusWrite (t : Nat) (l : Fin 512) (v : Dword)
  /-- IL_STATUS_READ (R142). -/
  | ilStatusRead (t : Nat) (p : Fin 16)
  /-- IL_STATUS_WRITE (R142). -/
  | ilStatusWrite (t : Nat) (p : Fin 16) (v : Dword)
  /-- TIME_SNAP_READ (R343). -/
  | timeSnapRead (t : Nat)
  /-- TIME_STATUS_WRITE (R343). -/
  | timeStatusWrite (t : Nat) (v : Dword)
  /-- PD_STATUS_WRITE (R382). -/
  | pdStatusWrite (t : Nat) (pd : Fin 127) (v : Dword)
  /-- BOARD_IRQ_WRITE (R419). -/
  | boardIrqWrite (t : Nat) (v : Dword)
  /-- DMA_STATUS_READ (R420). -/
  | dmaStatusRead (t : Nat) (c : Fin 64)
  /-- RX_BUFFER_POST (R416). -/
  | rxBufferPost (t : Nat) (r : Fin 64) (idx : Nat) (addrs : List Nat)
  /-- TX_RING_DOORBELL (R417). -/
  | txRingDoorbell (t : Nat) (r : Fin 64) (idx : Nat)
  /-- QUEUE_HOST_IDX_WRITE (R414). -/
  | queueHostIdxWrite (t : Nat) (off : Nat) (v : Dword)
  /-- QUEUE_OVF_CLEAR (R414). -/
  | queueOvfClear (t : Nat) (off : Nat) (v : Dword)
  /-- REGISTER_WRITE (R8). -/
  | registerWrite (t : Nat) (bar : Fin 8) (off : Nat) (v : Dword)
  /-- MSIX_SIGNAL (R418). -/
  | msixSignal (t : Nat) (vec : Fin 2048)
  /-- TREE_CONFIGURE (R19). -/
  | treeConfigure (t : Nat) (rq : Req)
  /-- TREE_UNCONFIGURE (R411). -/
  | treeUnconfigure (t : Nat) (rq : Req)
  /-- TREE_PAIR (R37). -/
  | treePair (t : Nat) (rq : Req)
  /-- TREE_UNPAIR (R411). -/
  | treeUnpair (t : Nat) (rq : Req)
  /-- SYS_PORT_SET (R412). -/
  | sysPortSet (t : Nat) (rq : Req)
  /-- LANE_TX_SET (R52). -/
  | laneTxSet (t : Nat) (rq : Req)
  /-- LANE_RX_SET (R53). -/
  | laneRxSet (t : Nat) (rq : Req)
  /-- LANE_PRBS (R56). -/
  | lanePrbs (t : Nat) (rq : Req)
  /-- LANE_INJECT (R60). -/
  | laneInject (t : Nat) (rq : Req)
  /-- LANE_EYE_SCAN (R63). -/
  | laneEyeScan (t : Nat) (rq : Req)
  /-- LANE_EYE_ABORT (R66). -/
  | laneEyeAbort (t : Nat) (rq : Req)
  /-- LANE_STATUS (R72). -/
  | laneStatus (t : Nat) (rq : Req)
  /-- ACCEPT_READ (R107). -/
  | acceptRead (t : Nat) (rq : Req)
  /-- ACCEPT_REBUILD (R101). -/
  | acceptRebuild (t : Nat) (rq : Req)
  /-- SR_FILTER_SET (R103). -/
  | srFilterSet (t : Nat) (rq : Req)
  /-- TREE_SKEW_READ (R107). -/
  | treeSkewRead (t : Nat) (rq : Req)
  /-- LINE_PORT_BURST_SET (R116). -/
  | linePortBurstSet (t : Nat) (rq : Req)
  /-- BARROW_AWNING_SET (R130). -/
  | barrowAwningSet (t : Nat) (rq : Req)
  /-- BARROW_STATUS (R144). -/
  | barrowStatus (t : Nat) (rq : Req)
  /-- PITCH_READ (R144). -/
  | pitchRead (t : Nat) (rq : Req)
  /-- IL_STATUS_CMD (R142). -/
  | ilStatusCmd (t : Nat) (rq : Req)
  /-- JOIN_STATUS_CMD (R183). -/
  | joinStatusCmd (t : Nat) (rq : Req)
  /-- DORMANT_REQUEST (R174). -/
  | dormantRequest (t : Nat) (rq : Req)
  /-- JOIN_LOG_READ (R184). -/
  | joinLogRead (t : Nat) (rq : Req)
  /-- PORT_PARSE_SET (R186). -/
  | portParseSet (t : Nat) (rq : Req)
  /-- TPID_SET (R187). -/
  | tpidSet (t : Nat) (rq : Req)
  /-- MAC_FILTER_WRITE (R188). -/
  | macFilterWrite (t : Nat) (rq : Req)
  /-- PROFILE_WRITE (R190). -/
  | profileWrite (t : Nat) (rq : Req)
  /-- RANGE_WRITE (R192). -/
  | rangeWrite (t : Nat) (rq : Req)
  /-- ACTION_WRITE (R196). -/
  | actionWrite (t : Nat) (rq : Req)
  /-- RULE_WRITE (R207). -/
  | ruleWrite (t : Nat) (rq : Req)
  /-- CLS_READ (R210). -/
  | clsRead (t : Nat) (rq : Req)
  /-- LFT_WRITE (R212). -/
  | lftWrite (t : Nat) (rq : Req)
  /-- ADDR_INSERT (R216). -/
  | addrInsert (t : Nat) (rq : Req)
  /-- ADDR_DELETE (R230). -/
  | addrDelete (t : Nat) (rq : Req)
  /-- ADDR_LOOKUP (R230). -/
  | addrLookup (t : Nat) (rq : Req)
  /-- ADDR_FLUSH (R230). -/
  | addrFlush (t : Nat) (rq : Req)
  /-- LEARN_CFG_SET (R221). -/
  | learnCfgSet (t : Nat) (rq : Req)
  /-- SHADOW_SET (R225). -/
  | shadowSet (t : Nat) (rq : Req)
  /-- SHADOW_START (R226). -/
  | shadowStart (t : Nat) (rq : Req)
  /-- SHADOW_STOP (R230). -/
  | shadowStop (t : Nat) (rq : Req)
  /-- SHADOW_REPAIR (R228). -/
  | shadowRepair (t : Nat) (rq : Req)
  /-- BUF_CFG_SET (R234). -/
  | bufCfgSet (t : Nat) (rq : Req)
  /-- STALLHOLDER_SET (R238). -/
  | stallholderSet (t : Nat) (rq : Req)
  /-- QUEUE_SET (R247). -/
  | queueSet (t : Nat) (rq : Req)
  /-- QUEUE_STATUS (R259). -/
  | queueStatus (t : Nat) (rq : Req)
  /-- QUEUE_FLUSH (R251). -/
  | queueFlush (t : Nat) (rq : Req)
  /-- POOL_STATUS (R259). -/
  | poolStatus (t : Nat) (rq : Req)
  /-- STALLHOLDER_STATUS (R259). -/
  | stallholderStatus (t : Nat) (rq : Req)
  /-- SWEEP_START (R254). -/
  | sweepStart (t : Nat) (rq : Req)
  /-- METER_WRITE (R260). -/
  | meterWrite (t : Nat) (rq : Req)
  /-- METER_READ (R282). -/
  | meterRead (t : Nat) (rq : Req)
  /-- SCHED_SET (R266). -/
  | schedSet (t : Nat) (rq : Req)
  /-- PORT_EGRESS_SET (R272). -/
  | portEgressSet (t : Nat) (rq : Req)
  /-- ESCALE_STATUS_CMD (R282). -/
  | escaleStatusCmd (t : Nat) (rq : Req)
  /-- C0_REPORT (R282). -/
  | c0Report (t : Nat) (rq : Req)
  /-- KEY_CTX_SET (R288). -/
  | keyCtxSet (t : Nat) (rq : Req)
  /-- KEY_CTX_READ (R308). -/
  | keyCtxRead (t : Nat) (rq : Req)
  /-- KEY_CTX_FIND (R308). -/
  | keyCtxFind (t : Nat) (rq : Req)
  /-- CIPHER_STATUS (R308). -/
  | cipherStatus (t : Nat) (rq : Req)
  /-- MEM_CFG_SET (R314). -/
  | memCfgSet (t : Nat) (rq : Req)
  /-- MEM_STATUS_CMD (R337). -/
  | memStatusCmd (t : Nat) (rq : Req)
  /-- SCRUB_START (R326). -/
  | scrubStart (t : Nat) (rq : Req)
  /-- SCRUB_ABORT (R328). -/
  | scrubAbort (t : Nat) (rq : Req)
  /-- RANK_MIGRATE (R330). -/
  | rankMigrate (t : Nat) (rq : Req)
  /-- MEM_ERROR_LOG (R337). -/
  | memErrorLog (t : Nat) (rq : Req)
  /-- TIME_SOURCE_SET (R349). -/
  | timeSourceSet (t : Nat) (rq : Req)
  /-- TIME_RATE (R342). -/
  | timeRate (t : Nat) (rq : Req)
  /-- TIME_STEP (R344). -/
  | timeStep (t : Nat) (rq : Req)
  /-- TIME_STATUS_CMD (R362). -/
  | timeStatusCmd (t : Nat) (rq : Req)
  /-- PPS_CFG_SET (R358). -/
  | ppsCfgSet (t : Nat) (rq : Req)
  /-- PTP_TC_SET (R355). -/
  | ptpTcSet (t : Nat) (rq : Req)
  /-- POWER_POLICY_SET (R380). -/
  | powerPolicySet (t : Nat) (rq : Req)
  /-- POWER_ENTER (R380). -/
  | powerEnter (t : Nat) (rq : Req)
  /-- POWER_STATUS (R388). -/
  | powerStatus (t : Nat) (rq : Req)
  /-- REFUSAL_READ (R382). -/
  | refusalRead (t : Nat) (rq : Req)
  /-- SEQ_CFG_SET (R388). -/
  | seqCfgSet (t : Nat) (rq : Req)
  /-- BUDGET_CFG_SET (R388). -/
  | budgetCfgSet (t : Nat) (rq : Req)
  /-- BUDGET_STATUS (R388). -/
  | budgetStatus (t : Nat) (rq : Req)
  /-- FW_STATUS (R409). -/
  | fwStatus (t : Nat) (rq : Req)
  /-- FW_LOAD (R422). -/
  | fwLoad (t : Nat) (rq : Req)
  /-- FW_UPDATE (R423). -/
  | fwUpdate (t : Nat) (rq : Req)
  /-- EVENT_QUEUE_SET (R413). -/
  | eventQueueSet (t : Nat) (rq : Req)
  /-- RING_SET (R415). -/
  | ringSet (t : Nat) (rq : Req)
  /-- RING_STOP (R409). -/
  | ringStop (t : Nat) (rq : Req)
  /-- DMA_RESTART (R420). -/
  | dmaRestart (t : Nat) (rq : Req)
  /-- ECHO (R409). -/
  | echo (t : Nat) (rq : Req)
  /-- TRUST_STATUS (R441). -/
  | trustStatus (t : Nat) (rq : Req)
  /-- CERT_READ (R441). -/
  | certRead (t : Nat) (rq : Req)
  /-- SVN_ADVANCE (R441). -/
  | svnAdvance (t : Nat) (rq : Req)
  /-- VAULT_ZEROISE (R438). -/
  | vaultZeroise (t : Nat) (rq : Req)
  /-- COUNT_WINDOW_SET (R451). -/
  | countWindowSet (t : Nat) (rq : Req)
  /-- COUNT_CLEAR (R443). -/
  | countClear (t : Nat) (rq : Req)
  /-- BW_CFG_SET (R453). -/
  | bwCfgSet (t : Nat) (rq : Req)
  /-- PERF_CFG_SET (R455). -/
  | perfCfgSet (t : Nat) (rq : Req)
  /-- PERF_READ (R456). -/
  | perfRead (t : Nat) (rq : Req)
  /-- MOTH_CFG_SET (R458). -/
  | mothCfgSet (t : Nat) (rq : Req)
  /-- EVENT_LOG_READ (R466). -/
  | eventLogRead (t : Nat) (rq : Req)
  /-- CDR_LOCK (R47). -/
  | cdrLock (t : Nat) (l : Fin 512)
  /-- LOSS_OF_SIGNAL (R79). -/
  | lossOfSignal (t : Nat) (l : Fin 512) (x : LaneTail)
  /-- LOS_ASSERTED (R490). -/
  | losAsserted (t : Nat) (p : Fin 16)
  /-- LOS_CLEARED (R490). -/
  | losCleared (t : Nat) (p : Fin 16)
  /-- RX_OPEN_DETECTED (R68). -/
  | rxOpenDetected (t : Nat) (l : Fin 512) (leg : Fin 2) (x : LaneTail)
  /-- RX_OPEN_CLEARED (R68). -/
  | rxOpenCleared (t : Nat) (l : Fin 512) (leg : Fin 2)
  /-- TX_SHORT_DETECTED (R68). -/
  | txShortDetected (t : Nat) (l : Fin 512)
  /-- TX_SHORT_PROBE (R69). -/
  | txShortProbe (t : Nat) (l : Fin 512) (normal : Bool)
  /-- DFE_ENGAGE (R53). -/
  | dfeEngage (t : Nat) (l : Fin 512) (margin : Nat)
  /-- EYE_SCAN_POINT_DONE (R63). -/
  | eyeScanPointDone (t : Nat) (l : Fin 512) (errors : Nat) (symbols : Nat)
  /-- EYE_SCAN_LOCK_TIMEOUT (R66). -/
  | eyeScanLockTimeout (t : Nat) (l : Fin 512)
  /-- BLOCK_LOCK_GAINED (R78). -/
  | blockLockGained (t : Nat) (l : Fin 256) (tries : List (List (BitVec 2)))
  /-- BLOCK_LOCK_LOSS (R79). -/
  | blockLockLoss (t : Nat) (l : Fin 256) (last : List (BitVec 2)) (x : LaneTail)
  /-- FRAME_START_DECISION (R85). -/
  | frameStartDecision (t : Nat) (l : Fin 256) (arrival pos : Nat) (cw : List RxBlock) (x : LaneTail)
  /-- FRAME_LOCK_LOSS (R85). -/
  | frameLockLoss (t : Nat) (l : Fin 256)
  /-- LANE_IDENTIFIER_RECEIVED (R20). -/
  | laneIdentifierReceived (t : Nat) (l : Fin 256) (blk : Block)
  /-- TREE_FRAME_DECISION (R88). -/
  | treeFrameDecision (t : Nat) (k : Fin 64) (draw : Nat)
  /-- ENTRY_TO_LOST (R41). -/
  | entryToLost (t : Nat) (k : Fin 64)
  /-- LISTENING_LOCK_LOSS (R87). -/
  | listeningLockLoss (t : Nat) (k : Fin 64)
  /-- SR_VALUE_ACCEPTED (R103). -/
  | srValueAccepted (t : Nat) (k : Fin 64)
  /-- PROTECTION_SWITCH_COMPLETE (R39). -/
  | protectionSwitchComplete (t : Nat) (k : Fin 64)
  /-- PITCH_LIST_ENTRY (R110). -/
  | pitchListEntry (t : Nat) (k : Fin 64) (hdr : RxBlock) (blk : RxBlock)
  /-- PITCH_LIST_COMPLETE (R497). -/
  | pitchListComplete (t : Nat) (k : Fin 64) (hdr : RxBlock)
  /-- PARCEL_RECEIVED (R99). -/
  | parcelReceived (t : Nat) (k : Fin 64) (item : StreamItem) (keyBad : Bool) (ue : List (Nat × Nat))
  /-- EPOCH_OVERLAP_END (R301). -/
  | epochOverlapEnd (t : Nat) (k : Fin 64) (aid : Word) (dir : Dir)
  /-- NOTICE_RECEIVED (R148). -/
  | noticeReceived (t : Nat) (k : Fin 64) (n : NoticeIn) (draw : Nat)
  /-- N_ASSIGN (R161). -/
  | nAssign (t : Nat) (k : Fin 64)
  /-- N_RANGE (R162). -/
  | nRange (t : Nat) (k : Fin 64)
  /-- N_EQD (R163). -/
  | nEqd (t : Nat) (k : Fin 64)
  /-- N_TXSET (R164). -/
  | nTxset (t : Nat) (k : Fin 64)
  /-- N_KEX_PHASE0 (R167). -/
  | nKexPhase0 (t : Nat) (k : Fin 64) (certs : List CertView)
  /-- N_KEX_PHASE1 (R168). -/
  | nKexPhase1 (t : Nat) (k : Fin 64)
  /-- N_KEX_PHASE2 (R169). -/
  | nKexPhase2 (t : Nat) (k : Fin 64)
  /-- N_ATTEST (R165). -/
  | nAttest (t : Nat) (k : Fin 64)
  /-- N_ALLOC_ADD (R171). -/
  | nAllocAdd (t : Nat) (k : Fin 64)
  /-- N_ALLOC_REMOVE (R172). -/
  | nAllocRemove (t : Nat) (k : Fin 64)
  /-- N_PITCH_REV (R113). -/
  | nPitchRev (t : Nat) (k : Fin 64) (n : NoticeIn)
  /-- N_TIME (R347). -/
  | nTime (t : Nat) (k : Fin 64)
  /-- N_PROTECT (R175). -/
  | nProtect (t : Nat) (k : Fin 64)
  /-- N_DISABLE_TX_SET (R176). -/
  | nDisableTxSet (t : Nat) (k : Fin 64) (n : NoticeIn)
  /-- N_DISABLE_TX_LIFT (R176). -/
  | nDisableTxLift (t : Nat) (k : Fin 64) (n : NoticeIn) (draw : Nat)
  /-- N_DEREGISTER (R177). -/
  | nDeregister (t : Nat) (k : Fin 64) (draw : Nat)
  /-- N_DORMANT (R174). -/
  | nDormant (t : Nat) (k : Fin 64)
  /-- N_LANE_REMOVE (R93). -/
  | nLaneRemove (t : Nat) (k : Fin 64)
  /-- N_LANE_RETURN (R93). -/
  | nLaneReturn (t : Nat) (k : Fin 64)
  /-- LANE_CHANGE_EFFECT (R93). -/
  | laneChangeEffect (t : Nat) (k : Fin 64)
  /-- ACCEPT_BIT_BOUNDARY (R100). -/
  | acceptBitBoundary (t : Nat) (k : Fin 64)
  /-- ACCEPT_WORD_REWRITE (R101). -/
  | acceptWordRewrite (t : Nat) (k : Fin 64) (word : Nat)
  /-- EQD_TAKES_EFFECT (R129). -/
  | eqdTakesEffect (t : Nat) (k : Fin 64)
  /-- SPDM_RESPONSE_READY (R429). -/
  | spdmResponseReady (t : Nat) (k : Fin 65) (nonce : BitVec 256)
  /-- KEX_SHARE_READY (R157). -/
  | kexShareReady (t : Nat) (k : Fin 64) (eph : Nat) (nonce : BitVec 256)
  /-- T_ASSIGN_EXPIRY (R158). -/
  | tAssignExpiry (t : Nat) (k : Fin 64) (draw : Nat)
  /-- T_ANNOUNCED_EXPIRY (R177). -/
  | tAnnouncedExpiry (t : Nat) (k : Fin 64) (draw : Nat)
  /-- T_RANGED_EXPIRY (R177). -/
  | tRangedExpiry (t : Nat) (k : Fin 64) (draw : Nat)
  /-- T_KEX_EXPIRY (R157). -/
  | tKexExpiry (t : Nat) (k : Fin 64)
  /-- HOLDOFF_EXPIRY (R177). -/
  | holdoffExpiry (t : Nat) (k : Fin 64) (draw : Nat)
  /-- ANSWER_STALE (R153). -/
  | answerStale (t : Nat) (k : Fin 64)
  /-- SYS_LINK_UP (R46). -/
  | sysLinkUp (t : Nat) (p : Fin 256) (trained : Bool) (lanes : List LinkLane)
  /-- SYS_LINK_DOWN (R45). -/
  | sysLinkDown (t : Nat) (p : Fin 256)
  /-- SYS_FRAME_RECEIVED (R233). -/
  | sysFrameReceived (t : Nat) (p : Fin 256) (frame : List Byte) (stamp : Nat) (ue : List (Nat × Nat))
  /-- PAUSE_RECEIVED (R273). -/
  | pauseReceived (t : Nat) (p : Fin 256) (frame : List Byte)
  /-- PFC_RECEIVED (R273). -/
  | pfcReceived (t : Nat) (p : Fin 256) (frame : List Byte)
  /-- PAUSE_EXPIRY (R273). -/
  | pauseExpiry (t : Nat) (p : Fin 256)
  /-- BUFFER_SPILL_UP (R234). -/
  | bufferSpillUp (t : Nat) (n : Fin 8)
  /-- FRAME_DISPATCH (R204). -/
  | frameDispatch (t : Nat) (n : Fin 8) (dir : Dir) (ue : List (Nat × Nat))
  /-- REORDER_RELEASE (R205). -/
  | reorderRelease (t : Nat) (n : Fin 8) (dir : Dir) (port : Fin 32) (prio : Bool) (qf : QFault) (meterBad : Bool)
  /-- CLASS0_BARROW_ARRIVAL (R134). -/
  | class0BarrowArrival (t : Nat) (n : Fin 8) (q : Nat) (qf : QFault)
  /-- BARROW_ASSEMBLY (R267). -/
  | barrowAssembly (t : Nat) (k : Fin 64) (aid : Word) (qf : QFault)
  /-- PITCH_COMMIT (R136). -/
  | pitchCommit (t : Nat) (k : Fin 64) (frame : Nat) (pid : Nat) (keyBad : Bool) (flaws : List (Nat × QFault))
  /-- BURST_START (R128). -/
  | burstStart (t : Nat) (k : Fin 64) (frame : Nat) (pid : Nat)
  /-- TRANSMIT_READ_DONE (R136). -/
  | transmitReadDone (t : Nat) (n : Fin 8) (party : Fin 16) (slice : Fin 8) (pool : Fin 8) (index : Word) (stageBad : Bool)
  /-- PITCH_CLOSE (R128). -/
  | pitchClose (t : Nat) (k : Fin 64) (frame : Nat) (pid : Nat)
  /-- INTERLOCK_TRIP (R139). -/
  | interlockTrip (t : Nat) (p : Fin 16) (seen : BitVec 16) (outs : BitVec 4)
  /-- BALL_MISMATCH (R494). -/
  | ballMismatch (t : Nat) (b : Fin 64)
  /-- SYSTEM_PORT_FRAME_START (R271). -/
  | systemPortFrameStart (t : Nat) (p : Fin 256) (qf : QFault)
  /-- LPI_ENTRY (R274). -/
  | lpiEntry (t : Nat) (p : Fin 256)
  /-- LPI_WAKE_END (R274). -/
  | lpiWakeEnd (t : Nat) (p : Fin 256)
  /-- TX_DESCRIPTOR_READ (R417). -/
  | txDescriptorRead (t : Nat) (r : Fin 64) (desc : List Dword) (bytes : List Byte)
  /-- HOST_RING_COPY (R416). -/
  | hostRingCopy (t : Nat) (n : Fin 8) (qf : QFault) (stageBad : Bool)
  /-- ORPHAN_SWEEP (R254). -/
  | orphanSweep (t : Nat) (n : Fin 8)
  /-- BUDGET_FRAME_BOUNDARY (R276). -/
  | budgetFrameBoundary (t : Nat) (temps : List Nat)
  /-- BUDGET_CONTROLLER_RUN (R385). -/
  | budgetControllerRun (t : Nat) (model : List (Nat × Nat)) (shared : Nat)
  /-- RAIL_READ (R384). -/
  | railRead (t : Nat) (ch : Fin 32) (current : Nat) (millivolt : Nat)
  /-- RAIL_READ_TIMEOUT (R386). -/
  | railReadTimeout (t : Nat) (ch : Fin 32)
  /-- THERMAL_TRIP (R140). -/
  | thermalTrip (t : Nat) (temps : List Nat)
  /-- THERMAL_TRIP_CLEAR (R140). -/
  | thermalTripClear (t : Nat)
  /-- WHOLE_SECOND (R106). -/
  | wholeSecond (t : Nat) (modelled : Nat) (tails : List (Nat × LaneTail))
  /-- TOD_OUT_SEND (R359). -/
  | todOutSend (t : Nat)
  /-- PPS_IN_EDGE (R360). -/
  | ppsInEdge (t : Nat) (frac : Nat)
  /-- TIME_SOURCE_HOLDOVER (R350). -/
  | timeSourceHoldover (t : Nat)
  /-- REF_INPUT_LOST (R365). -/
  | refInputLost (t : Nat) (inp : Fin 2)
  /-- REF_HOLDOVER_UNCERTAIN (R345). -/
  | refHoldoverUncertain (t : Nat)
  /-- REF_INPUT_RESTORED (R365). -/
  | refInputRestored (t : Nat) (inp : Fin 2)
  /-- AO_FALLBACK_SWITCH (R364). -/
  | aoFallbackSwitch (t : Nat)
  /-- AO_CRYSTAL_RESTORED (R364). -/
  | aoCrystalRestored (t : Nat)
  /-- BW_WINDOW_END (R454). -/
  | bwWindowEnd (t : Nat) (n : Fin 8)
  /-- ACTIVATION_WINDOW_END (R320). -/
  | activationWindowEnd (t : Nat) (n : Fin 8)
  /-- STACK_TEMP_READ (R319). -/
  | stackTempRead (t : Nat) (n : Fin 8) (temp : Nat)
  /-- AGE_PASS_START (R221). -/
  | agePassStart (t : Nat) (n : Fin 8)
  /-- AGE_SCANNER_VISIT (R221). -/
  | ageScannerVisit (t : Nat) (n : Fin 8) (bad : Nat)
  /-- LEARN_RECORD_EXPIRY (R218). -/
  | learnRecordExpiry (t : Nat) (n : Fin 8)
  /-- SHADOW_FETCH (R226). -/
  | shadowFetch (t : Nat) (n : Fin 8) (status : Fin 8) (entry : List Dword) (raced : Bool)
  /-- HBM_READ_COMPLETE (R325). -/
  | hbmReadComplete (t : Nat) (n : Fin 8) (addr : Nat) (w : WordRead) (use : ReadUse) (dieCorr : Bool) (slot : MemSlot)
  /-- SCRUB_PASS_END (R327). -/
  | scrubPassEnd (t : Nat) (n : Fin 8)
  /-- MIGRATION_COMPLETE (R330). -/
  | migrationComplete (t : Nat) (n : Fin 8)
  /-- CONTROL_COPY_REBUILT (R313). -/
  | controlCopyRebuilt (t : Nat) (n : Fin 8)
  /-- COUNT_BLOCK_UPDATE (R446). -/
  | countBlockUpdate (t : Nat) (n : Fin 8) (name : Nat) (inst : Nat)
  /-- SRAM_WRITEBACK (R334). -/
  | sramWriteback (t : Nat) (n : Fin 8)
  /-- DERIVATION_COMPLETE (R292). -/
  | derivationComplete (t : Nat) (n : Fin 8)
  /-- PD_ENTRY (R372). -/
  | pdEntry (t : Nat) (pd : Fin 127) (target : Fin 3)
  /-- PD_ENTRY_COMPLETE (R369). -/
  | pdEntryComplete (t : Nat) (pd : Fin 127)
  /-- PD_WAKE_COMPLETE (R368). -/
  | pdWakeComplete (t : Nat) (pd : Fin 127) (selfTest : Bool)
  /-- PD_SCHEDULED_EXIT (R374). -/
  | pdScheduledExit (t : Nat) (pd : Fin 127)
  /-- LANE_POWERUP_COMPLETE (R373). -/
  | lanePowerupComplete (t : Nat) (l : Fin 512)
  /-- PERSISTENT_RECORD_WRITE (R395). -/
  | persistentRecordWrite (t : Nat)
  /-- FIRMWARE_TRAP (R421). -/
  | firmwareTrap (t : Nat) (core : Fin 8) (addr page : Nat) (sram : Option Bool) (task : Option (Fin 16)) (reloaded swapped : Bool)
  /-- FW_HANDOVER (R423). -/
  | fwHandover (t : Nat)
  /-- DMA_HALT (R420). -/
  | dmaHalt (t : Nat) (c : Fin 64) (cause : Fin 8)
  /-- DMA_AUTO_RESTART (R420). -/
  | dmaAutoRestart (t : Nat) (c : Fin 64)
  /-- SPDM_DOE_REQUEST (R430). -/
  | spdmDoeRequest (t : Nat) (msg : List Byte)
  /-- JTAG_UNLOCK (R437). -/
  | jtagUnlock (t : Nat) (token : UnlockToken)
  /-- CHECKER_LOCK (R59). -/
  | checkerLock (t : Nat) (l : Fin 512) (errs : BitVec 64) (c : CheckTail)
  /-- CHECKER_LOCK_LOSS (R59). -/
  | checkerLockLoss (t : Nat) (l : Fin 512) (errs : BitVec 64) (c : CheckTail)
  /-- BURST_END (R128). -/
  | burstEnd (t : Nat) (k : Fin 64) (frame : Nat) (pid : Nat)
  /-- PPS_OUT_PULSE_END (R358). -/
  | ppsOutPulseEnd (t : Nat)
  /-- BALL_MISMATCH_END (R494). -/
  | ballMismatchEnd (t : Nat) (b : Fin 64)
  /-- HBM_WRITE_PERFORMED (R317). -/
  | hbmWritePerformed (t : Nat) (n : Fin 8) (port : Fin 7) (addr : Nat) (slot : MemSlot)
  /-- DOE_ABORT (R430). -/
  | doeAbort (t : Nat)
  /-- JTAG_INSTRUCTION (R436). -/
  | jtagInstruction (t : Nat) (instr : TapInstr)
  /-- AVS_ADJUST (R480). -/
  | avsAdjust (t : Nat) (east : Bool) (millivolt : Nat)
  deriving DecidableEq, Repr

end Sys2Proof
end

