-- ==== Sys2Proof/Decode.lean ====
section
/-! DEFINITION. The table of commands gives no row any bits (every row of spec/opcode_table.json has an empty list of fields): no word
spells a command, and commands come to the block with their operands. -/

namespace Sys2Proof

/-- The command that a word of nbits bits spells by the table: none, because the table gives no bits. -/
def decodeTableWord (_nbits _w : Nat) : Option Instr := none

end Sys2Proof
end

