-- ==== Sys2Proof/Machine/THost.lean ====
section
/-! DEFINITION. The state of the control complex and the host interface (14_control_mailbox.md). -/

namespace Sys2Proof

/-- One record of the queue index page (Table 14.14). [14_control_mailbox.md] -/
structure Idx where
  dev : Nat := 0 -- R414 DEV_IDX, modulo twice the entries
  host : Nat := 0 -- R414 HOST_IDX, modulo twice the entries
  ovf : Bool := false -- R414 OVF, W1C
  lost : Nat := 0 -- R442 LOST, 32 bits, saturating
  deriving DecidableEq, Repr

/-- A command copied but not yet executed: its indirect parameter block is being fetched (R403), or its parameters and host buffers are held until
the commands before it have run (R407). [14_control_mailbox.md] -/
structure Fetching where
  opcode : Nat
  tag : Word
  addr : Nat
  len : Nat
  held : Option (List Dword × List (List Dword)) := none
  deriving DecidableEq, Repr

/-- One mailbox (R399, Table 14.8). [14_control_mailbox.md] -/
structure Mailbox where
  cmd : Tab Dword := [] -- R399 command area, 1,024 dwords
  resp : List Dword := [] -- R399 response area, the dwords of the last response
  busy : Bool := false -- R399 MB_STATUS.BUSY
  done : Bool := false -- R399 MB_STATUS.DONE, W1C
  dbIgnored : Bool := false -- R400 MB_STATUS.DB_IGNORED, W1C
  fetching : Option Fetching := none -- R403 an indirect parameter fetch under way
  deriving DecidableEq, Repr

/-- An accepted ASYNC command (R406). [14_control_mailbox.md] -/
structure Job where
  mb : Nat
  tag : Word
  opcode : Nat
  params : List Nat := []
  host : List (List Dword) := []
  deriving DecidableEq, Repr

/-- One event queue (R413). [14_control_mailbox.md] -/
structure EventQueue where
  reg : Bool := false -- R413 registered
  addr : Nat := 0 -- R413 host address
  entries : Nat := 0 -- R413 entries, a power of two
  idx : Idx := {} -- R414 index record
  seq : Nat := 0 -- R413 next sequence number, 20 bits
  deriving DecidableEq, Repr

/-- One host packet ring (R415 to R417). [14_control_mailbox.md] -/
structure Ring where
  reg : Bool := false -- R415 registered
  addr : Nat := 0 -- R415 host address
  entries : Nat := 0 -- R415 entries, a power of two
  bufSize : Nat := 0 -- R415 receive buffer size in bytes
  stallholder : Nat := 0 -- R415 stallholder number
  slice : Nat := 0 -- R415 slice of a transmit ring
  idx : Idx := {} -- R414 index record
  bufs : Tab Nat := [] -- R416 host address posted in each descriptor slot of a receive ring
  deriving DecidableEq, Repr

/-- One DMA channel's status (Table 14.18). [14_control_mailbox.md] -/
structure DmaStatus where
  halted : Bool := false -- R420 HALTED
  cause : Nat := 0 -- R420 CAUSE, 3 bits
  halts : Nat := 0 -- R420 HALTS, 16 bits, RC, saturating
  deriving DecidableEq, Repr

/-- BOOT_STATUS (Table 14.2) and the posted host image (R392). [14_control_mailbox.md] -/
structure Boot where
  stage : Nat := 0 -- R393 STAGE, 3 bits
  stageAt : Ticks := 0 -- R390, R391 instant at which STAGE was last written
  resSlot0 : Nat := 0 -- R393 RES_SLOT0, 3 bits
  resSlot1 : Nat := 0 -- R393 RES_SLOT1, 3 bits
  resHost : Nat := 0 -- R393 RES_HOST, 3 bits
  waitS : Nat := 0 -- R393 WAIT_S, 6 bits
  source : Nat := 3 -- R393 SOURCE, 2 bits
  attempts : Nat := 0 -- R393 ATTEMPTS, 20 bits, saturating
  imgAddrLo : Dword := 0 -- R392 HOST_IMG_ADDR bits [31:0]
  imgAddrHi : Dword := 0 -- R392 HOST_IMG_ADDR bits [63:32]
  imgLen : Dword := 0 -- R392 HOST_IMG_LEN
  posted : Bool := false -- R392 a host image is posted
  tried : Nat := 0 -- R390 sources tried in the present attempt
  waits : Nat := 0 -- R390 failed attempts, the place in the row of waits
  started : Bool := false -- R390 the boot ROM has begun since the cold start
  recBad : Bool := false -- R395 neither record copy was valid, the event is due
  deriving DecidableEq, Repr

/-- One flash slot (R391). [14_control_mailbox.md] -/
structure FlashSlot where
  present : Bool := false -- R391 a valid header stands in the slot
  digest : Nat := 0 -- R391 SHA-384 digest in the header, 384 bits
  image : Nat := 0 -- R425 SHA-384 digest of the image, 384 bits
  blob : Nat := 0 -- R425 SHA-384 digest of the blob, 384 bits
  svn : Nat := 0 -- R434 security version number of the image
  anchors : List Nat := [] -- R167 hub trust anchors that the blob lists
  deriving DecidableEq, Repr

/-- A readiness word (Table 14.4). [14_control_mailbox.md] -/
structure Readiness where
  st : Nat := 0 -- R397 STATE, 2 bits
  reason : Nat := 1 -- R397 REASON, 8 bits
  deriving DecidableEq, Repr

/-- One MSI-X table entry (R418, R398). [14_control_mailbox.md] -/
structure MsixEntry where
  addr : Nat := 0 -- R398 message address, 64 bits
  data : Dword := 0 -- R398 message data
  masked : Bool := true -- R418 mask bit, 1 after a PCI Express reset
  deriving DecidableEq, Repr

/-- The MSI-X unit (R418). [14_control_mailbox.md] -/
structure Msix where
  enable : Bool := false -- R393 MSI-X enable of the capability
  fmask : Bool := false -- R418 function mask of the capability
  table : Tab MsixEntry := [] -- R398 2,048 table entries
  pba : Tab Bool := [] -- R398 pending bit array
  due : Tab Bool := [] -- R418 a change that no message has covered yet
  last : Tab Nat := [] -- R418 instant of the last message of each vector, plus 1
  deriving DecidableEq, Repr

/-- BOARD_IRQ's latched bits (Table 14.17); its other bits follow the state they name. [14_control_mailbox.md] -/
structure BoardIrq where
  vault : Bool := false -- R419 VAULT, W1C
  tree : Bool := false -- R419 TREE, W1C
  mem : Bool := false -- R419 MEM, W1C
  deriving DecidableEq, Repr

/-- A firmware fault record (R409, R421). [14_control_mailbox.md] -/
structure FwFault where
  core : Nat
  addr : Nat
  page : Nat
  time : Ticks
  devNs : Nat          -- its device time (R15)
  deriving DecidableEq, Repr

/-- Firmware: halves, update and faults (R421 to R423). [14_control_mailbox.md] -/
structure Firmware where
  running : Bool := false -- R391 the firmware has reported running
  activeHalf : Nat := 0 -- R423 active half, 0 A, 1 B
  update : Nat := 0 -- R423 update state: 0 none, 1 waking, 2 loading, 3 initialising, 4 handing over
  updSlot : Nat := 0 -- R423 slot of the update
  swapping : Bool := false -- R421 a swap of halves runs
  faults : List FwFault := [] -- R409 last 16 faults
  faultOut : Bool := false -- R421 an unrecovered fault
  loading : Option Nat := none -- R422 slot being written by fw_load
  memFault : Tab Nat := [] -- R325 by core, until it traps: 1 a fetch was bad in both copies, 2 a data read was answered with an error status
  deriving DecidableEq, Repr

/-- The host-facing state (R389 to R423). [14_control_mailbox.md] -/
structure Host14 where
  perst : Bool := true -- R394 PERST# asserted
  linkL0 : Nat := 0 -- R367 PCIe link state: 0 down, 1 L0, 2 L1, 3 L2
  busMaster : Bool := false -- R420 Bus Master Enable
  mboxes : Tab Mailbox := [] -- R399 16 mailboxes
  jobs : List Job := [] -- R406 accepted ASYNC work
  turns : List Nat := [] -- R407 the mailboxes whose commands are copied but not yet executed, in the order of their doorbells
  evq : Tab EventQueue := [] -- R413 256 event queues
  rx : Tab Ring := [] -- R415 64 receive rings
  tx : Tab Ring := [] -- R415 64 transmit rings
  dma : Tab DmaStatus := [] -- R420 64 DMA channels
  boot : Boot := {} -- R393 BOOT_STATUS
  slots : Tab FlashSlot := [] -- R391 flash slots 0 and 1
  ready : Tab Readiness := [] -- R396 readiness word of functions 0 to 42
  initDone : Tab Bool := [] -- R396 functions whose own initialisation has completed
  msix : Msix := {} -- R418 vectors
  irq : BoardIrq := {} -- R419 latched board interrupts
  fw : Firmware := {} -- R421 firmware
  deriving DecidableEq, Repr

/-- A 48-bit count (Table 16.1). [16_observability.md] -/
structure Count where
  val : BitVec 48 := 0 -- R442 COUNT
  invalid : Bool := false -- R447 INVALID
  deriving DecidableEq, Repr

/-- The event log (R463), in the MGMT domain, cleared only at a cold start. [16_observability.md] -/
structure EvLog where
  next : Nat := 0 -- R463 LOG_NEXT, 40 bits
  lost : Nat := 0 -- R463 LOST, 32 bits, saturating
  entries : List LogEntry := [] -- R463 the last 4,096 entries, oldest first
  deriving DecidableEq, Repr

end Sys2Proof
end

