-- ==== Sys2Proof/Machine/TSlice.lean ====
section
/-! DEFINITION. The state of the memory stacks, buffers, queues, meters, schedulers and key contexts of a slice, and of the
Pitches of a tree (04, 08, 09, 10, 11). -/

namespace Sys2Proof

/-- A migration in progress (R330). [11_memory.md] -/
structure Migration where
  logical : Nat := 0 -- R330 L
  src : Nat := 0 -- R330 f
  dst : Nat := 0 -- R330 s
  ptr : Nat := 0 -- R330 copy_ptr, in bytes
  word : Option Bool := none -- R330 word read from f and not yet written to s: whether it goes as poison
  deriving DecidableEq, Repr

/-- A scrub pass (R326, R327). [11_memory.md] -/
structure Scrub where
  start : Nat := 0 -- R326 start address
  len : Nat := 0 -- R326 length in bytes
  wb : Bool := false -- R326 write-back
  spare : Bool := false -- R326 target: false the logical space, true the spare rank
  done : Nat := 0 -- R327 bytes done
  corrected : Nat := 0 -- R327 corrected count
  uncorr : Nat := 0 -- R327 uncorrectable count
  poison : Nat := 0 -- R327 poisoned-word count
  first16 : List Nat := [] -- R327 logical addresses of the first 16 uncorrectable words
  paused : Bool := false -- R328 paused by a migration
  mb : Nat := 0 -- R327 mailbox of the command
  back : Option Bool := none -- R326 word read and not yet written back: whether it goes as poison
  flying : Bool := false -- R328 the read of the word in progress stood at its channel when the migration began
  stop : Option Nat := none -- R328 the pass ends with this status once the word in progress is written: 1 aborted, 2 cut
  asker : Option (Nat × Word) := none -- R328 mailbox and tag of the scrub_abort that waits for it
  deriving DecidableEq, Repr

/-- One entry of the memory error log (R337). [11_memory.md] -/
structure MemErr where
  addr : Nat
  phys : Nat
  port : Nat
  time : Nat
  poison : Bool
  deriving DecidableEq, Repr

/-- The AO record of a stack: rank map and retired bits (R309, R336). [11_memory.md] -/
structure RankMap where
  l0 : Nat := 0 -- R309 L0_PHYS
  l1 : Nat := 1 -- R309 L1_PHYS
  l2 : Nat := 2 -- R309 L2_PHYS
  spare : Nat := 3 -- R309 SPARE_PHYS
  spareValid : Bool := true -- R336 SPARE_VALID
  active : Nat := 7 -- R336 L_ACTIVE, 3 bits
  retired : Nat := 0 -- R336 RETIRED, 4 bits
  ctrlA : Nat := 0 -- R313 logical rank of copy A of the control regions
  ctrlB : Nat := 1 -- R313 logical rank of copy B
  deriving DecidableEq, Repr

/-- MEM_PORT_PRI (Table 11.3). [11_memory.md] -/
structure MemPri where
  pktWr : Nat := 7 -- R314 PKT_WR, 3 bits
  pktRd : Nat := 7 -- R314 PKT_RD, 3 bits
  spill : Nat := 6 -- R314 SPILL, 3 bits
  tables : Nat := 4 -- R314 TABLES, 3 bits
  hostDma : Nat := 3 -- R314 HOST_DMA, 3 bits
  fw : Nat := 2 -- R314 FW, 3 bits
  scrub : Nat := 0 -- R314 SCRUB, 3 bits
  ceLimit : Nat := 1000 -- R329 CE_LIMIT, 20 bits
  deriving DecidableEq, Repr

/-- A request that waits at a channel of a stack (R315, R317, R320). [11_memory.md] -/
structure MemRq where
  port : Nat -- R314 requester port
  write : Bool -- R317 a write
  addr : Nat -- R310 logical address of the 32-byte word
  mig : Bool := false -- R330 of the migration copy
  prio : Nat -- R314 the port's priority when the request arrived
  cls0 : Bool := false -- R315 for a frame of class 0
  ready : Ticks := 0 -- R320 instant from which it may be arbitrated
  part : Bool := false -- R322 a write of part of the word, whose read is still to come
  poison : Bool := false -- R323 a write whose word goes as poison
  second : Bool := false -- R313 the read of the other copy after a bad one
  upd : Bool := false -- R446 the read of a count block that is then written back
  deriving DecidableEq, Repr

/-- One memory stack (R309 to R337). [11_memory.md] -/
structure Stack where
  map : RankMap := {} -- R309 rank map, in AO storage
  pri : MemPri := {} -- R314 MEM_PORT_PRI
  priPast : List (Ticks × MemPri) := [] -- R314 earlier values, each with the instant up to which it applied, oldest first
  mig : Option Migration := none -- R330 migration in progress
  pendingRet : List Nat := [] -- R331 physical ranks whose retirement waits
  oneCopy : Bool := false -- R336 CTRL_ONE_COPY
  scrub : Option Scrub := none -- R326 scrub pass
  refresh2x : Bool := false -- R319 REFRESH_2X
  temp : Nat := 0 -- R319 TEMP, 8 bits
  ceSec : Nat := 0 -- R329 the second of device time in which CE are being counted
  ceNow : Tab Nat := [] -- R329 CE per physical rank in that second
  errLog : List MemErr := [] -- R337 last 64 uncorrectable and poisoned reads, oldest first
  actWin : Nat := 0 -- R320 index of the open activation window
  rows : Tab (Tab Nat) := [] -- R320 tracker of each bank: at most 512 rows, with their activations in the window
  throttled : Tab Nat := [] -- R320 instant at which a port was throttled, plus 1, by bank and port
  poison : Tab Bool := [] -- R323 poison words, by physical rank and offset, in words of 32 bytes
  pend : List MemRq := [] -- R315 requests that wait, in order of arrival
  rr : Tab Nat := [] -- R315 round-robin pointer of each channel
  lastSlot : Tab Nat := [] -- R315 slot of each channel that was last granted, counted from the reset without the wrap, plus 1
  inOrder : Tab Bool := [] -- R317 ports in in-order mode
  clkAt : Ticks := 0 -- R310 instant of the reset of the MEM domain, from which the channels number their slots
  lastRq : Ticks := 0 -- R378 instant at which the last request arrived or was granted
  deriving DecidableEq, Repr

/-- A table entry in native words, and whether its stored word is uncorrectable (R208, R213). [06_classification.md] -/
structure Entry where
  words : List Word := [] -- R208 the words, all zero when the list is empty
  bad : Bool := false -- R208 uncorrectable until rewritten
  deriving DecidableEq, Repr

/-- The state of a frame as it moves through a slice. [06_classification.md] -/
structure Frame where
  bytes : List Byte := [] -- R233 the bytes, FCS included
  dir : Dir := .up -- R185 direction
  port : Nat := 0 -- R186 ingress port
  cls : Nat := 7 -- R203 class at step 2
  pin : Option Nat := none -- R197 pinned filter class
  soft : Option Nat := none -- R197 unpinned filter class, else the parcel header's class
  stamp : Nat := 0 -- R354 arrival stamp, device time in 2^-16 ns
  arrFrc : Nat := 0 -- R460 arrival on the FRC, ns
  aid : Word := 0 -- R186 AID of a downstream parcel
  moth : Option Nat := none -- R459 trap slot
  ts : Option (Nat × Nat) := none -- R356 transmit ring and stamp identifier of a stamp request
  ring : Option Nat := none -- R417 transmit ring of a host transmit frame
  poison : Bool := false -- R256 poisoned
  cls0 : Bool := false -- R235, R315 the parcel header carries CLASS 0
  lastBit : Ticks := 0 -- R203 instant of the last bit
  ing : Entry := {} -- R186 the INGRESS_CFG record in force when the frame reached step 1
  l3 : Nat × Nat × Nat := (0, 0, 0) -- R202 L3 kind, L4 kind and L3 offset that the profile gave, the offset as moved
  deriving DecidableEq, Repr

/-- An allocated buffer (R243): those not listed are free or retired. [08_buffers_queues.md] -/
structure Buffer where
  tag : Nat := 0 -- R243 owner tag, 8 bits
  holder : Nat := 0 -- R240 stallholder charged
  staged : Nat := 0 -- R235 staging segments held
  left : Nat := 0 -- R317 words of the frame's data whose write has not been performed, word w as bit w
  off : Nat := 0 -- R233 OFFSET of the frame in the buffer, 0 to 16
  frame : Frame := {} -- R233 the frame stored
  deriving DecidableEq, Repr

/-- A stallholder record (Table 8.3). [08_buffers_queues.md] -/
structure Stallholder where
  bufMin : Tab Nat := [] -- R238 BUF_MIN of pools 0 to 5, 20 bits each, reset 0
  bufMax : Tab Nat := [] -- R238 BUF_MAX of pools 0 to 5, 20 bits each, reset 0
  cellMin : Nat := 0 -- R238 CELL_MIN, 20 bits
  cellMax : Nat := 0 -- R238 CELL_MAX, 20 bits
  valid : Bool := false -- R238 VALID
  priv : Bool := false -- R238 CELL_BANK
  yellowPct : Nat := 100 -- R238 YELLOW_PCT, 7 bits
  deriving DecidableEq, Repr

/-- A descriptor (Table 8.7). [08_buffers_queues.md] -/
structure Desc where
  pool : Nat := 0 -- R246 POOL
  index : Nat := 0 -- R246 INDEX
  cls : Nat := 0 -- R246 CLASS
  yellow : Bool := false -- R264 COLOUR
  staged : Bool := false -- R235 STAGED
  poison : Bool := false -- R256 POISON
  badHandle : Bool := false -- R256 the failed word was word 0 or 1
  moth : Bool := false -- R459 MOTH
  tsReq : Bool := false -- R356 TS_REQ
  offset : Nat := 0 -- R233 OFFSET
  lfn : Option Nat := none -- R246 LFN_VALID and LFN
  meter : Option Nat := none -- R265 meter of the second reading
  length : Nat := 0 -- R246 LENGTH
  deriving DecidableEq, Repr

/-- QUEUE_CFG (Table 8.8). [08_buffers_queues.md] -/
structure QueueCfg where
  valid : Bool := false -- R247 VALID
  kind : Nat := 0 -- R247 KIND, 2 bits
  ctrl : Bool := false -- R247 CTRL
  cls : Nat := 7 -- R247 CLASS, 3 bits
  target : Nat := 0 -- R247 TARGET, 6 bits
  aid : Word := 0 -- R247 AID
  stallholder : Nat := 0 -- R247 STALLHOLDER, 8 bits
  descMax : Nat := 0 -- R247 DESC_MAX, 20 bits
  deriving DecidableEq, Repr

/-- One queue: configuration, positions, scheduler state (R247, R248, R266, R268, R269). [08_buffers_queues.md] -/
structure Queue where
  cfg : QueueCfg := {} -- R247 QUEUE_CFG
  quantum : Nat := 16384 -- R266 SCHED_CFG.QUANTUM
  awning : Nat := 10240 -- R130 Awning length in bytes
  descs : List Desc := [] -- R248 descriptors from HEAD to TAIL
  base : Nat := 0 -- R248 HEAD, counted in descriptors since the last reset
  readN : Nat := 0 -- R248 READ, counted in descriptors from HEAD
  cells : List Nat := [] -- R246 cells from the one of HEAD to the one of TAIL
  gen : Nat := 0 -- R248 GEN, 20 bits
  deficit : Int := 0 -- R268 deficit
  turn : Bool := false -- R268 turn flag
  earned : Nat := 0 -- R269 EARNED
  spent : Nat := 0 -- R269 SPENT
  placed : Nat := 0 -- R269 PLACED
  fault : QFault := .ok -- R252 what has befallen its copies, cells or next descriptor, found at its next use
  deriving DecidableEq, Repr

/-- An allocated queue cell (Table 8.6). [08_buffers_queues.md] -/
structure Cell where
  queue : Nat := 0 -- R246 QUEUE
  holder : Nat := 0 -- R246 STALLHOLDER
  used : Bool := false -- R246 the cell is allocated
  deriving DecidableEq, Repr

/-- A frame whose buffer request was refused and passes to the next pool (R234). [08_buffers_queues.md] -/
structure SpillReq where
  pool : Nat -- R234 the pool to ask next
  party : Nat -- R241 party code
  holder : Nat -- R240 stallholder charged
  frame : Frame
  path : Nat -- R233 where the frame goes with its buffer: 0 dispatch, 1 a system port's queue, 2 a host ring, 3 nowhere, 4 a parcel still in reception
  arg : Nat := 0 -- R417 class on path 1, R189 receive ring on path 2, R233 tree on path 4
  reason : Nat := 0 -- R416 REASON on path 2
  fromLft : Bool := false -- R416 FROM_LFT on path 2
  idx : Nat := 0 -- R416 INDEX on path 2
  deriving DecidableEq, Repr

/-- What a frame brings to its queue (R240, R264). [08_buffers_queues.md] -/
structure Admit where
  queue : Nat -- R240 the queue
  holder : Nat -- R240 stallholder to be charged
  cls : Nat -- R246 CLASS
  yellow : Bool -- R264 COLOUR
  lfn : Option Nat -- R246 LFN
  meter : Option Nat -- R265 meter of the second reading
  party : Nat -- R241 the party that enqueues
  deriving DecidableEq, Repr

/-- A meter (Table 9.1, R261): configuration and buckets, tokens in 2^-16 byte. [09_scheduling.md] -/
structure Meter where
  valid : Bool := false -- R260 VALID
  mode : Nat := 0 -- R260 MODE, 2 bits
  cir : Nat := 0 -- R260 CIR, 40 bits
  cbs : Nat := 160 -- R260 CBS, 20 bits
  pir : Nat := 0 -- R260 PIR, 40 bits
  ebs : Nat := 0 -- R260 EBS_PBS, 20 bits
  tokC : Nat := 655360 * 1024 -- R261 bucket C, full
  tokE : Nat := 0 -- R261 bucket E or P, full
  remC : Nat := 0 -- R261 part of a 2^-16 byte not yet added to C
  remE : Nat := 0 -- R261 part of a 2^-16 byte not yet added to E or P
  last : Ticks := 0 -- R261 instant of the last use
  bad : Bool := false -- R262 record uncorrectable
  deriving DecidableEq, Repr

/-- PORT_EGRESS_CFG (Table 9.4) and the transmit state of a system port. [09_scheduling.md] -/
structure Egress where
  pauseEn : Bool := false -- R272 PAUSE_EN
  pfcEn : Bool := false -- R272 PFC_EN
  lpiEn : Bool := false -- R272 LPI_EN
  lpiHold : Nat := 10 -- R272 LPI_HOLD, 10 bits
  twTx : Nat := 1 -- R272 TW_TX, 16 bits
  cq : Tab (Option Nat) := [] -- R272 CQ_VALID and CQ of classes 0 to 7, reset none
  pauseEnd : Tab Nat := [] -- R273 instant at which each class's pause ends, reset 0
  pauseFrom : Tab Nat := [] -- R281 instant since which each class's paused time is counted, reset 0
  pauseRest : Tab Nat := [] -- R281 part of a us of each class's paused time not yet counted, reset 0
  lpi : Bool := false -- R274 in low-power idle
  wakeEnd : Ticks := 0 -- R274 instant at which the wake ends
  lpiSince : Ticks := 0 -- R281 entry into low-power idle
  lpiRest : Ticks := 0 -- R281 part of a us of low-power idle not yet counted
  busyEnd : Ticks := 0 -- R271 instant at which the frame in progress ends
  emptySince : Ticks := 0 -- R274 instant since which the conditions have held
  deriving DecidableEq, Repr

/-- A key in the cache of a cell set, with its GHASH subkey (R294). [10_cipher.md] -/
structure CellKey where
  key : BitVec 256 := 0 -- R291 the derived key
  sub : Block := 0 -- R294 its GHASH subkey
  deriving DecidableEq, Repr

/-- A notice key with its salt (R291, R304). [10_cipher.md] -/
structure NoticeKey where
  cell : CellKey := {} -- R304 the key
  salt : Nat := 0 -- R291 notice salt, 32 bits
  deriving DecidableEq, Repr

/-- One live downstream epoch (R296, R297). [10_cipher.md] -/
structure RxEpoch where
  serial : Nat := 0 -- R300 epoch serial, 32 bits
  top : Nat := 0 -- R296 TOP, 64 bits
  seen : List Nat := [] -- R297 accepted numbers of the last 1,024, the widest window, TOP included
  fails : Nat := 0 -- R296 consecutive tag failures
  key : Option CellKey := none -- R294 the key in the cell set's cache
  warned : Bool := false -- R298 the threshold event was raised
  deriving DecidableEq, Repr

/-- A key context (Table 10.2) with the packet-number state of its directions. [10_cipher.md] -/
structure KeyCtx where
  bound : Bool := false -- R287 BOUND
  keyed : Bool := false -- R288 KEYED
  ds : Bool := false -- R287 DS
  us : Bool := false -- R287 US
  tree : Nat := 0 -- R287 TREE, 6 bits
  aid : Word := 0 -- R287 AID
  saltDs : BitVec 32 := 0 -- R287 SALT_DS
  saltUs : BitVec 32 := 0 -- R287 SALT_US
  serialHi : Nat := 0 -- R287 SERIAL_HI, 30 bits
  replayWin : Nat := 64 -- R287 REPLAY_WIN, 11 bits
  pnWarn : Nat := 48 -- R287 PN_WARN_EXP, 6 bits
  overlap : Nat := 8 -- R287 OVERLAP, 6 bits
  epDs : Nat := 0 -- R300 EPOCH of the downstream N.ALLOC_ADD entry, 2 bits
  epUs : Nat := 0 -- R300 EPOCH of the upstream N.ALLOC_ADD entry, 2 bits
  rx : RxEpoch := {} -- R301 current downstream epoch
  rxOld : Option RxEpoch := none -- R301 previous downstream epoch during the overlap
  rxNext : Option CellKey := none -- R301 cached key of the next downstream serial
  rxLeft : Nat := 0 -- R301 frames left of the downstream overlap
  rxAt : Ticks := 0 -- R301 instant of the downstream switch
  rxNextFails : Nat := 0 -- R296 consecutive tag failures of the next epoch
  txSerial : Nat := 0 -- R300 upstream epoch serial
  txPn : Nat := 1 -- R295 upstream next packet number
  deriving DecidableEq, Repr

/-- The upstream epoch state of a key context that R302 and R294 add. [10_cipher.md] -/
structure TxEpoch where
  key : Option CellKey := none -- R294 cached key of the current serial
  next : Option CellKey := none -- R302 cached key of the next serial
  prev : Option CellKey := none -- R302 cached key of the previous serial, during the overlap
  overlap : Bool := false -- R302 inside the overlap of the last switch
  left : Nat := 0 -- R302 frames left of the overlap
  swAt : Ticks := 0 -- R302 instant of the switch
  epsDue : Bool := false -- R302 the first parcel of the epoch is still to come
  warned : Bool := false -- R298 the threshold event was raised
  deriving DecidableEq, Repr

/-- A request to the derivation unit (R292). [10_cipher.md] -/
structure Deriv where
  level : Nat
  ctx : Nat
  dir : Dir
  serial : Nat -- R300 serial of the epoch whose key is derived
  deriving DecidableEq, Repr

/-- One take of the Barrow (R132, R270). [04_upstream_bursts.md] -/
structure Take where
  queue : Nat := 0 -- R132 queue
  desc : Desc := {} -- R132 parcel handle
  blocks : Nat := 0 -- R132 block count
  pos : Nat := 0 -- R132 the queue's READ position before the take
  gen : Nat := 0 -- R248 GEN of the mark
  deficit : Int := 0 -- R270 deficit before the parcel's length was taken
  turn : Bool := false -- R270 turn flag
  placed : Nat := 0 -- R270 PLACED before
  ptr : Nat := 0 -- R270 rotation pointer before
  seq : Nat := 0 -- R132 place in the AID's take log
  deriving DecidableEq, Repr

/-- An answer waiting for an answer Pitch, or placed in one (R152). [05_joining.md] -/
structure Answer where
  atype : Nat := 0 -- R152 answer type
  body : List Block := [] -- R152 body blocks
  tagged : Bool := false -- R149 the answer is authenticated
  ready : Ticks := 0 -- R152 instant at which it is ready
  nseq : Nat := 0 -- R152 NSEQ of the notice answered
  ntype : Nat := 0 -- R150 NTYPE of the notice answered
  param : Nat := 0 -- R174 PARAM of the answer
  aseq : Nat := 0 -- R151 ASEQ, or the NSEQ of an A.SERIAL
  deriving DecidableEq, Repr

/-- What a transmitter does to the symbols it sends (R60, R71): the injection armed, and its inversion. [02_serial_lanes.md] -/
structure TxError where
  inject : Nat := 0 -- R60 0 none, 1 a single symbol, 2 a burst, 3 a rate
  len : Nat := 0 -- R60 length of the burst
  period : Nat := 0 -- R60 N x 2^E
  count : Nat := 0 -- R61 symbols counted before these
  start : Nat := 0 -- R61 symbol of the burst from which it holds
  inv : Bool := false -- R71 TX_INV
  deriving DecidableEq, Repr

/-- A used Pitch and its assembly (R109, R131). [04_upstream_bursts.md] -/
structure Pitch where
  frame : Nat := 0 -- R128 the Pitch's own frame, extended count
  aid : Word := 0 -- R109 AID
  leaf : Nat := 0 -- R109 LEAF
  mask : BitVec 16 := 0 -- R109 LANE_MASK
  start : Nat := 0 -- R109 START
  length : Nat := 0 -- R109 LENGTH
  preamble : Nat := 0 -- R109 PREAMBLE code
  flags : Nat := 0 -- R109 RPT 16, RNG 8, KSW 4, ESA 2, STD 1
  pid : Nat := 0 -- R109 PITCH_ID
  rev : Nat := 0 -- R109 REV
  tonUi : Nat := 0 -- R116 T_on_UI it is assembled with
  toffUi : Nat := 0 -- R116 T_off_UI
  opened : Bool := false -- R131 its assembly has begun
  takes : List Take := [] -- R132 parcels placed, class 0 first, in burst order
  passed : List Nat := [] -- R130 queues passed over
  awnOld : Tab Nat := [] -- R130 Awning lengths, plus 1, of queues changed since the assembly was opened
  answers : List Answer := [] -- R152 answers placed, in burst order
  fixedS : Option Ticks := none -- R136 start, fixed at commit
  sent : List BurstItem := [] -- R136 items of the committed burst
  hdr : List Block := [] -- R122 header blocks of the committed burst
  names : Option (List Nat) := none -- R115 logical lanes of the committed burst
  tx : List (List TxError) := [] -- R61 what the transmitters of those lanes do to the burst: at its start, then as each injection changed
  ignored : BitVec 16 := 0 -- R23 mask bits counted as ignored
  lanes : List Nat := [] -- R115 device lanes that send the committed burst: those of its lanes still in the group
  phase : Nat := 0 -- R128 0 used, 1 committed, 2 committed and skipped, 3 burst started, 4 burst ended or cut, 5 held but not used
  deriving DecidableEq, Repr

end Sys2Proof
end

