-- ==== Sys2Proof/Machine/TTime.lean ====
section
/-! DEFINITION. Time, power domains, the energy budget, the counter area's measuring units and the vault (12, 13, 15, 16, 18). -/

namespace Sys2Proof

/-- What the AO domain keeps of the TIME domain (R352). [12_time.md] -/
structure SavedTime where
  frcNs : Nat := 0 -- R352 FRC, whole nanoseconds
  coarse : Nat := 0 -- R352 coarse count
  rho : Int := 0 -- R352 rho
  theta : Int := 0 -- R352 theta
  armed : Bool := true -- R352 STEP_ARMED
  uncertain : Bool := true -- R352 UNCERTAIN
  source : Nat := 0 -- R352 source
  srcTree : Nat := 0 -- R352 its tree, while the source is 1
  switched : Bool := false -- R352 the AO clock has switched source since
  fbCoarse : Nat := 0 -- R352 coarse counts spent on the fallback since
  deriving DecidableEq, Repr

/-- A time-stamp queue (R356, R357). [12_time.md] -/
structure TsQueue where
  idx : Idx := {} -- R357 producer and consumer index (7 bits), TSQ_OVF, TSQ_LOST
  entries : Tab (List Nat) := [] -- R356 64 entries: TS_ID, STATUS, device time in 2^-16 ns
  deriving DecidableEq, Repr

/-- PTP_TC_CFG (Table 12.7). [12_time.md] -/
structure PtpTc where
  ds : Bool := false -- R355 DS_EN
  us : Bool := false -- R355 US_EN
  l2 : Bool := true -- R355 L2_EN
  udp4 : Bool := true -- R355 UDP4_EN
  udp6 : Bool := true -- R355 UDP6_EN
  mask : Nat := 15 -- R355 EVENT_MASK, 4 bits
  deriving DecidableEq, Repr

/-- PPS_OUT and ToD_OUT (R358, R359). [12_time.md] -/
structure PpsCfg where
  widthNs : Nat := 100000 -- R358 pulse width in ns, reset 100 us
  suppress : Bool := false -- R358 SUPPRESS
  rate : Nat := 1 -- R359 0: 9,600; 1: 115,200; 2: 921,600 bit/s
  deriving DecidableEq, Repr

/-- The timebase (R338 to R361). [12_time.md] -/
structure TimeSt where
  frcNs : Nat := 0 -- R338 FRC, whole nanoseconds (its fraction is 0 in the running count)
  rho : Int := 0 -- R341 rho, signed 40 bits, units of 2^-48
  theta : Int := 0 -- R341 theta, signed 96 bits, units of 2^-16 ns
  armed : Bool := true -- R344 STEP_ARMED
  uncertain : Bool := true -- R345 UNCERTAIN
  errNs : Option Nat := none -- R345 error bound in ns, 40 bits; none is unbounded, the reset value
  source : Nat := 0 -- R349 SOURCE
  srcTree : Nat := 0 -- R349 SRC_TREE
  holdover : Bool := false -- R350 HOLDOVER
  utcHost : Int := 0 -- R349 UTC offset given in time_source_set
  leapHost : Nat := 0 -- R349 leap announcement given in time_source_set
  snap : Nat := 0 -- R343 TIME_SNAP, latched device time, linear
  frcSnap : Nat := 0 -- R343 FRC_SNAP, latched, linear
  ppsGlitch : Bool := false -- R343 PPS_GLITCH, W1C
  ppsIn : Tab Nat := [] -- R360 capture ring, 16 stamps, linear
  ppsInNext : Nat := 0 -- R360 next entry of the capture ring
  ppsInLast : Option Int := none -- R360 FRC, linear, of the last accepted edge
  ppsOut : Bool := false -- R358 PPS_OUT level
  ppsAt : Ticks := 0 -- R358, R359 instant of the last whole second at which PPS_OUT rose or was suppressed
  todSec : Option Nat := none -- R359 second that the next ToD_OUT message names, until it is sent
  pps : PpsCfg := {} -- R358 width, SUPPRESS, ToD rate in force
  ppsNext : Option PpsCfg := none -- R362 setting that takes effect at the next whole second
  second : Nat := 0 -- R106 the second of device time that is open: all before it are latched
  offSum : Int := 0 -- R350 sum of the source's offsets in the open second, units of 2^-16 ns
  offN : Nat := 0 -- R350 how many they are
  offPrev : Int := 0 -- R350 their average in the second before
  pulse : Nat := 0 -- R358 the last whole second at which PPS_OUT and the servo have acted
  deriving DecidableEq, Repr

/-- A time stamp taken for a transmit ring, its stamp point not yet passed (R356): the ring, the identifier, the stamp, the instants of
the stamp point and of the end of the parcel, and the Pitch whose burst carries it. [12_time.md] -/
structure TsWait where
  ring : Nat
  id : Nat
  stamp : Nat
  at_ : Ticks
  done : Ticks
  tree : Nat
  frame : Nat
  pid : Nat
  deriving DecidableEq, Repr

/-- What time keeps in the AO domain and in its queues. [12_time.md] -/
structure TimeAo where
  coarse : Nat := 0 -- R351 coarse counter, 64 bits
  acc : Nat := 0 -- R351 fractional accumulator of the fallback, in 1/32 of a count
  period : Nat := 40 * 4294967296 -- R351 crystal period in 2^-32 ns, as last measured, reset 40 ns
  fallback : Bool := false -- R364 AO_FALLBACK
  saved : SavedTime := {} -- R352 record saved as TIME leaves on
  lastSleep : Nat := 0 -- R362 last sleep interval, coarse counts
  lastFb : Nat := 0 -- R362 fallback time of it, coarse counts
  refActive : Nat := 0 -- R365 active REF input
  ref0 : Bool := true -- R365 REF input 0 valid
  ref1 : Bool := true -- R365 REF input 1 valid
  refHoldover : Bool := false -- R365 REF_HOLDOVER
  refLostAt : Ticks := 0 -- R345 instant at which both inputs were lost
  refUnc : Bool := false -- R345 the bound grows while the loss lasts
  cold : Bool := false -- R340 the AO domain has had its first power-up
  tsqSys : Tab TsQueue := [] -- R356 time-stamp queues of system ports by first lane
  tsqRing : Tab TsQueue := [] -- R356 time-stamp queues of transmit rings
  tsWait : List TsWait := [] -- R356 stamps whose parcel is not wholly sent
  deriving DecidableEq, Repr

/-- One power domain (R367 to R369, R380, R382, R387). [13_power.md] -/
structure PDom where
  st : Nat := 0 -- R382 STATE: 0 on, 1 retention, 2 off, 3 entering or leaving
  policy : Nat := 0 -- R380 POLICY
  woke : Bool := false -- R382 WOKE, W1C
  lastRef : Nat := 0 -- R382 LAST_REFUSER
  target : Nat := 0 -- R367 state entered while STATE is 3: 0 on, 1 retention, 2 off
  leftSt : Nat := 0 -- R367 state left while STATE is 3
  needAt : Ticks := 0 -- R369 instant at which a cause last needed the domain on, plus 1
  asker : Option (Nat × Word) := none -- R380 mailbox and tag of the power_enter whose entry is under way
  since : Nat := 0 -- R387 device time since which the present state is accounted, ns
  stopAt : Ticks := 0 -- R367 instant at which its clocks last stopped
  stood : Ticks := 0 -- R367 how long its clocks have stood since its last reset
  onNs : Nat := 0 -- R387 ns on in the open second
  retNs : Nat := 0 -- R387 ns in retention in the open second
  entries : Nat := 0 -- R387 entries completed in the open second, saturating at 1,023
  wakes : Nat := 0 -- R387 exits and wakes in the open second, saturating at 1,023
  latched : List Nat := [0, 0, 0, 0, 0] -- R387 latched record: PM_SECOND, ON_US, RET_US, ENTRIES, WAKES
  deriving DecidableEq, Repr

/-- A wake record (Table 13.9). [13_power.md] -/
structure WakeRec where
  source : Nat := 0 -- R383 SOURCE
  domain : Nat := 0 -- R383 DOMAIN
  fromOff : Bool := false -- R383 FROM_OFF
  timeUs : Nat := 0 -- R383 TIME_US
  at_ : Ticks := 0 -- R383 instant of the wake: of several causes at one edge the first in order stands
  deriving DecidableEq, Repr

/-- PWR_SEQ_CFG (Table 13.7). [13_power.md] -/
structure SeqCfg where
  dsRatio : Nat := 8 -- R376 DS_RET_RATIO
  dsIdle : Nat := 10 -- R376 DS_IDLE
  usIdle : Nat := 10 -- R375 US_IDLE
  ltxGap : Nat := 30 -- R374 LTX_RET_GAP
  ltxOff : Bool := true -- R374 LTX_OFF_EN
  deriving DecidableEq, Repr

/-- One rail channel: configuration and readings (Tables 13.10 and 13.12). [13_power.md] -/
structure Rail where
  addr : Nat := 0 -- R386 PMBUS_ADDR
  page : Nat := 0 -- R386 PAGE
  supply : Nat := 0 -- R386 SUPPLY
  iLimit : Nat := 0 -- R385 I_LIMIT in 0.1 A
  iNow : Nat := 0 -- R384 last current reading, 0.1 A
  mv : Nat := 0 -- R384 last voltage reading, mV
  lastAt : Ticks := 0 -- R387 instant up to which the energy is counted
  readAt : Ticks := 0 -- R386 instant of the last reading, or since which the channel has been in use
  late : Bool := false -- R386 not read for 10 ms
  accE : Nat := 0 -- R387 energy of the open second, units of 0.1 A x mV x ticks
  iMax : Nat := 0 -- R387 highest current of the open second
  latched : List Nat := [0, 0, 0] -- R387 latched record: PM_SECOND, E, I_MAX
  deriving DecidableEq, Repr

/-- BUDGET_CFG (Table 13.10) without the rail channels. [13_power.md] -/
structure BudgetCfg where
  pLimit : Nat := 1600 -- R385 P_LIMIT
  eFallback : Nat := 48 -- R386 E_FALLBACK
  weight : Tab Nat := [] -- R385 WEIGHT of slices 0 to 7, reset 16 each
  rails : Nat := 0 -- R384 RAILS
  deriving DecidableEq, Repr

/-- The E-scale of a slice (Table 9.5). [09_scheduling.md] -/
structure Escale where
  eNum : Nat := 64 -- R276 E_NUM
  eBudget : Nat := 64 -- R276 E_BUDGET in force
  newBudget : Option Nat := none -- R384 E_BUDGET delivered for the next budget frame
  missed : Nat := 0 -- R386 consecutive frames without a delivery
  deriving DecidableEq, Repr

/-- Power, clocks and the budget (R363 to R388, R276, R140). [13_power.md] -/
structure PowerSt where
  doms : Tab PDom := [] -- R366 127 power domains
  wakes : Tab WakeRec := [] -- R383 49 wake records
  seq : Tab SeqCfg := [] -- R374 PWR_SEQ_CFG per slice
  seqNext : Tab (Option SeqCfg) := [] -- R388 PWR_SEQ_CFG from the next budget frame
  cfg : BudgetCfg := {} -- R385 BUDGET_CFG
  railCh : Tab Rail := [] -- R384 rail channels
  cfgNext : Option (BudgetCfg × Tab Rail) := none -- R388 BUDGET_CFG from the next budget frame
  escale : Tab Escale := [] -- R276 E-scale per slice
  eCap : Nat := 64 -- R276 E_CAP
  suspended : Bool := false -- R276 classes 1 to 7 suspended upstream
  below107 : Option Ticks := none -- R276 instant since which every sensor has read below 107
  below115 : Option Ticks := none -- R140 instant since which every sensor has read below 115
  sensors : List Nat := [] -- R384 the 48 sensor readings of the last budget frame boundary
  trip : Bool := false -- R140 line-transmit thermal trip
  fallback : Bool := false -- R386 E_FALLBACK in use
  cal : Nat := 4096 -- R385 cal in units of 1/4,096, clamped to 0.5 to 2.0, reset 1
  last : List Nat := [] -- R388 pool, lo, hi, share of the last controller run
  bFrame : Nat := 0 -- R269 budget frame index
  accBlocks : Tab Nat := [] -- R376 accepted parcel blocks per slice in the open budget frame
  allBlocks : Tab Nat := [] -- R376 parcel-stream blocks per slice in the open budget frame
  streamCw : Tab Nat := [] -- R376 codewords of each tree's frame in progress whose blocks are counted
  ratioWin : Nat := 0 -- R376 index of the budget frame in which the blocks are counted
  ratioNum : Tab Nat := [] -- R376 accept ratio of the previous budget frame in 1/64, per slice
  avsW : Nat := 750 -- R480 target of VDD_CORE_W in force, mV
  avsE : Nat := 750 -- R480 target of VDD_CORE_E in force, mV
  avsAtW : Ticks := 0 -- R480 instant of its last move
  avsAtE : Ticks := 0 -- R480 instant of its last move
  railsOk : Bool := true -- R483 every supply within its operating range
  aoDown : Bool := false -- R485 AO storage has ended
  vddio : Bool := true -- R491 VDDIO within its operating range
  balls : Tab Bool := [] -- R494 mismatch latched, by ball
  deriving DecidableEq, Repr

/-- One bandwidth record in progress (R454). [16_observability.md] -/
structure BwRec where
  cur : Nat := 0 -- R454 bytes in the open window
  last : Nat := 0 -- R454 LAST_BYTES
  peak : Nat := 0 -- R454 PEAK_BYTES
  peakWin : Nat := 0 -- R454 PEAK_WINDOW
  deriving DecidableEq, Repr

/-- MOTH_CFG of a slice direction (Table 16.7) and its LFSR. [16_observability.md] -/
structure Moth where
  anyPort : Bool := true -- R457 ANY_PORT
  port : Nat := 0 -- R457 PORT
  mask : Nat := 255 -- R457 CLASS_MASK
  rate : Nat := 0 -- R457 RATE
  lfsr : BitVec 64 := 0 -- R458 LFSR
  deriving DecidableEq, Repr

/-- A trap slot in use (R459, R460). [16_observability.md] -/
structure TrapSlot where
  used : Bool := false -- R459 the slot is held
  dir : Dir := .down -- R461 DIR
  cls : Nat := 0 -- R461 CLASS
  port : Nat := 0 -- R461 PORT
  lfn : Nat := 0 -- R461 LFN
  aid : Nat := 0 -- R461 AID
  base : Nat := 0 -- R460 base, device time in ns
  baseFrc : Nat := 0 -- R460 base on the FRC, ns
  stages : Tab Nat := [] -- R460 offsets of stages 1 to 8 in ns, plus 1
  rewinds : Nat := 0 -- R460 REWINDS
  length : Nat := 0 -- R461 LENGTH
  freed : Nat := 0 -- R459 SLICE cycle in which the slot was last freed, plus 1
  deriving DecidableEq, Repr

/-- One performance counter (R455). [16_observability.md] -/
structure Perf where
  event : Nat := 0 -- R455 EVENT
  dir : Nat := 0 -- R455 DIR
  param : Nat := 0 -- R455 PARAM
  val : Nat := 0 -- R455 COUNT, 48 bits
  wrap : Bool := false -- R455 WRAP
  deriving DecidableEq, Repr

/-- The measuring units of a slice. [16_observability.md] -/
structure Observe where
  window : Nat := 0 -- R451 count window base
  bwUs : Nat := 1000 -- R453 BW_CFG.WINDOW_US
  bwNext : Option Nat := none -- R453 window that takes effect at the next whole second
  bw : Tab BwRec := [] -- R454 bandwidth records
  bwWin : Nat := 0 -- R454 index of the open bandwidth window
  bwWins : Nat := 0 -- R454 WINDOWS of every record of the slice
  perf : Tab Perf := [] -- R455 16 performance counters
  mothDs : Moth := {} -- R457 MOTH_CFG downstream
  mothUs : Moth := {} -- R457 MOTH_CFG upstream
  slots : Tab TrapSlot := [] -- R459 256 trap slots
  trapIdx : Idx := {} -- R461 trap queue indices
  trapSeq : Nat := 0 -- R461 trap sequence number, 20 bits
  trapQ : Tab (List Word) := [] -- R461 trap queue, 1,024 records
  deriving DecidableEq, Repr

end Sys2Proof
end

