-- ==== Sys2Proof/Machine/TLine.lean ====
section
/-! DEFINITION. The state of the lanes, ports and trees (01, 02, 03, 04, 05). -/

namespace Sys2Proof

/-- Taps of a transmitter (Table 2.3). [02_serial_lanes.md] -/
structure Taps where
  pre : Nat := 0 -- R50 PRE
  main : Nat := 63 -- R50 MAIN
  post : Nat := 0 -- R50 POST
  source : Nat := 0 -- R50 SOURCE
  deriving DecidableEq, Repr

/-- A transmitter (Tables 2.3 and 2.13). [02_serial_lanes.md] -/
structure LaneTx where
  eq : Taps := {} -- R50 LANE_TX_EQ
  eqNext : Option Taps := none -- R51 setting that waits for the next burst
  short : Bool := false -- R68 SHORT
  shortOver : Bool := false -- R68 the last probe saw normal current, the driver waits for its burst
  shortSeen : Bool := false -- R68 SHORT_SEEN, W1C
  inv : Bool := false -- R71 TX_INV
  precode : Bool := true -- R46 PRECODE
  pattern : Nat := 0 -- R55 PATTERN
  inject : Nat := 0 -- R60 INJECT
  injLen : Nat := 0 -- R60 burst length
  injN : Nat := 0 -- R60 N of the programmed rate
  injE : Nat := 0 -- R60 E of the programmed rate
  injCount : Nat := 0 -- R61 symbols counted towards the programmed rate
  eqRefused : Nat := 0 -- R50 EQ_REFUSED, RC, saturating at 1,023
  injFrom : Nat := 0 -- R61 symbol of the burst that runs from which the rate counts
  drives : Bool := false -- R24 inside a burst: its burst-enable is asserted
  driveAt : Ticks := 0 -- R115 end of the laser-on lead of that burst: the driver is squelched before
  cut : Bool := false -- R141 a pattern that the interlock has squelched
  powered : Bool := false -- R373 the lane is out of power-down
  deriving DecidableEq, Repr

/-- A receiver (Tables 2.11 and 2.12, 2.6). [02_serial_lanes.md] -/
structure LaneRx where
  cdr : Bool := false -- R47 CDR_LOCK
  noSignal : Bool := true -- R68 NO_SIGNAL
  openP : Bool := false -- R68 OPEN_P, W1C
  openN : Bool := false -- R68 OPEN_N, W1C
  openNow : Nat := 0 -- R68 legs found open now, bit 0 P, bit 1 N
  losNow : Bool := false -- R490 the port's LOS input holds the lane without signal
  polInv : Bool := false -- R68 POL_INV
  dfe : Bool := false -- R53 DFE_ON
  chkLock : Bool := false -- R58 CHK_LOCK
  pattern : Nat := 0 -- R55 pattern compared
  loopback : Bool := false -- R58 LOOPBACK
  margin : Nat := 0 -- R53 MARGIN, as last measured
  shuffled : Bool := false -- R68 its identifier, or its PCS lane, is not that of its place
  dfeMode : Nat := 0 -- R53 DFE_MODE
  polMode : Nat := 0 -- R70 POL_MODE
  precode : Bool := true -- R46 PRECODE of LANE_RX_CFG
  marginMin : Nat := 10 -- R53 MARGIN_MIN
  chkSymbols : Nat := 0 -- R59 CHK_SYMBOLS, 40 bits, saturating
  errSymbols : Nat := 0 -- R59 ERR_SYMBOLS, 40 bits, saturating
  errBits : Nat := 0 -- R59 ERR_BITS, 40 bits, saturating
  lockLoss : Nat := 0 -- R59 LOCK_LOSS, 20 bits, saturating
  deriving DecidableEq, Repr

/-- An eye scan (R62 to R66). [02_serial_lanes.md] -/
structure EyeScan where
  mask : Nat := 0 -- R62 eyes
  vLo : Nat := 0 -- R62 first voltage step of the range
  vHi : Nat := 0 -- R62 last voltage step
  pLo : Nat := 0 -- R62 first phase step
  pHi : Nat := 0 -- R62 last phase step
  depth : Nat := 3 -- R63 depth code, 0 is 10^-6, reset 10^-9
  addr : Nat := 0 -- R64 host buffer address
  job : Job -- R64 the command
  running : Bool := false -- R65 running, not queued
  paused : Bool := false -- R66 CDR out of lock
  lostAt : Ticks := 0 -- R66 instant at which lock was lost, or from which the scan waits for it
  clean : List Bool := [] -- R64 per completed point: no disagreement
  deriving DecidableEq, Repr

/-- The six PM counts (Table 3.11). [03_downstream.md] -/
structure Pm where
  corr : Nat := 0 -- R105 CORR_SYMBOLS, 40 bits
  uncorr : Nat := 0 -- R105 UNCORR_CW, 40 bits
  inv : Nat := 0 -- R105 INVALID_HDR, 40 bits
  fs : Nat := 0 -- R105 FS_ERRORS, 40 bits
  lol : Nat := 0 -- R105 LOL_SECONDS, 0 or 1
  skew : Nat := 0 -- R105 SKEW_EXC, 40 bits
  deriving DecidableEq, Repr

/-- A previous-second record (Table 3.12). [03_downstream.md] -/
structure PmRec where
  second : Nat := 0 -- R106 PM_SECOND
  pm : Pm := {} -- R106 the latched counts
  deriving DecidableEq, Repr

/-- A lane identifier (Table 3.4). [03_downstream.md] -/
structure Ident where
  treeId : Nat
  logical : Nat
  laneCount : Nat
  serial : Nat
  deriving DecidableEq, Repr

/-- The alignment of a line lane (Table 3.6). [03_downstream.md] -/
structure Align where
  st : Nat := 0 -- R85 0 Hunt, 1 Block, 2 Frame
  cand : Nat := 0 -- R78 candidate of the hunt: symbol offset, plus 2,700 under inversion; the one it locked at
  passes : Nat := 0 -- R84 passing frame starts in a row, up to 3
  fails : Nat := 0 -- R85 frame starts not passing in a row
  fc : BitVec 32 := 0 -- R85 FRAME_COUNT
  passed : Bool := false -- R86 the last frame start passed
  fresh : Bool := false -- R88 it has decided a frame start that its tree has not
  arrival : Ticks := 0 -- R90 arrival of the last frame start
  interval : Ticks := Config.frameTicks -- R31 13,284,000 UI of the recovered clock, as the last two frame starts gave it
  prevSkew : Nat := 0 -- R91 skew in the last frame with a passing frame start, UI, plus 1; 0 none
  skew : Nat := 0 -- R90 skew in UI
  lockAt : Ticks := 0 -- R20 instant at which frame lock was gained
  ident : Option Ident := none -- R20 last lane identifier
  excluded : Nat := 0 -- R20 0 in the group; 1 number too large, 2 duplicate, 3 looped, 4 foreign
  sr : Option (BitVec 16) := none -- R102 switching-request bytes of the last passing frame start; none: it held no such block (R75)
  tod : Option (Option Nat) := none -- R347 time-of-day stamp of the last passing frame start, linear; some none: TOD_NS out of range; none: it held no such block (R75)
  evSec : Nat := 0 -- R91 second of the last excursion event, plus 1
  pm : Pm := { lol := 1 } -- R105 running counts: a lane starts without frame lock
  pmRec : PmRec := {} -- R106 previous-second record
  deriving DecidableEq, Repr

/-- A configured system port, kept under its first lane (R34, R412). [14_control_mailbox.md] -/
structure SysPort where
  width : Nat := 0 -- R34 width in lanes; 0: not configured
  mode : Nat := 0 -- R45 mode of Table 2.2
  training : Bool := false -- R46 link training
  enabled : Bool := false -- R412 enabled
  up : Bool := false -- R45 link up
  trained : Bool := false -- R52 training reached the trained state
  deriving DecidableEq, Repr

/-- One trip of an interlock (R144). [04_upstream_bursts.md] -/
structure Trip where
  time : Nat
  cause : Nat
  deriving DecidableEq, Repr

/-- A line port (R116, R142). [04_upstream_bursts.md] -/
structure LinePort where
  ton : Nat := 0 -- R116 T_on in ns
  toff : Nat := 0 -- R116 T_off in ns
  tripSeen : Bool := false -- R142 TRIP_SEEN, W1C
  trips : Nat := 0 -- R142 TRIPS, RC, saturating at 1,023
  lastTrips : List Trip := [] -- R144 last 16 trips, oldest first
  los : Bool := false -- R490 LOS input asserted
  deriving DecidableEq, Repr

/-- A pending lane change (R93). [03_downstream.md] -/
structure LaneChange where
  frame : Nat
  lane : Nat
  back : Bool
  deriving DecidableEq, Repr

/-- A tree slot's configuration and its group (R19 to R22). [01_tree_model.md] -/
structure TreeCfg where
  configured : Bool := false -- R19 CONFIGURED
  first : Nat := 0 -- R19 first device lane
  size : Nat := 0 -- R19 group size
  expId : Nat := 0 -- R19 expected tree ID, 32 bits
  lockedId : Nat := 0 -- R21 locked tree ID, 0 while no lane holds frame lock
  laneMap : Tab Nat := [] -- R20 logical lane map: device lane plus 1 of each logical lane, 0 none
  removed : List Nat := [] -- R22 logical lanes removed by notice
  changes : List LaneChange := [] -- R93 lane changes waiting for their frame
  pair : Option Nat := none -- R37 the other member of the pair
  working : Bool := false -- R37 this tree is the working member
  selProtect : Bool := false -- R39 kept on the working member: the protect member carries traffic
  switching : Option Bool := none -- R39 selection accepted, the switch not yet complete
  differ : Bool := false -- R104 the members' SELECT values differ
  deriving DecidableEq, Repr

/-- A Pitch in the interlock's own copy of the schedule, with its window once the commit instant has frozen it (R139). [04_upstream_bursts.md] -/
structure IlWindow where
  entry : Pitch -- R139 the Pitch as the list and revision decoders give it
  frozen : Bool := false -- R139 its commit instant has come
  start : Ticks := 0 -- R139 S, from the commit instant on
  close : Ticks := 0 -- R139 its close
  lanes : List Nat := [] -- R139 device lanes of its burst
  deriving DecidableEq, Repr
def IlWindow.is (w : IlWindow) (frame pid : Nat) : Bool := w.entry.frame == frame && w.entry.pid == pid

/-- A parcel whose trusted header is received and whose blocks are still to come. [03_downstream.md] -/
structure Reception where
  hdr : Block := 0 -- R98 the header block
  kept : Nat := 0 -- R99 0 discarded at checks 2 to 5, its LENGTH followed; 1 past check 5; 2 a notice parcel
  party : Nat := 0 -- R233 the party that asked for its buffer
  ing : Entry := {} -- R186 the INGRESS_CFG record in force at the header
  buf : Option (Nat × Nat) := none -- R233 pool and index of the buffer, once it is granted
  deriving DecidableEq, Repr

/-- Frame following of a tree (R86 to R89, R103). [03_downstream.md] -/
structure TreeFrame where
  laneCount : Nat := 0 -- R86 LANE_COUNT of the reference lane
  tfl : Bool := false -- R86 tree frame lock
  mismatch : Bool := false -- R86 LANE_COUNT is not allowed or exceeds the group size
  hadTfl : Bool := false -- R87 it has had tree frame lock since it was configured
  fails : Nat := 0 -- R87 failed tree frames in a row
  loss : Bool := false -- R142 held off by a loss (IL_STATUS.LOST)
  heldId : Nat := 0 -- R21 tree ID to which tree frame lock is held, 0 without it
  dup : Bool := false -- R21 held as a duplicate
  lockAt : Ticks := 0 -- R21 instant at which tree frame lock was gained
  fc : Nat := 0 -- R89 extended frame counter, 64 bits
  refArr : Ticks := 0 -- R31 arrival of that frame's start on the reference lane
  refPast : List Ticks := [] -- R31 arrivals of the frames before it, latest first
  refInt : Ticks := Config.frameTicks -- R31 13,284,000 UI of the reference lane's recovered clock
  srN : Nat := 3 -- R103 N
  srVal : BitVec 16 := 0 -- R103 value of the run
  srRun : Nat := 0 -- R103 length of the run
  sr : Option (BitVec 16) := none -- R103 accepted value
  listBad : Bool := false -- R95 the list in reception is discarded
  listSeen : Nat := 0 -- R95 entries received of the list in reception
  listIds : List Nat := [] -- R110 PITCH_IDs of the list in reception for this leaf
  listDone : List (Ticks × Nat) := [] -- R129 instants at which the last lists completed, with the counts of their frames, latest first
  listNew : List Pitch := [] -- R131 entries of the list in reception that grant
  recv : Option Reception := none -- R99 the parcel in reception
  resync : Bool := false -- R98 blocks are skipped until a control block that can be trusted
  pm : Pm := { lol := 1 } -- R105 running counts: a tree starts without tree frame lock
  pmRec : PmRec := {} -- R106 previous-second record
  deriving DecidableEq, Repr

/-- An allocation (R171, R174, R42). [05_joining.md] -/
structure Alloc where
  ds : Bool := false -- R171 downstream direction
  us : Bool := false -- R171 upstream direction
  dormant : Bool := false -- R42 dormant
  lastLift : Option Ticks := none -- R174 instant of the last lift request
  displaced : Nat := 0 -- R123 DISPLACED since the last committed burst, 20 bits
  rewound : Nat := 0 -- R123 REWOUND since the last committed burst, 20 bits
  lateRev : Nat := 0 -- R123 LATE_REV since the last committed burst, 8 bits
  lastStd : Option Ticks := none -- R112 start of the latest STD Pitch whose commit instant has passed
  takeSeq : Nat := 0 -- R132 next place in the take log
  stdRegions : List (Nat × Nat × Nat) := [] -- R282 frame, region and preamble in UI of the STD Pitches of the last 64 frames
  deriving DecidableEq, Repr

/-- A change of an accept bit (R100). [03_downstream.md] -/
structure BitChange where
  aid : Nat
  val : Bool
  frame : Nat        -- the first frame whose start arrives after authentication, extended count
  deriving DecidableEq, Repr

/-- Acceptance on a tree (R28, R100, R101). [03_downstream.md] -/
structure Accept where
  bits : Tab Bool := [] -- R28 accept bitmap of 2^20 bits, all clear
  waiting : List BitChange := [] -- R100 changes waiting for their boundary
  view : Tab Bool := [] -- R101 the allocation list's downstream view
  badWords : List Nat := [] -- R101 words found uncorrectable and not yet rewritten
  deriving DecidableEq, Repr

/-- An accepted notice that waits to be processed (R148). [05_joining.md] -/
structure NoticeQ where
  ntype : Nat
  param : BitVec 32
  nseq : Nat
  auth : Bool
  body : List Block
  at_ : Ticks
  frame : Nat           -- extended count of the frame that holds its trailer block
  dup : Bool := false   -- it repeats the last accepted notice of its type (R150, R306)
  deriving DecidableEq, Repr

/-- The last accepted notice of a type (R150). [05_joining.md] -/
structure LastNotice where
  nseq : Nat
  v : Nat
  answers : List Answer := []
  deriving DecidableEq, Repr

/-- An entry of the join log (R184). [05_joining.md] -/
structure JoinLog where
  typ : Nat
  nseq : Nat
  result : Nat
  time : Nat
  deriving DecidableEq, Repr

/-- The leaf state machine of a tree (R156 to R177). [05_joining.md] -/
structure Join where
  st : Nat := 0 -- R183 STATE: 0 Listening to 4 Operating
  leaf : Option Nat := none -- R161 leaf number, 10 bits
  fcAssign : Nat := 0 -- R161 FC_ASSIGN, 64 bits
  k : Nat := 0 -- R158 BACKOFF_K
  draw : Option Nat := none -- R158 r, while the tree counts windows
  count : Nat := 0 -- R158 n
  attempts : Nat := 0 -- R158 JOIN_ATTEMPTS, 48 bits
  pass : Option Answer := none -- R152 an undone A.SERIAL, for the next announcement window
  aseq : Nat := 0 -- R151 ASEQ, 32 bits
  tAssign : Option Ticks := none -- R157 T_ASSIGN expiry
  tAnnounced : Option Ticks := none -- R157 T_ANNOUNCED expiry
  tRanged : Option Ticks := none -- R157 T_RANGED expiry
  tKex : Option Ticks := none -- R157 T_KEX expiry
  holdoff : Option Ticks := none -- R177 end of the hold-off
  rangeReady : Option Ticks := none -- R157 A.RANGE ready
  deriving DecidableEq, Repr

/-- An equalisation delay and the values waiting for their frame (R129). [04_upstream_bursts.md] -/
structure Eqd where
  cur : Nat := 0 -- R129 EqD in force, 27 bits
  next : List (Nat × Option Nat) := [] -- R129 values waiting, and the frame from which each holds once known
  rangeCur : Option Nat := none -- R162 ranging EqD in force
  rangeNext : List (Nat × Option Nat) := [] -- R162 ranging EqDs waiting
  roundCur : Nat := 0 -- R162 ROUND of the ranging EqD in force, 4 bits
  roundNext : List (Nat × Option Nat) := [] -- R162 ROUNDs of those waiting
  deriving DecidableEq, Repr

/-- Where the next notice of a stream stands (R145, R146): a frame's overhead stream by the low 32 bits of its count, which
N.ASSIGN leaves as they are, or a notice parcel by the instant of its header; and the block. [05_joining.md] -/
structure NoticeCur where
  key : Nat
  next : Nat
  deriving DecidableEq, Repr

/-- Notices, answers and the exchange of a tree (R148 to R169). [05_joining.md] -/
structure Exchange where
  queue : List NoticeQ := [] -- R148 accepted notices not processed
  curList : Option NoticeCur := none -- R145 the block of an overhead stream that follows the last notice located in it
  curParcel : Option NoticeCur := none -- R146 the same of a notice parcel, which may go on while the next frame's overhead stream comes
  answers : List Answer := [] -- R152 answer queue, in order of readiness
  ranges : List Answer := [] -- R152 undone A.RANGE answers, for the next ranging Pitch
  last : Tab (Option LastNotice) := [] -- R150 last accepted notice of each type
  vHigh : Option Nat := none -- R306 highest accepted v
  vSeen : List Nat := [] -- R306 accepted values inside the window
  req : List Block := [] -- R165 SPDM request blocks reassembled
  reqLen : Nat := 0 -- R165 MSG_LEN of the partial request
  reqNext : Nat := 0 -- R165 next expected OFFSET
  reqReady : Option Nat := none -- R165 NSEQ of the notice that completed a request not yet answered
  respLeft : Nat := 0 -- R165 fragments of the response not yet committed
  respMeas : List (Nat × List Byte) := [] -- R432 measurement blocks that the last response reports
  respKind : Nat := 0 -- R166 response in flight: 1 CHALLENGE_AUTH, 2 signed MEASUREMENTS, 0 other
  chain : Nat := 0 -- R167 certificate chain: next expected OFFSET of a partial chain
  chainBlocks : List Block := [] -- R167 the chain's blocks as far as they came
  hubKey : Option Nat := none -- R167 subject key of the end-entity certificate of a chain that passed validation
  challenged : Bool := false -- R166 CHALLENGE_AUTH committed since the entry to Ranged
  measured : Bool := false -- R166 signed MEASUREMENTS committed since the entry to Ranged
  kexShare : Option NoticeQ := none -- R168 the phase 1 notice whose share is being prepared
  log : List JoinLog := [] -- R184 last 256 notices and answers, oldest first
  deriving DecidableEq, Repr

/-- TREE_TIME and N.TIME (Table 12.4). [12_time.md] -/
structure TreeTime where
  valid : Bool := false -- R348 VALID
  offset : Int := 0 -- R348 OFFSET, 60 bits
  asym : Int := 0 -- R347 ASYM, 32 bits
  leap : Nat := 0 -- R348 LEAP
  utc : Int := 0 -- R348 UTC_OFFSET
  lastValid : Ticks := 0 -- R350 instant of the last valid frame
  deriving DecidableEq, Repr

/-- The disable-transmit record of a slot, in AO storage (R43, R176). [05_joining.md] -/
structure DtRec where
  held : Bool := false -- R176 held flag
  treeId : Nat := 0 -- R176 tree ID, 32 bits
  deriving DecidableEq, Repr

/-- A tree slot (R18). -/
structure Tree where
  cfg : TreeCfg := {}
  fr : TreeFrame := {}
  join : Join := {}
  eqd : Eqd := {}
  ex : Exchange := {}
  acc : Accept := {}
  allocs : Tab Alloc := [] -- R171 allocations by AID
  pitches : List Pitch := [] -- R113 held Pitches, in order of start
  il : List IlWindow := [] -- R139 the interlock's own copy of the Pitch schedule
  time : TreeTime := {}
  dt : DtRec := {}
  deriving DecidableEq, Repr

end Sys2Proof
end

