-- ==== Sys2Proof/Machine/TTables.lean ====
section
/-! DEFINITION. The classification, flow and address tables of a slice (06, 07). Entries are kept as native words, reserved bits
zero (R9), in the layouts of Tables 6.2 to 6.8 and 7.1. -/

namespace Sys2Proof

/-- An address entry (Table 7.3). [07_tables.md] -/
structure AddrEntry where
  valid : Bool := false -- R214 VALID
  vlan : BitVec 12 := 0 -- R214 VLAN
  mac : BitVec 48 := 0 -- R214 MAC
  static : Bool := false -- R214 STATIC
  kind : Bool := false -- R214 KIND: false system port, true LFN
  age : Nat := 0 -- R221 AGE, 8 bits
  port : Nat := 0 -- R214 PORT, 5 bits
  lfn : Nat := 0 -- R214 LFN
  bad : Bool := false -- R223 uncorrectable
  holdEnd : Ticks := 0 -- R217 end of the move hold
  deriving DecidableEq, Repr

/-- LEARN_CFG (Table 7.4). [07_tables.md] -/
structure LearnCfg where
  ageTick : Nat := 1250 -- R221 AGE_TICK in ms
  ageLimit : Nat := 240 -- R221 AGE_LIMIT
  ageDst : Bool := false -- R221 AGE_DST
  moveHold : Nat := 10 -- R217 MOVE_HOLD in ms
  sys : Nat := 0xFFFFFFFF -- R217 LEARN_SYS_HI and LEARN_SYS, bit p: system port p
  tree : Nat := 0xFF -- R217 LEARN_TREE
  deriving DecidableEq, Repr

/-- A learn-filter record (R217, R218). [07_tables.md] -/
structure LearnRec where
  vlan : BitVec 12
  mac : BitVec 48
  kind : Nat
  dir : Dir
  port : Nat
  aid : Word
  time : Ticks      -- instant of the last notice
  devNs : Nat       -- its device time
  deriving DecidableEq, Repr

/-- The compare engine of a slice (R225 to R227). [07_tables.md] -/
structure Shadow where
  addr : Tab (Option Nat) := [] -- R225 registered shadow's host address by table code
  count : Nat := 0 -- R225 entry count of code 0x0A
  running : Bool := false -- R226 a pass runs
  stopping : Bool := false -- R230 the pass ends with the entry in progress
  cont : Bool := false -- R230 continuous
  mask : Nat := 0 -- R230 tables of the command
  todo : List Nat := [] -- R226 table codes still to do in this pass
  index : Nat := 0 -- R226 next entry
  compared : Nat := 0 -- R227 entries compared
  mism : Nat := 0 -- R227 mismatches
  skips : Nat := 0 -- R227 skips
  keys : List Nat := [] -- R226 keys of code 0x0A fetched in this pass, newest first
  deriving DecidableEq, Repr

/-- The address table in the present SLICE cycle: its lookups see what stood when the cycle began (R216, R219, R222). [07_tables.md] -/
structure AddrCycle where
  cycle : Nat := 0 -- R216 the SLICE cycle
  before : Tab (Option AddrEntry) := [] -- R216 entries changed in it, as they stood when it began
  soft : List Nat := [] -- R222 entries that software changed in it
  hits : List Nat := [] -- R222 entries that a refreshing hit in it reached
  ups : List (Nat × Nat × Bool) := [] -- R219 updates by hits in it: the entry, the pipeline, a move
  ptr : Nat := 0 -- R219 the rotating pipeline pointer as it began
  deriving DecidableEq, Repr

/-- The tables of a slice. [06_classification.md] -/
structure Tables where
  ingress : Tab Entry := [] -- R186 INGRESS_CFG of upstream ports 0 to 31 and downstream slots 32 to 39, DEFAULT_CLASS 7, rest 0
  tpidA : BitVec 16 := 0x8100 -- R187 TPID_A
  tpidB : BitVec 16 := 0x88A8 -- R187 TPID_B
  filters : Tab Entry := [] -- R188 64 MAC filters of each ingress port, all invalid
  profiles : Tab Entry := [] -- R190 64 profiles, all invalid
  ranges : Tab Entry := [] -- R192 256 comparators, all invalid
  rules : Tab Entry := [] -- R193 4,096 rules, all invalid
  actions : Tab Entry := [] -- R196 4,096 action sets, all zero
  lft : Tab Entry := [] -- R211 2^20 LFT entries, all invalid
  addr : Tab AddrEntry := [] -- R214 131,072 sets of 4 ways, all invalid
  acyc : AddrCycle := {} -- R216 the present cycle of the address table
  learn : LearnCfg := {} -- R217 LEARN_CFG
  filter : List LearnRec := [] -- R218 learn filter, oldest first, at most 2,048
  learnSeq : Nat := 0 -- R220 next learn sequence number, 20 bits
  learnIdx : Idx := {} -- R220 learn queue indices
  learnQ : Tab (List Word) := [] -- R220 learn queue, 4,096 records
  agePass : Bool := false -- R221 an age pass runs
  ageNext : Nat := 0 -- R221 next set of the pass
  ageLim : Nat := 240 -- R221 AGE_LIMIT of the pass
  ageTick : Nat := 1250 -- R221 AGE_TICK in force since the last pass began
  ageAt : Ticks := 0 -- R221 instant of the last tick
  shadow : Shadow := {} -- R226 compare engine
  deriving DecidableEq, Repr

/-- A frame waiting in a dispatch backlog or in the reorder buffer (R203, R205). [06_classification.md] -/
structure Waiting where
  pool : Nat -- R203 buffer pool
  index : Nat -- R203 buffer index
  port : Nat -- R203 ingress port
  deriving DecidableEq, Repr

/-- What classification decided for a frame that waits in the reorder buffer (R195, R197, R213). [06_classification.md] -/
structure Verdict where
  pool : Nat := 0 -- R205 buffer pool
  index : Nat := 0 -- R205 buffer index
  port : Nat := 0 -- R205 ingress port
  prio : Bool := false -- R205 priority backlog
  pipe : Nat := 0 -- R204 pipeline
  drop : Bool := false -- R185 dropped in classification, its buffer already freed
  cls : Nat := 7 -- R197 class
  lfn : Option Nat := none -- R195 LFN
  egPort : Nat := 0 -- R195 system port of a destination without an LFN
  dei : Bool := false -- R196 the frame is pre-coloured yellow
  meter : Option Nat := none -- R197 meter
  entry : Entry := {} -- R213 the LFT entry that step 8 read
  deriving DecidableEq, Repr

/-- Ingress, dispatch and reorder state of one slice direction (R203 to R205). [06_classification.md] -/
structure Dispatch where
  prio : List Waiting := [] -- R203 priority backlogs, in order of entry
  normal : List Waiting := [] -- R203 normal backlogs, in order of entry
  pipe : Nat := 0 -- R204 rotating pipeline pointer
  ptrPrio : Nat := 0 -- R204 port pointer of the priority backlogs
  ptrNormal : Nat := 0 -- R204 port pointer of the normal backlogs
  reorder : List Verdict := [] -- R205 reorder buffer, in dispatch order, at most 4,096
  wrPort : Nat := 0 -- R241 next buffer port of the ingress writer
  busyAt : Ticks := 0 -- R375, R376 instant at which a frame last entered or left the backlogs or the pipelines
  deriving DecidableEq, Repr

/-- A copy on its way to a host receive ring (R189, R197, R416). [06_classification.md] -/
structure RingCopy where
  ring : Nat
  pool : Nat
  index : Nat
  reason : Nat       -- 0 MAC filter, 1 mirror, 2 host receive queue
  fromLft : Bool := false
  idx : Nat := 0     -- filter or rule index
  deriving DecidableEq, Repr

/-- What takes effect at the end of the SLICE cycle: a request for a buffer and an enqueue, in the order of R242; a frame that waits for the
meter unit (R263); a free of a buffer, in the order of R245, and of a cell; a scanner visit (R222); a class-0 arrival at the Barrow and a step of
normal assembly, after every commit and revision of the cycle (R135). [08_buffers_queues.md] -/
inductive EndOp
  | request (n : Nat) (r : SpillReq)
  | meter (n : Nat) (dir : Dir) (v : Verdict) (qf : QFault) (meterBad : Bool)
  | enter (n p i : Nat) (a : Admit)
  | free (n party slice p i : Nat)
  | cell (n c : Nat)
  | visit (n set bad ns : Nat)
  | arrive (n q : Nat)
  | assemble (k : Nat) (aid : Word) (qf : QFault)
  deriving DecidableEq, Repr

/-- The slice whose cycle it is. -/
def EndOp.slice : EndOp → Nat
  | .request n _ | .meter n _ _ _ _ | .enter n _ _ _ | .free n _ _ _ _ | .cell n _ | .visit n _ _ _ | .arrive n _ => n
  | .assemble k _ _ => k / 8

end Sys2Proof
end

