-- ==== Sys2Proof/Machine/TVault.lean ====
section
/-! DEFINITION. The vault, and the slice and device records that hold everything (10, 15, 08, 09). -/

namespace Sys2Proof

/-- The sealing digest, kept as the values it is computed from (R433). [15_trust.md] -/
structure SealTag where
  mr0 : List Nat := []
  mr1 : Option Nat := none
  mr2 : Option Nat := none
  mr3 : List Nat := []
  deriving DecidableEq, Repr

/-- A sealed root key (R169, R433). [15_trust.md] -/
structure RootKey where
  held : Bool := false -- R169 a root key is held
  key : Nat := 0 -- R168 root key, 256 bits
  tag : SealTag := {} -- R433 sealing digest it was tagged with
  deriving DecidableEq, Repr

/-- A key exchange in progress (R168). [15_trust.md] -/
structure KexState where
  active : Bool := false -- R168 ephemeral key and shared secret held
  cand : Nat := 0 -- R168 candidate root key, 256 bits
  deriving DecidableEq, Repr

/-- The fuses (R6, R424, R480). [15_trust.md] -/
structure Fuses where
  serial : Nat := 0 -- R82 serial of the part, 64 bits
  secret : Nat := 0 -- R427 device-unique secret
  minSvn : Nat := 0 -- R441 fused minimum security version, 32 bits
  vendorKey : Nat := 0 -- R424 index of the vendor firmware key
  debug : Nat := 0 -- R424 debug policy
  unlocks : Nat := 0 -- R441 unlocks since manufacture
  avsW : Nat := 750 -- R480 AVS target of VDD_CORE_W in mV
  avsE : Nat := 750 -- R480 AVS target of VDD_CORE_E in mV
  deriving DecidableEq, Repr

/-- A request to the P-384 unit (R429): its level, 1 key exchange of a tree, 2 SPDM signature of a tree, 3 DOE; its channel, the tree or 64;
and its arrival. [15_trust.md] -/
structure SignReq where
  level : Nat
  ch : Nat
  at_ : Ticks
  deriving DecidableEq, Repr

/-- The P-384 unit (R429). [15_trust.md] -/
structure SignUnit where
  wait : List SignReq := [] -- R429 requests not begun, in order of arrival
  run : List SignReq := [] -- R429 requests begun
  next : Ticks := 0 -- R429 earliest instant at which the unit may begin another
  deriving DecidableEq, Repr

/-- An SPDM channel (R430, R431): how far it has negotiated, and its transcripts. [15_trust.md] -/
structure SpdmChan where
  st : Nat := 0 -- R431 0 start, 1 version, 2 capabilities, 3 algorithms
  vca : List Byte := [] -- R430 transcript of the negotiation
  certs : List Byte := [] -- R430 transcript of digests and certificates since the last CHALLENGE_AUTH
  meas : List Byte := [] -- R430 transcript of measurements since the last signed one
  deriving DecidableEq, Repr

/-- The vault (R424 to R441). [15_trust.md] -/
structure Vault where
  mr0 : List Nat := [] -- R424 MR0, the digests it was extended by since zero
  mr1 : Option Nat := none -- R425 MR1, SHA-384 of the image; none is zero
  mr2 : Option Nat := none -- R425 MR2, SHA-384 of the blob; none is zero
  mr3 : List Nat := [] -- R437 MR3, the unlock records it was extended by
  mr4 : List Nat := [] -- R424 MR4, the image digests it was extended by
  runSvn : Nat := 0 -- R434 security version of the running image
  roots : Tab RootKey := [] -- R169 root key of each tree
  kex : Tab KexState := [] -- R168 exchange of each tree
  noticeKeys : Tab (Option (NoticeKey × NoticeKey)) := [] -- R304 notice keys of each tree, downstream and upstream
  locked : Bool := true -- R436 JTAG locked
  tap : TapInstr := .idcode -- R436 instruction selected in the TAP
  noSign : Bool := false -- R437 identity signatures refused
  reseeds : Nat := 0 -- R438 times the DRBG was reseeded
  selfTest : Bool := true -- R439 self-test passed
  starting : Bool := false -- R439 the self-test of a start from off is under way
  spdm : Tab SpdmChan := [] -- R430 the 65 SPDM channels: 0 is DOE, k + 1 tree k
  identity : Option Nat := none -- R427 device identity key, derived at a start of the domain
  sign : SignUnit := {}
  snap : Tab (Option (List (Nat × List Byte))) := [] -- R432 measurement blocks as they stood when a channel's signature began
  anchors : List Nat := [] -- R167 hub trust anchors of the running policy blob: SHA-384 digests of keys
  nonce : Nat := 0 -- R436 nonce in the TAP data register
  doeBusy : Bool := false -- R430 a DOE request is being answered
  doeReq : List Byte := [] -- R430 that request
  fuses : Fuses := {}
  deriving DecidableEq, Repr

/-- Grants of one pool or bank in the present SLICE cycle (R237). [08_buffers_queues.md] -/
structure CycleUse where
  cycle : Nat := 0 -- R237 the SLICE cycle
  grants : Nat := 0 -- R237 grants in it
  deriving DecidableEq, Repr

/-- A frame taken by a system port's egress and not yet read (R271, R265). [09_scheduling.md] -/
structure EgressRead where
  port : Nat
  queue : Nat
  desc : Desc
  cls : Nat
  deriving DecidableEq, Repr

/-- Buffers, cells and queues of a slice. [08_buffers_queues.md] -/
structure BufSt where
  bufs : Tab Buffer := [] -- R243 allocated buffers, by pool times 2^20 plus index; all others free or retired
  spillUp : Nat := 0x1F -- R235 SPILL_UP, 5 bits
  stageReserve : Nat := 4096 -- R235 STAGE_RESERVE
  cyc : Tab CycleUse := [] -- R237 grants of the cycle, by pool; banks are 6 and 7
  rot : Tab Nat := [] -- R242 rotation pointer, by pool; banks are 6 and 7
  holders : Tab Stallholder := [] -- R238 256 stallholder records
  cells : Tab Cell := [] -- R246 allocated cells
  queues : Tab Queue := [] -- R247 16,384 queues
  spills : List SpillReq := [] -- R234 refused requests that pass to the next pool
  sweeping : Bool := false -- R254 a sweep runs
  sweepAgain : Bool := false -- R254 one more sweep follows
  reads : List EgressRead := [] -- R265 egress reads in progress
  copies : List RingCopy := [] -- R416 copies on their way to host rings
  direct : List (Nat × Nat × Nat) := [] -- R417 host frames for a system port's queue whose data is still being written: pool, index, class
  deriving DecidableEq, Repr

/-- Metering and scheduling of a slice. [09_scheduling.md] -/
structure SchedSt where
  meters : Tab Meter := [] -- R260 65,536 meters
  egress : Tab Egress := [] -- R272 system ports by first lane within the slice
  ptrUp : Tab Nat := [] -- R269 rotation pointers of an AID and class
  ptrDown : Tab Nat := [] -- R271 rotation pointers of a system port and class
  deriving DecidableEq, Repr

/-- Keys of a slice. [10_cipher.md] -/
structure KeySt where
  ctx : Tab KeyCtx := [] -- R287 32,768 key contexts
  tx : Tab TxEpoch := [] -- R302 upstream epoch state by context
  derivs : List Deriv := [] -- R292 outstanding derivations in order of arrival
  deriving DecidableEq, Repr

/-- A slice (R3). -/
structure Slice where
  tab : Tables := {}
  ds : Dispatch := {}
  us : Dispatch := {}
  buf : BufSt := {}
  sched : SchedSt := {}
  key : KeySt := {}
  obs : Observe := {}
  ptp : PtpTc := {}
  ptpNext : Option PtpTc := none -- R362 PTP_TC_CFG applied between frames
  deriving DecidableEq, Repr

/-- Everything a command changes: the block without its command queue and event log. -/
structure Dev where
  now : Ticks := 0 -- R14 instant of the last event
  evPend : List Event := [] -- R464 events raised and not yet written
  free : Nat := 0 -- MODEL counter of free values used (log entry 3)
  outs : List Output := [] -- MODEL what has been driven out, oldest first (log entry 6)
  host : Host14 := {}
  counts : Tab Count := [] -- R442 48-bit counts, all 0
  time : TimeSt := {}
  ao : TimeAo := {}
  pwr : PowerSt := {}
  vault : Vault := {}
  lrx : Tab LaneRx := [] -- R72 receivers: line lanes 0 to 255, system lanes 256 to 511
  ltx : Tab LaneTx := [] -- R72 transmitters: line lanes 0 to 255, system lanes 256 to 511
  al : Tab Align := [] -- R85 alignment of line lanes 0 to 255
  scans : Tab (Option EyeScan) := [] -- R65 eye scans by receiver
  scanQ : List Nat := [] -- R65 queued scans in order of arrival
  ports : Tab LinePort := [] -- R116 line ports 0 to 15
  sysPorts : Tab SysPort := [] -- R34 system ports by first system lane
  trees : Tab Tree := [] -- R18 trees 0 to 63
  slices : Tab Slice := [] -- R3 slices 0 to 7
  mems : Tab Stack := [] -- R309 memory stacks 0 to 7
  flashA : Option (Nat × Tab DtRec × Tab RankMap) := none -- R395 persistent record copy A with its generation
  flashB : Option (Nat × Tab DtRec × Tab RankMap) := none -- R395 persistent record copy B
  recDirty : Bool := false -- R395 an AO record changed and is not yet in flash
  ending : List EndOp := [] -- R237, R242, R245 what takes effect at the end of the present SLICE cycle
  deriving DecidableEq, Repr

end Sys2Proof
end

