-- ==== Sys2Proof/Machine/TCounts.lean ====
section
/-! DEFINITION. The 48-bit named counts (R442 to R448), in the order of the chapters, the owner of each count's instances,
and the counts to which R445 applies. -/

namespace Sys2Proof

/-- The owner of an instance of a count: it names the event queue of R462. -/
inductive Scope | device | slice | tree | lane | sysPort | stack | domain
  deriving DecidableEq, Repr

/-- The named counts. Each is kept per owner and, where the comment says so, per a second index. -/
inductive CN
  | pitchMaskIgnored -- R23 tree
  | pitchEmpty -- R23 tree
  | pitchWithheld -- R43 tree
  | lostDropped -- R41 tree (per AID)
  | dfeEngaged -- R54 lane
  | dfeDisengaged -- R54 lane
  | chkSymbols -- R59 lane
  | errSymbols -- R59 lane
  | errBits -- R59 lane
  | lockLoss -- R59 lane
  | shortFound -- R68 lane
  | shortCleared -- R68 lane
  | openFound -- R68 lane
  | openCleared -- R68 lane
  | polInverted -- R68 lane
  | polNormal -- R68 lane
  | shuffleFound -- R68 lane
  | loopFound -- R68 lane
  | loopCleared -- R68 lane
  | badType -- R75 tree
  | strayData -- R96 tree
  | laneLate -- R93 tree
  | listBad -- R95 tree
  | fcJump -- R89 tree
  | parHdr -- R99 tree
  | parRsvd -- R99 tree
  | parLen -- R99 tree
  | parNotsel -- R99 tree
  | parUnacc -- R99 tree
  | parTrunc -- R99 tree
  | parFec -- R99 tree
  | parFcs -- R99 tree
  | entryBad -- R110 tree
  | entryUnknown -- R110 tree
  | pitchMalformed -- R110 tree
  | entryDup -- R110 tree
  | pitchShort -- R110 tree
  | pitchOverlap -- R111 tree
  | c0GapMax -- R112 tree (per AID)
  | revUnknown -- R113 tree
  | revStale -- R113 tree
  | revLate -- R114 tree
  | barFull -- R131 tree
  | burstsSent -- R143 tree
  | pitchSkipped -- R143 tree
  | displaced -- R143 tree (per AID)
  | rewound -- R143 tree (per AID)
  | poisonTx -- R138 tree (per AID)
  | txCut -- R138 tree (per AID)
  | parcelsCommitted -- R143 tree (per AID)
  | bytesCommitted -- R143 tree (per AID)
  | awnLong -- R130 slice (per queue)
  | noticeBad -- R182 tree
  | noticeUnknown -- R182 tree
  | noticeAuth -- R182 tree
  | noticeState -- R182 tree
  | assignTimeout -- R182 tree
  | kexTimeout -- R182 tree
  | ansStale -- R182 tree
  | removeDropped -- R172 tree (per AID)
  | clsUnmatched -- R209 slice (per direction)
  | popMiss -- R209 slice (per direction)
  | rwShort -- R209 slice (per direction)
  | actExcess -- R209 slice (per direction)
  | actBad -- R209 slice (per direction)
  | lenOver -- R209 slice (per direction)
  | padded -- R209 slice (per direction)
  | csumSkip -- R209 slice (per direction)
  | ip4BadIn -- R209 slice (per direction)
  | ruleHits -- R194 slice (per rule)
  | mfHits -- R189 slice (per filter)
  | mfDrop -- R189 slice (per ingress port)
  | steered -- R209 slice (per ingress port)
  | lftBad -- R213 slice
  | lftInvalid -- R213 slice
  | lftDir -- R213 slice
  | lftNoalloc -- R213 slice
  | lftNoqueue -- R213 slice
  | lfnFrames -- R213 slice (per LFN)
  | lfnBytes -- R213 slice (per LFN)
  | learnLost -- R220 slice
  | learnDedup -- R217 slice
  | moved -- R217 slice
  | moveHeld -- R217 slice
  | staticConflict -- R217 slice
  | aged -- R221 slice
  | shcSkip -- R226 slice
  | shcMore -- R227 slice
  | poolRefused -- R234 slice (per party and pool)
  | bufRefused -- R234 slice (per party)
  | freeInvalid -- R244 slice (per party)
  | freeDouble -- R244 slice (per party)
  | freeForeign -- R244 slice (per party)
  | admitRefused -- R240 slice (per queue)
  | cellRefused -- R250 slice (per queue)
  | qFull -- R248 slice (per queue)
  | qBadtoken -- R248 slice (per queue)
  | qReset -- R252 slice (per queue)
  | qresetDrop -- R253 slice (per queue)
  | poisonDrop -- R256 slice (per queue)
  | flushed -- R251 slice (per queue)
  | sweeps -- R258 slice
  | cellsReclaimed -- R254 slice
  | bufsReclaimed -- R254 slice
  | mtrGreen -- R281 slice (per meter)
  | mtrGreenBytes -- R281 slice (per meter)
  | mtrYellow -- R281 slice (per meter)
  | mtrYellowBytes -- R281 slice (per meter)
  | mtrRed -- R281 slice (per meter)
  | mtrRedBytes -- R281 slice (per meter)
  | mtrSentGreen -- R265 slice (per meter)
  | mtrSentYellow -- R265 slice (per meter)
  | meterInvalid -- R262 slice
  | meterBad -- R262 slice
  | framesCapped -- R281 slice
  | framesSuspended -- R281 slice
  | egNoq -- R272 sysPort
  | pauseRx -- R273 sysPort
  | pfcRx -- R273 sysPort (per priority)
  | pausedUs -- R281 sysPort (per class)
  | lpiEntries -- R281 sysPort
  | lpiUs -- R281 sysPort
  | parNokey -- R297 tree
  | parReplay -- R297 tree
  | parTag -- R297 tree
  | keyMissTx -- R294 tree (per AID)
  | kswEarly -- R302 tree (per AID)
  | epochsDs -- R307 tree (per AID)
  | epochsUs -- R307 tree (per AID)
  | keyCtxMismatch -- R290 slice
  | derivations -- R307 slice
  | cacheBad -- R307 slice
  | ce -- R324 stack (per physical rank)
  | ue -- R325 stack (per physical rank)
  | dieCorr -- R321 stack (per physical rank)
  | poisonReads -- R335 stack (per physical rank)
  | rmw -- R322 stack (per port)
  | memReads -- R335 stack (per port)
  | memWrites -- R335 stack (per port)
  | memSlots -- R335 stack (per port)
  | neighbourRef -- R320 stack (per bank)
  | throttles -- R320 stack (per bank)
  | migrations -- R335 stack
  | shrinkages -- R335 stack
  | retiredBufs -- R335 stack
  | sramCe -- R334 stack
  | sramUe -- R334 stack
  | todBad -- R348 tree
  | ptpCorrected -- R355 slice (per direction)
  | ptpSkipped -- R355 slice (per direction)
  | ppsAccepted -- R361 device
  | ppsIgnored -- R361 device
  | stepsMade -- R361 device
  | pdRefused -- R382 domain (per refuser)
  | pdAborted -- R382 domain (per refuser)
  | ringFull -- R416 device (per ring)
  | badDesc -- R417 device (per ring)
  | macRx -- R452 sysPort (per index of Table 16.4)
  | macTx -- R452 sysPort (per index of Table 16.4)
  | treeRx -- R452 tree (per index of Table 16.4)
  | treeTx -- R452 tree (per index of Table 16.4)
  | mothBusy -- R459 slice (per direction)
  deriving DecidableEq, Repr

/-- The scope of each count (R446, Table 16.2). -/
def CN.scope : CN → Scope
  | .pitchMaskIgnored | .pitchEmpty | .pitchWithheld | .lostDropped | .badType | .strayData | .laneLate | .listBad => .tree
  | .fcJump | .parHdr | .parRsvd | .parLen | .parNotsel | .parUnacc | .parTrunc | .parFec => .tree
  | .parFcs | .entryBad | .entryUnknown | .pitchMalformed | .entryDup | .pitchShort | .pitchOverlap | .c0GapMax | .revUnknown => .tree
  | .revStale | .revLate | .barFull | .burstsSent | .pitchSkipped | .displaced | .rewound | .poisonTx => .tree
  | .txCut | .parcelsCommitted | .bytesCommitted | .noticeBad | .noticeUnknown | .noticeAuth | .noticeState | .assignTimeout => .tree
  | .kexTimeout | .ansStale | .removeDropped | .parNokey | .parReplay | .parTag | .keyMissTx | .kswEarly => .tree
  | .epochsDs | .epochsUs | .todBad | .treeRx | .treeTx => .tree
  | .dfeEngaged | .dfeDisengaged | .chkSymbols | .errSymbols | .errBits | .lockLoss | .shortFound | .shortCleared | .openFound | .openCleared | .polInverted | .polNormal |
    .shuffleFound | .loopFound | .loopCleared => .lane
  | .egNoq | .pauseRx | .pfcRx | .pausedUs | .lpiEntries | .lpiUs | .macRx | .macTx => .sysPort
  | .ce | .ue | .dieCorr | .poisonReads | .rmw | .memReads | .memWrites | .memSlots => .stack
  | .neighbourRef | .throttles | .migrations | .shrinkages | .retiredBufs | .sramCe | .sramUe => .stack
  | .ppsAccepted | .ppsIgnored | .stepsMade | .ringFull | .badDesc => .device
  | .pdRefused | .pdAborted => .domain
  | _ => .slice

/-- Byte counts and MAC statistics (R445). -/
def CN.halfRange : CN → Bool
  | .bytesCommitted | .lfnBytes | .mtrGreenBytes | .mtrYellowBytes | .mtrRedBytes | .mtrSentGreen => true
  | .mtrSentYellow | .macRx | .macTx | .treeRx | .treeTx => true
  | _ => false

/-- The place of a count in the directory of R448. -/
def CN.index (c : CN) : Nat := c.ctorIdx

end Sys2Proof
end

