-- ==== Sys2Proof/Machine/State.lean ====
section
/-! DEFINITION. The state of the F5120: the commands that wait, the event log, and the block. -/

namespace Sys2Proof.Machine

/-- The machine. -/
structure State where
  pending : List Instr := [] -- MODEL commands that wait, first in, first out
  log : EvLog := {} -- R463 event log
  dev : Dev := {}
  deriving DecidableEq, Repr

/-- Reasons to stop with a fault. The spec gives every command of the table an effect, so no meaning raises one. -/
inductive Fault
  /-- Raised by nobody: kept so that the type has a name to compare. Safe. -/
  | none
  deriving DecidableEq, Repr

/-- Reasons to refuse a command. -/
inductive Refusal
  /-- Raised by an arm of exec for a command that has no meaning yet. Safe. -/
  | notModelled (mnemonic : String)
  deriving DecidableEq, Repr

/-- The machine right after reset: no command waits, the log is empty, and every register has its reset value, given with
its field (R394, R397, R340 and the Reset columns of the field maps; log entries 7 to 9 name the values that the spec
does not state). -/
def State.reset : State := {}

end Sys2Proof.Machine
end

