-- ==== Sys2Proof/Machine/Ops.lean ====
section
/-! DEFINITION. Operations that every family shares: reaching the parts of the block, the advance of its clocks, device time,
events and their delivery, counts, interrupt vectors, outputs, free values and the wake of a power domain. -/

namespace Sys2Proof

/-! ### Parts of the block -/

def Dev.tree (d : Dev) (k : Nat) : Tree := d.trees.get {} k
def Dev.setTree (k : Nat) (x : Tree) (d : Dev) : Dev := { d with trees := d.trees.set {} k x }
def Dev.modTree (k : Nat) (f : Tree → Tree) (d : Dev) : Dev := d.setTree k (f (d.tree k))
def Dev.slice (d : Dev) (n : Nat) : Slice := d.slices.get {} n
def Dev.setSlice (n : Nat) (x : Slice) (d : Dev) : Dev := { d with slices := d.slices.set {} n x }
def Dev.modSlice (n : Nat) (f : Slice → Slice) (d : Dev) : Dev := d.setSlice n (f (d.slice n))
def Dev.rxLane (d : Dev) (l : Nat) : LaneRx := d.lrx.get {} l
def Dev.modRx (l : Nat) (f : LaneRx → LaneRx) (d : Dev) : Dev := { d with lrx := d.lrx.upd {} l f }
def Dev.txLane (d : Dev) (l : Nat) : LaneTx := d.ltx.get {} l
def Dev.modTx (l : Nat) (f : LaneTx → LaneTx) (d : Dev) : Dev := { d with ltx := d.ltx.upd {} l f }
def Dev.align (d : Dev) (l : Nat) : Align := d.al.get {} l
def Dev.modAlign (l : Nat) (f : Align → Align) (d : Dev) : Dev := { d with al := d.al.upd {} l f }
def Dev.port (d : Dev) (p : Nat) : LinePort := d.ports.get {} p
def Dev.modPort (p : Nat) (f : LinePort → LinePort) (d : Dev) : Dev := { d with ports := d.ports.upd {} p f }
def Dev.sysPort (d : Dev) (p : Nat) : SysPort := d.sysPorts.get {} p
def Dev.modSys (p : Nat) (f : SysPort → SysPort) (d : Dev) : Dev := { d with sysPorts := d.sysPorts.upd {} p f }
def Dev.stack (d : Dev) (n : Nat) : Stack := d.mems.get {} n
def Dev.modStack (n : Nat) (f : Stack → Stack) (d : Dev) : Dev := { d with mems := d.mems.upd {} n f }
def Dev.dom (d : Dev) (p : Nat) : PDom := d.pwr.doms.get {} p
def Dev.modPwr (f : PowerSt → PowerSt) (d : Dev) : Dev := { d with pwr := f d.pwr }
def Dev.modDom (p : Nat) (f : PDom → PDom) (d : Dev) : Dev := d.modPwr fun w => { w with doms := w.doms.upd {} p f }
def Dev.modHost (f : Host14 → Host14) (d : Dev) : Dev := { d with host := f d.host }
def Dev.modBoot (f : Boot → Boot) (d : Dev) : Dev := d.modHost fun h => { h with boot := f h.boot }
def Dev.modFw (f : Firmware → Firmware) (d : Dev) : Dev := d.modHost fun h => { h with fw := f h.fw }
def Dev.modVault (f : Vault → Vault) (d : Dev) : Dev := { d with vault := f d.vault }
def Dev.modTime (f : TimeSt → TimeSt) (d : Dev) : Dev := { d with time := f d.time }
def Dev.modAo (f : TimeAo → TimeAo) (d : Dev) : Dev := { d with ao := f d.ao }
def Dev.mbox (d : Dev) (m : Nat) : Mailbox := d.host.mboxes.get {} m
def Dev.modMbox (m : Nat) (f : Mailbox → Mailbox) (d : Dev) : Dev :=
  d.modHost fun h => { h with mboxes := h.mboxes.upd {} m f }

def Dev.modTab (n : Nat) (f : Tables → Tables) (d : Dev) : Dev := d.modSlice n fun s => { s with tab := f s.tab }
def Dev.modBuf (n : Nat) (f : BufSt → BufSt) (d : Dev) : Dev := d.modSlice n fun s => { s with buf := f s.buf }
def Dev.modSched (n : Nat) (f : SchedSt → SchedSt) (d : Dev) : Dev := d.modSlice n fun s => { s with sched := f s.sched }
def Dev.modKey (n : Nat) (f : KeySt → KeySt) (d : Dev) : Dev := d.modSlice n fun s => { s with key := f s.key }
def Dev.modObs (n : Nat) (f : Observe → Observe) (d : Dev) : Dev := d.modSlice n fun s => { s with obs := f s.obs }

/-- The 4 slots of a line port (R18): tree k is slot k mod 4 of port k / 4; port p belongs to slice p / 2. -/
def portOfTree (k : Nat) : Nat := k / 4
def sliceOfTree (k : Nat) : Nat := k / 8
def sliceOfLane (l : Nat) : Nat := l / 32

/-- The device lanes of a tree's configured group (R19). -/
def Dev.groupLanes (d : Dev) (k : Nat) : List Nat :=
  let c := (d.tree k).cfg
  if c.configured then (List.range c.size).map (c.first + ·) else []

/-- The configured tree whose group holds line lane l. -/
def Dev.treeOfLane (d : Dev) (l : Nat) : Option Nat :=
  (List.range 4).map (· + 4 * (l / 16)) |>.find? fun k => (d.groupLanes k).contains l

/-- The configured system port that holds system lane l. -/
def Dev.sysPortOfLane (d : Dev) (l : Nat) : Option Nat :=
  (List.range 8).map (fun i => l - i) |>.find? fun p =>
    let w := (d.sysPort p).width
    decide (p ≤ l ∧ l < p + w)

/-! ### Clocks and device time (R338 to R342, R351) -/

/-- Domain p is on (Table 13.8). -/
def Dev.isOn (d : Dev) (p : Nat) : Bool := (d.dom p).st == 0
/-- The clock of domain p runs: it is on, or on its way to another state, from which it may still return to on with all it holds (R363, R369;
DEDUCED, log entry 126). -/
def Dev.clocked (d : Dev) (p : Nat) : Bool := d.isOn p || ((d.dom p).st == 3 && (d.dom p).target != 0)
/-- The TIME clock runs (R352, R363). -/
def Dev.timeOn (d : Dev) : Bool := d.clocked 1
/-- The SLICE clock of slice n runs while one of its six domains holds it (Table 13.1). -/
def Dev.sliceClock (d : Dev) (n : Nat) : Bool := (List.range 6).any fun j => d.clocked (7 + 6 * n + j)

/-- SLICE cycles between two instants. -/
def cyclesBetween (a b : Ticks) : Nat := b / Config.slicePeriod - a / Config.slicePeriod
/-- Slots of the 64 channels of a stack, at 1.25 G each per second, between two instants (R310). -/
def slotsBetween (a b : Ticks) : Nat := 64 * (b * 1250000000 / Config.sec - a * 1250000000 / Config.sec)

/-- Cycles of the AO clock between two instants: of the crystal, or of the 32 MHz fallback (R351). -/
def crystalEdges (a b : Ticks) : Nat :=
  b * 2 ^ 32 / (Config.crystalPeriod * Config.ns) - a * 2 ^ 32 / (Config.crystalPeriod * Config.ns)
def fallbackCycles (a b : Ticks) : Nat := b * (Config.fallbackKhz * 1000) / Config.sec - a * (Config.fallbackKhz * 1000) / Config.sec

/-- The AO domain reaches an instant (R351): the coarse counter advances by 1 at each edge of the crystal, or on the fallback by 25/32 for
each cycle through its accumulator; off the fallback the crystal's period is measured while TIME runs. -/
def TimeAo.elapse (a : TimeAo) (was now_ : Ticks) (timeOn : Bool) : TimeAo :=
  if a.fallback then
    let acc := a.acc + 25 * fallbackCycles was now_
    { a with
      coarse := a.coarse + acc / 32
      acc := acc % 32
      saved := if timeOn then a.saved else { a.saved with fbCoarse := a.saved.fbCoarse + acc / 32 } }
  else
    { a with
      coarse := a.coarse + crystalEdges was now_
      period := if timeOn then Config.crystalPeriod else a.period }

/-- The clocks reach instant t: the FRC advances by 1 ns at each edge of TIME while that clock runs, the coarse counter of AO with its own
(log entry 10). An instant in the past leaves them where they stand. -/
def Dev.advance (t : Nat) (d : Dev) : Dev :=
  let now := max d.now t
  let edges := now / Config.ns - d.now / Config.ns
  { d with
    now := now
    time := if d.timeOn then { d.time with frcNs := d.time.frcNs + edges } else d.time
    ao := d.ao.elapse d.now now d.timeOn }

/-- FRC as a linear value (R339). -/
def Dev.frcLin (d : Dev) : Nat := d.time.frcNs * 65536

/-- Device time of an FRC value, in 2^-16 ns, products truncated toward minus infinity (R339, R341). -/
def TimeSt.devOf (x : TimeSt) (frc : Nat) : Int := (frc : Int) + (frc : Int) * x.rho / 2 ^ 48 + x.theta

/-- Device time now, linear (R341). -/
def Dev.devLin (d : Dev) : Int := d.time.devOf d.frcLin
/-- Device time in whole nanoseconds. -/
def Dev.devNs (d : Dev) : Nat := (d.devLin / 65536).toNat
/-- Device time in whole seconds. -/
def Dev.devSec (d : Dev) : Nat := d.devNs / 1000000000
/-- The FRC at a tick instant at or near now: as it stood at the last edge of TIME, with the distance from that edge, which is resolved to
2^-7 ns (captures at a ball, R338). -/
def Dev.frcAt (d : Dev) (at_ : Ticks) : Nat :=
  ((d.frcLin : Int) + ((at_ : Int) - ((d.now - d.now % Config.ns : Nat) : Int)) * 128 / (Config.ns : Int) * 512).toNat
/-- The device time of a capture at such an instant. -/
def Dev.devAt (d : Dev) (at_ : Ticks) : Nat := (d.time.devOf (d.frcAt at_)).toNat

/-- Change part of a linear time (R339): seconds, nanoseconds and fraction. -/
def linFields (v : Nat) : Nat × Nat × Nat := (v / 65536 / 1000000000, v / 65536 % 1000000000, v % 65536)

/-! ### Outputs, vectors, free values -/

def Dev.out (o : Output) (d : Dev) : Dev := { d with outs := d.outs ++ [o] }

/-- A free value: the next of Config.freeValue; nothing constrains it (log entry 3). -/
def Dev.fresh (d : Dev) : BitVec 64 × Dev := (Config.freeValue d.free, { d with free := d.free + 1 })

/-- Vector v is masked, by its entry or by the function mask (R418). -/
def Msix.isMasked (m : Msix) (v : Nat) : Bool := m.fmask || (m.table.get {} v).masked

/-- The index or status that vector v follows has changed (R418). -/
def Dev.due (v : Nat) (d : Dev) : Dev :=
  d.modHost fun h =>
    if h.msix.enable then
      { h with msix := { h.msix with
          due := h.msix.due.set false v true
          pba := if h.msix.isMasked v then h.msix.pba.set false v true else h.msix.pba } }
    else h

/-! ### Events (R413, R414, R462 to R464) -/

def qTree (k : Nat) : Nat := k
def qSlice (n : Nat) : Nat := 64 + n
def qMem (n : Nat) : Nat := 72 + n
def qPort (p : Nat) : Nat := 80 + p
def qSys (g : Nat) : Nat := 96 + g
def qTime : Nat := 112
def qPower : Nat := 113
def qVault : Nat := 114
def qCtl : Nat := 115

/-- The queue of a lane's events: its line port or system group (R462). -/
def qLane (l : Nat) : Nat := if l < 256 then qPort (l / 16) else qSys ((l - 256) / 16)

/-- Raise an event. -/
def Dev.raise (queue source code object : Nat) (detail : List Nat) (d : Dev) : Dev :=
  { d with evPend := d.evPend ++
      [{ queue := queue, source := source, code := code, object := object, detail := detail, time := d.devNs % 2 ^ 40 }] }

/-- Queue full (R413): the indices differ by the entries, modulo twice the entries. -/
def Idx.full (x : Idx) (entries : Nat) : Bool := (x.dev + 2 * entries - x.host) % (2 * entries) == entries

/-- The record written, the index advances; a full queue loses it (R413, R414). -/
def Idx.push (x : Idx) (entries : Nat) : Idx := { x with dev := (x.dev + 1) % (2 * entries) }
def Idx.lose (x : Idx) : Idx := { x with ovf := true, lost := min (x.lost + 1) (2 ^ 32 - 1) }

/-- The words of an event record (Table 14.13). -/
def Event.words (e : Event) (seq : Nat) : List Nat :=
  [seq, e.source * 4096 + e.code, e.object % 2 ^ 20, e.time / 2 ^ 20, e.time % 2 ^ 20] ++
    (e.detail ++ [0, 0, 0]).take 3 |>.map (· % 2 ^ 20)

def toDwords (ws : List Nat) : List Dword := ws.map (BitVec.ofNat 32)

/-- DMA channel c is halted (R420). -/
def Dev.dmaHalted (d : Dev) (c : Nat) : Bool := (d.host.dma.get {} c).halted

/-- One event goes to its queue: it takes the queue's next sequence number, and either its record is written, the index
advances and the vector is signalled, or the queue's OVF and LOST say that it was discarded (R413, R414, R420). -/
def Dev.deliver (e : Event) (d : Dev) : Dev :=
  let q := d.host.evq.get {} e.queue
  let ok := q.reg && !q.idx.full q.entries && !d.dmaHalted (48 + e.queue / 64)
  let q' := { q with seq := (q.seq + 1) % 2 ^ 20, idx := if ok then q.idx.push q.entries else q.idx.lose }
  let d := d.modHost fun h => { h with evq := h.evq.set {} e.queue q' }
  if ok then
    (d.out (.dma (48 + e.queue / 64) (q.addr + 32 * (q.idx.dev % q.entries)) (toDwords (e.words q.seq)))).due (16 + e.queue)
  else d

/-- The log takes every event; the last 4,096 are kept, the overwritten are counted (R463). -/
def EvLog.add (g : EvLog) (e : Event) (seq : Nat) : EvLog :=
  let x : LogEntry := { queue := e.queue, seq := seq, source := e.source, code := e.code, object := e.object,
                        detail := e.detail, time := e.time, logSeq := g.next }
  if g.entries.length < 4096 then { g with next := (g.next + 1) % 2 ^ 40, entries := g.entries ++ [x] }
  else { next := (g.next + 1) % 2 ^ 40, lost := min (g.lost + 1) (2 ^ 32 - 1), entries := (g.entries.drop 1) ++ [x] }

/-- Insert by SOURCE, then CODE, then OBJECT, keeping the order of equals (R464). -/
def Event.before (a b : Event) : Bool :=
  decide (a.source < b.source ∨ (a.source = b.source ∧
    (a.code < b.code ∨ (a.code = b.code ∧ a.object < b.object))))

def insertEvent (e : Event) : List Event → List Event
  | [] => [e]
  | x :: xs => if e.before x then e :: x :: xs else x :: insertEvent e xs

def sortEvents (es : List Event) : List Event := es.foldl (fun a e => insertEvent e a) []

/-- Deliver and log the events in order. -/
def drainEvents : List Event → EvLog × Dev → EvLog × Dev
  | [], x => x
  | e :: es, (g, d) => drainEvents es (g.add e (d.host.evq.get {} e.queue).seq, d.deliver e)

/-! ### Counts (R442 to R447) -/

/-- The key of one instance of a count. -/
def CN.key (c : CN) (owner sub : Nat) : Nat := (c.index * 512 + owner) * 2 ^ 32 + sub

/-- The event queue of an instance's owner (R462). -/
def CN.queue (c : CN) (owner : Nat) : Nat :=
  match c.scope with
  | .device => qCtl
  | .slice => qSlice owner
  | .tree => qTree owner
  | .lane => qLane owner
  | .sysPort => qSys (owner / 16)
  | .stack => qMem owner
  | .domain => qPower

def Dev.count (d : Dev) (c : CN) (owner sub : Nat) : Count := d.counts.get {} (c.key owner sub)

/-- A count rises by n, modulo 2^48; a byte count or MAC statistic raises an event each time its bit 47 changes (R445). -/
def Dev.bumpN (c : CN) (owner sub n : Nat) (d : Dev) : Dev :=
  let old := (d.count c owner sub).val
  let new := old + BitVec.ofNat 48 n
  let d := { d with counts := d.counts.upd {} (c.key owner sub) fun x => { x with val := new } }
  if c.halfRange && (old.getLsbD 47 != new.getLsbD 47) then
    d.raise (c.queue owner) 0x10 1 owner [c.index, sub, (new.getLsbD 47).toNat]
  else d

def Dev.bump (c : CN) (owner sub : Nat) (d : Dev) : Dev := d.bumpN c owner sub 1

/-- A count that keeps the largest of its values (R112). -/
def Dev.countMax (c : CN) (owner sub v : Nat) (d : Dev) : Dev :=
  let w := BitVec.ofNat 48 (min v (2 ^ 48 - 1))
  { d with counts := d.counts.upd {} (c.key owner sub) fun x => if x.val < w then { x with val := w } else x }

/-- The checker's counts, which are held with the lane's receiver and saturate at their widths (R59). -/
def CN.checker (c : CN) : Bool := c == .chkSymbols || c == .errSymbols || c == .errBits || c == .lockLoss
def LaneRx.checkerCount (x : LaneRx) : CN → Nat
  | .chkSymbols => x.chkSymbols | .errSymbols => x.errSymbols | .errBits => x.errBits | _ => x.lockLoss
def LaneRx.clearCount (x : LaneRx) : CN → LaneRx
  | .chkSymbols => { x with chkSymbols := 0 } | .errSymbols => { x with errSymbols := 0 } | .errBits => { x with errBits := 0 }
  | _ => { x with lockLoss := 0 }
def Dev.clearChecker (c : CN) (l : Nat) (d : Dev) : Dev := d.modRx l fun x => x.clearCount c

/-- Return an instance to 0 (R443). -/
def Dev.clearCount (c : CN) (owner sub : Nat) (d : Dev) : Dev :=
  { d with counts := d.counts.set {} (c.key owner sub) {} }

/-- A saturating rise. -/
def satInc (limit v : Nat) : Nat := min limit (v + 1)
def satAdd (limit v n : Nat) : Nat := min limit (v + n)

/-! ### Performance counters (R455) -/

def Perf.inc (p : Perf) (n : Nat) : Perf × Bool :=
  let v := p.val + n
  if 2 ^ 48 ≤ v then ({ p with val := v % 2 ^ 48, wrap := true }, true) else ({ p with val := v }, false)

/-- Count n of event number e in direction dir (0 down, 1 up, 2 neither) and parameter, on every counter of slice sl that
selects it; a wrap raises an event. -/
def Dev.perf (sl e dir param n : Nat) (d : Dev) : Dev :=
  (List.range 16).foldl (fun d i =>
    let p := (d.slice sl).obs.perf.get {} i
    let dirOk := dir == 2 || p.dir == 2 || p.dir == dir
    let parOk := (e != 10 && e != 12) || p.param == param
    if p.event == e && dirOk && parOk then
      let (p', w) := p.inc n
      let d := d.modObs sl fun o => { o with perf := o.perf.set {} i p' }
      if w then d.raise (qSlice sl) 0x10 2 i [] else d
    else d) d

/-- Slots of stack n granted to a port, with their counts (R335, R455). -/
def Dev.slotsUsed (n port count : Nat) (write : Bool) (d : Dev) : Dev :=
  let d := ((d.bumpN .memSlots n port count).bumpN (if write then .memWrites else .memReads) n port count).perf n 10 2 port count
  d.modObs n fun o => { o with perf := o.perf.mapV {} fun _ p => if p.event = 11 then { p with val := p.val - count } else p }

/-- What a counter gains while the block stands as it is: SLICE cycles, cycles with the reorder buffer full or a normal backlog
not empty, and HBM slots, which a grant takes back (events 1, 4, 5 and 11 of Table 16.6; log entry 11). -/
def Slice.perfGain (s : Slice) (p : Perf) (cycles slots : Nat) : Nat :=
  let one := fun (x : Dispatch) =>
    if p.event = 4 then (if 4096 ≤ x.reorder.length then cycles else 0)
    else if x.normal.isEmpty then 0 else cycles
  match p.event with
  | 1 => cycles
  | 4 | 5 => (if p.dir = 1 then 0 else one s.ds) + (if p.dir = 0 then 0 else one s.us)
  | 11 => slots
  | _ => 0

def Dev.perfElapse (was : Ticks) (d : Dev) : Dev :=
  d.slices.foldl (fun d e => e.2.obs.perf.foldl (fun d x =>
    let cycles := if d.sliceClock e.1 then cyclesBetween was d.now else 0
    let (p, w) := x.2.inc (e.2.perfGain x.2 cycles (if d.clocked (55 + e.1) then slotsBetween was d.now else 0))
    let d := d.modObs e.1 fun o => { o with perf := o.perf.set {} x.1 p }
    if w then d.raise (qSlice e.1) 0x10 2 x.1 [] else d) d) d

/-- Close the account of the present state up to now (R387). -/
def PDom.settle (x : PDom) (nowNs : Nat) : PDom :=
  let n := nowNs - x.since
  match x.st with
  | 1 => { x with since := nowNs, retNs := x.retNs + n }
  | 2 => { x with since := nowNs }
  | _ => { x with since := nowNs, onNs := x.onNs + n }

/-- Fold a command over a list of indices. -/
def Dev.forEach {α : Type} (xs : List α) (f : α → Dev → Dev) (d : Dev) : Dev := xs.foldl (fun d x => f x d) d

/-! ### The windows of R13: every one is closed at its edge, before the command that begins at or after the edge acts -/

/-- Latch one performance record (R106). The count of seconds without lock starts again from whether the lock is missing now. -/
def latchPm (sec : Nat) (lol : Bool) (pm : Pm) : PmRec × Pm :=
  ({ second := sec % 2 ^ 20, pm := { pm with lol := if lol then 1 else pm.lol } }, { lol := if lol then 1 else 0 })

/-- Every lane and tree record latches (R106). -/
def Dev.latchPmAll (sec : Nat) (d : Dev) : Dev :=
  let d := d.forEach (List.range 256) fun l d => d.modAlign l fun a =>
    let (r, p) := latchPm sec (a.st != 2) a.pm
    { a with pmRec := r, pm := p }
  d.forEach (List.range 64) fun k d =>
    if (d.tree k).cfg.configured then
      d.modTree k fun x =>
        let (r, p) := latchPm sec (!x.fr.tfl) x.fr.pm
        { x with fr := { x.fr with pmRec := r, pm := p } }
    else d

/-- Every domain record latches: second, us on, us in retention, entries, wakes (R387). -/
def PDom.latch (x : PDom) (sec endNs : Nat) : PDom :=
  let y := x.settle endNs
  { y with latched := [sec % 2 ^ 20, y.onNs / 1000 % 2 ^ 20, y.retNs / 1000 % 2 ^ 20, y.entries, y.wakes],
           onNs := 0, retNs := 0, entries := 0, wakes := 0 }

/-- The energy that a rail's last reading draws up to an instant, in 0.1 A x mV x ticks (R387). -/
def Rail.accrue (x : Rail) (upTo : Ticks) : Rail :=
  { x with accE := x.accE + x.iNow * x.mv * (upTo - x.lastAt), lastAt := upTo }

/-- Every rail channel in use latches: second, mJ, highest current (R387). -/
def Rail.latch (x : Rail) (sec : Nat) (upTo : Ticks) : Rail :=
  let y := x.accrue upTo
  { y with latched := [sec % 2 ^ 20, y.accE / 1461240000000000, y.iMax], accE := 0, iMax := 0 }

/-- The instant at which device time came to ns, a little before now: the edge of TIME that many nanoseconds of device time ago, at the rate
of rho. -/
def Dev.instantOf (d : Dev) (ns : Nat) : Ticks :=
  d.now - d.now % Config.ns - ((((d.devNs - ns : Nat) : Int) * 2 ^ 48 / (2 ^ 48 + d.time.rho)).toNat) * Config.ns

def Dev.latchPower (sec endNs : Nat) (d : Dev) : Dev :=
  let d := d.forEach (List.range 127) fun p d => d.modDom p fun x => x.latch sec endNs
  let upTo := d.instantOf endNs
  d.modPwr fun w => (List.range w.cfg.rails).foldl (fun w r =>
    { w with railCh := w.railCh.upd {} r fun x => x.latch sec upTo }) w

/-- The records of a second latch together, their windows ending at device time endNs. -/
def Dev.latchSecond (sec endNs : Nat) (d : Dev) : Dev := (d.latchPmAll sec).latchPower sec endNs

/-- A bandwidth window k of one record ends (R454): the earliest window wins a tie. -/
def BwRec.close (x : BwRec) (k : Nat) : BwRec :=
  { cur := 0, last := x.cur, peak := max x.peak x.cur, peakWin := if x.peak < x.cur then k else x.peakWin }

/-- The open window of a slice ends with the records of its system ports and tree slots, and window k is open: those between, if any, were
empty (R454). -/
def Observe.bwTo (o : Observe) (k : Nat) : Observe :=
  let shut := fun (o : Observe) =>
    { o with bw := o.bw.mapV {} fun _ x => x.close o.bwWin, bwWin := o.bwWin + 1, bwWins := o.bwWins + 1 }
  let o := shut o
  let o := if o.bwWin == k then o else shut o
  { o with bwWin := k, bwWins := o.bwWins + (k - o.bwWin) }

/-- The length of slice n's window in ns. -/
def Dev.bwNs (d : Dev) (n : Nat) : Nat := 1000 * max 1 (d.slice n).obs.bwUs

/-- The bandwidth windows of slice n that have ended by device time ns are closed. -/
def Dev.passBw (n ns : Nat) (d : Dev) : Dev :=
  let k := ns / d.bwNs n
  if Nat.ble k (d.slice n).obs.bwWin then d else d.modObs n fun o => o.bwTo k

/-- Bytes counted into a bandwidth record of a slice. -/
def Dev.bwAdd (n rec_ bytes : Nat) (d : Dev) : Dev :=
  d.modObs n fun o => { o with bw := o.bw.upd {} rec_ fun x => { x with cur := x.cur + bytes } }

/-- Activation windows last 32 ms of device time (R320). -/
def activationNs : Nat := 32000000

/-- An activation window of stack n ends, and window k is open: the trackers restart and throttling ends (R320). -/
def Dev.closeActivation (n k : Nat) (d : Dev) : Dev := d.modStack n fun m => { m with rows := [], throttled := [], actWin := k }

def Dev.passActivation (n : Nat) (d : Dev) : Dev :=
  let k := d.devNs / activationNs
  if Nat.ble k (d.stack n).actWin then d else d.closeActivation n k

/-- Settings that take effect at a whole second, at device time ns (R362, R453). -/
def Dev.secondSettings (ns : Nat) (d : Dev) : Dev :=
  let d := d.modTime fun x => { x with pps := x.ppsNext.getD x.pps, ppsNext := none }
  d.forEach (List.range 8) fun n d =>
    match (d.slice n).obs.bwNext with
    | none => d
    | some w => d.modObs n fun o => { o with bwUs := w, bwNext := none, bwWin := ns / (1000 * max 1 w),
                                             bw := o.bw.mapV {} fun _ x => { x with peak := 0, peakWin := 0 } }

/-- Every whole second of device time that has been reached is latched: the one that was open, and of those after it the last (R106,
R387). -/
def Dev.passSeconds (d : Dev) : Dev :=
  let s := d.time.second
  let D := d.devSec
  let gig := 1000000000
  if Nat.ble D s then d
  else
    let d := d.latchSecond s ((s + 1) * gig)
    let d := if Nat.ble D (s + 2) then d else d.latchPower (D - 2) ((D - 1) * gig)
    let d := if D == s + 1 then d else d.latchSecond (D - 1) (D * gig)
    let d := d.forEach (List.range 8) fun n d => d.passBw n ((s + 1) * gig)
    (d.modTime fun x => { x with second := D }).secondSettings ((s + 1) * gig)

/-! ### The parcel stream of a tree and the accept ratio (R20, R31, R80, R86, R376, R496) -/

/-- The device lane that carries logical lane i (R20). -/
def Tree.laneOf (x : Tree) (i : Nat) : Option Nat :=
  match x.cfg.laneMap.get 0 i with
  | 0 => none
  | l + 1 => some l

/-- LANE_COUNT is allowed (R86). -/
def laneCountOk (c size : Nat) : Bool := (c == 1 || c == 2 || c == 4 || c == 8 || c == 16) && decide (c ≤ size)

/-- The stripe set: logical lanes 0 to LANE_COUNT - 1 less those removed (R86). -/
def Tree.stripe (x : Tree) : List Nat :=
  if laneCountOk x.fr.laneCount x.cfg.size then (List.range x.fr.laneCount).filter fun i => !x.cfg.removed.contains i else []

/-- The device lanes of the stripe set that hold their logical lane. -/
def Tree.stripeDev (x : Tree) : List Nat := x.stripe.filterMap x.laneOf

/-- The reference lane: logical lane 0, or the lowest-numbered one remaining (R31). -/
def Tree.refLane (x : Tree) : Option Nat :=
  ((List.range 16).filter fun i => !x.cfg.removed.contains i).findSome? x.laneOf

/-- The largest skew of the stripe lanes, in UI (R90). -/
def Dev.maxSkew (d : Dev) (k : Nat) : Nat := (d.tree k).stripeDev.foldl (fun m l => max m (d.align l).skew) 0

/-- The instant at which the block at a position of the frame in progress is received: 2 CWT after the last bit of its codeword
arrives on the most-skewed stripe lane (R496). -/
def Dev.receivedAt (d : Dev) (k pos : Nat) : Ticks :=
  let x := d.tree k
  let own := (x.refLane.map fun l => (d.align l).skew).getD 0
  x.fr.refArr + (d.maxSkew k - own) * Config.ui + (pos / 40 + 3) * Config.cwt

/-- How many codewords of the frame in progress tree k has received before an instant. -/
def Dev.codewordsBy (d : Dev) (k : Nat) (at_ : Ticks) : Nat := min 4920 ((at_ - d.receivedAt k 0 + Config.cwt - 1) / Config.cwt)

/-- The blocks of the parcel stream that tree k has received before an instant and that are not counted yet count for its slice, while it
holds tree frame lock. The stream begins with codeword 5 (R80, R92). -/
def Dev.noteStream (k : Nat) (at_ : Ticks) (d : Dev) : Dev :=
  if (d.tree k).fr.tfl then
    let c := d.codewordsBy k at_
    d.modPwr fun w =>
      { w with streamCw := w.streamCw.upd 0 k fun v => max v c
               allBlocks := w.allBlocks.upd 0 (sliceOfTree k) fun v => v + 40 * (c - max 5 (w.streamCw.get 0 k)) * (d.tree k).stripe.length }
  else d

/-- The accept ratio of a budget frame in 1/64 (R376). -/
def acceptRatio (acc all_ : Nat) : Nat := if all_ = 0 then 0 else 64 * acc / all_

/-- The budget frame in which blocks are counted ends at an edge, and frame k is open: the accept ratio of each slice is latched. -/
def Dev.closeRatio (k : Nat) (edge : Ticks) (d : Dev) : Dev :=
  let d := d.forEach (d.trees.map (·.1)) fun j d => d.noteStream j edge
  d.modPwr fun w =>
    { w with ratioWin := k, accBlocks := [], allBlocks := [],
             ratioNum := (List.range 8).foldl (fun m n => m.set 0 n (acceptRatio (w.accBlocks.get 0 n) (w.allBlocks.get 0 n))) w.ratioNum }

/-- The budget frames that have ended by now: the open one, and of those after it the last. -/
def Dev.passRatio (d : Dev) : Dev :=
  let k := d.devNs / 125000
  let w := d.pwr.ratioWin
  if Nat.ble k w then d
  else
    let d := d.closeRatio (w + 1) (d.instantOf ((w + 1) * 125000))
    let d := if Nat.ble k (w + 2) then d else d.closeRatio (k - 1) (d.instantOf ((k - 1) * 125000))
    if k == w + 1 then d else d.closeRatio k (d.instantOf (k * 125000))

/-- The windows that have ended by now are closed, while the timebase runs. -/
def Dev.passWindows (d : Dev) : Dev :=
  if !d.timeOn then d
  else
    let d := d.passSeconds
    let d := d.passRatio
    let d := d.forEach (List.range 8) fun n d => d.passBw n d.devNs
    d.forEach (List.range 8) Dev.passActivation

/-! ### Time-stamp queues (R356, R357) -/

/-- Write an entry, or lose it when the queue of 64 is full. -/
def TsQueue.push (q : TsQueue) (id : Nat) (sent : Bool) (stamp : Nat) : TsQueue :=
  if q.idx.full 64 then { q with idx := q.idx.lose }
  else { idx := q.idx.push 64,
         entries := q.entries.set [] (q.idx.dev % 64) [id, if sent then 0 else 1, if sent then stamp else 0] }

/-- An entry for system port p. -/
def Dev.tsSys (p id : Nat) (sent : Bool) (stamp : Nat) (d : Dev) : Dev :=
  let full := (d.ao.tsqSys.get {} p).idx.full 64
  let d := d.modAo fun a => { a with tsqSys := a.tsqSys.upd {} p fun q => q.push id sent stamp }
  if full then d else d.due (408 + p)

/-- An entry for transmit ring r. -/
def Dev.tsRing (r id : Nat) (sent : Bool) (stamp : Nat) (d : Dev) : Dev :=
  let full := (d.ao.tsqRing.get {} r).idx.full 64
  let d := d.modAo fun a => { a with tsqRing := a.tsqRing.upd {} r fun q => q.push id sent stamp }
  if full then d else d.due (664 + r)

/-- A stamp waits behind those whose stamp point came earlier. -/
def insertStamp (x : TsWait) : List TsWait → List TsWait
  | [] => [x]
  | y :: ys => if x.at_ < y.at_ then x :: y :: ys else y :: insertStamp x ys
def Dev.waitStamp (x : TsWait) (d : Dev) : Dev := d.modAo fun a => { a with tsWait := insertStamp x a.tsWait }

/-- The stamps of parcels that are wholly sent are written, in the order of their stamp points: one whose parcel is still being sent holds
up those after it. A parcel lasts less than 1 us. -/
def Dev.passStamps (d : Dev) : Dev :=
  let ready := d.ao.tsWait.takeWhile fun x => decide (x.done ≤ d.now)
  match ready with
  | [] => d
  | _ => (d.modAo fun a => { a with tsWait := a.tsWait.drop ready.length }).forEach ready fun x d => d.tsRing x.ring x.id true x.stamp

/-- The clocks reach instant t, the counters that count time with them, and the windows that have ended are closed: an event at an edge
belongs to the later window (R13, R14). -/
def Dev.reach (t : Nat) (d : Dev) : Dev := ((d.advance t).perfElapse d.now).passWindows.passStamps

/-! ### Readiness (R396, R397) -/

def Dev.readyW (d : Dev) (f : Nat) : Readiness := d.host.ready.get {} f
/-- The word as it reads: during a swap of halves every function reads STATE 0 and REASON 7 (R397, R421). -/
def Dev.readyRead (d : Dev) (f : Nat) : Readiness := if d.host.fw.swapping then { st := 0, reason := 7 } else d.readyW f
def Dev.isReady (d : Dev) (f : Nat) : Bool := (d.readyRead f).st == 1

/-- The functions that function f depends on (Table 14.3). -/
def depsOf (f : Nat) : List Nat :=
  if f = 0 then [] else if f < 11 then [0] else if f < 27 then [3 + (f - 11) / 2] else [1, 2]

/-- Every change of a readiness word raises an event on queue 115 (R396). -/
def Dev.setReady (f : Nat) (r : Readiness) (d : Dev) : Dev :=
  if d.readyW f = r then d
  else (d.modHost fun h => { h with ready := h.ready.set {} f r }).raise qCtl 0x0E 2 f [r.st, r.reason]

/-- A function that depends on one that is not ready leaves ready, with reason 2; a function whose dependencies are all
ready and whose own initialisation has completed becomes ready (R396, R397). -/
def Dev.settleReady (d : Dev) : Dev :=
  (List.range 43).foldl (fun d f =>
    let depsOk := (depsOf f).all d.isReady && (f != 0 || d.host.fw.running)
    if d.isReady f && !depsOk then d.setReady f { st := 0, reason := 2 }
    else if !d.isReady f && depsOk && d.host.initDone.get false f then d.setReady f { st := 1, reason := 0 }
    else d) d

/-! ### Power domains (R366 to R370, R383) -/

def pdTime : Nat := 1
def pdPipe (n : Nat) (dir : Dir) : Nat := 7 + 6 * n + dir.num
def pdCipher (n : Nat) (dir : Dir) : Nat := 9 + 6 * n + dir.num
def pdBarrow (n : Nat) : Nat := 11 + 6 * n
def pdTables (n : Nat) : Nat := 12 + 6 * n
def pdMem (n : Nat) : Nat := 55 + n
def pdLtx (p : Nat) : Nat := 63 + p
def pdLrx (p : Nat) : Nat := 79 + p
def pdStx (g : Nat) : Nat := 95 + g
def pdSrx (g : Nat) : Nat := 111 + g

/-- The wake group of a domain (R383): slices 0 to 7, memories 8 to 15, line ports 16 to 31, system groups 32 to 47,
control 48. -/
def wakeGroup (p : Nat) : Nat :=
  if p < 7 then 48 else if p < 55 then (p - 7) / 6 else if p < 63 then 8 + (p - 55)
  else if p < 95 then 16 + (p - 63) % 16 else 32 + (p - 95) % 16

/-- The causes of R383 in the numbers of Table 13.9. -/
def causePitch : Nat := 1
def causeHost : Nat := 2
def causeTraffic : Nat := 3
def causeTimer : Nat := 4
def causeThermal : Nat := 5
def causeTree : Nat := 6
def causeError : Nat := 7

/-- The order of R383 among causes at one edge: error, thermal, tree event, Pitch, traffic arrival, host command, timer. -/
def causeRank (cause : Nat) : Nat := ([7, 5, 6, 1, 3, 2, 4].findIdx fun c => c == cause)

/-- Write the wake record of domain p's group; at one edge, the first in the order of R383 stands, and of equal causes the earlier one (log
entry 117). -/
def Dev.wakeRecord (p cause : Nat) (fromOff : Bool) (d : Dev) : Dev :=
  let r : WakeRec := { source := cause, domain := p, fromOff := fromOff, timeUs := (d.devNs / 1000) % 2 ^ 20, at_ := d.now }
  d.modPwr fun w =>
    let was := w.wakes.get {} (wakeGroup p)
    if was.source != 0 && was.at_ == d.now && Nat.ble (causeRank was.source) (causeRank cause) then w
    else { w with wakes := w.wakes.set {} (wakeGroup p) r }

/-- Write a response to a mailbox's command: header, results, BUSY cleared, DONE set, vector signalled (R399, R401, R418). -/
def Dev.respond (m : Nat) (tag : Word) (opcode : Nat) (r : Resp) (d : Dev) : Dev :=
  let hdr : List Dword := [BitVec.ofNat 32 opcode, tag.setWidth 32,
    BitVec.ofNat 32 (r.code.num * 4096 + r.results.length), BitVec.ofNat 32 (r.detail % 2 ^ 20)]
  (d.modMbox m fun m => { m with resp := hdr ++ r.results, busy := false, done := true, fetching := none }).due m

/-- The entry of domain p ends: the `power_enter` that asked for it, if one did, is answered (R380, Table 13.13). -/
def Dev.entryAnswer (p : Nat) (r : Resp) (d : Dev) : Dev :=
  match (d.dom p).asker with
  | none => d
  | some (m, tag) => (d.modDom p fun x => { x with asker := none }).respond m tag 0x0D11 r

/-- Burst-enable output b covers lanes 4b to 4b + 3; a line-port TX domain that is not on holds it deasserted (R24, R366). -/
def Dev.outputOn (d : Dev) (b : Nat) : Bool := d.isOn (pdLtx (b / 4)) && (List.range 4).any fun i => (d.txLane (4 * b + i)).drives

/-- Outputs that a change has moved show it (R24). -/
def Dev.showOutputs (blocks : List Nat) (d was : Dev) : Dev :=
  d.forEach (blocks.filter fun b => was.outputOn b != d.outputOn b) fun b e => e.out (.laneOut b (d.outputOn b))

/-- A domain changes its state: the burst-enable outputs of a line-port TX domain follow (R366). -/
def Dev.setDom (p : Nat) (f : PDom → PDom) (d : Dev) : Dev :=
  let e := d.modDom p f
  if Nat.ble 63 p && Nat.blt p 79 then e.showOutputs ((List.range 4).map fun i => 4 * (p - 63) + i) d else e

/-- An entry under way is aborted under a refuser: the domain returns to on, its state kept (R369). -/
def Dev.abortEntry (p code : Nat) (d : Dev) : Dev :=
  let x := (d.dom p).settle d.devNs
  ((d.setDom p fun _ => { x with st := 0, target := 0, lastRef := code }).bump .pdAborted p code).entryAnswer p { code := .aborted, detail := code }

/-- A cause has needed domain p on in the present SLICE cycle (R369). -/
def Dev.neededNow (d : Dev) (p : Nat) : Bool :=
  (d.dom p).needAt != 0 && ((d.dom p).needAt - 1) / Config.slicePeriod == d.now / Config.slicePeriod

/-- An entry that is decided at the edge at which a cause needs the domain on: resolved in favour of the wake, and counted under refuser 0x10
(R369). -/
def Dev.entryLost (p : Nat) (d : Dev) : Dev := (d.modDom p fun x => { x with lastRef := 0x10 }).bump .pdAborted p 0x10

/-- A wake of domain p begins: counted, recorded, and from off with WOKE set (R369, R382, R383, R387). -/
def Dev.wakeBegins (p cause : Nat) (off : Bool) (d : Dev) : Dev :=
  (d.modDom p fun x => { x with wakes := satInc 1023 x.wakes, woke := x.woke || off }).wakeRecord p cause off

/-- The clocks of a domain run again (R367). -/
def PDom.restarted (x : PDom) (now : Ticks) : PDom := { x with stood := x.stood + (now - x.stopAt) }

/-- A cause needs domain p on. From retention or off it wakes; an exit under way is completed; an entry under way is
aborted and counted under refuser 0x10, without a record (R369, R381, R383). The wake's delay is no state of the model. -/
def Dev.wakeNow (p cause : Nat) (d : Dev) : Dev :=
  let x := { (d.dom p).settle d.devNs with needAt := d.now + 1 }
  if x.st = 0 then d.modDom p fun y => { y with needAt := d.now + 1 }
  else if x.st = 3 ∧ x.target ≠ 0 then (d.modDom p fun y => { y with needAt := d.now + 1 }).abortEntry p 0x10
  else if x.st = 3 then d.setDom p fun _ => { x.restarted d.now with st := 0 }
  else (d.setDom p fun _ => { x.restarted d.now with st := 0, target := 0 }).wakeBegins p cause (x.st == 2)

/-! ### Cycles and edges -/

/-- The SLICE cycle of an instant. -/
def Dev.cycle (d : Dev) : Nat := d.now / Config.slicePeriod

/-- Replace element i of a list. -/
def setAt {α : Type} (i : Nat) (v : α) (xs : List α) : List α := xs.set i v

/-- Keep the last n of a list. -/
def lastN {α : Type} (n : Nat) (xs : List α) : List α := xs.drop (xs.length - n)

end Sys2Proof
end

