-- ==== Sys2Proof/Machine/Aes.lean ====
section
/-! DEFINITION. The functions of a cipher cell and of the derivation unit: AES-256, GCM, CMAC (R283, R285, R291), as FIPS 197, NIST SP 800-38D
and NIST SP 800-38B define them. Bytes stand in transmission order, the first in bits [127:120] of a block. -/

namespace Sys2Proof

/-! ### AES-256 (FIPS 197) -/

/-- The S-box as one number, the value of byte b in bits [8b + 7:8b]. -/
def aesBox : Nat :=
  0x16bb54b00f2d99416842e6bf0d89a18cdf2855cee9871e9b948ed9691198f8e19e1dc186b95735610ef6034866b53e708a8bbd4b1f74dde8c6b4a61c2e2578ba08ae7a65eaf4566ca94ed58d6d37c8e779e4959162acd3c25c2406490a3a32e0db0b5ede14b8ee4688902a22dc4f816073195d643d7ea7c41744975fec130ccdd2f3ff1021dab6bcf5389d928f40a351a89f3c507f02f94585334d43fbaaefd0cf584c4a39becb6a5bb1fc20ed00d153842fe329b3d63b52a05a6e1b1a2c830975b227ebe28012079a059618c323c7041531d871f1e5a534ccf73f362693fdb7c072a49cafa2d4adf04759fa7dc982ca76abd7fe2b670130c56f6bf27b777c63

def subByte (b : Byte) : Byte := BitVec.ofNat 8 (aesBox / 2 ^ (8 * b.toNat))
/-- A byte times x in the field of AES. -/
def xtime (b : Byte) : Byte := (b <<< 1) ^^^ (if b.getLsbD 7 then 0x1B else 0)

/-- Byte i of a block, the first in transmission order at 0. -/
def blockByte (b : Block) (i : Nat) : Byte := fld 8 (120 - 8 * i) b
def blockOf (bs : List Byte) : Block := bs.foldl (fun b x => b <<< 8 ||| x.setWidth 128) 0
def bytesOf (b : Block) : List Byte := (List.range 16).map (blockByte b)

/-- SubBytes and ShiftRows: byte i comes from byte i + 4 (i mod 4). -/
def subShift (s : Block) : List Byte := (List.range 16).map fun i => subByte (blockByte s ((i + 4 * (i % 4)) % 16))

/-- MixColumns on one column. -/
def mixColumn (a b c e : Byte) : List Byte :=
  [xtime a ^^^ xtime b ^^^ b ^^^ c ^^^ e, a ^^^ xtime b ^^^ xtime c ^^^ c ^^^ e, a ^^^ b ^^^ xtime c ^^^ xtime e ^^^ e,
   xtime a ^^^ a ^^^ b ^^^ c ^^^ xtime e]
def mixColumns : List Byte → List Byte
  | a :: b :: c :: e :: rest => mixColumn a b c e ++ mixColumns rest
  | _ => []

/-- A word of the key schedule is four bytes; SubWord, and RotWord before it. -/
def subWord (w : BitVec 32) : BitVec 32 :=
  subByte (fld 8 24 w) ++ subByte (fld 8 16 w) ++ subByte (fld 8 8 w) ++ subByte (fld 8 0 w)
def rotWord (w : BitVec 32) : BitVec 32 := w.rotateLeft 8

/-- The next eight words of the key schedule, from eight and their round constant. -/
def nextWords (rcon : Byte) : List (BitVec 32) → List (BitVec 32)
  | [a, b, c, e, f, g, h, i] =>
    let a' := a ^^^ subWord (rotWord i) ^^^ (rcon.setWidth 32 <<< 24)
    let b' := b ^^^ a'
    let c' := c ^^^ b'
    let e' := e ^^^ c'
    let f' := f ^^^ subWord e'
    let g' := g ^^^ f'
    let h' := h ^^^ g'
    [a', b', c', e', f', g', h', i ^^^ h']
  | ws => ws

/-- Two round keys from each eight words. -/
def keysOf : List (BitVec 32) → List Block
  | [a, b, c, e, f, g, h, i] => [a ++ b ++ c ++ e, f ++ g ++ h ++ i]
  | _ => []

/-- The key schedule: round keys 0 to 14 (and one more that no round uses). -/
def roundKeys (key : BitVec 256) : List Block :=
  let w0 := (List.range 8).map fun i => fld 32 (224 - 32 * i) key
  let step := fun (x : List Block × List (BitVec 32)) (rcon : Byte) => (x.1 ++ keysOf (nextWords rcon x.2), nextWords rcon x.2)
  (([0x01, 0x02, 0x04, 0x08, 0x10, 0x20, 0x40].foldl step (keysOf w0, w0)).1).take 15

/-- The rounds after the first key addition: all but the last mix columns. -/
def aesRounds : List Block → Block → Block
  | [], s => s
  | [k], s => blockOf (subShift s) ^^^ k
  | k :: k' :: ks, s => aesRounds (k' :: ks) (blockOf (mixColumns (subShift s)) ^^^ k)

/-- AES-256 of one block. -/
def aes256 (key : BitVec 256) (b : Block) : Block :=
  match roundKeys key with
  | [] => b
  | k :: ks => aesRounds ks (b ^^^ k)

/-! ### GCM (NIST SP 800-38D) -/

/-- One step of the product in GCM's field: (Z, V) after bit i of X. -/
def ghashStep (x : Block) (zv : Block × Block) (i : Nat) : Block × Block :=
  ((if x.getLsbD (127 - i) then zv.1 ^^^ zv.2 else zv.1),
   (zv.2 >>> 1) ^^^ (if zv.2.getLsbD 0 then (0xE1 : Block) <<< 120 else 0))
def ghashMul (x y : Block) : Block := ((List.range 128).foldl (ghashStep x) (0, y)).1

/-- Bytes cut into blocks, the first byte of a block in bits [127:120], the last block filled with zeros (R96). -/
def blocksOfBytes (bs : List Byte) : List Block :=
  (List.range (cdiv bs.length 16)).map fun i =>
    BitVec.ofNat 128 (natBE (((bs.drop (16 * i)).take 16) ++ List.replicate (16 - ((bs.drop (16 * i)).take 16).length) 0))

def ghash (h : Block) (bs : List Block) : Block := bs.foldl (fun y x => ghashMul (y ^^^ x) h) 0

/-- The counter block with count i, for an IV of 96 bits; J0 has 1. -/
def gcmCounter (iv : List Byte) (i : Nat) : Block := BitVec.ofNat 128 (natBE iv * 2 ^ 32 + i % 2 ^ 32)

/-- Bytes under the key stream that starts after J0; the same function deciphers. -/
def gcmStream (key : BitVec 256) (iv : List Byte) (bs : List Byte) : List Byte :=
  (((blocksOfBytes bs).zip (List.range (cdiv bs.length 16))).flatMap fun x => bytesOf (x.1 ^^^ aes256 key (gcmCounter iv (x.2 + 2)))).take bs.length

/-- The tag over additional data and ciphertext, with the GHASH subkey h. -/
def gcmTag (key : BitVec 256) (h : Block) (iv aad cipher : List Byte) : Block :=
  let lens : Block := BitVec.ofNat 128 (8 * aad.length * 2 ^ 64 + 8 * cipher.length)
  ghash h (blocksOfBytes aad ++ blocksOfBytes cipher ++ [lens]) ^^^ aes256 key (gcmCounter iv 1)

/-! ### CMAC (NIST SP 800-38B) and the derivation of keys (NIST SP 800-108, R291) -/

def cmacDouble (b : Block) : Block := (b <<< 1) ^^^ (if b.getLsbD 127 then 0x87 else 0)

/-- AES-256-CMAC of a message. -/
def cmac (key : BitVec 256) (msg : List Byte) : Block :=
  let k1 := cmacDouble (aes256 key 0)
  let n := max 1 (cdiv msg.length 16)
  let last := msg.drop (16 * (n - 1))
  let full := last.length == 16
  let final := if full then BitVec.ofNat 128 (natBE last) ^^^ k1
               else BitVec.ofNat 128 (natBE (last ++ [0x80] ++ List.replicate (15 - last.length) 0)) ^^^ cmacDouble k1
  aes256 key (((blocksOfBytes (msg.take (16 * (n - 1)))).foldl (fun y x => aes256 key (y ^^^ x)) 0) ^^^ final)

end Sys2Proof
end

