-- ==== Sys2Proof/Machine/P384.lean ====
section
/-! DEFINITION. The curve P-384 (NIST SP 800-186), ECDH's shared x coordinate and ECDSA over a digest (FIPS 186-5), as the vault's P-384
unit computes them (R168, R427, R429). A point or a signature is two numbers of 48 bytes, the first in the high half (R168). -/

namespace Sys2Proof

def p384P : Nat := 2 ^ 384 - 2 ^ 128 - 2 ^ 96 + 2 ^ 32 - 1
def p384N : Nat := 0xffffffffffffffffffffffffffffffffffffffffffffffffc7634d81f4372ddf581a0db248b0a77aecec196accc52973
def p384B : Nat := 0xb3312fa7e23ee7e4988e056be3f82d19181d9c6efe8141120314088f5013875ac656398d8a2ed19d2a85c8edd3ec2aef
def p384Gx : Nat := 0xaa87ca22be8b05378eb1c71ef320ad746e1d3b628ba79b9859f741e082542a385502f25dbf55296c3a545e3872760ab7
def p384Gy : Nat := 0x3617de4a96262c6f5d9e98bf9292dc29f8f41dbd289a147ce9da3113b5f0b8c00a60b1ce1d7e819d7a431d7c90ea0e5f

/-- a - b modulo the field's prime, of reduced numbers. -/
def fieldSub (a b : Nat) : Nat := (a + p384P - b) % p384P

/-- A power modulo m, by the exponent's 384 bits from the highest. -/
def powMod (m a e : Nat) : Nat :=
  (List.range 384).foldl (fun r i => let r2 := r * r % m
    if e.testBit (383 - i) then r2 * a % m else r2) 1
/-- The inverse modulo a prime. -/
def invMod (m a : Nat) : Nat := powMod m (a % m) (m - 2)

/-- A point in Jacobian coordinates; z = 0 is the point at infinity. -/
structure JPoint where
  x : Nat
  y : Nat
  z : Nat
  deriving DecidableEq, Repr

def jInf : JPoint := { x := 1, y := 1, z := 0 }

def jDouble (a : JPoint) : JPoint :=
  let m := p384P
  let y2 := a.y * a.y % m
  let s := 4 * a.x * y2 % m
  let z2 := a.z * a.z % m
  let w := (3 * a.x * a.x + (m - 3) * (z2 * z2 % m)) % m
  let x := fieldSub (w * w % m) (2 * s % m)
  { x := x, y := fieldSub (w * fieldSub s x % m) (8 * (y2 * y2 % m) % m), z := 2 * a.y * a.z % m }

def jAdd (a b : JPoint) : JPoint :=
  let m := p384P
  if a.z = 0 then b
  else if b.z = 0 then a
  else
    let za := a.z * a.z % m
    let zb := b.z * b.z % m
    let u := a.x * zb % m
    let s := a.y * (b.z * zb % m) % m
    let h := fieldSub (b.x * za % m) u
    let r := fieldSub (b.y * (a.z * za % m) % m) s
    if h = 0 then (if r = 0 then jDouble a else jInf)
    else
      let h2 := h * h % m
      let h3 := h * h2 % m
      let v := u * h2 % m
      let x := fieldSub (fieldSub (r * r % m) h3) (2 * v % m)
      { x := x, y := fieldSub (r * fieldSub v x % m) (s * h3 % m), z := h * (a.z * b.z % m) % m }

/-- e times a point. -/
def jMul (e : Nat) (a : JPoint) : JPoint :=
  (List.range 384).foldl (fun r i => let r2 := jDouble r
    if e.testBit (383 - i) then jAdd r2 a else r2) jInf

/-- The affine coordinates of a point that is not at infinity. -/
def JPoint.affine (a : JPoint) : Nat × Nat :=
  let i := invMod p384P a.z
  let i2 := i * i % p384P
  (a.x * i2 % p384P, a.y * (i2 * i % p384P) % p384P)

def jBase : JPoint := { x := p384Gx, y := p384Gy, z := 1 }
/-- A point as it is transmitted: x, then y. -/
def jOfWire (q : BitVec 768) : JPoint := { x := q.toNat / 2 ^ 384, y := q.toNat % 2 ^ 384, z := 1 }
def wireOf (x y : Nat) : BitVec 768 := BitVec.ofNat 768 (x * 2 ^ 384 + y)

/-- The point lies on the curve. -/
def onCurve (q : BitVec 768) : Bool :=
  let x := q.toNat / 2 ^ 384
  let y := q.toNat % 2 ^ 384
  decide (x < p384P ∧ y < p384P) && y * y % p384P == (x * x * x + (p384P - 3) * x + p384B) % p384P

/-- The public key of a private one. -/
def p384Public (e : Nat) : BitVec 768 :=
  let a := (jMul e jBase).affine
  wireOf a.1 a.2

/-- The x coordinate of the shared point (ECDH). -/
def p384Ecdh (e : Nat) (q : BitVec 768) : BitVec 384 := BitVec.ofNat 384 (jMul e (jOfWire q)).affine.1

/-- The ECDSA signature of a digest by private key e, with the secret number k. -/
def p384Sign (e k : Nat) (h : BitVec 384) : BitVec 768 :=
  let r := (jMul k jBase).affine.1 % p384N
  wireOf r (invMod p384N k * (h.toNat + r * e) % p384N)

/-- The ECDSA verification of a signature over a digest. -/
def p384Verify (q : BitVec 768) (h : BitVec 384) (sig : BitVec 768) : Bool :=
  let r := sig.toNat / 2 ^ 384
  let s := sig.toNat % 2 ^ 384
  let w := invMod p384N s
  let a := jAdd (jMul (h.toNat * w % p384N) jBase) (jMul (r * w % p384N) (jOfWire q))
  onCurve q && decide (0 < r ∧ r < p384N ∧ 0 < s ∧ s < p384N) && a.z != 0 && a.affine.1 % p384N == r

end Sys2Proof
end

