-- ==== Sys2Proof/Machine/Labels.lean ====
section
/-! DEFINITION. Keys, IVs, additional data and tags (R286, R291, R305, Tables 10.1 and 10.3), and the blocks of a parcel. -/

namespace Sys2Proof

/-- The derivation context (Table 10.3): purpose, direction, local tree index, AID, epoch serial, FC_ASSIGN. -/
def kdfContext (purpose direction tree aid serial fcAssign : Nat) : List Byte :=
  bytesBE 1 purpose ++ bytesBE 1 direction ++ bytesBE 1 tree ++ bytesBE 3 aid ++ bytesBE 4 serial ++ bytesBE 8 fcAssign

/-- The i-th input of the PRF for an output of len bits (R291): [i] ‖ "NLD-KEY" ‖ 0x00 ‖ context ‖ [len]. -/
def kdfInput (i len : Nat) (context : List Byte) : List Byte :=
  bytesBE 1 i ++ [0x4E, 0x4C, 0x44, 0x2D, 0x4B, 0x45, 0x59, 0x00] ++ context ++ bytesBE 2 len

/-- The inputs of a derivation, one for each 128 bits: 256 bits for a parcel key, 384 for a notice key and its salt. -/
def parcelKdf (dir : Dir) (tree aid serial fcAssign : Nat) : List (List Byte) :=
  (List.range 2).map fun i => kdfInput (i + 1) 256 (kdfContext 1 dir.num tree aid serial fcAssign)
def noticeKdf (dir : Dir) (tree fcAssign : Nat) : List (List Byte) :=
  (List.range 3).map fun i => kdfInput (i + 1) 384 (kdfContext 2 dir.num tree 0 0 fcAssign)

/-- The IV of a parcel: the direction's salt, then the packet number (Table 10.1). -/
def parcelIv (salt : BitVec 32) (pn : Nat) : List Byte := bytesBE 4 salt.toNat ++ bytesBE 8 pn

/-- The additional data of a parcel: bits [127:16] of its header, then the tree ID. -/
def parcelAad (hdr : Block) (treeId : Nat) : List Byte := bytesBE 14 (hdr.toNat / 2 ^ 16) ++ bytesBE 4 treeId

/-- The IV of a notice or an answer: the notice salt, the high word of the frame count, NSEQ or ASEQ (R305). -/
def noticeIv (salt fcHi nseq : Nat) : List Byte := bytesBE 4 salt ++ bytesBE 4 fcHi ++ bytesBE 4 nseq

/-- The additional data of a notice or an answer: bits [127:16] of its header, its body blocks, the tree ID. -/
def noticeAad (hdr : Block) (body : List Block) (treeId : Nat) : List Byte :=
  bytesBE 14 (hdr.toNat / 2 ^ 16) ++ body.flatMap (fun b => bytesBE 16 b.toNat) ++ bytesBE 4 treeId

/-- The bytes of blocks, in transmission order. -/
def blockBytes (bs : List Block) : List Byte := bs.flatMap fun b => bytesBE 16 b.toNat

/-- The output of a derivation (R291): the CMACs of its inputs under the root key, one after the other. -/
def deriveBits (root : Nat) (inputs : List (List Byte)) : Nat :=
  inputs.foldl (fun v x => v * 2 ^ 128 + (cmac (BitVec.ofNat 256 root) x).toNat) 0

/-- A key as the cache holds it (R294). -/
def CellKey.of (key : BitVec 256) : CellKey := { key := key, sub := aes256 key 0 }

/-- A parcel key; a notice key with its salt, bits [383:128] and [127:96] of 384 (R291). -/
def parcelKey (root : Nat) (dir : Dir) (tree aid serial fcAssign : Nat) : CellKey :=
  .of (BitVec.ofNat 256 (deriveBits root (parcelKdf dir tree aid serial fcAssign)))
def noticeKey (root : Nat) (dir : Dir) (tree fcAssign : Nat) : NoticeKey :=
  let v := deriveBits root (noticeKdf dir tree fcAssign)
  { cell := .of (BitVec.ofNat 256 (v / 2 ^ 128)), salt := v / 2 ^ 96 % 2 ^ 32 }

/-- The tag of a notice or an answer (R305): GMAC, GCM with an empty plaintext. -/
def noticeTag (x : NoticeKey) (fcHi nseq : Nat) (hdr : Block) (body : List Block) (treeId : Nat) : Block :=
  gcmTag x.cell.key x.cell.sub (noticeIv x.salt fcHi nseq) (noticeAad hdr body treeId) []

/-- The header of a parcel (Table 3.8). -/
def parcelHeader (aid : Word) (length cls epoch seq : Nat) (eps : Bool) : Block :=
  withChk (put 128 120 (0x78 : BitVec 8) ||| put 128 100 aid ||| put 128 86 (BitVec.ofNat 14 length) ||| put 128 83 (BitVec.ofNat 3 cls) |||
    put 128 81 (BitVec.ofNat 2 epoch) ||| put 128 65 (BitVec.ofNat 16 seq) ||| put 128 64 (b1 eps))

/-- Fields of a parcel header (Table 3.8). -/
def hdrAid (h : Block) : Nat := (fld 20 100 h).toNat
def hdrLength (h : Block) : Nat := (fld 14 86 h).toNat
def hdrClass (h : Block) : Nat := (fld 3 83 h).toNat
def hdrEpoch (h : Block) : Nat := (fld 2 81 h).toNat
def hdrSeq (h : Block) : Nat := (fld 16 65 h).toNat

/-- The blocks of a parcel (R96, R97, R286, Table 10.1): its header, the ciphertext, the tag. -/
def sealedParcel (x : CellKey) (salt : BitVec 32) (pn : Nat) (hdr : Block) (treeId : Nat) (bytes : List Byte) : List (Bool × Block) :=
  let cipher := gcmStream x.key (parcelIv salt pn) bytes
  (true, hdr) :: (blocksOfBytes cipher).map (fun b => (false, b)) ++ [(false, gcmTag x.key x.sub (parcelIv salt pn) (parcelAad hdr treeId) cipher)]

/-- The frame that a parcel's data blocks hold, of LENGTH len, if its tag verifies (R286, R297). -/
def openParcel (x : CellKey) (salt : BitVec 32) (pn : Nat) (hdr : Block) (treeId len : Nat) (data : List Block) : Option (List Byte) :=
  let cipher := (blockBytes (data.take (cdiv len 16))).take len
  if gcmTag x.key x.sub (parcelIv salt pn) (parcelAad hdr treeId) cipher = data.getD (cdiv len 16) 0 then
    some (gcmStream x.key (parcelIv salt pn) cipher)
  else none

end Sys2Proof
end

