-- ==== Sys2Proof/Machine/Operands.lean ====
section
/-! DEFINITION. Parameters, checks and answers of the mailbox commands (R401 to R405). -/

namespace Sys2Proof

/-- Parameter dword i as a native word: bits [31:20] are ignored (R8). -/
def Req.prm (rq : Req) (i : Nat) : Nat := (rq.params.getD i 0).toNat % 2 ^ 20
/-- Parameter dword i whole. -/
def Req.raw (rq : Req) (i : Nat) : Nat := (rq.params.getD i 0).toNat
/-- A flag, or a bit of a native word. -/
def Req.flag (rq : Req) (i : Nat) : Bool := rq.prm i == 1
def Req.len (rq : Req) : Nat := rq.params.length
/-- A field of two or three native words, most significant first (R402). -/
def Req.wide2 (rq : Req) (i : Nat) : Nat := rq.prm i * 2 ^ 20 + rq.prm (i + 1)
def Req.wide3 (rq : Req) (i : Nat) : Nat := rq.wide2 i * 2 ^ 20 + rq.prm (i + 2)
/-- A field of n native words. -/
def Req.wideN (rq : Req) (i n : Nat) : Nat := (List.range n).foldl (fun a j => a * 2 ^ 20 + rq.prm (i + j)) 0
/-- A host buffer address (R402). -/
def Req.addr (rq : Req) (i : Nat) : Nat := rq.raw i + rq.raw (i + 1) * 2 ^ 32
/-- Bits [lo + w - 1 : lo] of native word i. -/
def Req.bits (rq : Req) (i w lo : Nat) : Nat := rq.prm i / 2 ^ lo % 2 ^ w
def Req.bit (rq : Req) (i lo : Nat) : Bool := rq.bits i 1 lo == 1
/-- The native words of the request from dword i, n of them. -/
def Req.words (rq : Req) (i n : Nat) : List Word := (List.range n).map fun j => BitVec.ofNat 20 (rq.prm (i + j))
/-- What host buffer i of the command holds. -/
def Req.hostBuf (rq : Req) (i : Nat) : List Dword := rq.host.getD i []

/-- Two's complement of a w-bit field. -/
def signedOf (w v : Nat) : Int := if v < 2 ^ (w - 1) then v else (v : Int) - 2 ^ w
/-- The w-bit two's complement pattern of a number. -/
def unsignedOf (w : Nat) (v : Int) : Nat := (v % 2 ^ w).toNat
/-- Saturate to a signed w-bit range. -/
def satSigned (w : Nat) (v : Int) : Int := max (-(2 ^ (w - 1))) (min (2 ^ (w - 1) - 1) v)

/-- A field of w bits as result dwords: native words, most significant first (R402). -/
def resWide (w v : Nat) : List Dword :=
  let n := cdiv w 20
  (List.range n).map fun i => BitVec.ofNat 32 (v / 2 ^ (20 * (n - 1 - i)) % 2 ^ 20)

/-- A list of native words as dwords. -/
def resWords (ws : List Word) : List Dword := ws.map (·.setWidth 32)
/-- A host address as two dwords. -/
def resAddr (a : Nat) : List Dword := [BitVec.ofNat 32 a, BitVec.ofNat 32 (a / 2 ^ 32)]

/-! ### Checks in the order of R404 -/

/-- A check that fails carries the response it decides. -/
abbrev Check := Option Resp

def failIf (b : Bool) (code : Code) (detail : Nat := 0) : Check := if b then some { code := code, detail := detail } else none

/-- 2: the parameter length. -/
def chkLen (rq : Req) (n : Nat) : Check := failIf (rq.len != n) .length
def chkLenIf (ok : Bool) : Check := failIf (!ok) .length

/-- The mailbox's channel is halted and the command needs host memory (R420). -/
def chkDma (rq : Req) (d : Dev) : Check := failIf (d.dmaHalted rq.mb.val) .dmaError rq.mb.val

/-- 3: readiness. Each entry lists functions of which one must be ready; a number above 42 comes from a parameter that is out
of range, which a later check answers. -/
def chkReady (d : Dev) (needs : List (List Nat)) : Check :=
  let bad := needs.filter fun g => g.all fun f => decide (f ≤ 42) && !d.isReady f
  match (bad.map fun g => g.foldl min 255).foldl min 255 with
  | 255 => none
  | f => some { code := .notReady, detail := f }

def fnTime : Nat := 1
def fnVault : Nat := 2
def fnMem (n : Nat) : Nat := 3 + n
def fnDs (n : Nat) : Nat := 11 + 2 * n
def fnUs (n : Nat) : Nat := 12 + 2 * n
def fnDir (n : Nat) (dir : Dir) : Nat := 11 + 2 * n + dir.num
def fnPort (p : Nat) : Nat := 27 + p
/-- A direction of slice n; of a slice that does not exist, no function. -/
def needSlice (n : Nat) : List Nat := if n < 8 then [fnDs n, fnUs n] else [99]
/-- A direction of some slice (the commands that name none). -/
def needPortOf (k : Nat) : List Nat := if k < 64 then [fnPort (portOfTree k)] else [99]

/-- 4: dword i must lie between lo and hi, both included. -/
def chkRange (rq : Req) (l : List (Nat × Nat × Nat)) : Check :=
  match l.find? fun (i, lo, hi) => decide (rq.prm i < lo ∨ hi < rq.prm i) with
  | some (i, _, _) => some { code := .range, detail := i }
  | none => none

/-- The first failing check decides. -/
def firstFail : List Check → Check
  | [] => none
  | some r :: _ => some r
  | none :: cs => firstFail cs

/-- A command: its checks, then its one final step. A refused command changes nothing (R404, R405). -/
def withChecks (cs : List Check) (d : Dev) (k : Resp × Dev) : Resp × Dev :=
  match firstFail cs with
  | some r => (r, d)
  | none => k

/-- Done, with results. -/
def okWith (d : Dev) (rs : List Dword) : Resp × Dev := ({ results := rs }, d)
def okDone (d : Dev) : Resp × Dev := ({}, d)

abbrev Cmd := Req → Dev → Resp × Dev

/-- Record accepted ASYNC work (R406). -/
def Dev.addJob (rq : Req) (opcode : Nat) (d : Dev) : Dev :=
  let j : Job := { mb := rq.mb.val, tag := rq.tag, opcode := opcode, params := rq.params.map (·.toNat), host := rq.host }
  d.modHost fun h => { h with jobs := h.jobs ++ [j] }

/-- The work of job j ends: its completion event (R406). -/
def Dev.endJob (j : Job) (c : Code) (d : Dev) : Dev :=
  (d.modHost fun h => { h with jobs := h.jobs.erase j }).raise (128 + j.mb) 0x0E 1 j.mb [j.tag.toNat, j.opcode, c.num]

/-- Write to a host buffer that mailbox m's command names, on its channel (Table 14.1). -/
def Dev.hostWrite (m addr : Nat) (ws : List Dword) (d : Dev) : Dev := d.out (.dma m addr ws)

/-- Write the response of a command, or stay busy until the work that it began ends (R399). -/
def Dev.answer (rq : Req) (opcode : Nat) (r : Resp) (d : Dev) : Dev :=
  if r.later then d.modMbox rq.mb.val fun m => { m with busy := true, fetching := none } else d.respond rq.mb.val rq.tag opcode r

/-- A doorbell of mailbox m that is accepted: not busy, function 0 ready (R400). -/
def Dev.doorbellOk (d : Dev) (m : Nat) : Bool := !(d.mbox m).busy && d.isReady 0

def Dev.ignoreDoorbell (m : Nat) (d : Dev) : Dev := d.modMbox m fun x => { x with dbIgnored := true }

/-- Mailbox m's command is copied but not yet executed. -/
def Dev.isHeld (d : Dev) (m : Nat) : Bool := (d.mbox m).fetching.isSome

/-- A doorbell of mailbox m that is accepted and whose command runs at once: none before it is still to be executed (R407). -/
def Dev.runsNow (d : Dev) (m : Nat) : Bool := d.doorbellOk m && !d.host.turns.any d.isHeld

/-- Mailbox m's command is copied, to be executed after those before it. One order holds for all commands, whatever they change: R407 asks it of
those that change the same object (DESIGN CHOICE, log entry 135). -/
def Dev.hold (m : Nat) (f : Fetching) (d : Dev) : Dev :=
  (d.modHost fun h => { h with turns := h.turns.filter d.isHeld ++ [m] }).modMbox m fun x => { x with busy := true, fetching := some f }

/-- A whole command through its mailbox: the doorbell is ignored under R400, or the command waits for its turn, or it runs and is answered. -/
def runCmd (opcode : Nat) (c : Cmd) (rq : Req) (d : Dev) : Dev :=
  if !d.doorbellOk rq.mb.val then d.ignoreDoorbell rq.mb.val
  else if !d.runsNow rq.mb.val then
    d.hold rq.mb.val { opcode := opcode, tag := rq.tag, addr := 0, len := rq.params.length, held := some (rq.params, rq.host) }
  else
    let (r, d') := c rq d
    d'.answer rq opcode r

end Sys2Proof
end

