-- ==== Sys2Proof/Machine/Clock.lean ====
section
/-! DEFINITION. What the timebase does to the rest of the block: raising the time-uncertain flag, changing the rate, closing the
windows of R13, stepping, saving and rebuilding across sleep, the latches of a whole second, and time-stamp queues
(12_time.md, R106, R387, R454). -/

namespace Sys2Proof

/-! ### Rate, flag and step (R342, R344, R345) -/

/-- A write of rho at one edge leaves device time at that edge as it was (R342). -/
def TimeSt.setRho (x : TimeSt) (frc : Nat) (r : Int) : TimeSt :=
  { x with rho := r, theta := x.theta + ((frc : Int) * (x.rho - r)) / 2 ^ 48 }

/-- UNCERTAIN is raised with a bound in ns, none being unbounded: the step is armed and an event raised (R345). While TIME is off, the flags
that it will restore are raised too: only a step clears them. -/
def Dev.raiseUncertain (bound : Option Nat) (d : Dev) : Dev :=
  let d := if d.timeOn then d else d.modAo fun a => { a with saved := { a.saved with uncertain := true, armed := true } }
  (d.modTime fun x => { x with uncertain := true, armed := true, errNs := bound }).raise qTime 0x0C 1 0 []

/-- The error bound that reads now: it grows while both REF inputs are lost (Table 12.3). -/
def Dev.errBound (d : Dev) : Option Nat :=
  if d.ao.refUnc && d.ao.refHoldover then
    some (40 + cdiv ((d.now - d.ao.refLostAt) / Config.ns) 1000000)
  else d.time.errNs

/-- A step closes every open window, which keeps the index it had (R346). -/
def Dev.closeWindows (d : Dev) : Dev :=
  let d := (d.latchSecond d.time.second d.devNs).closeRatio d.pwr.ratioWin d.now
  d.forEach (List.range 8) fun n d => d.modObs n fun o => o.bwTo (o.bwWin + 1)

/-- New windows open in the device time after the step, with no latch and no pulse for what it skips (R346). -/
def Dev.openWindows (d : Dev) : Dev :=
  let ns := d.devNs
  let d := d.modTime fun x => { x with second := d.devSec, pulse := d.devSec, offSum := 0, offN := 0 }
  let d := d.forEach (List.range 127) fun p d => d.modDom p fun x => { x with since := ns }
  let d := d.forEach (List.range 8) fun n d => d.modObs n fun o => { o with bwWin := ns / d.bwNs n }
  let d := (d.modPwr fun w => { w with bFrame := ns / 125000, ratioWin := ns / 125000 }).forEach (List.range 8) fun n d =>
    d.modStack n fun m => { m with ceSec := ns / 1000000000, ceNow := [] }
  d.forEach (List.range 8) fun n d => d.closeActivation n (ns / activationNs)

/-- A step of device time by delta linear units (R344, R346). -/
def Dev.stepTime (delta : Int) (d : Dev) : Dev :=
  let d := d.closeWindows
  let d := d.modTime fun x => { x with theta := x.theta + delta, armed := false, uncertain := false, errNs := some 0 }
  let d := (d.modAo fun a => { a with refUnc := false }).openWindows
  (d.bump .stepsMade 0 0).raise qTime 0x0C 2 0 []

/-! ### Across sleep (R352) -/

/-- What the TIME domain saves into AO storage at the edge at which its clock stops; PPS_OUT goes low (R358). -/
def Dev.saveTime (d : Dev) : Dev :=
  let s : SavedTime := { frcNs := d.time.frcNs, coarse := d.ao.coarse, rho := d.time.rho, theta := d.time.theta,
                         armed := d.time.armed, uncertain := d.time.uncertain, source := d.time.source,
                         srcTree := d.time.srcTree }
  let d := if d.time.ppsOut then (d.modTime fun x => { x with ppsOut := false }).out (.pps false) else d
  (d.modTime fun x => { x with todSec := none }).modAo fun a => { a with saved := s }

/-- Every start of the TIME domain after the cold start: the FRC is rebuilt from the coarse counter; UNCERTAIN is raised with
its bound when the AO clock switched source in the interval. -/
def Dev.rebuildTime (d : Dev) : Dev :=
  let s := d.ao.saved
  let n := d.ao.coarse - s.coarse
  let frc := s.frcNs + n * d.ao.period / 2 ^ 32
  let d := d.modTime fun x =>
    { x with frcNs := frc, rho := s.rho, theta := s.theta, armed := s.armed, uncertain := s.uncertain, source := s.source,
             srcTree := s.srcTree, ppsOut := false }
  let d := d.modAo fun a => { a with lastSleep := n, lastFb := s.fbCoarse }
  let d := if s.switched then
    let bound := 40 + cdiv ((n - s.fbCoarse) * 40 + s.fbCoarse * 40 * 20000) 1000000
    d.raiseUncertain (some bound) else d
  d.passWindows

/-- The AO clock changes source (R351, R352, R364). -/
def Dev.aoSwitch (fallback : Bool) (d : Dev) : Dev :=
  let d := d.modAo fun a =>
    { a with fallback := fallback, saved := if d.timeOn then a.saved else { a.saved with switched := true } }
  d.raise qPower 0x0D 1 0 [fallback.toNat]

/-! ### The whole second (R106, R350, R358, R362, R387, R453) -/

/-- An offset of the selected source is measured: the servo averages those of a second (R350). -/
def TimeSt.noteOffset (x : TimeSt) (off : Int) : TimeSt := { x with offSum := x.offSum + off, offN := x.offN + 1 }

/-- The offset of device time at a PPS_IN edge from the nearest whole second, linear (R349). -/
def ppsOffset (stamp : Nat) : Int :=
  let s : Nat := 1000000000 * 65536
  let r := stamp % s
  if 2 * r < s then -(r : Int) else (s : Int) - r

/-- The change of rho that the firmware servo makes at a whole second, from the average offset of the second and of the one before: the spec
gives its limits and loop shape, not its coefficients (R349, R350; log entry 12). In holdover, or with no offset measured, rho is held. -/
def Dev.servo (d : Dev) : Dev :=
  let x := d.time
  if ((x.source == 1 && !x.holdover) || x.source == 2) && x.offN != 0 then
    let mean := x.offSum / (x.offN : Int)
    let want := (Config.servoChange mean x.offPrev).toInt
    let lim : Int := 2814749767
    let change := if x.source == 1 then max (-lim) (min lim want) else want
    d.modTime fun x => { x.setRho d.frcLin (satSigned 40 (x.rho + change)) with offSum := 0, offN := 0, offPrev := mean }
  else d.modTime fun x => { x with offSum := 0, offN := 0 }

/-- PPS_OUT rises at the whole second unless suppressed; the ToD_OUT message of that edge is due (R358, R359). -/
def Dev.ppsRise (d : Dev) : Dev :=
  let d := d.modTime fun x => { x with ppsAt := d.now, todSec := some x.second }
  if d.timeOn && !(d.time.pps.suppress && d.time.uncertain) then
    (d.modTime fun x => { x with ppsOut := true }).out (.pps true)
  else d

/-! ### Frames never sent (R357) -/

/-- A frame with a stamp request that is never sent gets its entry with STATUS 1 when its buffer is freed (R357): in the queue
of the system port for a frame queued there, else in its ring's. -/
def Dev.tsNotSent (f : Frame) (sysPort : Option Nat) (d : Dev) : Dev :=
  match f.ts with
  | none => d
  | some (ring, id) =>
    match sysPort with
    | some p => d.tsSys p id false 0
    | none => d.tsRing ring id false 0

end Sys2Proof
end

