-- ==== Sys2Proof/Machine/Power.lean ====
section
/-! DEFINITION. Power domains: the reservation, the refusers of Tables 13.4 to 13.6, entries and wakes (13_power.md). -/

namespace Sys2Proof

def treesOf (n : Nat) : List Nat := (List.range 8).map (8 * n + ·)
def treesOfPort (p : Nat) : List Nat := (List.range 4).map (4 * p + ·)

/-- The domain of the half that is not active (R379). -/
def Dev.idleHalf (d : Dev) : Nat := 3 - d.host.fw.activeHalf

/-- Slice n holds a class-0 reservation: a valid queue of class 0 and KIND 0 or 1 (R371). -/
def Dev.class0Res (d : Dev) (n : Nat) : Bool :=
  (d.slice n).buf.queues.any fun e => e.2.cfg.valid && e.2.cfg.cls == 0 && decide (e.2.cfg.kind ≤ 1)

/-- The start instant of a Pitch on tree k (R31, R128): the reference is the arrival of its own frame's start plus 8 CWT plus
EqD, plus START codewords. A frame to come lies as many of the recovered clock's frame lengths ahead, one before the latest where its
start arrived (log entry 13). -/
def Dev.frameStart (d : Dev) (k frame : Nat) : Ticks :=
  let f := (d.tree k).fr
  if f.fc ≤ frame then f.refArr + (frame - f.fc) * f.refInt
  else f.refPast.getD (f.fc - frame - 1) (f.refArr - (f.fc - frame) * f.refInt)

/-- The value of a list that holds for a frame: the last whose frame has come, else the one in force (R129). -/
def eqdOf (cur : Nat) (xs : List (Nat × Option Nat)) (frame : Nat) : Nat :=
  xs.foldl (fun v x => match x.2 with | some n => if n ≤ frame then x.1 else v | none => v) cur

/-- The EqD that holds for a frame (R129, R162): of a ranging Pitch, the ranging EqD if there is one. -/
def Tree.eqdFor (x : Tree) (frame : Nat) (ranging : Bool) : Nat :=
  let main := eqdOf x.eqd.cur x.eqd.next frame
  if ranging then eqdOf (x.eqd.rangeCur.getD main) x.eqd.rangeNext frame else main

/-- The ROUND that goes with the ranging EqD of a frame (R162). -/
def Tree.roundFor (x : Tree) (frame : Nat) : Nat := eqdOf x.eqd.roundCur x.eqd.roundNext frame

/-- The flags of a Pitch (Table 4.1): RPT 16, RNG 8, KSW 4, ESA 2, STD 1. -/
def Pitch.rpt (p : Pitch) : Bool := p.flags / 16 % 2 == 1
def Pitch.rng (p : Pitch) : Bool := p.flags / 8 % 2 == 1
def Pitch.ksw (p : Pitch) : Bool := p.flags / 4 % 2 == 1
def Pitch.esa (p : Pitch) : Bool := p.flags / 2 % 2 == 1
def Pitch.std (p : Pitch) : Bool := p.flags % 2 == 1
def Pitch.lead (p : Pitch) : Nat := p.tonUi + Config.preambleUi (BitVec.ofNat 4 p.preamble) + 256
/-- C of R120. -/
def Pitch.codewords (p : Pitch) : Nat := (p.length * 2700 - (p.lead + p.toffUi)) / 2700
def Pitch.reserved (p : Pitch) : Bool := Config.aidReserved p.aid
/-- The burst carries answers and has one codeword (R127, R152). -/
def Pitch.answering (p : Pitch) : Bool := p.reserved || p.rng
/-- UI from S to the end of the last codeword (Table 4.9). -/
def Pitch.burstUi (p : Pitch) : Nat := p.lead + 2700 * (if p.answering then 1 else p.codewords)
/-- The instant at which the laser-off lag of a committed burst ends (Table 4.4). -/
def Pitch.laserOff (p : Pitch) : Ticks := p.fixedS.getD 0 + (p.burstUi + p.toffUi) * Config.ui
/-- A Pitch of the ranging form (R154). -/
def Pitch.ranging (p : Pitch) : Bool := p.rng || p.aid == Config.aidRanging

/-- S of a Pitch: fixed at commit, before that from the reference and the EqD as they stand (R31, R129, R136). -/
def Dev.pitchS (d : Dev) (k : Nat) (p : Pitch) : Ticks :=
  p.fixedS.getD (d.frameStart k p.frame + 8 * Config.cwt + (d.tree k).eqdFor p.frame p.ranging * Config.ui + p.start * Config.cwt)

/-- The commit instant lies 1,200 ns before S (R136). -/
def commitLead : Ticks := 1200 * Config.ns

/-- The used Pitches of the trees of a port whose bursts are still to come, with their starts (R109, R374): one that is skipped has none
(R127). -/
def Dev.portPitches (d : Dev) (p : Nat) : List Ticks :=
  (treesOfPort p).flatMap fun k => ((d.tree k).pitches.filter fun x => Nat.ble x.phase 1).map (d.pitchS k)

/-- A used Pitch of some trees is held (R113, R372). -/
def Dev.pitchHeld (d : Dev) (ks : List Nat) : Bool := ks.any fun k => (d.tree k).pitches.any fun x => x.phase != 5

/-- Trees with the other members of their pairs. -/
def Dev.withPairs (d : Dev) (ks : List Nat) : List Nat := ks ++ ks.filterMap fun k => (d.tree k).cfg.pair

/-- The line-port transmit domains that a held Pitch of tree k keeps out of off: its own, and that of the other member of its pair (R374,
R472). -/
def Dev.pairLtx (d : Dev) (k : Nat) : List Nat :=
  let p := pdLtx (portOfTree k)
  match (d.tree k).cfg.pair with
  | none => [p]
  | some o => if portOfTree o = portOfTree k then [p] else [p, pdLtx (portOfTree o)]

/-- A pattern or a near-end loopback runs on lane l: it carries no traffic (R56 to R58). -/
def Dev.patternTest (d : Dev) (l : Nat) : Bool := (d.txLane l).pattern != 0 || (d.rxLane l).loopback

/-- A lane test of R67 runs on lane l: an eye scan, a pattern or a near-end loopback. -/
def Dev.laneTest (d : Dev) (l : Nat) : Bool := ((d.scans.get none l).map (·.running)).getD false || d.patternTest l

def Dev.portTest (d : Dev) (p : Nat) : Bool := (List.range 16).any fun i => d.laneTest (16 * p + i)
def Dev.groupTest (d : Dev) (g : Nat) : Bool := (List.range 16).any fun i => d.laneTest (256 + 16 * g + i)

/-- A configured tree slot on port p; an enabled system port in group g or in slice n. -/
def Dev.portHasTree (d : Dev) (p : Nat) : Bool := (treesOfPort p).any fun k => (d.tree k).cfg.configured
def Dev.groupEnabled (d : Dev) (g : Nat) : Bool := (List.range 16).any fun i => (d.sysPort (16 * g + i)).enabled
def Dev.sliceEnabled (d : Dev) (n : Nat) : Bool := (List.range 32).any fun i => (d.sysPort (32 * n + i)).enabled

/-- Work in progress on the tables of slice n: shadow compare, sweep, age pass (refuser 0x0C). -/
def Dev.tablesWork (d : Dev) (n : Nat) : Bool :=
  let s := d.slice n
  s.tab.shadow.running || s.tab.agePass || s.buf.sweeping

/-- Work in progress on stack n: scrub, migration. -/
def Dev.memWork (d : Dev) (n : Nat) : Bool := (d.stack n).mig.isSome || (d.stack n).scrub.isSome

def Dev.derivFor (d : Dev) (n : Nat) (dir : Dir) : Bool := (d.slice n).key.derivs.any fun x => x.dir = dir

/-- A context of the slice holds the direction with KEYED set (R303). -/
def Dev.keysResident (d : Dev) (n : Nat) (dir : Dir) : Bool :=
  (d.slice n).key.ctx.any fun e => e.2.bound && e.2.keyed && (match dir with | .down => e.2.ds | .up => e.2.us)

def Dev.pipeState (d : Dev) (n : Nat) (dir : Dir) : Nat := (d.dom (pdPipe n dir)).st

/-- The open, uncommitted assemblies of the slice's trees. -/
def Dev.openPitches (d : Dev) (n : Nat) : List (Nat × Pitch) :=
  (treesOf n).flatMap fun k => ((d.tree k).pitches.filter fun x => x.phase == 0 && x.opened).map fun x => (k, x)

def ifRef (b : Bool) (code : Nat) : List Nat := if b then [code] else []

/-- A request to the vault is outstanding: an SPDM request of a channel or a share being prepared. -/
def Dev.vaultBusy (d : Dev) : Bool :=
  d.vault.doeBusy || d.trees.any fun e => e.2.ex.reqReady.isSome || e.2.ex.kexShare.isSome

/-- Retention of a domain is refused by these owners (Tables 13.4 and 13.6). -/
def Dev.retRefusers (d : Dev) (p : Nat) : List Nat :=
  if p = 0 then [0x11]
  else if p = 1 then [0x0E]
  else if p < 4 then ifRef (p == 2 + d.host.fw.activeHalf) 0x0A ++ ifRef (d.host.fw.update != 0) 0x12
  else if p = 4 then [0x13]
  else if p = 5 then ifRef d.vaultBusy 0x0C ++ ifRef (d.host.fw.update != 0) 0x12
  else if p = 6 then [0x11]
  else if p < 55 then
    let n := (p - 7) / 6
    match (p - 7) % 6 with
    | 2 => ifRef (d.class0Res n) 1 ++ ifRef (d.derivFor n .down) 3
    | 3 => ifRef (d.derivFor n .up) 3
    | 4 => ifRef ((d.openPitches n).any fun (k, x) => decide (d.pitchS k x < d.now + commitLead + 2 * Config.us)) 2
    | 5 => ifRef (d.pipeState n .down == 0 || d.pipeState n .up == 0) 0x0B ++ ifRef (d.tablesWork n) 0x0C
    | _ => []
  else if p < 63 then ifRef (d.class0Res (p - 55)) 1 ++ ifRef (d.memWork (p - 55)) 0x0C
  else if p < 79 then
    let gap := max 15 (d.pwr.seq.get {} ((p - 63) / 2)).ltxGap
    ifRef ((d.portPitches (p - 63)).any fun s => decide (s < d.now + gap * 10 * Config.ns)) 2 ++ ifRef (d.portTest (p - 63)) 6
  else if p < 95 then
    ifRef (d.class0Res ((p - 79) / 2)) 1 ++ ifRef (d.portTest (p - 79)) 6 ++ ifRef (d.portHasTree (p - 79)) 7
  else
    let g := (p - 95) % 16
    ifRef (d.class0Res (g / 2)) 1 ++ ifRef (d.groupTest g) 6 ++ ifRef (d.groupEnabled g) 8

/-- Off is refused by these owners (Tables 13.4 and 13.6). The held Pitches of either member of a pair keep the transmitters of both out of off
(R472). -/
def Dev.offRefusers (d : Dev) (p : Nat) : List Nat :=
  if p = 1 then
    ifRef ((List.range 64).any fun i => (d.dom (63 + i)).st != 2) 0x0B ++ ifRef (d.time.source == 2) 0x0E
  else if p = 5 then
    ifRef ((List.range 8).any d.class0Res) 1 ++
    ifRef ((List.range 64).any fun k => (d.vault.roots.get {} k).held || (d.vault.kex.get {} k).active) 4 ++
    ifRef (d.host.fw.update != 0) 0x12
  else if p = 6 then ifRef ((List.range 127).any fun q => q != 0 && q != 6 && (d.dom q).st != 2) 0x0B
  else if p < 7 then d.retRefusers p
  else if p < 55 then
    let n := (p - 7) / 6
    let c0 := d.class0Res n
    let anyBuf := !(d.slice n).buf.bufs.isEmpty
    match (p - 7) % 6 with
    | 0 => ifRef c0 1 ++ ifRef ((treesOf n).any fun k => (d.tree k).allocs.any fun e => e.2.ds) 0x14
    | 1 => ifRef c0 1 ++ ifRef (d.sliceEnabled n) 8
    | 2 => ifRef c0 1 ++ ifRef (d.keysResident n .down) 4
    | 3 => ifRef c0 1 ++ ifRef (d.keysResident n .up) 4
    | 4 => ifRef c0 1 ++ ifRef ((d.slice n).buf.bufs.any fun e => e.2.frame.dir = .up) 5 ++ ifRef (d.pitchHeld (treesOf n)) 0x0D
    | _ => ifRef c0 1 ++ ifRef anyBuf 5 ++ ifRef (d.pipeState n .down != 2 || d.pipeState n .up != 2) 0x0B
  else if p < 63 then
    let n := p - 55
    ifRef (d.class0Res n) 1 ++ ifRef (!(d.slice n).buf.bufs.isEmpty) 5 ++ ifRef ((d.dom (pdTables n)).st == 2) 9 ++
      ifRef d.host.fw.running 0x0A ++ ifRef (d.memWork n) 0x0C
  else if p < 79 then
    ifRef (d.class0Res ((p - 63) / 2)) 1 ++ ifRef (d.pitchHeld (d.withPairs (treesOfPort (p - 63)))) 2 ++ ifRef (d.portTest (p - 63)) 6
  else d.retRefusers p

/-- The owners that refuse the entry of domain p to target 1, retention, or 2, off; policy adds 0x0F (R372, R380). -/
def Dev.refusers (d : Dev) (p target : Nat) (host : Bool) : List Nat :=
  let base := if target = 1 then d.retRefusers p else d.offRefusers p
  let pol := (d.dom p).policy
  base ++ ifRef (!host && (pol == 1 || (pol == 2 && target == 2))) 0x0F

/-- A refused entry is counted under every refuser; LAST_REFUSER takes the lowest code (R369). -/
def Dev.refuse (p : Nat) (rs : List Nat) (d : Dev) : Dev :=
  let d := rs.foldl (fun d r => d.bump .pdRefused p r) d
  d.modDom p fun x => { x with lastRef := rs.foldl min 255 }

/-- Queue state that does not outlive TABLES: positions, descriptors and scheduler counts (R377). -/
def Queue.restart (q : Queue) : Queue := { cfg := q.cfg, quantum := q.quantum, awning := q.awning }

/-- A direction's pipelines restart with its dispatcher and reorder buffer; the backlogs and the ingress writer lie in the receive domains
(R366). -/
def Dispatch.restart (x : Dispatch) : Dispatch := { prio := x.prio, normal := x.normal, wrPort := x.wrPort }
/-- The backlogs of some ports restart empty. -/
def Dispatch.without (x : Dispatch) (f : Nat → Bool) : Dispatch :=
  { x with prio := x.prio.filter fun w => !f w.port, normal := x.normal.filter fun w => !f w.port }

/-- Every line-port TX domain is off. -/
def Dev.linesOff (d : Dev) : Bool := (List.range 16).all fun p => (d.dom (pdLtx p)).st == 2

/-- A TAP instruction as the lock lets it be executed (R436): otherwise BYPASS is selected. -/
def Dev.tapAllowed (d : Dev) (i : TapInstr) : TapInstr :=
  match i with
  | .bypass | .idcode | .samplePreload => i
  | .extest => if d.linesOff then .extest else .bypass
  | .other _ => if d.vault.locked then .bypass else i

/-- The instruction that the TAP executes now (R436): EXTEST no longer once a line-port TX domain has left off. -/
def Dev.tapNow (d : Dev) : TapInstr := d.tapAllowed d.vault.tap

/-- The label "NLD-IDENT" (R427). -/
def identLabel : List Byte := [0x4E, 0x4C, 0x44, 0x2D, 0x49, 0x44, 0x45, 0x4E, 0x54]

/-- The vault starts (R427): it derives the identity key from the device-unique secret; no channel has a state. -/
def Vault.start (v : Vault) : Vault :=
  { v with identity := some (Config.identityKey v.fuses.secret identLabel), starting := true, spdm := [], doeBusy := false, doeReq := [], sign := {}, snap := [] }

/-- 12 GiB, the size of a rank (R309, R311). -/
def rankBytes : Nat := 0x300000000

/-- The physical rank that holds logical rank L, and whether L is in service (R309, R336). -/
def RankMap.phys (m : RankMap) (l : Nat) : Nat := if l = 0 then m.l0 else if l = 1 then m.l1 else m.l2
def RankMap.inService (m : RankMap) (l : Nat) : Bool := m.active.testBit l

/-- The logical ranks in service that hold the control regions, that of copy A first; without one, the rank of copy A, which then fails (R313,
R332). -/
def RankMap.copies (m : RankMap) : List Nat :=
  let ls := [m.ctrlA, m.ctrlB].filter m.inService
  if ls.isEmpty then [m.ctrlA] else ls

/-- A logical address as the place of its word in physical rank phys, all ranks end to end. -/
def physPlace (phys addr : Nat) : Nat := phys * rankBytes + addr % rankBytes

/-- A stack whose domain has just been reset, with its rank map from AO storage (R309, R310, R313, R368). -/
def Stack.start (map : RankMap) (now : Ticks) : Stack :=
  { map := map, oneCopy := !(map.inService map.ctrlA && map.inService map.ctrlB), clkAt := now, lastRq := now }

/-- Words of 32 bytes in the 48 MiB image of TABLES (R377). -/
def imageWords : Nat := 1572864

/-- TABLES writes its image to both copies of the table-image region, or restores it from copy A, through the tables port (R313, R377). A
write clears what poison the region holds (R323). -/
def Dev.imageWritten (n : Nat) (d : Dev) : Dev :=
  let m := (d.stack n).map
  let starts := m.copies.map fun l => physPlace (m.phys l) 0x200000000 / 32
  (d.modStack n fun m => { m with poison := m.poison.filter (fun e => !starts.any fun a => decide (a ≤ e.1 ∧ e.1 < a + imageWords)),
                                  lastRq := d.now }).slotsUsed n 3 (imageWords * m.copies.length) true
def Dev.imageRestored (n : Nat) (d : Dev) : Dev := (d.modStack n fun m => { m with lastRq := d.now }).slotsUsed n 3 imageWords false

/-- A context without its downstream keys: the cache of its direction holds none (R294). -/
def KeyCtx.noRxKeys (x : KeyCtx) : KeyCtx :=
  { x with rx := { x.rx with key := none }, rxOld := x.rxOld.map fun e => { e with key := none }, rxNext := none }

/-- A wake from off starts the domain from its reset values, its wake flag set (R368): TABLES restores its image, MEM keeps the rank
map, TIME rebuilds. A PCI Express reset follows PCIE's off (R394), the CTRL half joins as the idle one, and MGMT, whose off the active CTRL half
always refuses (Table 13.6), holds nothing but the log that only a cold start clears (R463). -/
def Dev.wokenFromOff (p : Nat) (d : Dev) : Dev :=
  if p = 1 then d.rebuildTime
  else if p = 4 then d.modHost fun h => { h with busMaster := false, msix := {} }
  else if p = 5 then d.modVault Vault.start
  else if p < 7 then d
  else if p < 55 then
    let n := (p - 7) / 6
    match (p - 7) % 6 with
    | 0 => d.modSlice n fun s => { s with ds := s.ds.restart }
    | 1 => d.modSlice n fun s => { s with us := s.us.restart }
    | 2 => d.modKey n fun k => { k with ctx := k.ctx.mapV {} fun _ c => c.noRxKeys }
    | 3 => d.modKey n fun k => { k with tx := [] }
    | 4 => d.modSched n fun s => { s with ptrUp := [] }
    | _ => (({ d with ending := d.ending.filter fun o => o.slice != n } : Dev).imageRestored n).modBuf n fun b =>
        { b with bufs := [], cells := [], cyc := [], rot := [], spills := [], reads := [], copies := [],
                 queues := b.queues.mapV {} fun _ q => q.restart }
  else if p < 63 then (d.modStack (p - 55) fun m => Stack.start m.map d.now).modDom p fun x => { x with stopAt := d.now, stood := 0 }
  else if p < 79 then d.forEach (List.range 16) fun i d => d.modTx (16 * (p - 63) + i) fun x => { powered := x.powered }
  else if p < 95 then
    let d := d.modPort (p - 79) fun x => { x with tripSeen := false, trips := 0, lastTrips := [] }
    let d := d.forEach (treesOfPort (p - 79)) fun k d => d.modTree k fun x => { x with il := [] }
    let d := d.modSlice ((p - 79) / 2) fun s => { s with ds := s.ds.without fun k => k / 4 == (p - 79) % 2 }
    d.forEach (List.range 16) fun i d =>
    (d.modRx (16 * (p - 79) + i) fun _ => {}).modAlign (16 * (p - 79) + i) fun a => { pm := a.pm, pmRec := a.pmRec }
  else if p < 111 then d.forEach (List.range 16) fun i d => d.modTx (256 + 16 * (p - 95) + i) fun x => { powered := x.powered }
  else (d.modSlice ((p - 111) / 2) fun s => { s with us := s.us.without fun q => q / 16 == (p - 111) % 2 }).forEach (List.range 16) fun i d =>
    d.modRx (256 + 16 * (p - 111) + i) fun _ => {}

/-- Domain p is off, or on its way from there. -/
def Dev.fromOff (d : Dev) (p : Nat) : Bool :=
  (d.dom p).st == 2 || ((d.dom p).st == 3 && (d.dom p).target == 0 && (d.dom p).leftSt == 2)

/-- A cause needs domain p on (R369, R381): it wakes, and from off it starts anew. -/
def Dev.wakeOne (p cause : Nat) (d : Dev) : Dev :=
  let off := d.fromOff p
  let d := d.wakeNow p cause
  if off then d.wokenFromOff p else d

/-- The domains that may not stay as they are while domain p is on, in the order in which they wake before it (Table 13.6, R370, R377): MGMT,
for a lane domain TIME, for a pipeline TABLES, and for TABLES from off the stack that holds its image. -/
def Dev.wakeFirst (d : Dev) (p : Nat) : List Nat :=
  let n := (p - 7) / 6
  let k := if Nat.ble 7 p && Nat.blt p 55 then (p - 7) % 6 else 9
  let image := if d.fromOff (pdTables n) then [pdMem n] else []
  [6] ++ (if Nat.ble 63 p then [1] else []) ++ (if k < 2 then image ++ [pdTables n] else if k = 5 then image else [])

def Dev.wakeOthers (p cause : Nat) (d : Dev) : Dev :=
  if d.isOn p then d else d.forEach ((d.wakeFirst p).filter fun q => q != p && !d.isOn q) fun q d => d.wakeOne q cause

/-- A cause needs domain p on: what it depends on wakes with it. -/
def Dev.wake (p cause : Nat) (d : Dev) : Dev := (d.wakeOthers p cause).wakeOne p cause

/-- A dependency forbids off: a domain that is there, or on its way there, wakes (R370). -/
def Dev.wakeFromOff (p cause : Nat) (d : Dev) : Dev :=
  if (d.dom p).st == 2 || ((d.dom p).st == 3 && (d.dom p).target == 2) then d.wake p cause else d

/-- Wake several. -/
def Dev.wakeAll (ps : List Nat) (cause : Nat) (d : Dev) : Dev := d.forEach ps fun p d => d.wake p cause

/-- The slice whose TABLES domain p is. -/
def tablesSlice (p : Nat) : Option Nat := if Nat.ble 7 p && Nat.blt p 55 && (p - 7) % 6 == 5 then some ((p - 7) / 6) else none

/-- An entry begins: the account of the old state is closed (R367, R387). The image that TABLES writes on its way to off wakes its stack
(R377, R378). -/
def Dev.beginEntry (p target : Nat) (d : Dev) : Dev :=
  let d := match (if target = 2 then tablesSlice p else none) with
    | some n => d.wake (pdMem n) causeTraffic
    | none => d
  d.setDom p fun x =>
    let y := x.settle d.devNs
    { y with leftSt := y.st, st := 3, target := target }

/-- The states that Table 13.3 allows a domain: 1 retention, 2 off. -/
def stateAllowed (p target : Nat) : Bool :=
  match target with
  | 0 => true
  | 1 => p != 0 && p != 1 && p != 6
  | _ => p != 0

/-- The domain reaches the state it was entering, and the `power_enter` that asked for it is answered; TIME saves what R352 names, TABLES has
written its image (R377). -/
def Dev.endEntry (p : Nat) (d : Dev) : Dev :=
  let d := if p = 1 then d.saveTime else d
  let d := match (if (d.dom p).target = 2 then tablesSlice p else none) with
    | some n => d.imageWritten n
    | none => d
  (d.modDom p fun x =>
    let y := x.settle d.devNs
    { y with st := x.target, target := 0, stopAt := d.now, entries := satInc 1023 y.entries }).entryAnswer p {}

/-- A half goes off. -/
def Dev.halfOff (p : Nat) (d : Dev) : Dev := if (d.dom p).st == 2 then d else (d.beginEntry p 2).endEntry p

/-- The domains that a class-0 reservation of slice n binds (Table 13.4): those that must stay on, those never off. -/
def mustStayOn (n : Nat) : List Nat :=
  [pdCipher n .down, pdMem n, pdLrx (2 * n), pdLrx (2 * n + 1), pdStx (2 * n), pdStx (2 * n + 1), pdSrx (2 * n), pdSrx (2 * n + 1)]
def mustNotBeOff (n : Nat) : List Nat :=
  [pdPipe n .down, pdPipe n .up, pdCipher n .up, pdBarrow n, pdTables n, pdLtx (2 * n), pdLtx (2 * n + 1), 5]

/-- An entry under way to a state that a dependency forbids is aborted under its refuser (R369). -/
def Dev.forbidEntry (p code : Nat) (d : Dev) : Dev := if (d.dom p).st == 3 && (d.dom p).target != 0 then d.abortEntry p code else d

/-- A dependency arises for domains in a state it forbids: entries to it are aborted under the reservation's code, and those that are there wake
at once, off to on, before the command completes (R369, R370). -/
def Dev.enforceReservation (n cause : Nat) (d : Dev) : Dev :=
  let d := d.forEach (mustStayOn n) fun p d => if d.isOn p then d else (d.forbidEntry p 1).wake p cause
  d.forEach (mustNotBeOff n) fun p d => if (d.dom p).target == 2 then d.forbidEntry p 1 else d.wakeFromOff p cause

/-- A command of slice parameter 0 that needs one of its domains: it wakes it and runs once the domain is on (R381). A command that is refused wakes
nothing. -/
def domainCmd (dom : Nat → Nat) (c : Cmd) : Cmd := fun rq d =>
  let (r, e) := c rq (d.wake (dom (rq.prm 0)) causeHost)
  (r, if r.code = .ok ∨ r.code = .async then e else d)
def tablesCmd (c : Cmd) : Cmd := domainCmd pdTables c
def memCmd (c : Cmd) : Cmd := domainCmd pdMem c

end Sys2Proof
end

