-- ==== Sys2Proof/Machine/Time.lean ====
section
/-! DEFINITION. Time: the commands of Table 12.10, the reads and writes of the time page, and what happens to the timebase
(12_time.md). -/

namespace Sys2Proof

/-- The time function must be ready; the domain wakes if it must (R362, R381). -/
def timeChecks (rq : Req) (d : Dev) (n : Nat) : List Check := [chkLen rq n, chkReady d [[fnTime]]]

/-- `time_source_set` (R349): source; local tree index; UTC offset; leap. -/
def cmdTimeSourceSet : Cmd := fun rq d =>
  withChecks (timeChecks rq d 4 ++ [chkRange rq [(0, 0, 2), (1, 0, 63), (2, 0, 65535), (3, 0, 3)]]) d <|
    let d := d.wake pdTime causeHost
    okDone (d.modTime fun x =>
      let x := { x with source := rq.prm 0, srcTree := rq.prm 1, holdover := x.holdover && rq.prm 0 == 1 }
      if rq.prm 0 = 1 then x else { x with utcHost := signedOf 16 (rq.prm 2), leapHost := rq.prm 3 })

/-- `time_rate` (R342, R349): rho, signed 40 bits. -/
def cmdTimeRate : Cmd := fun rq d =>
  withChecks (timeChecks rq d 2 ++ [failIf (d.time.source != 0) .refused 0]) d <|
    let d := d.wake pdTime causeHost
    okDone (d.modTime fun x => x.setRho d.frcLin (signedOf 40 (rq.wide2 0)))

/-- `time_step` (R344, R349): delta, a signed linear value of 96 bits in five dwords. -/
def cmdTimeStep : Cmd := fun rq d =>
  withChecks (timeChecks rq d 5 ++ [chkRange rq [(0, 0, 65535)],
      failIf (d.time.source == 1) .refused 0, failIf (!d.time.armed) .refused 0]) d <|
    let d := d.wake pdTime causeHost
    okDone (d.stepTime (signedOf 96 (rq.wideN 0 5)))

/-- `TIME_STATUS` (Table 12.2). -/
def Dev.timeStatus (d : Dev) : List Word :=
  let x := d.time
  let b := fun (v : Bool) (i : Nat) => v.toNat * 2 ^ i
  let err := (d.errBound.map fun e => min e (2 ^ 40 - 1)).getD (2 ^ 40 - 1)
  [BitVec.ofNat 20 (b x.armed 19 + b x.uncertain 18 + x.source * 2 ^ 16 + (if x.source = 1 then x.srcTree else 0) * 2 ^ 10 +
     b x.holdover 9 + b d.ao.fallback 8 + b d.ao.refHoldover 7 + b x.ppsGlitch 6),
   BitVec.ofNat 20 (err / 2 ^ 20), BitVec.ofNat 20 (err % 2 ^ 20)]

/-- An FRC value in its fields: seconds [95:48], nanoseconds [47:16], fraction [15:0] (R338). -/
def frcFields (frcNs : Nat) : Nat := frcNs / 1000000000 * 2 ^ 48 + frcNs % 1000000000 * 2 ^ 16

/-- `time_status`: TIME_STATUS, rho, theta, the saved records, the last sleep interval and fallback time (R362). -/
def cmdTimeStatus : Cmd := fun rq d =>
  withChecks (timeChecks rq d 0) d <|
    let d := d.wake pdTime causeHost
    let s := d.ao.saved
    okWith d (resWords d.timeStatus ++ resWide 40 (unsignedOf 40 d.time.rho) ++ resWide 96 (unsignedOf 96 d.time.theta) ++
      resWide 96 (frcFields s.frcNs) ++ resWide 64 s.coarse ++ resWide 40 (unsignedOf 40 s.rho) ++
      resWide 96 (unsignedOf 96 s.theta) ++ resWide 1 s.armed.toNat ++ resWide 1 s.uncertain.toNat ++ resWide 2 s.source ++
      resWide 6 (if s.source = 1 then s.srcTree else 0) ++
      resWide 64 d.ao.lastSleep ++ resWide 64 d.ao.lastFb)

/-- `pps_cfg_set`: width in us; SUPPRESS; ToD_OUT rate; from the next whole second (R358, R359, R362; log entry 14). -/
def cmdPpsCfgSet : Cmd := fun rq d =>
  withChecks (timeChecks rq d 3 ++ [chkRange rq [(0, 1, 500000), (1, 0, 1), (2, 0, 2)]]) d <|
    let d := d.wake pdTime causeHost
    okDone (d.modTime fun x =>
      { x with ppsNext := some { widthNs := rq.prm 0 * 1000, suppress := rq.flag 1, rate := rq.prm 2 } })

/-- `PTP_TC_CFG` from its word (Table 12.7). -/
def ptpOfWord (w : Nat) : PtpTc :=
  { ds := w.testBit 19, us := w.testBit 18, l2 := w.testBit 17, udp4 := w.testBit 16, udp6 := w.testBit 15,
    mask := w / 2 ^ 11 % 16 }

/-- `ptp_tc_set` (R355, R362). -/
def cmdPtpTcSet : Cmd := fun rq d =>
  withChecks [chkLen rq 2, chkReady d [[fnTime], needSlice (rq.prm 0)], chkRange rq [(0, 0, 7)]] d <|
    okDone (d.modSlice (rq.prm 0) fun s => { s with ptp := ptpOfWord (rq.prm 1) })

/-- What follows the latches of a whole second: the calibration of R385, from the rail energy of the second and its modelled energy, the
servo, and PPS_OUT. The latches and the settings that wait for them come at the edge itself (`Dev.passSeconds`). -/
def Dev.wholeSecond (modelled : Nat) (d : Dev) : Dev :=
  if d.timeOn && decide (d.time.pulse < d.time.second) then
    let d := d.modTime fun x => { x with pulse := x.second }
    let w := d.pwr
    let chans := (List.range w.cfg.rails).map fun r => w.railCh.get {} r
    let energy := chans.foldl (fun a c => a + c.latched.getD 1 0) 0
    let d := if modelled = 0 || w.cfg.rails = 0 || chans.any (·.late) then d
             else d.modPwr fun w => { w with cal := max 2048 (min 8192 (energy * 4096 / modelled)) }
    d.servo.ppsRise
  else d

/-- The bytes of the ToD_OUT message (Table 12.9). -/
def Dev.todMessage (second : Nat) (d : Dev) : List Byte :=
  let x := d.time
  let src := (d.tree x.srcTree).time
  let utc := if x.source = 1 then src.utc else x.utcHost
  let leap := if x.source = 1 then src.leap else x.leapHost
  let err := if x.uncertain then ((d.errBound.map fun e => min e 65535).getD 65535) else 0
  let flags := x.uncertain.toNat + 2 * x.holdover.toNat + 4 * (leap == 1).toNat + 8 * (leap == 2).toNat + 16 * x.armed.toNat
  let body : List Byte := [0x54, 0x46] ++ bytesBE 6 second ++ bytesBE 2 (unsignedOf 16 utc) ++
    [BitVec.ofNat 8 flags, BitVec.ofNat 8 (x.source * 64 + (if x.source = 1 then x.srcTree else 0))] ++ bytesBE 2 err
  body ++ bytesBE 2 (crc16 (body.flatMap fun b => bitsMsb b)).toNat

/-- The bit rate of ToD_OUT in bit/s (R359). -/
def todRate (code : Nat) : Nat := if code = 0 then 9600 else if code = 1 then 115200 else 921600

/-- Bytes as 8N1 asynchronous serial, one level for each bit time: a start bit 0, the byte least significant bit first, a stop bit 1. -/
def serial8N1 (bs : List Byte) : List Bool := bs.flatMap fun b => false :: (List.range 8).map (fun i => b.getLsbD i) ++ [true]

/-- ToD_OUT sends the message of an edge, 1 ms after it, while the timebase runs (R359). -/
def Dev.todSend (d : Dev) : Dev :=
  match d.time.todSec with
  | none => d
  | some s =>
    if d.timeOn && Nat.ble (d.time.ppsAt + Config.ms) d.now then (d.modTime fun x => { x with todSec := none }).out (.tod (todRate d.time.pps.rate) (serial8N1 (d.todMessage s))) else d

/-- PPS_OUT falls when its width has run out (R358). -/
def Dev.ppsFall (d : Dev) : Dev :=
  if d.time.ppsOut && Nat.ble (d.time.ppsAt + d.time.pps.widthNs * Config.ns) d.now then (d.modTime fun x => { x with ppsOut := false }).out (.pps false) else d

/-- In source 2 the servo takes the edge (R349, R360). -/
def TimeSt.ppsSource (x : TimeSt) (frc : Nat) : TimeSt := if x.source == 2 then x.noteOffset (ppsOffset (x.devOf frc).toNat) else x

/-- A rising edge on PPS_IN (R360): its place within the nanosecond is resolved to 2^-7 ns (R338). -/
def Dev.ppsEdge (frac : Nat) (d : Dev) : Dev :=
  if !d.timeOn then d
  else
  let frc := d.frcLin + frac % 65536 / 512 * 512
  let early := match d.time.ppsInLast with
    | some l => decide ((frc : Int) - l < 100000000 * 65536)
    | none => false
  if early then (d.modTime fun x => { x with ppsGlitch := true }).bump .ppsIgnored 0 0
  else (d.modTime fun x =>
    { x with ppsIn := x.ppsIn.set 0 (x.ppsInNext % 16) (x.devOf frc).toNat, ppsInNext := (x.ppsInNext + 1) % 16,
             ppsInLast := some frc }.ppsSource frc).bump .ppsAccepted 0 0

/-- The tree that the servo reads in source 1: of a pair, the selected member (R350). -/
def Dev.srcTree (d : Dev) : Nat :=
  let k := d.time.srcTree
  let x := d.tree k
  match x.cfg.pair with
  | none => k
  | some o =>
    let (w, p) := if x.cfg.working then (k, o) else (o, k)
    if (d.tree w).cfg.selProtect then p else w

/-- No frame of the source tree has given valid tree time for 1 s (R350). -/
def Dev.sourceHoldover (d : Dev) : Dev :=
  if d.time.source = 1 && decide ((d.tree d.srcTree).time.lastValid + Config.sec ≤ d.now) then
    d.modTime fun x => { x with holdover := true }
  else d

def Dev.refValid (d : Dev) (i : Nat) : Bool := if i = 0 then d.ao.ref0 else d.ao.ref1
def TimeAo.setRef (a : TimeAo) (i : Nat) (v : Bool) : TimeAo := if i = 0 then { a with ref0 := v } else { a with ref1 := v }

/-- REF input i is lost (R365): the other valid input takes over, or with none the distribution holds over. -/
def Dev.refLost (i : Nat) (d : Dev) : Dev :=
  if d.refValid i then
    let d := d.modAo fun a => a.setRef i false
    let other := 1 - i
    let d := if d.ao.refActive = i && !d.ao.refHoldover then
        if d.refValid other then d.modAo fun a => { a with refActive := other }
        else d.modAo fun a => { a with refHoldover := true, refLostAt := d.now, refUnc := false }
      else d
    d.raise qPower 0x0D 2 i [d.ao.refActive, d.ao.refHoldover.toNat]
  else d

/-- Both inputs have been lost for 1 ms (Table 12.3). -/
def Dev.refUncertain (d : Dev) : Dev :=
  if d.ao.refHoldover && !d.ao.refUnc && decide (d.ao.refLostAt + Config.ms ≤ d.now) then
    let d := d.modAo fun a => { a with refUnc := true }
    d.raiseUncertain d.errBound
  else d

/-- REF input i has been valid for 100 ms (R365): the loss ends, and its bound stands until the next step. -/
def Dev.refRestored (i : Nat) (d : Dev) : Dev :=
  if d.refValid i then d
  else
    let d := d.modAo fun a => a.setRef i true
    let d := if d.ao.refHoldover then
        let b := d.errBound
        let d := if d.ao.refUnc then d.modTime fun x => { x with errNs := b } else d
        d.modAo fun a => { a with refActive := i, refHoldover := false, refUnc := false }
      else d
    d.raise qPower 0x0D 2 i [d.ao.refActive, d.ao.refHoldover.toNat]

end Sys2Proof
end

