-- ==== Sys2Proof/Machine/PowerCmd.lean ====
section
/-! DEFINITION. The commands of Table 13.13, the entries and timed exits of domains, the budget controller, the rail channels
and the core rails (13_power.md, R480). -/

namespace Sys2Proof

/-- `power_policy_set` (R380): a domain in a state that its policy forbids wakes (R370). -/
def cmdPowerPolicySet : Cmd := fun rq d =>
  withChecks [chkLen rq 2, chkReady d [[0]], chkRange rq [(0, 0, 126), (1, 0, 2)]] d <|
    let p := rq.prm 0
    let d := d.modDom p fun x => { x with policy := rq.prm 1 }
    okDone (if rq.prm 1 = 1 || (rq.prm 1 = 2 && (d.dom p).st = 2) then d.wake p causeHost else d)

/-- `PD_STATUS` (Table 13.8). -/
def PDom.word (x : PDom) : Word :=
  BitVec.ofNat 20 (x.st * 2 ^ 18 + x.policy * 2 ^ 16 + x.woke.toNat * 2 ^ 15 + x.lastRef * 2 ^ 7)

/-- A wake record (Table 13.9). -/
def WakeRec.words (w : WakeRec) : List Word :=
  [BitVec.ofNat 20 (w.source * 2 ^ 17 + w.domain * 2 ^ 10 + w.fromOff.toNat * 2 ^ 9), BitVec.ofNat 20 w.timeUs]

def cmdPowerStatus : Cmd := fun rq d =>
  withChecks [chkLen rq 0, chkReady d [[0]]] d <|
    okWith d (resWords ((List.range 127).map fun p => (d.dom p).word) ++
      resWords ((List.range 49).flatMap fun g => (d.pwr.wakes.get {} g).words))

/-- `refusal_read`: the refused and aborted counts of refuser codes 0x01 to 0x14 (R382). -/
def cmdRefusalRead : Cmd := fun rq d =>
  withChecks [chkLen rq 1, chkReady d [[0]], chkRange rq [(0, 0, 126)]] d <|
    okWith d ((List.range 20).flatMap fun i =>
      resWide 48 (d.count .pdRefused (rq.prm 0) (i + 1)).val.toNat ++ resWide 48 (d.count .pdAborted (rq.prm 0) (i + 1)).val.toNat)

/-- `PWR_SEQ_CFG` from its words (Table 13.7): 0 is taken as 1, a gap below 15 as 15. -/
def seqOfWords (w0 w1 : Nat) : SeqCfg :=
  { dsRatio := w0 / 2 ^ 14 % 64, dsIdle := w0 / 2 ^ 7 % 128, usIdle := w0 % 128, ltxGap := w1 / 2 ^ 10 % 1024,
    ltxOff := w1.testBit 9 }

def cmdSeqCfgSet : Cmd := fun rq d =>
  withChecks [chkLen rq 3, chkReady d [[0]], chkRange rq [(0, 0, 7)]] d <|
    okDone (d.modPwr fun w =>
      { w with seqNext := w.seqNext.set none (rq.prm 0) (some (seqOfWords (rq.prm 1) (rq.prm 2))) })

/-- `budget_cfg_set` (Table 13.10): ten words and two for each rail channel, whose supply codes are those of Table 18.5; from the next budget
frame. -/
def cmdBudgetCfgSet : Cmd := fun rq d =>
  let rails := rq.bits 9 6 0
  let pl := rq.bits 0 11 9
  let ef := rq.bits 0 7 2
  withChecks [chkLen rq (10 + 2 * rails), chkReady d [[0]],
      failIf (decide (pl < 100 ∨ 1600 < pl ∨ 64 < ef)) .range 0, failIf (decide (32 < rails)) .range 9,
      ((List.range rails).find? fun r => let c := rq.bits (10 + 2 * r) 5 0; c == 0 || Nat.blt 20 c).map fun r =>
        { code := .range, detail := 10 + 2 * r }] d <|
    let cfg : BudgetCfg := { pLimit := pl, eFallback := ef, rails := rails,
                             weight := (List.range 8).foldl (fun m n => m.set 16 n (rq.bits (1 + n) 8 12)) [] }
    let chans := (List.range rails).foldl (fun (m : Tab Rail) r => m.upd {} r fun x =>
      { x with addr := rq.bits (10 + 2 * r) 7 13, page := rq.bits (10 + 2 * r) 8 5, supply := rq.bits (10 + 2 * r) 5 0,
               iLimit := rq.prm (11 + 2 * r) }) d.pwr.railCh
    okDone (d.modPwr fun w => { w with cfgNext := some (cfg, chans) })

/-- `budget_status`: pool, cal, lo, hi, share and E_BUDGET of each slice, rail readings, fall-back state. -/
def cmdBudgetStatus : Cmd := fun rq d =>
  withChecks [chkLen rq 0, chkReady d [[0]]] d <|
    let w := d.pwr
    let one := fun v => resWide 20 v
    okWith d (one (w.last.getD 0 0) ++ one w.cal ++
      ((List.range 8).flatMap fun n => one (w.last.getD (1 + 3 * n) 0) ++ one (w.last.getD (2 + 3 * n) 0) ++
        one (w.last.getD (3 + 3 * n) 0) ++ one (w.escale.get {} n).eBudget) ++
      ((List.range w.cfg.rails).flatMap fun r => one (w.railCh.get {} r).iNow ++ one (w.railCh.get {} r).mv) ++
      one w.fallback.toNat)

/-! ### Domain entries (R369, R372 to R379) -/

/-- What the sequencer itself requires before it decides an entry, beside the refusers (R374 to R376). -/
def Dev.seqWants (d : Dev) (p target : Nat) : Bool :=
  if p < 7 then true
  else if p < 55 then
    let n := (p - 7) / 6
    let s := d.slice n
    let cfg := d.pwr.seq.get {} n
    if target = 1 then
      match (p - 7) % 6 with
      | 0 => s.ds.prio.isEmpty && s.ds.normal.isEmpty && s.ds.reorder.isEmpty &&
             Nat.ble (s.ds.busyAt + max 1 cfg.dsIdle * 100 * Config.ns) d.now && Nat.blt (d.pwr.ratioNum.get 0 n) cfg.dsRatio
      | 1 => s.us.prio.isEmpty && s.us.normal.isEmpty && Nat.ble (s.us.busyAt + max 1 cfg.usIdle * 100 * Config.ns) d.now
      | 2 => !d.keysResident n .down
      | 3 => !((treesOf n).any fun k => (d.tree k).pitches.any fun x =>
               (x.phase == 0 && decide (d.pitchS k x < d.now + commitLead + 400 * Config.ns)) ||
                 ((x.phase == 1 || x.phase == 3) && !x.takes.isEmpty))
      | _ => true
    else true
  else if p < 63 then
    let m := d.stack (p - 55)
    target != 1 || (m.pend.isEmpty && Nat.ble (m.lastRq + Config.us) d.now)
  else if p < 79 then
    !((treesOfPort (p - 63)).any fun k => (d.tree k).pitches.any fun x =>
        x.phase == 3 || (x.phase == 4 && decide (d.now < x.laserOff))) &&
      (target != 2 || (d.pwr.seq.get {} ((p - 63) / 2)).ltxOff)
  else true

/-- The sequencer decides an entry: refused and counted, lost to a wake at the same edge, or begun (R369). Off may be entered from
retention. -/
def Dev.seqEntry (p target : Nat) (d : Dev) : Dev :=
  let st := (d.dom p).st
  if target = 0 || !stateAllowed p target || st = 3 || st = 2 || st = target || !d.seqWants p target then d
  else if d.neededNow p then d.entryLost p
  else match d.refusers p target false with
    | [] => d.beginEntry p target
    | rs => d.refuse p rs

/-- A timed exit begins, with its wake record (R374, R375); an entry under way is aborted by the wake (R369). -/
def Dev.beginExit (p cause : Nat) (d : Dev) : Dev :=
  let x := d.dom p
  if x.st = 1 ∨ x.st = 2 then
    let d := d.wakeOthers p cause
    (d.modDom p fun x => { (x.settle d.devNs) with leftSt := x.st, st := 3, target := 0 }).wakeBegins p cause (x.st == 2)
  else if x.st = 3 ∧ x.target ≠ 0 then d.wakeNow p cause
  else d

/-- A lane that a configured tree, a configured port or a lane test needs (R373). -/
def Dev.laneNeeded (d : Dev) (l : Nat) : Bool :=
  d.laneTest l || (d.scans.get none l).isSome ||
    (if l < 256 then (d.treeOfLane l).isSome else (d.sysPortOfLane (l - 256)).isSome)

/-- A lane that is needed leaves power-down; one that is not needed is held there: its clock recovery and its locks go, its DFE keeps its state,
which only the domain's passing through off restarts (R53, R79, R373). -/
def Dev.laneUp (l : Nat) (d : Dev) : Dev := if d.laneNeeded l then d.modTx l fun x => { x with powered := true } else d
def Dev.laneDown (l : Nat) (d : Dev) : Dev :=
  if d.laneNeeded l then d
  else
    let d := (d.modTx l fun x => { x with powered := false, drives := false }).modRx l fun x =>
      { x with cdr := false, noSignal := true, chkLock := false }
    let a := d.align l
    if Nat.ble 256 l || a.st == 0 then d
    else (d.raise (qLane l) 0x03 1 l [a.st, 0]).modAlign l fun a =>
      { a with st := 0, passes := 0, fails := 0, passed := false, fresh := false, prevSkew := 0, ident := none, pm := { a.pm with lol := 1 } }

/-- The domains of lane l: transmit and receive. -/
def laneDoms (l : Nat) : List Nat :=
  if l < 256 then [pdLtx (l / 16), pdLrx (l / 16)] else [pdStx ((l - 256) / 16), pdSrx ((l - 256) / 16)]

/-- Lanes that a command needs: their domains wake, they leave power-down, and the command completes after that (R373, R381). -/
def Dev.lanesUp (ls : List Nat) (d : Dev) : Dev :=
  let d := d.forEach ls fun l d => d.wakeAll (laneDoms l) causeHost
  d.forEach ls fun l d => d.laneUp l

/-- The PCIE domain follows the link: L0 on, L1 retention, L2 or down off (R367). Under PERST# the link stays down. -/
def Dev.pcieLink (st : Nat) (d : Dev) : Dev :=
  let st := if d.host.perst then 0 else st
  let d := d.modHost fun h => { h with linkL0 := st }
  let target := if st = 1 then 0 else if st = 2 then 1 else 2
  if target = 0 then d.wake 4 causeHost
  else if (d.dom 4).st = target then d
  else (d.beginEntry 4 target).endEntry 4

/-! ### The budget controller (R384 to R386) -/

/-- One run of R385, with exact fractions: energies stand in units of 1/4096 uJ, the pool over den. model gives each slice's modelled energy at
E_NUM 0 and 64, shared the modelled energy of the shared domains, in uJ; cal is in units of 1/4096. A result that comes later than 10 us before
the boundary is not delivered (R384). -/
def Dev.budgetRun (model : List (Nat × Nat)) (shared : Nat) (d : Dev) : Dev :=
  if !d.host.fw.running || d.host.fw.swapping then d
  else
    let w := d.pwr
    let over_ := ((List.range w.cfg.rails).map fun r => w.railCh.get {} r).filter fun c => c.iLimit != 0 && Nat.blt c.iLimit c.iNow
    let num : Int := over_.foldl (fun (a : Int) c => a * c.iLimit) ((w.cfg.pLimit * 125 * 4096 : Nat) - ((w.cal * shared : Nat) : Int))
    let den := over_.foldl (fun a c => a * c.iNow) 1
    let lo := fun n => w.cal * (model.getD n (0, 0)).1
    let hi := fun n => w.cal * (model.getD n (0, 0)).2
    let spare := (num - (den * (List.range 8).foldl (fun a n => a + lo n) 0 : Nat)).toNat
    let weights := (List.range 8).foldl (fun a n => a + w.cfg.weight.get 16 n) 0
    let part := fun n => spare * w.cfg.weight.get 16 n
    let unit := den * max 1 weights
    let e := fun n => if Nat.ble ((hi n - lo n) * unit) (part n) then 64 else 64 * part n / ((hi n - lo n) * unit)
    let d := d.modPwr fun w => { w with last := num.toNat / (den * 4096) :: (List.range 8).flatMap fun n =>
      [lo n / 4096, hi n / 4096, part n / (unit * 4096)] }
    if Nat.ble (d.devNs % 125000) 115000 then
      d.modPwr fun w =>
        { w with escale := (List.range 8).foldl (fun m n => m.upd {} n fun x => { x with newBudget := some (e n) }) w.escale }
    else d

/-- A rail channel is read (R384, R387). -/
def Dev.railRead (ch current mv : Nat) (d : Dev) : Dev :=
  if ch < d.pwr.cfg.rails then
    d.modPwr fun w => { w with railCh := w.railCh.upd {} ch fun x =>
      { (x.accrue d.now) with iNow := current, mv := mv, readAt := d.now, late := false, iMax := max x.iMax current } }
  else d

/-- A rail channel has not been read for 10 ms (R386). -/
def Dev.railTimeout (ch : Nat) (d : Dev) : Dev :=
  let x := d.pwr.railCh.get {} ch
  if ch < d.pwr.cfg.rails && !x.late && Nat.ble (x.readAt + 10 * Config.ms) d.now then
    (d.modPwr fun w => { w with railCh := w.railCh.upd {} ch fun x => { x with late := true } }).raise qPower 0x0D 4 ch []
  else d

/-- The rail channel that names a core rail. -/
def Dev.coreChannel (d : Dev) (east : Bool) : Option Nat :=
  (List.range d.pwr.cfg.rails).find? fun r => (d.pwr.railCh.get {} r).supply == (if east then 2 else 1)

/-- Set a core rail by PMBus (R480). -/
def Dev.setCore (east : Bool) (mv : Nat) (d : Dev) : Dev :=
  match d.coreChannel east with
  | none => d
  | some ch =>
    (d.modPwr fun w => if east then { w with avsE := mv, avsAtE := d.now } else { w with avsW := mv, avsAtW := d.now }).out
      (.railSet ch mv)

/-- Function 0 becomes ready: each core rail goes to its fused target (R480). -/
def Dev.fusedCores (d : Dev) : Dev := (d.setCore false d.vault.fuses.avsW).setCore true d.vault.fuses.avsE

/-- A later move: at most 5 mV per hour, within 650 to 750 mV (R480). -/
def Dev.avsAdjust (east : Bool) (mv : Nat) (d : Dev) : Dev :=
  let cur := if east then d.pwr.avsE else d.pwr.avsW
  let at_ := if east then d.pwr.avsAtE else d.pwr.avsAtW
  if d.isReady 0 && decide (650 ≤ mv ∧ mv ≤ 750 ∧ mv ≤ cur + 5 ∧ cur ≤ mv + 5 ∧ at_ + 3600 * Config.sec ≤ d.now) then
    d.setCore east mv
  else d

end Sys2Proof
end

