-- ==== Sys2Proof/Machine/Memory.lean ====
section
/-! DEFINITION. The memory stacks: rank map, accesses, corrected and uncorrectable words, scrubbing, migration and retirement
(11_memory.md). -/

namespace Sys2Proof

/-- The logical rank of a logical address, and the rank map with physical rank v for logical rank L (R309, R311). -/
def logicalOf (addr : Nat) : Nat := addr / rankBytes
def RankMap.setPhys (m : RankMap) (l v : Nat) : RankMap :=
  if l = 0 then { m with l0 := v } else if l = 1 then { m with l1 := v } else { m with l2 := v }
/-- The control regions of a logical rank: from the table images to the end of the firmware region (Table 11.1, R313). -/
def inControl (addr : Nat) : Bool := Nat.ble 0x200000000 (addr % rankBytes) && Nat.blt (addr % rankBytes) 0x258000000

/-- Offsets of the six pool shares in a logical rank (Table 11.1). -/
def poolOffset : Nat → Nat
  | 0 => 0 | 1 => 0x5800000 | 2 => 0x13000000 | 3 => 0x2E000000 | 4 => 0x63800000 | _ => 0xCE800000

/-- The logical address of buffer i of pool p (R312). -/
def bufferAddr (p i : Nat) : Nat := i % 3 * rankBytes + poolOffset p + i / 3 * Config.poolSize p

/-- The buffer that holds a logical address, by pool and index (R312). -/
def bufferAt (addr : Nat) : Option (Nat × Nat) :=
  let l := logicalOf addr
  let off := addr % rankBytes
  ([5, 4, 3, 2, 1, 0].find? fun p => decide (poolOffset p ≤ off)).bind fun p =>
    let i := (off - poolOffset p) / Config.poolSize p * 3 + l
    if i < Config.poolBuffers then some (p, i) else none

/-- Buffers of one pool that lie in logical rank L (R312). -/
def rankBuffers (l : Nat) : Nat := if l = 0 then 349526 else 349525

/-- Buffers of one pool in service (R239, R332). -/
def Dev.poolInService (d : Dev) (n : Nat) : Nat :=
  ([0, 1, 2].filter (d.stack n).map.inService).foldl (fun a l => a + rankBuffers l) 0

/-- The shared part of a pool: the buffers in service less the minima of the valid stallholders, at least 0 (R239). -/
def Dev.sharedPart (d : Dev) (n p : Nat) : Nat :=
  d.poolInService n -
    (d.slice n).buf.holders.foldl (fun a e => if e.2.valid then a + e.2.bufMin.get 0 p else a) 0

/-- Port numbers in the order of Table 11.2, and their priorities (Table 11.3); the firmware port falls to 0 during a migration (R330). -/
def MemPri.of (p : MemPri) (port : Nat) : Nat :=
  match port with
  | 0 => p.pktWr | 1 => p.pktRd | 2 => p.spill | 3 => p.tables | 4 => p.hostDma | 5 => p.fw | _ => p.scrub
def Stack.priOf (m : Stack) (port : Nat) : Nat := if port == 5 && m.mig.isSome then 0 else m.pri.of port

/-- Channel, bank and row of a word: words spread over the 64 channels in turn (R310); 64 banks a channel and rows of 1,024 bytes are the
model's (log entry 15). -/
def bankOf (addr : Nat) : Nat := addr / 32 % 64 * 64 + addr / 2048 % 64
def rowOf (addr : Nat) : Nat := addr / 4194304

/-- The tracker of a bank counts an activation of a row (R320): the count, and the tracker. When its 512 rows are others, the one with the fewest
activations leaves it (DESIGN CHOICE, log entry 127). -/
def trackRow (t : Tab Nat) (row : Nat) : Nat × Tab Nat :=
  let c := t.get 0 row + 1
  let least := t.foldl (fun (a : Nat × Nat) e => if e.2 < a.2 then e else a) (t.headD (0, 0))
  let t := if c == 1 && Nat.ble 512 t.length then t.erase least.1 else t
  (c, t.set 0 row c)

/-- One access activates its row in physical rank phys (R316, R320): at 2,049 activations in the window and each further 2,048 the neighbours are
refreshed; a port below priority 7 that made the 2,049th is throttled on the bank. -/
def Dev.activate (n port phys addr : Nat) (d : Dev) : Dev :=
  let place := physPlace phys addr
  let bank := bankOf place
  let m := d.stack n
  let (c, t) := trackRow (m.rows.get [] bank) (rowOf place)
  let d := d.modStack n fun m => { m with rows := m.rows.set [] bank t }
  let hit := decide (2049 ≤ c) && (c - 1) % 2048 == 0
  let d := if hit then d.bump .neighbourRef n bank else d
  if c == 2049 && decide (m.priOf port < 7) && m.throttled.get 0 (bank * 8 + port) == 0 then
    (d.modStack n fun m => { m with throttled := m.throttled.set 0 (bank * 8 + port) (d.now + 1) }).bump .throttles n bank
  else d

/-- A slot granted to a port for a word of physical rank phys, with its counts. -/
def Dev.access (n port phys addr : Nat) (write : Bool) (d : Dev) : Dev := (d.slotsUsed n port 1 write).activate n port phys addr

/-! ### The arbiter of a channel (R315, R317, R320) -/

/-- A queue is privileged when its class is 0, or it is a host-bound control queue (R247). -/
def QueueCfg.isPriv (c : QueueCfg) : Bool := c.cls == 0 || (c.kind == 2 && c.ctrl)

def channelOf (addr : Nat) : Nat := addr / 32 % 64

/-- A request is for class 0 when it writes a downstream frame whose parcel header carries CLASS 0, or reads a frame whose descriptor comes
from a privileged queue: for a system port, for a burst, or for a host ring (R315). -/
def Dev.forClass0 (d : Dev) (n port : Nat) (write : Bool) (addr : Nat) : Bool :=
  match bufferAt addr with
  | none => false
  | some (p, i) =>
    let b := (d.slice n).buf
    let priv := fun (q : Nat) => (b.queues.get {} q).cfg.isPriv
    if write then port == 0 && (b.bufs.get {} (p * 2 ^ 20 + i)).frame.cls0
    else port == 1 &&
      ((b.reads.any fun r => r.desc.pool == p && r.desc.index == i && priv r.queue) ||
        (b.queues.any fun e => e.2.cfg.kind == 2 && e.2.cfg.isPriv && (e.2.descs.drop e.2.readN).any fun x => x.pool == p && x.index == i) ||
        (treesOf n).any fun k => (d.tree k).pitches.any fun x => x.takes.any fun t => t.desc.pool == p && t.desc.index == i && priv t.queue)

/-- `MEM_PORT_PRI` as it applies to a request that arrives at an instant: a new value applies to what arrives after the command completes (R314). -/
def Stack.priAt (m : Stack) (at_ : Ticks) : MemPri := ((m.priPast.find? fun e => Nat.ble at_ e.1).map (·.2)).getD m.pri

/-- A request enters its channel, and wakes the controller's domain (R378): its priority is the one set then (R314), a throttled port's waits
200 ns (R320), and a read of the row of an earlier write of its port puts the port into in-order mode (R317). -/
def Dev.memEnter (n : Nat) (r : MemRq) (d : Dev) : Dev :=
  let m := d.stack n
  let d := d.wake (pdMem n) causeTraffic
  let since := m.throttled.get 0 (bankOf r.addr * 8 + r.port)
  let hold := if since != 0 && Nat.ble since r.ready then 200 * Config.ns else 0
  let r := { r with prio := (m.priAt r.ready).of r.port, cls0 := d.forClass0 n r.port r.write r.addr, ready := r.ready + hold }
  let clash := !r.write && m.pend.any fun w => w.port == r.port && w.write && bankOf w.addr == bankOf r.addr && rowOf w.addr == rowOf r.addr
  d.modStack n fun m => { m with pend := m.pend ++ [r], inOrder := if clash then m.inOrder.set false r.port true else m.inOrder,
                                 lastRq := max m.lastRq r.ready }

/-- The words that a request reaches: of a control region, a write goes to every copy, a read to the serving one (R313). The ports of the take-log
spill, of tables and counters and of the firmware reach the regions. -/
def Stack.targets (m : Stack) (port : Nat) (write : Bool) (addr : Nat) : List Nat :=
  if [2, 3, 5].contains port && inControl addr then
    (if write then m.map.copies else m.map.copies.take 1).map fun l => l * rankBytes + addr % rankBytes
  else [addr]

/-- Header actions alone make the packet write port write part of a word: once the frame's data is written (R322, Table 11.5). -/
def Dev.writesPart (d : Dev) (n : Nat) (a : MemArrival) : Bool :=
  a.part && a.write &&
    match a.port.val with
    | 0 => ((bufferAt a.addr).map fun x => ((d.slice n).buf.bufs.get {} (x.1 * 2 ^ 20 + x.2)).left == 0).getD false
    | 6 => false
    | _ => true

/-- A requester's request reaches the controller. -/
def Dev.memArrive (n : Nat) (a : MemArrival) (d : Dev) : Dev :=
  d.forEach ((d.stack n).targets a.port.val a.write a.addr) fun addr d =>
    d.memEnter n { port := a.port.val, write := a.write, addr := addr, mig := a.mig, prio := 0, ready := a.at_, part := d.writesPart n a }

/-- The controller's own request that follows from another of the port: a read of the other copy, a write of copies (R313, R446). -/
def Dev.memAsk (n : Nat) (r : MemRq) (d : Dev) : Dev := d.memEnter n { r with ready := d.now }

/-- The priority at which a waiting request is arbitrated (R314, R330). -/
def Stack.rank (m : Stack) (r : MemRq) : Nat := if r.port == 5 && m.mig.isSome then 0 else r.prio

/-- The address of the word that a migration copies, and of the word that a pass writes back (R326, R330). -/
def Migration.addr (g : Migration) : Nat := g.logical * rankBytes + g.ptr
def Scrub.addr (x : Scrub) : Nat := x.start + x.done

/-- The word that a migration has read and not yet written to the spare, or a pass over the logical space not yet written back: other ports' writes
to it wait (R326, R330). -/
def Stack.inCopy (m : Stack) (addr : Nat) : Bool :=
  (m.mig.map fun g => g.word.isSome && g.addr == addr / 32 * 32).getD false ||
    (m.scrub.map fun x => x.back.isSome && !x.spare && x.addr == addr / 32 * 32).getD false

/-- The requests of a channel that may be arbitrated at an instant: a read of the word of another port's earlier write waits for it, also the read of a
read-modify-write, a write to a word in copy waits for the copy, and a port in in-order mode offers its oldest request alone (R317, R322, R326,
R330). -/
def Stack.candidates (m : Stack) (ch : Nat) (at_ : Ticks) : List MemRq :=
  m.pend.filter fun r =>
    channelOf r.addr == ch && decide (r.ready ≤ at_) &&
    ((r.write && !r.part) || !(m.pend.takeWhile (· != r)).any fun w => w.write && w.port != r.port && w.addr / 32 == r.addr / 32) &&
    (!r.write || r.port == 6 || !m.inCopy r.addr) &&
    (!m.inOrder.get false r.port || (m.pend.find? fun x => x.port == r.port) == some r)

/-- The slots of Table 11.4: of the migration copy, and slot 255 of scrub; slot 255 is refresh's while its rate is doubled. -/
def Stack.owns (m : Stack) (slot : Nat) (r : MemRq) : Bool :=
  r.port == 6 && (if r.mig then m.mig.isSome && [2, 7, 12].contains (slot % 16) else slot == 255 && !m.refresh2x)
def Stack.refreshSlot (m : Stack) (slot : Nat) : Bool := slot == 255 && m.refresh2x

/-- The requests among which the round-robin pointer decides (R315): those of the slot's owner; else those of class 0 at priority 7; else those
of the highest priority. -/
def Stack.contenders (m : Stack) (ch slot : Nat) (at_ : Ticks) : List MemRq :=
  let c := m.candidates ch at_
  let own := c.filter (m.owns slot)
  let urgent := c.filter fun r => m.rank r == 7 && r.cls0
  let top := c.foldl (fun a r => max a (m.rank r)) 0
  if m.refreshSlot slot then [] else if !own.isEmpty then own else if !urgent.isEmpty then urgent else c.filter fun r => m.rank r == top

/-- How far a port is from a channel's pointer. -/
def Stack.turns (m : Stack) (ch port : Nat) : Nat := (port + 7 - m.rr.get 0 ch) % 7

/-- The slot of every channel in which an instant lies, counted on without the wrap: 1.25 slots a ns of the controller's clock, from the reset of the
MEM domain; at that instant the clock has stood still for `stood` since (R310, R363). -/
def Stack.slotNo (m : Stack) (stood at_ : Ticks) : Nat := (at_ - m.clkAt - stood) * 5 / (4 * Config.ns)
/-- The number of that slot (R310). -/
def Stack.slotAt (m : Stack) (stood at_ : Ticks) : Nat := m.slotNo stood at_ % 256

/-- The arbiter grants the slot at an instant to a request, one in each slot (R315); of one port, in order of arrival, but for a read that passes
writes (R317). -/
def Stack.grants (m : Stack) (stood at_ : Ticks) (r : MemRq) : Bool :=
  let ch := channelOf r.addr
  let c := m.contenders ch (m.slotAt stood at_) at_
  Nat.ble (m.lastSlot.get 0 ch) (m.slotNo stood at_) &&
    c.contains r && (c.all fun x => Nat.ble (m.turns ch r.port) (m.turns ch x.port)) &&
    (c.takeWhile (· != r)).all fun x => x.port != r.port || (!r.write && x.write)

/-- The slot goes to a request: the pointer advances past its port (R315). -/
def Stack.granted (m : Stack) (stood at_ : Ticks) (r : MemRq) : Stack :=
  { m with lastRq := max m.lastRq at_, rr := m.rr.set 0 (channelOf r.addr) ((r.port + 1) % 7),
           lastSlot := m.lastSlot.set 0 (channelOf r.addr) (m.slotNo stood at_ + 1) }

/-- A request leaves its channel; a port whose writes have all been granted leaves in-order mode (R317). -/
def Dev.memDone (n : Nat) (r : MemRq) (d : Dev) : Dev :=
  d.modStack n fun m =>
    let pend := m.pend.erase r
    { m with pend := pend,
             inOrder := if pend.any fun w => w.port == r.port && w.write then m.inOrder else m.inOrder.set false r.port false }

/-- How long the clock of the controller of stack n has stood since the reset of its domain (R363, R367). -/
def Dev.memStood (d : Dev) (n : Nat) : Ticks := (d.dom (pdMem n)).stood

/-- The requests that arrived enter their channels; then k runs if the arbiter grants the slot to the one that is asked for. What the arbiter does not
grant waits on. -/
def Dev.arbitrate (n : Nat) (asked : MemRq → Bool) (slot : MemSlot) (k : MemRq → Dev → Dev) (d : Dev) : Dev :=
  let d := d.forEach slot.arrived (Dev.memArrive n)
  match (d.stack n).pend.find? asked with
  | none => d
  | some r =>
    if (d.stack n).grants (d.memStood n) slot.at_ r then k r (d.modStack n fun m => m.granted (d.memStood n) slot.at_ r) else d

/-! ### Retirement (R329 to R333) -/

/-- A scrub summary as result dwords: range, counts, the list of the first 16 addresses, status 0 complete, 1 aborted, 2 cut (R327, R402). -/
def Scrub.summary (x : Scrub) (status : Nat) : List Dword :=
  resWide 36 x.start ++ resWide 36 x.done ++ resWide 32 x.corrected ++ resWide 32 x.uncorr ++ resWide 32 x.poison ++
    resWide 5 x.first16.length ++ (x.first16.flatMap fun a => resWide 36 a) ++ resWide 2 status

/-- The pass of stack n ends: its summary goes to the response area of its command, its ASYNC work completes, an event gives the status, and a
`scrub_abort` that waited for it is answered (R326 to R328, R406). -/
def Dev.endScrub (n status : Nat) (c : Code) (d : Dev) : Dev :=
  match (d.stack n).scrub with
  | none => d
  | some x =>
    let sum := x.summary status
    let d := d.modStack n fun m => { m with scrub := none, pend := m.pend.filter fun r => !(r.port == 6 && !r.mig) }
    let d := match d.host.jobs.find? fun j => j.opcode == 0x0B12 && j.params.getD 0 0 % 2 ^ 20 == n with
      | none => d
      | some j => (d.modMbox x.mb fun b =>
          { b with resp := [0x0B12, j.tag.setWidth 32, BitVec.ofNat 32 (c.num * 4096 + sum.length), 0] ++ sum }).endJob j c
    let d := d.raise (qMem n) 0x0B 7 n [status]
    match x.asker with
    | some (mb, tag) => d.respond mb tag 0x0B13 { results := sum }
    | none => d

/-- The range of a pass holds words of logical rank L. -/
def Scrub.touches (x : Scrub) (m : RankMap) (l : Nat) : Bool :=
  if x.spare then m.phys l == m.spare else decide (x.start / rankBytes ≤ l ∧ l * rankBytes < x.start + x.len)

/-- A retirement cuts the pass of stack n, once the word in progress is written (R326, R328). -/
def Dev.cutScrub (n : Nat) (d : Dev) : Dev :=
  if ((d.stack n).scrub.bind (·.back)).isSome then
    d.modStack n fun m => { m with scrub := m.scrub.map fun x => { x with stop := some (x.stop.getD 2) } }
  else d.endScrub n 2 .aborted

def Dev.latchMemIrq (d : Dev) : Dev := d.modHost fun h => { h with irq := { h.irq with mem := true } }

/-- The minima of the valid stallholders in a pool (R238). -/
def Dev.minima (d : Dev) (n p : Nat) : Nat :=
  (d.slice n).buf.holders.foldl (fun a e => if e.2.valid then a + e.2.bufMin.get 0 p else a) 0

/-- The new shared part of each pool, and an event where it is clamped to 0 (R239, R332). -/
def Dev.reportShares (n : Nat) (d : Dev) : Dev :=
  d.forEach (List.range 6) fun p d =>
    let d := d.raise (qMem n) 0x0B 4 n [p, d.sharedPart n p / 1048576, d.sharedPart n p % 1048576]
    if d.poolInService n < d.minima n p then d.raise (qSlice n) 0x08 2 p [] else d

/-- No logical rank is left in service: both directions of the slice are not ready (R333). -/
def Dev.stopSlice (n : Nat) (d : Dev) : Dev :=
  let d := d.modHost fun h => { h with initDone := (h.initDone.set false (fnDs n) false).set false (fnUs n) false }
  (d.setReady (fnDs n) { st := 2, reason := 5 }).setReady (fnUs n) { st := 2, reason := 5 }

def Dev.noRank (d : Dev) (n : Nat) : Bool := (d.stack n).map.active == 0

/-- The map without logical rank L, which physical rank f held. -/
def Stack.dropRank (m : Stack) (l : Nat) : Stack :=
  { m with map := { m.map with active := m.map.active - 2 ^ l, retired := m.map.retired ||| 2 ^ (m.map.phys l) },
           oneCopy := m.oneCopy || l == m.map.ctrlA || l == m.map.ctrlB }

/-- A retirement without a spare removes logical rank L (R332, R333). Its buffers are those whose index is L modulo 3; none of
them is granted again. -/
def Dev.shrink (n l : Nat) (d : Dev) : Dev :=
  if !(d.stack n).map.inService l then d
  else
    let cut := ((d.stack n).scrub.map fun x => x.touches (d.stack n).map l).getD false
    let d := if cut then d.cutScrub n else d
    let d := { d.modStack n fun m => m.dropRank l with recDirty := true }
    let d := ((d.bump .shrinkages n 0).bumpN .retiredBufs n 0 (6 * rankBuffers l)).reportShares n
    let d := d.latchMemIrq
    if d.noRank n then d.stopSlice n else d

/-- The read of the word in progress of a pass stands at its channel. -/
def Stack.scrubFlying (m : Stack) : Bool := m.pend.any fun r => r.port == 6 && !r.mig && !r.write

/-- A migration of logical rank L to the spare begins: a running pass pauses at the word in progress (R328, R330). -/
def Dev.startMigration (n l : Nat) (d : Dev) : Dev :=
  (d.modStack n fun m =>
    { m with mig := some { logical := l, src := m.map.phys l, dst := m.map.spare, ptr := 0 },
             scrub := m.scrub.map fun x => { x with paused := true, flying := m.scrubFlying } }).raise (qMem n) 0x0B 2 n [l]

/-- The logical rank in service that physical rank f holds. -/
def RankMap.logicalAt (m : RankMap) (f : Nat) : Option Nat := [0, 1, 2].find? fun l => m.inService l && m.phys l == f

/-- Physical rank f meets R329: migration when a spare exists, shrinkage when none does; during a migration it waits (R331). -/
def Dev.retire (n f : Nat) (d : Dev) : Dev :=
  let m := d.stack n
  match m.map.logicalAt f with
  | none => d
  | some l =>
    match m.mig with
    | some g => if g.src = f ∨ f ∈ m.pendingRet then d
                else d.modStack n fun m => { m with pendingRet := m.pendingRet ++ [f] }
    | none => if m.map.spareValid then (d.startMigration n l).latchMemIrq else d.shrink n l

/-- Retirements that waited for a migration proceed (R331). -/
def Dev.runPending (n : Nat) (d : Dev) : Dev :=
  let fs := (d.stack n).pendingRet
  let d := d.modStack n fun m => { m with pendingRet := [] }
  d.forEach fs fun f d =>
    match (d.stack n).map.logicalAt f with
    | some l => d.shrink n l
    | none => d

/-- The copy ends: the map switches in one cycle, the source is retired, no spare is left, the pass resumes (R330). -/
def Dev.endMigration (n : Nat) (d : Dev) : Dev :=
  match (d.stack n).mig.filter fun g => Nat.ble rankBytes g.ptr with
  | none => d
  | some g =>
    let d := d.modStack n fun m =>
      { m with map := { (m.map.setPhys g.logical g.dst) with spareValid := false, retired := m.map.retired ||| 2 ^ g.src },
               mig := none, pend := m.pend.filter (fun r => !r.mig),
               scrub := m.scrub.map fun x => { x with paused := false } }
    let d := { d with recDirty := true }
    let d := ((d.bump .migrations n 0).raise (qMem n) 0x0B 3 n [g.logical]).latchMemIrq
    d.runPending n

/-- An uncorrectable read of the spare during a copy aborts the migration: the spare is retired, which cuts a pass over it, then the source (R328,
R331). -/
def Dev.abortMigration (n : Nat) (d : Dev) : Dev :=
  match (d.stack n).mig with
  | none => d
  | some g =>
    let d := d.modStack n fun m =>
      { m with map := { m.map with spareValid := false, retired := m.map.retired ||| 2 ^ g.dst }, mig := none,
               pend := m.pend.filter (fun r => !r.mig), scrub := m.scrub.map fun x => { x with paused := false } }
    let d := { d with recDirty := true }
    let d := if ((d.stack n).scrub.map (·.spare)).getD false then d.cutScrub n else d
    (d.shrink n g.logical).runPending n

/-! ### What a read shows (R321 to R325, R329) -/

/-- The physical rank that serves a read: the spare for a pass over the spare, otherwise the map. -/
def Dev.physOf (d : Dev) (n addr : Nat) (spare : Bool) : Nat :=
  if spare then (d.stack n).map.spare else (d.stack n).map.phys (logicalOf addr)

/-- A corrected read: counted per rank; more than CE_LIMIT in one second of device time retire the rank (R324, R329). -/
def Dev.corrected (n phys : Nat) (d : Dev) : Dev :=
  let sec := d.devSec
  let d := d.bump .ce n phys
  let d := d.modStack n fun m =>
    let now := if m.ceSec = sec then m.ceNow else []
    { m with ceSec := sec, ceNow := now.set 0 phys (now.get 0 phys + 1) }
  if max 1 (d.stack n).pri.ceLimit < (d.stack n).ceNow.get 0 phys then d.retire n phys else d

/-- An uncorrectable or poisoned read: logged, an event raised with the port as its object and the address and rank as its detail (DEDUCED, log entry
29); only an uncorrectable one counts in UE and retires (R323, R325, R329, R337, R462). -/
def Dev.badRead (n port addr phys : Nat) (poisoned : Bool) (d : Dev) : Dev :=
  let e : MemErr := { addr := addr, phys := phys, port := port, time := d.devNs, poison := poisoned }
  let d := d.modStack n fun m => { m with errLog := lastN 64 (m.errLog ++ [e]) }
  let d := d.raise (qMem n) 0x0B 1 port [addr / 2 ^ 20 % 2 ^ 20, addr % 2 ^ 20, phys]
  if poisoned then d.bump .poisonReads n phys
  else
    let d := (d.bump .ue n phys).latchMemIrq
    match (d.stack n).mig with
    | some g => if g.dst = phys then d.abortMigration n else d.retire n phys
    | none => d.retire n phys

/-- The word at an offset of a physical rank. -/
def physWord (phys addr : Nat) : Nat := physPlace phys addr / 32
def Stack.poisoned (m : Stack) (phys addr : Nat) : Bool := m.poison.get false (physWord phys addr)
/-- Set or clear the poison of a word of a physical rank (R323). -/
def Dev.poisonAt (n phys addr : Nat) (v : Bool) (d : Dev) : Dev :=
  d.modStack n fun m => { m with poison := m.poison.set false (physWord phys addr) v }

/-- The physical ranks that a write to a logical address goes to: that of the map, and the spare too where a migration's copy has passed it (R330). -/
def Stack.homes (m : Stack) (addr : Nat) : List Nat :=
  m.map.phys (logicalOf addr) ::
    match m.mig with
    | some g => if g.logical == logicalOf addr && Nat.blt addr g.addr then [g.dst] else []
    | none => []

/-- A word is written whole, as poison or not: a slot for each rank it goes to (R322, R323, R330). -/
def Dev.writeWord (n port addr : Nat) (v : Bool) (d : Dev) : Dev :=
  d.forEach ((d.stack n).homes addr) fun phys d => (d.access n port phys addr true).poisonAt n phys addr v

/-- The syndrome of a poison word, whose check symbols are the correct ones XOR this value (R323), and the check symbols of a word written as
poison or not. -/
def poisonSyndrome : BitVec 32 := 0xA5C33CA5
def checkSymbols (data : BitVec 256) (poison : Bool) : BitVec 32 :=
  if poison then Config.rsCheck data ^^^ poisonSyndrome else Config.rsCheck data
/-- The syndrome that a stored word shows: its check symbols XOR those of its data (R321, R323). -/
def syndrome (data : BitVec 256) (check : BitVec 32) : BitVec 32 := check ^^^ Config.rsCheck data

/-- What a read shows of a word (R321, R323): a word with the poison syndrome reads as poisoned, whatever caused it, so a poison word without a wrong
symbol does; any one wrong symbol of another is corrected, any two are detected; of more, what the code makes of them. -/
def WordRead.result (w : WordRead) (held : Bool) : ReadResult :=
  if w.syn = poisonSyndrome then .poisoned
  else if held then (if w.wrong.val = 0 then .poisoned else w.seen)
  else match w.wrong.val with
    | 0 => .ok
    | 1 => .corrected
    | 2 => .uncorrectable
    | _ => w.seen

def ReadResult.bad : ReadResult → Bool
  | .uncorrectable | .poisoned => true
  | _ => false

/-- What each read does whatever it was made for: a corrected word counts, a bad one is logged and reported (R324, R325). -/
def Dev.readSeen (n port addr phys : Nat) (r : ReadResult) (d : Dev) : Dev :=
  match r with
  | .ok => d
  | .corrected => d.corrected n phys
  | .uncorrectable => d.badRead n port addr phys false
  | .poisoned => d.badRead n port addr phys true

/-- The scrub port writes a word: the one that a migration copies, into the spare (R330), or the one that a pass writes back (R326). Any other
write of the port is none. -/
def Dev.copyWritten (n addr : Nat) (d : Dev) : Dev :=
  let m := d.stack n
  match m.mig.bind fun g => if g.addr == addr then g.word.map fun v => (g, v) else none with
  | some (g, v) =>
    ((d.access n 6 g.dst addr true).poisonAt n g.dst addr v).modStack n fun m => { m with mig := some { g with ptr := g.ptr + 32, word := none } }
  | none =>
    match m.scrub.bind fun x => if x.addr == addr then x.back.map fun v => (x, v) else none with
    | some (x, v) =>
      let d := if x.spare then (d.access n 6 m.map.spare addr true).poisonAt n m.map.spare addr v else d.writeWord n 6 addr v
      let d := d.modStack n fun m => { m with scrub := some { x with done := x.done + 32, back := none } }
      match x.stop with
      | some status => d.endScrub n status .aborted
      | none => d
    | none => d

/-- A write performed (R317, R322, R323): the word is written whole, which clears poison, or as poison where the read of a read-modify-write was bad. -/
def Dev.writePerformed (n port addr : Nat) (r : MemRq) (d : Dev) : Dev :=
  let d := d.memDone n r
  if port = 6 then d.copyWritten n addr else d.writeWord n port addr r.poison

/-- The read of a read-modify-write (R322): the write follows it in its place, as poison when the read was bad. -/
def Dev.rmwRead (n : Nat) (r : MemRq) (res : ReadResult) (d : Dev) : Dev :=
  (d.modStack n fun m => { m with pend := m.pend.replace r { r with part := false, poison := res.bad } }).bump .rmw n r.port

/-! ### Commands (Table 11.9) -/

def memChecks (rq : Req) (d : Dev) (n : Nat) : List Check :=
  [chkLen rq n, chkReady d [[if rq.prm 0 < 8 then fnMem (rq.prm 0) else 99]], chkRange rq [(0, 0, 7)]]

def cmdMemCfgSet : Cmd := fun rq d =>
  withChecks (memChecks rq d 4) d <|
    let pri : MemPri := { pktWr := rq.bits 1 3 17, pktRd := rq.bits 1 3 14, spill := rq.bits 1 3 11, tables := rq.bits 1 3 8,
                          hostDma := rq.bits 1 3 5, fw := rq.bits 1 3 2, scrub := rq.bits 2 3 17, ceLimit := max 1 (rq.prm 3) }
    okDone (d.modStack (rq.prm 0) fun m => { m with pri := pri, priPast := m.priPast ++ [(d.now, m.pri)] })

/-- `MEM_STATUS` (Table 11.8). -/
def Stack.status (m : Stack) : List Word :=
  let r := m.map
  [BitVec.ofNat 20 (r.l0 * 2 ^ 18 + r.l1 * 2 ^ 16 + r.l2 * 2 ^ 14 + r.spare * 2 ^ 12 + r.spareValid.toNat * 2 ^ 11 + r.active * 2 ^ 8 +
     m.mig.isSome.toNat * 2 ^ 7 + (m.mig.map (·.logical)).getD 0 * 2 ^ 5 + m.scrub.isSome.toNat * 2 ^ 4 +
     ((m.scrub.map (·.paused)).getD false).toNat * 2 ^ 3 + m.refresh2x.toNat * 2 ^ 2 + m.oneCopy.toNat * 2),
   BitVec.ofNat 20 ((m.mig.map (·.ptr)).getD 0 / 16384), BitVec.ofNat 20 (m.temp * 2 ^ 12 + r.retired)]

/-- `mem_status`: the record and the counts of R335; the counts per bank come as their two sums (log entry 15). -/
def cmdMemStatus : Cmd := fun rq d =>
  withChecks (memChecks rq d 1) d <|
    let n := rq.prm 0
    let c := fun (x : CN) i => resWide 48 (d.count x n i).val.toNat
    let sum := fun (x : CN) => resWide 48 ((List.range 4096).foldl (fun a i => a + (d.count x n i).val.toNat) 0 % 2 ^ 48)
    okWith d (resWords (d.stack n).status ++
      ((List.range 4).flatMap fun r => c .ce r ++ c .ue r ++ c .dieCorr r ++ c .poisonReads r) ++
      ((List.range 7).flatMap fun p => c .rmw p ++ c .memReads p ++ c .memWrites p ++ c .memSlots p) ++
      sum .neighbourRef ++ sum .throttles ++
      c .migrations 0 ++ c .shrinkages 0 ++ c .retiredBufs 0 ++ c .sramCe 0 ++ c .sramUe 0)

/-- `scrub_start`: slice; start, 36 bits; length, 36 bits; write-back; target (R326). The pass is ASYNC work (R405). -/
def cmdScrubStart : Cmd := fun rq d =>
  let n := rq.prm 0
  let start := rq.wide2 1
  let len := rq.wide2 3
  let limit := if rq.flag 6 then rankBytes else 3 * rankBytes
  withChecks (memChecks rq d 7 ++ [chkRange rq [(1, 0, 65535)], failIf (start % 32 != 0) .range 2, chkRange rq [(3, 0, 65535)],
      failIf (len % 32 != 0 || len == 0 || decide (limit < start + len)) .range 4, chkRange rq [(5, 0, 1), (6, 0, 1)],
      failIf (rq.flag 6 && !(d.stack n).map.spareValid) .notFound, failIf (d.stack n).scrub.isSome .busy]) d <|
    let x : Scrub := { start := start, len := len, wb := rq.flag 5, spare := rq.flag 6, mb := rq.mb.val,
                       paused := (d.stack n).mig.isSome }
    ({ code := .async }, (d.modStack n fun m => { m with scrub := some x }).addJob rq 0x0B12)

/-- `scrub_abort`: the pass ends after the word in progress; the command is answered once that word is written back (R328). -/
def cmdScrubAbort : Cmd := fun rq d =>
  let n := rq.prm 0
  withChecks (memChecks rq d 1 ++ [failIf (d.stack n).scrub.isNone .notFound]) d <|
    if ((d.stack n).scrub.bind (·.back)).isSome then
      ({ later := true }, d.modStack n fun m =>
        { m with scrub := m.scrub.map fun x => { x with stop := some (x.stop.getD 1), asker := some (rq.mb.val, rq.tag) } })
    else
      let sum := ((d.stack n).scrub.map fun x => x.summary 1).getD []
      okWith (d.endScrub n 1 .aborted) sum

/-- `rank_migrate`: BUSY while a migration runs, REFUSED without a spare (R331, R404). -/
def cmdRankMigrate : Cmd := fun rq d =>
  let n := rq.prm 0
  let m := d.stack n
  withChecks (memChecks rq d 2 ++ [chkRange rq [(1, 0, 2)], failIf (!m.map.inService (rq.prm 1)) .notFound,
      failIf m.mig.isSome .busy, failIf (!m.map.spareValid) .refused 1]) d <|
    okDone ((d.startMigration n (rq.prm 1)).latchMemIrq)

/-- `mem_error_log`: the number of entries, then the address, physical rank, port and device time of each (R402, Table 11.9). -/
def cmdMemErrorLog : Cmd := fun rq d =>
  withChecks ([chkLen rq 3, chkDma rq d] ++ (memChecks rq d 3).drop 1 ++ [failIf (rq.raw 1 % 4 != 0) .range 1]) d <|
    let es := (d.stack (rq.prm 0)).errLog
    let ws := resWide 7 es.length ++ es.flatMap fun e => resWide 36 e.addr ++ resWide 2 e.phys ++ resWide 3 e.port ++ resWide 64 e.time
    okDone (d.hostWrite rq.mb.val (rq.addr 1) ws)

/-- The stack temperature of each ms (R319). -/
def Dev.stackTemp (n temp : Nat) (d : Dev) : Dev :=
  d.modStack n fun m =>
    { m with temp := temp % 256, refresh2x := if 85 ≤ temp then true else if temp < 80 then false else m.refresh2x }

/-- The words of the four control regions of one copy (Table 11.1, R313). -/
def controlWords : Nat := 46137344

/-- The surviving copy of the control regions has been copied from physical rank f into physical rank g: a read and a write of each word by the scrub
port, whose poison goes with it (R313, R323; DESIGN CHOICE, log entry 86). -/
def Dev.copyControl (n f g : Nat) (d : Dev) : Dev :=
  let base := fun (phys : Nat) => physPlace phys 0x200000000 / 32
  let inCopyOf := fun (phys : Nat) (e : Nat × Bool) => Nat.ble (base phys) e.1 && Nat.blt e.1 (base phys + controlWords)
  ((d.modStack n fun m =>
    (m.poison.filter (inCopyOf f)).foldl (fun m e => { m with poison := m.poison.set false (e.1 - base f + base g) true })
      { m with poison := m.poison.filter fun e => !inCopyOf g e }).slotsUsed n 6 controlWords false).slotsUsed n 6 controlWords true

/-- The second copy of the control regions is complete: it lies in L2, or, where L2 is the rank lost, in the rank of the
surviving copy's peer (R313). -/
def Dev.copyRebuilt (n : Nat) (d : Dev) : Dev :=
  let m := d.stack n
  if m.oneCopy then
    let a := m.map.ctrlA
    let b := m.map.ctrlB
    let keep := if m.map.inService a then a else b
    match [2, 1, 0].find? fun l => m.map.inService l && l != keep with
    | none => d
    | some l =>
      ((d.copyControl n (m.map.phys keep) (m.map.phys l)).modStack n fun m => { m with oneCopy := false, map := { m.map with ctrlA := keep, ctrlB := l } }).raise (qMem n) 0x0B 5 n [l]
  else d

end Sys2Proof
end

