-- ==== Sys2Proof/Machine/Trap.lean ====
section
/-! DEFINITION. The Moth Trap: candidates, slots, stages and records (R457 to R461). -/

namespace Sys2Proof

/-- One step of the 64-bit LFSR with polynomial x^64 + x^63 + x^61 + x^60 + 1 (R458). -/
def lfsrStep (x : BitVec 64) : BitVec 64 :=
  let fb := xor (xor (x.getLsbD 63) (x.getLsbD 62)) (xor (x.getLsbD 60) (x.getLsbD 59))
  (x <<< 1) ||| (BitVec.ofBool fb).setWidth 64

def Observe.moth (o : Observe) (dir : Dir) : Moth := match dir with | .down => o.mothDs | .up => o.mothUs
def Observe.setMoth (o : Observe) (dir : Dir) (m : Moth) : Observe :=
  match dir with | .down => { o with mothDs := m } | .up => { o with mothUs := m }

/-- A slot freed in one cycle can be taken from the next (R459). -/
def Observe.freeSlot (o : Observe) (cycle : Nat) : Option Nat :=
  (List.range 256).find? fun i => let s := o.slots.get {} i; !s.used && decide (s.freed ≤ cycle)

/-- A frame that enters a dispatch backlog is a candidate and may be tagged (R457 to R459). The base is its arrival, in device
time and on the FRC, in ns. -/
def Dev.mothCandidate (n : Nat) (dir : Dir) (port cls : Nat) (aid base baseFrc : Nat) (d : Dev) : Option Nat × Dev :=
  let o := (d.slice n).obs
  let m := o.moth dir
  if (m.anyPort || m.port == port) && m.mask.testBit cls && m.rate != 0 then
    let x := lfsrStep m.lfsr
    let d := d.modObs n fun o => o.setMoth dir { m with lfsr := x }
    if (x >>> 32).toNat < 2 ^ 32 / m.rate then
      match o.freeSlot d.cycle with
      | none => (none, d.bump .mothBusy n dir.num)
      | some i =>
        let s : TrapSlot := { used := true, dir := dir, cls := cls, port := port, aid := aid, base := base % 2 ^ 40,
                              baseFrc := baseFrc }
        (some i, (d.modObs n fun o => { o with slots := o.slots.set {} i s }).perf n 14 dir.num 0 1)
    else (none, d)
  else (none, d)

/-- Stage k of a tagged frame at the present FRC (Table 16.8, R460). -/
def Dev.mothStageAt (n : Nat) (moth : Option Nat) (k frcNs : Nat) (d : Dev) : Dev :=
  match moth with
  | none => d
  | some i => d.modObs n fun o => { o with slots := o.slots.upd {} i fun s =>
      { s with stages := s.stages.set 0 k (frcNs - s.baseFrc + 1) } }

def Dev.mothStage (n : Nat) (moth : Option Nat) (k : Nat) (d : Dev) : Dev := d.mothStageAt n moth k d.time.frcNs

/-- An undo of a take of the frame (R460). -/
def Dev.mothRewind (n : Nat) (moth : Option Nat) (d : Dev) : Dev :=
  match moth with
  | none => d
  | some i => d.modObs n fun o => { o with slots := o.slots.upd {} i fun s => { s with rewinds := satInc 63 s.rewinds } }

def Dev.mothSet (n : Nat) (moth : Option Nat) (f : TrapSlot → TrapSlot) (d : Dev) : Dev :=
  match moth with
  | none => d
  | some i => d.modObs n fun o => { o with slots := o.slots.upd {} i f }

/-- A stage offset in its 20 bits: MANT times 4^SCALE ns (R461). -/
def trapOffset (v : Nat) : Nat :=
  match (List.range 8).find? fun s => decide (v / 4 ^ s < 2 ^ 17) with
  | some s => s * 2 ^ 17 + v / 4 ^ s
  | none => 0xFFFFF

/-- The record of a slot (Table 16.9). -/
def TrapSlot.record (s : TrapSlot) (seq outcome length : Nat) : List Word :=
  [seq, s.dir.num * 2 ^ 19 + s.cls * 2 ^ 16 + s.port * 2 ^ 11 + outcome * 2 ^ 8, s.lfn, s.aid, s.base / 2 ^ 20, s.base % 2 ^ 20] ++
    ((List.range 8).map fun k => let v := s.stages.get 0 (k + 1); if v = 0 then 0 else trapOffset (v - 1)) ++
    [length * 2 ^ 6 + s.rewinds, seq] |>.map (BitVec.ofNat 20)

/-- The frame's fate is settled: the record goes to the slice's trap queue, or is lost when it is full; the slot is freed
(R461). Outcomes are those of Table 16.9. -/
def Dev.mothClose (n : Nat) (moth : Option Nat) (outcome length : Nat) (d : Dev) : Dev :=
  match moth with
  | none => d
  | some i =>
    let o := (d.slice n).obs
    let s := o.slots.get {} i
    if !s.used then d
    else
      let full := o.trapIdx.full 1024
      let r := s.record o.trapSeq outcome length
      let d := d.modObs n fun o =>
        { o with slots := o.slots.set {} i { freed := d.cycle + 1 }, trapSeq := (o.trapSeq + 1) % 2 ^ 20,
                 trapIdx := if full then o.trapIdx.lose else o.trapIdx.push 1024,
                 trapQ := if full then o.trapQ else o.trapQ.set [] (o.trapIdx.dev % 1024) r }
      if full then d else d.due (793 + n)

end Sys2Proof
end

