-- ==== Sys2Proof/Machine/Buffers.lean ====
section
/-! DEFINITION. Buffers, staging, stallholders, queue cells and queues of a slice (08_buffers_queues.md). -/

namespace Sys2Proof

/-! ### The transmit side of a system port -/

def Dev.egress (d : Dev) (p : Nat) : Egress := (d.slice (p / 32)).sched.egress.get {} (p % 32)
def Dev.modEgress (p : Nat) (f : Egress → Egress) (d : Dev) : Dev :=
  d.modSched (p / 32) fun s => { s with egress := s.egress.upd {} (p % 32) f }
/-- A frame for the port has gone or been dropped: the port may be empty from now on (R274). -/
def Dev.portEmptier (p : Option Nat) (d : Dev) : Dev :=
  match p with
  | none => d
  | some p => d.modEgress p fun e => { e with emptySince := d.now }

/-! ### Buffers and their decisions (R231 to R245) -/

/-- Pool and index of a buffer as one key. -/
def bufKey (p i : Nat) : Nat := p * 2 ^ 20 + i

def Dev.buffer (d : Dev) (n p i : Nat) : Buffer := (d.slice n).buf.bufs.get {} (bufKey p i)
/-- The owner tag (Table 8.5): 0 marks a free buffer; a buffer of a retired rank that nobody holds is retired (R332). -/
def Dev.tagOf (d : Dev) (n p i : Nat) : Nat :=
  let t := (d.buffer n p i).tag
  if t == 0 && !(d.stack n).map.inService (i % 3) then 0xFF else t
def Dev.allocated (d : Dev) (n p i : Nat) : Bool := (d.buffer n p i).tag != 0
def Dev.setBuffer (n p i : Nat) (b : Buffer) (d : Dev) : Dev :=
  d.modBuf n fun x => { x with bufs := x.bufs.set {} (bufKey p i) b }
def Dev.modFrame (n p i : Nat) (f : Frame → Frame) (d : Dev) : Dev :=
  d.setBuffer n p i { d.buffer n p i with frame := f (d.buffer n p i).frame }

/-- Buffers of pool p that stallholder h holds (R238). -/
def BufSt.held (b : BufSt) (h p : Nat) : Nat :=
  (b.bufs.filter fun e => e.1 / 2 ^ 20 == p && e.2.holder == h).length

/-- A minimum counts only for a valid stallholder (R239). -/
def Stallholder.minBuf (x : Stallholder) (p : Nat) : Nat := if x.valid then x.bufMin.get 0 p else 0
def Stallholder.minCell (x : Stallholder) (priv : Bool) : Nat := if x.valid && x.priv == priv then x.cellMin else 0

/-- Shared use of a pool: the sum over stallholders of what each holds above its minimum (R239). -/
def BufSt.sharedUse (b : BufSt) (p : Nat) : Nat :=
  (List.range 256).foldl (fun a h => a + (b.held h p - (b.holders.get {} h).minBuf p)) 0

/-- The decision of R239 for a stallholder that holds h, with minimum lo and maximum hi. -/
def decide239 (valid free : Bool) (h lo hi use part pct : Nat) (yellow : Bool) : Bool :=
  if !valid then false
  else if h < lo then free
  else if h < hi && use < part then
    free && !(yellow && decide (pct * (hi - lo) ≤ (h - lo) * 100))
  else false

/-- Grants of a pool or bank in the present cycle (R237). -/
def BufSt.cycleUse (b : BufSt) (i cycle : Nat) : CycleUse :=
  let u := b.cyc.get {} i
  if u.cycle = cycle then u else { cycle := cycle }

/-- The summary levels over a store of free bits (R236): a bit of S1 for 64 free bits, of S2 for 64 of S1, of S3 for 64 of S2. -/
def sumS1 (free : Nat → Bool) (i : Nat) : Bool := (List.range 64).any fun b => free (64 * i + b)
def sumS2 (free : Nat → Bool) (i : Nat) : Bool := (List.range 64).any fun b => sumS1 free (64 * i + b)
def sumS3 (free : Nat → Bool) (i : Nat) : Bool := (List.range 64).any fun b => sumS2 free (64 * i + b)

/-- The lowest set bit of a word of k bits. -/
def lowestBit (k : Nat) (w : Nat → Bool) : Option Nat := (List.range k).find? w

/-- Find-first-free over the four levels (R237). -/
def findFirstFree (free : Nat → Bool) : Option Nat :=
  (lowestBit 4 (sumS3 free)).bind fun a =>
  (lowestBit 64 fun i => sumS2 free (64 * a + i)).bind fun b =>
  (lowestBit 64 fun i => sumS1 free (4096 * a + 64 * b + i)).bind fun c =>
  (lowestBit 64 fun i => free (262144 * a + 4096 * b + 64 * c + i)).map fun e => 262144 * a + 4096 * b + 64 * c + e

/-- The free bit of buffer i of pool p: neither allocated nor retired (R236, R332). -/
def Dev.freeBit (d : Dev) (n p i : Nat) : Bool := decide (i < Config.poolBuffers) && d.tagOf n p i == 0

/-- The lowest free buffer of pool p (R237). -/
def Dev.freeBuffer (d : Dev) (n p : Nat) : Option Nat := findFirstFree (d.freeBit n p)

/-- Staging segments free (R235). -/
def BufSt.stageFree (b : BufSt) : Nat := Config.stageSegments - b.bufs.foldl (fun a e => a + e.2.staged) 0

/-- The first pool asked: the smallest whose buffers hold the frame and 16 bytes, else pool 5 (R233). -/
def firstPool (len : Nat) : Nat := ((List.range 6).find? fun p => decide (len + 16 ≤ Config.poolSize p)).getD 5

/-- The offset at which a frame is stored (R233). -/
def frameOffset (p len : Nat) : Nat := min 16 (Config.poolSize p - len)

/-- The owner tag that a grant sets (R243); ring is that of a host transmit frame or mirror copy. -/
def grantTag (party ring : Nat) : Nat :=
  if party < 4 then 0x01 else if party < 8 then 0x02 else if party = 8 then 0x50 + ring else if party = 9 then 0xE0
  else 0x10 + ring

/-- One request to one pool (R237, R239, R242): granted, with its staging if the frame came downstream (R235), or refused and
counted per party and pool (R234). -/
def Dev.askPool (n p party holder ring : Nat) (f : Frame) (d : Dev) : Option Nat × Dev :=
  let b := (d.slice n).buf
  let u := b.cycleUse p d.cycle
  let s := b.holders.get {} holder
  let ok := decide239 s.valid (d.freeBuffer n p).isSome (b.held holder p) (s.minBuf p) (s.bufMax.get 0 p) (b.sharedUse p)
    (d.sharedPart n p) s.yellowPct false
  match (if ok && decide (u.grants < 8) then d.freeBuffer n p else none) with
  | none => (none, (d.bump .poolRefused n (party * 6 + p)).perf n 12 2 p 1)
  | some i =>
    let off := frameOffset p f.bytes.length
    let segs := cdiv (off + f.bytes.length) 256
    let free := b.stageFree
    let stage := decide (4 ≤ party ∧ party < 8) && (if f.cls0 then decide (segs ≤ free) else decide (b.stageReserve + segs ≤ free))
    let x : Buffer := { tag := grantTag party ring, holder := holder, staged := if stage then segs else 0, off := off,
                        left := if stage then 0 else 2 ^ cdiv (off + f.bytes.length) 32 - 1, frame := f }
    let d := d.modBuf n fun b =>
      { b with bufs := b.bufs.set {} (bufKey p i) x, cyc := b.cyc.set {} p { u with grants := u.grants + 1 },
               rot := if party < 8 then b.rot.set 0 p ((party + 1) % 8) else b.rot }
    (some i, d)

/-- Parties that may free or re-tag a buffer of a tag (Table 8.5). -/
def mayFree (tag party : Nat) : Bool :=
  if tag = 1 then decide (party < 4)
  else if tag = 2 then decide (4 ≤ party ∧ party < 8)
  else if tag = 3 then party == 10 || party == 12 || party == 13
  else if tag = 4 then party == 11 || party == 12 || party == 13
  else if 0x10 ≤ tag ∧ tag ≤ 0x8F then party == 8
  else if tag = 0xE0 then party == 9
  else false

/-- A refused free raises an event that names the handle, the party and the tag (R244; log entry 16). -/
def Dev.freeRefused (c : CN) (n party slice p i tag : Nat) (d : Dev) : Dev :=
  (d.bump c n party).raise (qSlice n) 0x08 1 (i % 2 ^ 20) [slice * 8 + p, party, tag]

/-- A free is decided (R232, R244): refused and counted, or the buffer returns to its pool, of a retired rank with tag 0xFF (R332). -/
def Dev.endFree (n party slice p i : Nat) (d : Dev) : Dev :=
  if slice ≠ n ∨ 6 ≤ p ∨ Config.poolBuffers ≤ i then d.freeRefused .freeInvalid n party slice p i 0
  else
    let tag := d.tagOf n p i
    if tag = 0 then d.freeRefused .freeDouble n party slice p i 0
    else if !mayFree tag party then d.freeRefused .freeForeign n party slice p i tag
    else d.modBuf n fun x => { x with bufs := x.bufs.erase (bufKey p i) }

/-- A free that comes after another of the same buffer in the cycle is a double free, whatever became of the first (R245). -/
def Dev.endFreeAgain (n party p i : Nat) (d : Dev) : Dev := d.freeRefused .freeDouble n party n p i (d.tagOf n p i)

/-- The handle names a buffer of the slice. -/
def validHandle (n slice p i : Nat) : Bool := slice == n && decide (p < 6) && decide (i < Config.poolBuffers)

/-- The frees of a cycle in their order; named are those that came before (R245). -/
def Dev.endFreeList : List (Nat × Nat × Nat × Nat × Nat) → List (Nat × Nat × Nat) → Dev → Dev
  | [], _, d => d
  | (n, party, s, p, i) :: xs, named, d =>
    if validHandle n s p i && named.contains (n, p, i) then (d.endFreeAgain n party p i).endFreeList xs named
    else (d.endFree n party s p i).endFreeList xs ((n, p, i) :: named)

/-- A free by its handle: it is decided at the end of the cycle (R237, R245). -/
def Dev.freeHandle (n party slice p i : Nat) (d : Dev) : Dev := { d with ending := d.ending ++ [.free n party slice p i] }
def Dev.freeBuf (n party p i : Nat) (d : Dev) : Dev := d.freeHandle n party n p i

/-- A re-tag by a party that the present tag allows; any other is refused as a foreign free (R243). -/
def Dev.retag (n party p i tag : Nat) (d : Dev) : Dev :=
  let b := d.buffer n p i
  if mayFree b.tag party then d.setBuffer n p i { b with tag := tag }
  else d.freeRefused .freeForeign n party n p i (d.tagOf n p i)

/-- A frame is dropped or discarded: its trap record with the outcome, its unsent time stamp, its buffer freed (R357, R461). -/
def Dev.dropBuffer (n party p i outcome : Nat) (sysPort : Option Nat) (d : Dev) : Dev :=
  let f := (d.buffer n p i).frame
  let d := d.mothClose n f.moth outcome f.bytes.length
  ((d.tsNotSent f sysPort).portEmptier sysPort).freeBuf n party p i

/-! ### Cells (R239, R246, R250) -/

def cellIsPriv (c : Nat) : Bool := decide (c < Config.privCells)
def BufSt.heldCells (b : BufSt) (h : Nat) (priv : Bool) : Nat :=
  (b.cells.filter fun e => cellIsPriv e.1 == priv && e.2.holder == h).length
def bankSize (priv : Bool) : Nat := if priv then Config.privCells else Config.allCells - Config.privCells
def BufSt.cellShare (b : BufSt) (priv : Bool) : Nat :=
  bankSize priv - b.holders.foldl (fun a e => a + e.2.minCell priv) 0
def BufSt.cellUse (b : BufSt) (priv : Bool) : Nat :=
  (List.range 256).foldl (fun a h => a + (b.heldCells h priv - (b.holders.get {} h).minCell priv)) 0

/-- A bank's first cell and the number that its allocation state has: ordinary 6, privileged 7. -/
def bankFirst (priv : Bool) : Nat := if priv then 0 else Config.privCells
def bankNo (priv : Bool) : Nat := if priv then 7 else 6

/-- The lowest free cell of a bank: its free store has the summary levels of R236. -/
def BufSt.freeCell (b : BufSt) (priv : Bool) : Option Nat :=
  (findFirstFree fun i => decide (i < bankSize priv) && !(b.cells.get {} (bankFirst priv + i)).used).map (bankFirst priv + ·)

/-- A cell for queue q, charged to holder h, from the bank the queue uses, granted to a party (R239, R242). -/
def BufSt.takeCell (b : BufSt) (q h party : Nat) (priv yellow : Bool) (cycle : Nat) : Option (Nat × BufSt) :=
  let u := b.cycleUse (bankNo priv) cycle
  let s := b.holders.get {} h
  match b.freeCell priv with
  | none => none
  | some c =>
    if decide239 s.valid true (b.heldCells h priv) (s.minCell priv) s.cellMax (b.cellUse priv) (b.cellShare priv) s.yellowPct yellow &&
        decide (u.grants < 8) then
      some (c, { b with cells := b.cells.set {} c { queue := q, holder := h, used := true },
                        cyc := b.cyc.set {} (bankNo priv) { u with grants := u.grants + 1 },
                        rot := if party < 8 then b.rot.set 0 (bankNo priv) ((party + 1) % 8) else b.rot })
    else none

/-- Cells are freed at the end of the cycle (R236, R237). -/
def Dev.freeCells (n : Nat) (cs : List Nat) (d : Dev) : Dev := { d with ending := d.ending ++ cs.map (.cell n) }

/-! ### Queues (R247 to R253) -/

def Dev.queue (d : Dev) (n q : Nat) : Queue := (d.slice n).buf.queues.get {} q
def Dev.setQueue (n q : Nat) (x : Queue) (d : Dev) : Dev := d.modBuf n fun b => { b with queues := b.queues.set {} q x }
def Dev.modQueue (n q : Nat) (f : Queue → Queue) (d : Dev) : Dev := d.setQueue n q (f (d.queue n q))

def descBytes (ds : List Desc) : Nat := ds.foldl (fun a x => a + x.length) 0
def Queue.unread (q : Queue) : List Desc := q.descs.drop q.readN
/-- The next descriptor to be read. -/
def Queue.head (q : Queue) : Option Desc := q.unread.head?
def Queue.qBytes (q : Queue) : Nat := descBytes q.descs
def Queue.uBytes (q : Queue) : Nat := descBytes q.unread
/-- READ as a position: descriptors counted since the last reset. -/
def Queue.readPos (q : Queue) : Nat := q.base + q.readN
def Queue.tailPos (q : Queue) : Nat := q.base + q.descs.length

/-! ### Cells and descriptors as words (Tables 8.6, 8.7) -/

/-- A descriptor as four native words (Table 8.7). -/
def Desc.words (x : Desc) : List Word :=
  [x.index, x.pool * 2 ^ 17 + x.cls * 2 ^ 14 + x.yellow.toNat * 2 ^ 12 + x.staged.toNat * 2 ^ 11 + x.poison.toNat * 2 ^ 10 + x.moth.toNat * 2 ^ 9 +
     x.tsReq.toNat * 2 ^ 8, x.offset * 2 ^ 15 + x.lfn.isSome.toNat * 2 ^ 14 + x.length, x.lfn.getD 0].map (BitVec.ofNat 20)

/-- The descriptor in slot s of the j-th cell of a queue, if the slot lies from HEAD to TAIL. -/
def Queue.inSlot (q : Queue) (j s : Nat) : Option Desc :=
  let pos := (q.base / 3 + j) * 3 + s
  if pos < q.base then none else q.descs[pos - q.base]?

/-- A cell as sixteen native words (Table 8.6): its descriptors, NEXT, its queue, NEXT_COPY in the privileged bank, its stallholder. A slot
outside the queue, and NEXT of the last cell, read 0. -/
def BufSt.cellWords (b : BufSt) (c : Nat) : List Word :=
  let x := b.cells.get {} c
  let q := b.queues.get {} x.queue
  let j := q.cells.idxOf c
  let next := BitVec.ofNat 20 (q.cells.getD (j + 1) 0)
  ((List.range 3).flatMap fun s => ((q.inSlot j s).map Desc.words).getD [0, 0, 0, 0]) ++
    [next, BitVec.ofNat 20 x.queue, if cellIsPriv c then next else 0, BitVec.ofNat 20 x.holder]

/-- Start a sweep, or one more after the one that runs (R254). -/
def Dev.triggerSweep (n : Nat) (d : Dev) : Dev :=
  d.modBuf n fun b => if b.sweeping then { b with sweepAgain := true } else { b with sweeping := true }

/-- The system port that a queue serves. -/
def QueueCfg.sysPort (c : QueueCfg) (n : Nat) : Option Nat := if c.kind = 1 then some (32 * n + c.target) else none

/-- Reset a queue (R252): the next generation, empty, counted, an event with the cause, the sweep. -/
def Dev.resetQueue (n q cause : Nat) (d : Dev) : Dev :=
  let d := d.modQueue n q fun x => { x with gen := (x.gen + 1) % 2 ^ 20, descs := [], base := 0, readN := 0, cells := [], fault := .ok }
  (((d.portEmptier ((d.queue n q).cfg.sysPort n)).bump .qReset n q).raise (qSlice n) 0x08 3 q [cause]).triggerSweep n

/-- An uncorrectable word of an on-die memory: counted, with an event that names the memory and the entry (R334). The memories have the numbers
of their table codes; 16 is the queue positions and cells, 17 staging, 18 the take log (log entry 114). -/
def Dev.sramBad (n memory entry : Nat) (d : Dev) : Dev := (d.bump .sramUe n 0).raise (qMem n) 0x0B 6 memory [entry % 2 ^ 20]

/-- Something befalls a queue: it is found at the queue's next use. -/
def Dev.damage (n q : Nat) (f : QFault) (d : Dev) : Dev :=
  if f = .ok ∨ f = .takeLog then d else d.modQueue n q fun x => { x with fault := f }

/-- A use of a queue compares its copies and checks the cells on its path (R252, R255); f is what has just befallen it. Causes 1 to 3 are copies,
cell, foreign cell. An ordinary queue is reset; a privileged one only when both its copies fail or differ, its `NEXT` standing twice as well. A
failed word of a privileged descriptor stays until it is read (R256). -/
def Dev.checkQueue (n q : Nat) (f : QFault) (d : Dev) : Dev :=
  let d := d.damage n q f
  let Q := d.queue n q
  let priv := Q.cfg.isPriv
  let mended := fun (d : Dev) => d.modQueue n q fun x => { x with fault := .ok }
  match Q.fault with
  | .ok | .takeLog => d
  | .onePrivCopy => mended d
  | .copiesDiffer => d.resetQueue n q 1
  | .bothPriv => if priv then d.resetQueue n q 1 else mended d
  | .cell => if priv then mended d else (d.sramBad n 16 q).resetQueue n q 2
  | .foreign => if priv then mended d else d.resetQueue n q 3
  | .word _ => if priv then d else (d.sramBad n 16 q).resetQueue n q 2

/-- A privileged descriptor with a parity failure is delivered poisoned; of word 0 or 1, its handle is not trusted (R256). -/
def poisonDesc (c : QueueCfg) (f : QFault) (x : Desc) : Desc :=
  match f with
  | .word w => if c.isPriv then { x with poison := true, badHandle := decide (w.val < 2) } else x
  | _ => x

/-- Enqueue (R248, R250): refused when the queue holds DESC_MAX descriptors, dropped when it gets no cell. -/
inductive EnqRes | done | full | noCell
  deriving DecidableEq, Repr

def Dev.enqueue (n q holder party : Nat) (x : Desc) (d : Dev) : EnqRes × Dev :=
  let d := d.checkQueue n q .ok
  let Q := d.queue n q
  if Q.cfg.descMax != 0 && decide (Q.cfg.descMax ≤ Q.descs.length) then (.full, d.bump .qFull n q)
  else
    let b := (d.slice n).buf
    let priv := Q.cfg.isPriv
    let first := if Q.cells.isEmpty then b.takeCell q holder party priv x.yellow d.cycle else none
    let step1 : Option (BufSt × List Nat) :=
      if Q.cells.isEmpty then first.map fun (c, b) => (b, [c]) else some (b, Q.cells)
    let step2 : Option (BufSt × List Nat) := step1.bind fun (b, cs) =>
      if Q.tailPos % 3 = 2 then (b.takeCell q holder party priv x.yellow d.cycle).map fun (c, b) => (b, cs ++ [c]) else some (b, cs)
    match step2 with
    | none => (.noCell, (d.bump .cellRefused n q).perf n 13 2 0 1)
    | some (b, cs) =>
      (.done, (d.modBuf n fun _ => b).setQueue n q { Q with descs := Q.descs ++ [x], cells := cs })

/-- Read the next descriptor and advance READ; what had befallen that descriptor goes with it. -/
def Queue.advance (q : Queue) : Queue := if q.readN < q.descs.length then { q with readN := q.readN + 1, fault := .ok } else q

/-- Rewind READ to a position of the queue's generation (R248); false: the token is stale, by a reset before or at this use. -/
def Dev.rewind (n q gen pos : Nat) (d : Dev) : Bool × Dev :=
  let d := d.checkQueue n q .ok
  let Q := d.queue n q
  if Q.gen ≠ gen then (false, d)
  else if pos < Q.base ∨ Q.readPos < pos then (true, d.bump .qBadtoken n q)
  else (true, d.setQueue n q { Q with readN := pos - Q.base })

/-- Release up to a position (R248): queue space and the cells that HEAD has left are freed; a stale token is ignored. -/
def Dev.release (n q gen pos : Nat) (d : Dev) : Dev :=
  let d := d.checkQueue n q .ok
  let Q := d.queue n q
  if Q.gen ≠ gen then d
  else if pos < Q.base ∨ Q.readPos < pos then d.bump .qBadtoken n q
  else
    let k := pos - Q.base
    let gone := pos / 3 - Q.base / 3
    let d := d.freeCells n (Q.cells.take gone)
    d.setQueue n q { Q with descs := Q.descs.drop k, base := pos, readN := Q.readN - k, cells := Q.cells.drop gone }

/-- The charge of a buffer moves to holder h with the frame's colour (R240). -/
def Dev.chargeMoves (d : Dev) (n p i h : Nat) (yellow : Bool) : Bool :=
  let b := (d.slice n).buf
  let s := b.holders.get {} h
  let own := (d.buffer n p i).holder
  let held := if own = h then b.held h p - 1 else b.held h p
  let use := if own = h then b.sharedUse p - (b.held h p - s.minBuf p) + (held - s.minBuf p) else b.sharedUse p
  decide239 s.valid true held (s.minBuf p) (s.bufMax.get 0 p) use (d.sharedPart n p) s.yellowPct yellow

/-- Flush a queue (R251): the descriptors between READ and TAIL are dropped. -/
def Dev.flush (n q : Nat) (d : Dev) : Nat × Dev :=
  let d := d.checkQueue n q .ok
  let Q := d.queue n q
  let gone := Q.unread
  let keep := Q.readPos / 3 - Q.base / 3 + 1
  let d := d.forEach gone fun x d => d.dropBuffer n 12 x.pool x.index 5 (Q.cfg.sysPort n)
  let d := d.freeCells n (Q.cells.drop keep)
  let d := d.setQueue n q { Q with descs := Q.descs.take Q.readN, cells := Q.cells.take keep }
  (gone.length, d.bumpN .flushed n q gone.length)

/-! ### The orphan sweep (R254) -/

/-- The buffers that a queue, an assembly, a committed burst or an egress read reaches. -/
def Dev.reachedBufs (d : Dev) (n : Nat) : List Nat :=
  let b := (d.slice n).buf
  let ofDesc := fun (x : Desc) => bufKey x.pool x.index
  (b.queues.flatMap fun e => if e.2.cfg.valid then e.2.descs.map ofDesc else []) ++
    ((treesOf n).flatMap fun k => (d.tree k).pitches.flatMap fun p => p.takes.map fun t => ofDesc t.desc) ++
    (b.reads.map fun r => ofDesc r.desc)

/-- The buffer's free takes effect at the end of this cycle. -/
def Dev.freeWaits (d : Dev) (n key : Nat) : Bool :=
  d.ending.any fun o => match o with
    | .free m _ s p i => m == n && s == n && bufKey p i == key
    | _ => false

def Dev.sweep (n : Nat) (d : Dev) : Dev :=
  let b := (d.slice n).buf
  if !b.sweeping then d
  else
    let reachedCells := b.queues.flatMap fun e => if e.2.cfg.valid then e.2.cells else []
    let lostCells := (b.cells.map (·.1)).filter fun c => !reachedCells.contains c && !d.ending.contains (.cell n c)
    let reached := d.reachedBufs n
    let lost := (b.bufs.filter fun e => (e.2.tag == 3 || e.2.tag == 4) && !reached.contains e.1 && !d.freeWaits n e.1).map (·.1)
    let d := d.freeCells n lostCells
    let d := d.forEach lost fun k d => d.dropBuffer n 13 (k / 2 ^ 20) (k % 2 ^ 20) 5 none
    let d := d.modBuf n fun b => { b with sweeping := b.sweepAgain, sweepAgain := false }
    (((d.bump .sweeps n 0).bumpN .cellsReclaimed n 0 lostCells.length).bumpN .bufsReclaimed n 0 lost.length).raise
      (qSlice n) 0x08 4 n [lostCells.length, lost.length / 2 ^ 20, lost.length % 2 ^ 20]

/-! ### Commands (Table 8.11) -/

def sliceChecks (rq : Req) (d : Dev) (n : Nat) : List Check :=
  [chkLen rq n, chkReady d [needSlice (rq.prm 0)], chkRange rq [(0, 0, 7)]]

def cmdBufCfgSet : Cmd := fun rq d =>
  withChecks (sliceChecks rq d 3 ++ [failIf (decide (98304 < rq.bits 2 17 0)) .range 2]) d <|
    okDone (d.modBuf (rq.prm 0) fun b => { b with spillUp := rq.bits 1 5 0, stageReserve := rq.bits 2 17 0 })

/-- A stallholder record from its fifteen words (Table 8.3). -/
def stallholderOf (rq : Req) (at_ : Nat) : Stallholder :=
  { bufMin := (List.range 6).foldl (fun m p => m.set 0 p (rq.prm (at_ + p))) [],
    bufMax := (List.range 6).foldl (fun m p => m.set 0 p (rq.prm (at_ + 6 + p))) [],
    cellMin := rq.prm (at_ + 12), cellMax := rq.prm (at_ + 13), valid := rq.bit (at_ + 14) 19, priv := rq.bit (at_ + 14) 18,
    yellowPct := rq.bits (at_ + 14) 7 0 }

/-- `stallholder_set` (R238). -/
def cmdStallholderSet : Cmd := fun rq d =>
  let n := rq.prm 0
  let x := stallholderOf rq 2
  let hs := (d.slice n).buf.holders.set {} (rq.prm 1) x
  let tooMany := fun p => decide (1048576 < hs.foldl (fun a e => a + e.2.minBuf p) 0)
  let cellOver := fun priv => decide (bankSize priv < hs.foldl (fun a e => a + e.2.minCell priv) 0)
  withChecks (sliceChecks rq d 17 ++ [chkRange rq [(1, 0, 255)], failIf (decide (100 < x.yellowPct)) .range 16,
      ((List.range 6).find? fun p => decide (x.bufMax.get 0 p < x.bufMin.get 0 p)).map fun p =>
        { code := .refused, detail := 2 + p },
      failIf (decide (x.cellMax < x.cellMin)) .refused 14,
      ((List.range 6).find? tooMany).map fun p => { code := .refused, detail := 2 + p },
      failIf (cellOver false || cellOver true) .refused 14]) d <|
    okDone (d.modBuf n fun b => { b with holders := hs })

/-- A position as its cell and slot (R248); no cell reads as all ones. -/
def Queue.position (q : Queue) (pos : Nat) : List Dword :=
  [BitVec.ofNat 32 (q.cells.getD (pos / 3 - q.base / 3) 0xFFFFF), BitVec.ofNat 32 (pos % 3)]

def queueCounts : List CN :=
  [.admitRefused, .cellRefused, .qFull, .qBadtoken, .qReset, .qresetDrop, .poisonDrop, .flushed, .awnLong]

def cmdQueueStatus : Cmd := fun rq d =>
  withChecks (sliceChecks rq d 2 ++ [chkRange rq [(1, 0, 16383)]]) d <|
    let q := d.queue (rq.prm 0) (rq.prm 1)
    okWith d (q.position q.base ++ q.position q.readPos ++ q.position q.tailPos ++ resWide 21 q.descs.length ++
      resWide 40 q.qBytes ++ resWide 40 q.uBytes ++ resWide 20 q.gen ++
      queueCounts.flatMap fun c => resWide 48 (d.count c (rq.prm 0) (rq.prm 1)).val.toNat)

def cmdQueueFlush : Cmd := fun rq d =>
  withChecks (sliceChecks rq d 2 ++ [chkRange rq [(1, 0, 16383)]]) d <|
    let (k, d) := d.flush (rq.prm 0) (rq.prm 1)
    okWith d (resWide 21 k)

def cmdPoolStatus : Cmd := fun rq d =>
  withChecks (sliceChecks rq d 1) d <|
    let n := rq.prm 0
    let b := (d.slice n).buf
    let inPool := fun p => (b.bufs.filter fun e => e.1 / 2 ^ 20 == p)
    let live := fun p => ((inPool p).filter fun e => (d.stack n).map.inService (e.1 % 2 ^ 20 % 3)).length
    okWith d (((List.range 6).flatMap fun p => resWide 21 (d.poolInService n - live p) ++ resWide 21 (d.sharedPart n p) ++
        resWide 21 (b.sharedUse p) ++ resWide 21 (1048576 - d.poolInService n)) ++
      resWide 20 (bankSize false - (b.cells.filter fun e => !cellIsPriv e.1).length) ++
      resWide 20 (bankSize true - (b.cells.filter fun e => cellIsPriv e.1).length) ++
      resWide 20 (Config.stageSegments - b.stageFree))

def cmdStallholderStatus : Cmd := fun rq d =>
  withChecks ([chkLen rq 5, chkDma rq d] ++ (sliceChecks rq d 5).drop 1 ++
      [chkRange rq [(1, 0, 255), (2, 1, 256 - rq.prm 1)], failIf (rq.raw 3 % 4 != 0) .range 3]) d <|
    let b := (d.slice (rq.prm 0)).buf
    let ws := (List.range (rq.prm 2)).flatMap fun j =>
      let h := rq.prm 1 + j
      ((List.range 6).flatMap fun p => resWide 20 (b.held h p)) ++ resWide 20 (b.heldCells h false + b.heldCells h true)
    okDone (d.hostWrite rq.mb.val (rq.addr 3) ws)

def cmdSweepStart : Cmd := fun rq d =>
  withChecks (sliceChecks rq d 1) d <| okDone (d.triggerSweep (rq.prm 0))

end Sys2Proof
end

