-- ==== Sys2Proof/Machine/Sched.lean ====
section
/-! DEFINITION. Meters, quanta, deficit round robin, egress configuration, low-power idle and the report on class 0
(09_scheduling.md). -/

namespace Sys2Proof

/-! ### Meters (R260 to R265) -/

/-- A meter record of seven words (Table 9.1); its buckets are full (R261). -/
def meterOfWords (w : Nat → Nat) (now : Ticks) : Meter :=
  { valid := (w 0).testBit 19, mode := w 0 / 2 ^ 17 % 4, cir := w 1 * 2 ^ 20 + w 2, cbs := w 3, pir := w 4 * 2 ^ 20 + w 5, ebs := w 6,
    tokC := w 3 * 64 * 65536, tokE := w 6 * 64 * 65536, last := now }

/-- The rules of R260 on a record whose first word is dword i: those of Table 9.1's ranges, then the PIR below the CIR. -/
def Meter.range (m : Meter) (i : Nat) : Check :=
  firstFail [failIf (decide (2 ≤ m.mode)) .range i, failIf (decide (m.cbs < 160)) .range (i + 3),
    failIf (m.mode == 1 && decide (m.ebs < 160)) .range (i + 6)]
def Meter.refused (m : Meter) (i : Nat) : Check := failIf (m.mode == 1 && decide (m.pir < m.cir)) .refused (i + 4)

/-- A bucket after a span of ticks at a rate in bytes per second: tokens in 2^-16 byte, what overflows, and the remainder. -/
def fillBucket (rate span tok cap rest : Nat) : Nat × Nat × Nat :=
  let num := rate * span * 65536 + rest
  let den := 146124000000000
  let all := tok + num / den
  if cap ≤ all then (cap, all - cap, num % den) else (all, 0, num % den)

/-- The tokens earned up to a SLICE edge (R261): in srTCM those that C cannot hold go to E. -/
def Meter.fill (m : Meter) (now : Ticks) : Meter :=
  let span := now - m.last
  let capC := m.cbs * 64 * 65536
  let capE := m.ebs * 64 * 65536
  let (c, over_, rc) := fillBucket m.cir span m.tokC capC m.remC
  if m.mode = 0 then { m with tokC := c, tokE := min capE (m.tokE + over_), remC := rc, last := now }
  else
    let (e, _, re) := fillBucket m.pir span m.tokE capE m.remE
    { m with tokC := c, tokE := e, remC := rc, remE := re, last := now }

/-- Table 9.2: the colour, 0 green, 1 yellow, 2 red, of a frame of b bytes, and the tokens left. -/
def Meter.mark (m : Meter) (yellow : Bool) (bytes : Nat) : Nat × Meter :=
  let b := bytes * 65536
  if m.mode = 0 then
    if !yellow && decide (b ≤ m.tokC) then (0, { m with tokC := m.tokC - b })
    else if b ≤ m.tokE then (1, { m with tokE := m.tokE - b })
    else (2, m)
  else
    if m.tokE < b then (2, m)
    else if yellow || decide (m.tokC < b) then (1, { m with tokE := m.tokE - b })
    else (0, { m with tokE := m.tokE - b, tokC := m.tokC - b })

/-- The first reading of a meter (R261, R262, R264): its colour; an invalid meter is no meter, an uncorrectable record is red. -/
def Dev.meterFrame (n : Nat) (meter : Option Nat) (yellow : Bool) (bytes : Nat) (d : Dev) : Nat × Option Nat × Dev :=
  match meter with
  | none => (0, none, d)
  | some i =>
    let m := (d.slice n).sched.meters.get {} i
    if m.bad then (2, some i, ((d.bump .meterBad n 0).bump .mtrRed n i).bumpN .mtrRedBytes n i bytes |>.raise (qSlice n) 0x09 1 i [])
    else if !m.valid then (0, none, d.bump .meterInvalid n 0)
    else
      let (c, m') := (m.fill (d.cycle * Config.slicePeriod)).mark yellow bytes
      let d := d.modSched n fun s => { s with meters := s.meters.set {} i m' }
      let d := if c = 0 then (d.bump .mtrGreen n i).bumpN .mtrGreenBytes n i bytes
               else if c = 1 then (d.bump .mtrYellow n i).bumpN .mtrYellowBytes n i bytes
               else (d.bump .mtrRed n i).bumpN .mtrRedBytes n i bytes
      (c, some i, d)

/-- The second reading, as the frame leaves (R265). -/
def Dev.meterSent (n : Nat) (x : Desc) (d : Dev) : Dev :=
  match x.meter with
  | none => d
  | some i => d.bumpN (if x.yellow then .mtrSentYellow else .mtrSentGreen) n i x.length

/-! ### Deficit round robin (R268, R270) -/

/-- The eligible queue at or after the pointer, in ascending order with a wrap. -/
def atOrAfter (ptr : Nat) (qs : List Nat) : Option Nat := (qs.find? fun q => decide (ptr ≤ q)).orElse fun _ => qs.head?

/-- What a procedure of R268 answers: the queue whose head is taken, its deficit with any quantum of the step added, and the
pointer before the step. -/
abbrev DrrTake := Nat × Int × Nat

/-- take_class0 of R268, repeated until a queue's head fits its deficit. qs are the eligible queues in ascending order. -/
def drrLoop (n : Nat) (qs : List Nat) : Nat → Nat → Dev → Option DrrTake × Nat × Dev
  | 0, ptr, d => (none, ptr, d)
  | k + 1, ptr, d =>
    match atOrAfter ptr qs with
    | none => (none, ptr, d)
    | some q =>
      let Q := d.queue n q
      let Q := if Q.turn then Q else { Q with deficit := Q.deficit + 64 * Q.quantum, turn := true }
      let len := (Q.head.map (·.length)).getD 0
      if (len : Int) ≤ Q.deficit then (some (q, Q.deficit, ptr), ptr, d.setQueue n q Q)
      else drrLoop n qs k ((q + 1) % 16384) (d.setQueue n q { Q with turn := false })

/-- Rounds that are enough for some head to fit: each visit adds a quantum. -/
def drrFuel (n : Nat) (qs : List Nat) (d : Dev) : Nat :=
  qs.foldl (fun a q =>
    let Q := d.queue n q
    a + ((((Q.head.map (·.length)).getD 0 : Nat) : Int) - Q.deficit).toNat / (64 * max 1 Q.quantum) + 2) 2

def drrPick (n : Nat) (qs : List Nat) (ptr : Nat) (d : Dev) : Option DrrTake × Nat × Dev :=
  drrLoop n qs (drrFuel n qs d * (qs.length + 1)) ptr d

/-- The head of queue q is taken: its deficit falls by the length; a queue with nothing more unread ends its turn (R268).
The queue's READ has already passed the head. -/
def drrTaken (n q len ptr : Nat) (d : Dev) : Nat × Dev :=
  let Q := d.queue n q
  let Q := { Q with deficit := Q.deficit - len }
  if Q.unread.isEmpty then ((q + 1) % 16384, d.setQueue n q { Q with deficit := 0, turn := false })
  else (ptr, d.setQueue n q Q)

/-- Queues of a slice that satisfy a test, in ascending order. -/
def Dev.queuesWhere (d : Dev) (n : Nat) (f : Nat → Queue → Bool) : List Nat :=
  ((d.slice n).buf.queues.filter fun e => e.2.cfg.valid && f e.1 e.2).map (·.1)

/-! ### System port egress: configuration, low-power idle (R272, R274) -/

/-- `PORT_EGRESS_CFG` as words (Table 9.4). -/
def egressOf (rq : Req) (i : Nat) (x : Egress) : Egress :=
  let h := rq.bits i 10 7
  { x with pauseEn := rq.bit i 19, pfcEn := rq.bit i 18, lpiEn := rq.bit i 17, lpiHold := max 1 h, twTx := max 1 (rq.bits (i + 1) 16 0),
           cq := (List.range 8).foldl (fun m c =>
             m.set none c (if rq.bit (i + 2 + c) 19 then some (rq.bits (i + 2 + c) 14 0) else none)) [] }

/-- The port leaves low-power idle: idle blocks for TW_TX, then frames (R274). -/
def Dev.lpiWake (p : Nat) (d : Dev) : Dev :=
  let e := d.egress p
  if e.lpi then
    let span := e.lpiRest + (d.now - e.lpiSince)
    (d.bumpN .lpiUs p 0 (span / Config.us)).modEgress p fun e =>
      { e with lpi := false, lpiRest := span % Config.us, wakeEnd := d.now + e.twTx * Config.us }
  else d

/-- The eligible queues of a class of system port p. -/
def Dev.classQueues (d : Dev) (p c : Nat) : List Nat :=
  d.queuesWhere (p / 32) fun _ q => q.cfg.kind == 1 && q.cfg.target == p % 32 && q.cfg.cls == c && !q.unread.isEmpty

/-- The lowest class that is not paused and has an eligible queue (R271). -/
def Dev.nextClass (d : Dev) (p : Nat) (pauses : Bool) : Option Nat :=
  (List.range 8).find? fun c =>
    (!pauses || decide ((d.egress p).pauseEnd.get 0 c ≤ d.now)) && !(d.classQueues p c).isEmpty

/-- The port leaves low-power idle when a frame is eligible (R274). -/
def Dev.lpiCheck (p : Nat) (d : Dev) : Dev := if (d.egress p).lpi && (d.nextClass p true).isSome then d.lpiWake p else d

/-- The queues that target system port p. -/
def Dev.portQueues (d : Dev) (p : Nat) : List Nat := d.queuesWhere (p / 32) fun _ q => q.cfg.kind == 1 && q.cfg.target == p % 32

/-! ### Commands (Table 9.10, and queue_set of Table 8.11) -/

/-- `meter_write`: slice; first index; the list of 1 to 16 records, its count first (R402); all or none (R260, R261, R404). -/
def cmdMeterWrite : Cmd := fun rq d =>
  let k := rq.prm 2
  let now := d.cycle * Config.slicePeriod
  let m := fun j => meterOfWords (fun i => rq.prm (3 + 7 * j + i)) now
  let js := List.range k
  withChecks ([chkLenIf (decide (3 ≤ rq.len) && rq.len == 3 + 7 * k)] ++ (sliceChecks rq d 0).drop 1 ++
      [chkRange rq [(2, 1, 16), (1, 0, 65536 - k)], js.findSome? fun j => (m j).range (3 + 7 * j),
       js.findSome? fun j => (m j).refused (3 + 7 * j)]) d <|
    okDone (d.modSched (rq.prm 0) fun s =>
      { s with meters := js.foldl (fun t j => t.set {} (rq.prm 1 + j) (m j)) s.meters })

/-- The words of a meter record. -/
def Meter.words (m : Meter) : List Word :=
  [m.valid.toNat * 2 ^ 19 + m.mode * 2 ^ 17, m.cir / 2 ^ 20, m.cir % 2 ^ 20, m.cbs, m.pir / 2 ^ 20, m.pir % 2 ^ 20, m.ebs].map
    (BitVec.ofNat 20)

/-- `meter_read`: record, whole bytes in each bucket, and the counts of R281. -/
def cmdMeterRead : Cmd := fun rq d =>
  withChecks ([chkLen rq 5, chkDma rq d] ++ (sliceChecks rq d 5).drop 1 ++
      [chkRange rq [(1, 0, 65535), (2, 1, 65536 - rq.prm 1)], failIf (rq.raw 3 % 4 != 0) .range 3]) d <|
    let n := rq.prm 0
    let ws := (List.range (rq.prm 2)).flatMap fun j =>
      let i := rq.prm 1 + j
      let m := ((d.slice n).sched.meters.get {} i).fill (d.cycle * Config.slicePeriod)
      resWords m.words ++ resWide 40 (m.tokC / 65536) ++ resWide 40 (m.tokE / 65536) ++
        ([CN.mtrGreen, .mtrGreenBytes, .mtrYellow, .mtrYellowBytes, .mtrRed, .mtrRedBytes, .mtrSentGreen, .mtrSentYellow].flatMap
          fun c => resWide 48 (d.count c n i).val.toNat)
    okDone (d.hostWrite rq.mb.val (rq.addr 3) ws)

def cmdSchedSet : Cmd := fun rq d =>
  withChecks (sliceChecks rq d 3 ++ [chkRange rq [(1, 0, 16383), (2, 1, 2 ^ 20 - 1)]]) d <|
    okDone (d.modQueue (rq.prm 0) (rq.prm 1) fun q => { q with quantum := rq.prm 2 })

/-- `port_egress_set` (R272): a word in use must name a queue whose stored KIND, TARGET and CLASS match. -/
def cmdPortEgressSet : Cmd := fun rq d =>
  let n := rq.prm 0
  let j := rq.prm 1
  let bad := fun c => rq.bit (4 + c) 19 &&
    (let q := (d.queue n (rq.bits (4 + c) 14 0)).cfg
     q.kind != 1 || q.target != j || q.cls != c)
  withChecks [chkLen rq 12, chkReady d [[if n < 8 then fnDs n else 99]], chkRange rq [(0, 0, 7), (1, 0, 31)],
      failIf ((d.sysPort (32 * n + j)).width == 0) .unconfigured 1,
      ((List.range 8).find? bad).map fun c => { code := .refused, detail := 4 + c }] d <|
    okDone (d.modEgress (32 * n + j) fun e =>
      let x := egressOf rq 2 e
      { x with emptySince := if x.lpiEn && !e.lpiEn then d.now else e.emptySince })

/-- HEADROOM of a report committed now (R124). -/
def Dev.eNumOf (d : Dev) (n : Nat) : Nat := (d.pwr.escale.get {} n).eNum
def Dev.headroom (d : Dev) (n : Nat) : Nat := if d.pwr.suspended then 15 else 15 - 15 * d.eNumOf n / 64

/-- `ESCALE_STATUS` (Table 9.5). -/
def Dev.escaleStatus (d : Dev) (n : Nat) : Word :=
  BitVec.ofNat 20 (d.eNumOf n * 2 ^ 13 + d.pwr.eCap * 2 ^ 6 + d.pwr.suspended.toNat * 2 ^ 5 + (decide (d.pwr.eCap < 64)).toNat * 2 ^ 4 +
    d.headroom n)

def Dev.maxTemp (d : Dev) : Nat := d.pwr.sensors.foldl max 0

def cmdEscaleStatus : Cmd := fun rq d =>
  withChecks (sliceChecks rq d 1) d <|
    let n := rq.prm 0
    okWith d (resWords [d.escaleStatus n] ++ resWide 20 (d.pwr.escale.get {} n).eBudget ++ resWide 20 d.maxTemp ++
      resWide 20 (d.pwr.sensors.findIdx fun x => x == d.maxTemp))

/-- `queue_set` (R247, R269, R370, R443): a class-0 queue made valid binds the domains of Table 13.4 before the command
completes, and wakes its port from low-power idle (R274). -/
def cmdQueueSet : Cmd := fun rq d =>
  let n := rq.prm 0
  let q := rq.prm 1
  let c : QueueCfg := { valid := rq.bit 2 19, kind := rq.bits 2 2 17, ctrl := rq.bit 2 16, cls := rq.bits 2 3 13, target := rq.bits 2 6 7,
                        aid := BitVec.ofNat 20 (rq.prm 3), stallholder := rq.bits 4 8 0, descMax := rq.prm 5 }
  let outside := (c.kind == 0 && c.target / 8 != n) || (c.kind == 1 && decide (32 ≤ c.target))
  withChecks (sliceChecks rq d 6 ++ [chkRange rq [(1, 0, 16383)], failIf (c.valid && c.kind == 3) .range 2,
      failIf (!(d.queue n q).descs.isEmpty) .busy, failIf (c.valid && outside) .refused 2]) d <|
    let was := (d.queue n q).cfg
    let d := d.freeCells n (d.queue n q).cells
    let d := if was.valid && was.kind == 1 then d.modEgress (32 * n + was.target) fun e => { e with emptySince := d.now } else d
    let d := d.modQueue n q fun x => { x with cfg := c, earned := 0, spent := 0, placed := 0, cells := [] }
    let d := d.forEach queueCounts fun k d => d.clearCount k n q
    let d := if c.valid && c.cls == 0 && decide (c.kind ≤ 1) then d.enforceReservation n causeHost else d
    okDone (if c.valid && c.cls == 0 && c.kind == 1 then d.lpiWake (32 * n + c.target) else d)

/-- The protect member of a pair resolves to its working tree (R212). -/
def Dev.workingTree (d : Dev) (k : Nat) : Nat :=
  let c := (d.tree k).cfg
  match c.pair with
  | some j => if c.working then k else j
  | none => k

/-! ### c0_report (R282) -/

/-- Lanes of a mask, and the shape of a burst (Tables 4.5 to 4.7, R118 to R120): H in UI, C codewords, R blocks. -/
def laneCount16 (m : BitVec 16) : Nat := (List.range 16).foldl (fun a i => a + (m.getLsbD i).toNat) 0
def headUi (ton preamble : Nat) : Nat := ton + preamble + 256
def dataCw (length h toff : Nat) : Nat := (length * 2700 - h - toff) / 2700
def regionBlocks (lanes cw : Nat) : Nat := lanes * (40 * cw - 41)

/-- The meters that a class-0 frame of LFT entry l can meet, none for none: what a rule's action set that names the entry sets comes before the
entry's own, and so for a rule that leaves the destination to the address table (R195, R197). -/
def Tables.c0Meters (t : Tables) (l : Nat) : List (Option Nat) :=
  let w := fun (e : Entry) i => (e.words.getD i 0).toNat
  let bit := fun (e : Entry) i b => (w e i).testBit b
  let own := let e := t.lft.get {} l
    if bit e 3 19 then some (w e 3 % 65536) else none
  let sets := ((t.rules.filter fun e => bit e.2 0 19 && bit e.2 0 18).map fun e => t.actions.get {} (w e.2 5 % 4096)).filter fun a => !bit a 0 19
  let meterOf := fun (a : Entry) => if bit a 0 6 then some (w a 2 % 65536) else own
  let byRule := (sets.filter fun a => bit a 0 11 && w a 1 == l).map meterOf
  let byTable := if t.addr.any fun e => e.2.valid && e.2.kind && e.2.lfn == l then own :: (sets.filter fun a => !bit a 0 11).map meterOf else []
  byRule ++ byTable

/-- The resulting bound of R278 in ns, rounded up, for a parcel with no class-0 parcel ahead: P is the largest gap seen. -/
def cmdC0Report : Cmd := fun rq d =>
  let k := rq.prm 0
  let aid := rq.prm 1
  withChecks [chkLen rq 2, chkReady d [needPortOf k, if k < 64 then needSlice (k / 8) else [99]], chkRange rq [(0, 0, 63)],
      failIf (!(d.tree k).cfg.configured) .unconfigured 0, failIf (((d.tree k).allocs.find? fun e => e.1 == aid).isNone) .notFound] d <|
    let n := k / 8
    let x := d.tree k
    let a := x.allocs.get {} aid
    let recent := a.stdRegions.filter fun r => decide (x.fr.fc ≤ r.1 + 64)
    let region := recent.foldl (fun m r => min m r.2.1) (2 ^ 20 - 1)
    let c0 := d.queuesWhere n fun _ q => q.cfg.kind == 0 && q.cfg.target == d.workingTree k && q.cfg.cls == 0 && q.cfg.aid.toNat == aid
    let lftWord := fun (e : Entry) i => (e.words.getD i 0).toNat
    let named := (d.slice n).tab.lft.filter fun e => Nat.ble (3 * 2 ^ 18) (lftWord e.2 0) && c0.contains (lftWord e.2 2 % 16384)
    let met := named.flatMap fun e => (d.slice n).tab.c0Meters e.1
    let meters := (met.filterMap id).eraseDups.map fun i => (d.slice n).sched.meters.get {} i
    let cir := meters.foldl (fun s m => s + m.cir) 0
    let cbs := meters.foldl (fun s m => s + m.cbs * 64) 0
    let port := d.port (portOfTree k)
    let tonUi := cdiv (port.ton * 106272) 1000
    let pre := recent.foldl (fun m r => max m r.2.2) 0
    let gap := (d.count .c0GapMax k aid).val.toNat
    let need := cdiv (1724 * (cir * gap * Config.cwt + cbs * Config.sec)) (16 * 1000 * Config.sec)
    let ok2 := met.all (·.isSome) && meters.all (·.valid)
    okWith d (resWide 20 gap ++ resWide 20 region ++ resWide 40 cir ++ resWide 40 cbs ++ resWide 20 tonUi ++ resWide 20 pre ++
      resWide 1 ok2.toNat ++ resWide 1 (decide (gap ≠ 0)).toNat ++ resWide 1 (decide (need ≤ region)).toNat ++
      resWide 40 (1800 + cdiv (gap * Config.cwt + tonUi * Config.ui) Config.ns))

end Sys2Proof
end

