-- ==== Sys2Proof/Machine/Headers.lean ====
section
/-! DEFINITION. What classification reads from a frame and does to its headers: tags, extraction, comparators, rules, merging of
action sets, pops, rewrites and pushes, checksums, the FCS and the PTP correction (06_classification.md, R355). -/

namespace Sys2Proof

/-! ### Fields of a table entry and of a frame -/

/-- Word i of an entry; a word never written is zero. -/
def Entry.w (e : Entry) (i : Nat) : Nat := (e.words.getD i 0).toNat
def Entry.bits (e : Entry) (i w lo : Nat) : Nat := e.w i / 2 ^ lo % 2 ^ w
def Entry.bit (e : Entry) (i lo : Nat) : Bool := e.bits i 1 lo == 1
/-- The 32 bits of two words of 16. -/
def Entry.pair (e : Entry) (i : Nat) : Nat := e.bits i 16 0 * 65536 + e.bits (i + 1) 16 0

def byteAt (f : List Byte) (i : Nat) : Nat := (f.getD i 0).toNat
def be16 (f : List Byte) (i : Nat) : Nat := byteAt f i * 256 + byteAt f (i + 1)
def macAt (f : List Byte) (i : Nat) : BitVec 48 := BitVec.ofNat 48 (natBE ((f.drop i).take 6))
/-- The frame without its FCS. -/
def bodyOf (f : List Byte) : List Byte := f.take (f.length - 4)
/-- The frame with a fresh FCS. -/
def withFcs (body : List Byte) : List Byte := body ++ fcsBytes body

/-- Replace n bytes at an offset. -/
def overwrite (f : List Byte) (at_ : Nat) (bs : List Byte) : List Byte := f.take at_ ++ bs ++ f.drop (at_ + bs.length)
def bytes2 (v : Nat) : List Byte := [BitVec.ofNat 8 (v / 256), BitVec.ofNat 8 v]

/-- What R187 recognises. -/
structure Tags where
  tagged : Bool
  vid : Nat
  pcp : Nat
  dei : Bool
  etype : Nat
  deriving DecidableEq, Repr

def Tables.tags (t : Tables) (f : List Byte) : Tags :=
  let tpid := be16 f 12
  if tpid = t.tpidA.toNat ∨ tpid = t.tpidB.toNat then
    let tci := be16 f 14
    { tagged := true, vid := tci % 4096, pcp := tci / 8192, dei := (tci / 4096 % 2 == 1), etype := be16 f 16 }
  else { tagged := false, vid := 0, pcp := 0, dei := false, etype := tpid }

/-- Masked comparison: no bit differs under the mask. -/
def sameUnder (mask a b : Nat) : Bool := Nat.land (Nat.xor a b) mask == 0

/-- A MAC filter matches (R188); an uncorrectable one does not (Table 6.10). -/
def Entry.filterHit (e : Entry) (x : Tags) : Bool :=
  let t := e.bits 0 2 17
  e.bit 0 19 && !e.bad && (t == 0 || (t == 1 && !x.tagged) || (t == 2 && x.tagged)) &&
    sameUnder (e.bits 2 12 8) x.vid (e.bits 1 12 8) && sameUnder (e.bits 2 3 5) x.pcp (e.bits 1 3 5) &&
    sameUnder (e.bits 4 16 0) x.etype (e.bits 3 16 0)

/-- The deciding filter of ingress port p (upstream ports 0 to 31, downstream slots 32 to 39): the lowest that matches. -/
def Tables.filterOf (t : Tables) (p : Nat) (x : Tags) : Option (Nat × Entry) :=
  (t.filters.find? fun e => e.1 / 64 == p && e.2.filterHit x).map fun e => (e.1 % 64, e.2)

/-- INGRESS_CFG at reset: DEFAULT_CLASS 7 (Table 6.2). -/
def ingressReset : Entry := { words := [0x03800, 0] }
def Tables.cfg (t : Tables) (p : Nat) : Entry := t.ingress.get ingressReset p
/-- The number of an ingress port in the tables of both directions (Table 7.8). -/
def ingressNo (dir : Dir) (port : Nat) : Nat := match dir with | .up => port | .down => 32 + port

/-! ### Extraction, comparators, rules (R190 to R194) -/

/-- Extraction i of a profile: absent, or its key. -/
def Entry.extract (e : Entry) (i : Nat) (f : List Byte) : Option Nat :=
  let off := e.bits (1 + i) 9 10
  let b0 := e.bits (1 + i) 3 7
  let w := e.bits (1 + i) 5 2 + 1
  if e.bit (1 + i) 19 && decide (8 * off + b0 + w ≤ 8 * min 512 (f.length - 4)) then
    some (natBE ((List.range 5).map fun j => f.getD (off + j) 0) / 2 ^ (40 - b0 - w) % 2 ^ w)
  else none

/-- The sixteen keys of a frame under a profile: all absent when it is invalid or uncorrectable. -/
def Entry.keys (e : Entry) (f : List Byte) : List (Option Nat) :=
  (List.range 16).map fun i => if e.bit 0 19 && !e.bad then e.extract i f else none

/-- A range comparator (R192). -/
def Entry.inRange (c : Entry) (ks : List (Option Nat)) : Bool :=
  match ks.getD (c.bits 0 4 15) none with
  | none => false
  | some k =>
    let x := if c.bit 0 14 then k / 65536 else k % 65536
    c.bit 0 19 && !c.bad && decide (c.bits 1 16 0 ≤ x ∧ x ≤ c.bits 2 16 0)

/-- One comparator reference of a rule: unused, or its comparator gives SENSE. -/
def Tables.refOk (t : Tables) (ks : List (Option Nat)) (r : Nat) : Bool :=
  r / 512 % 2 == 0 || ((t.ranges.get {} (r % 256)).inRange ks == (r / 256 % 2 == 1))

/-- A rule matches (R194); an uncorrectable rule does not. -/
def Tables.ruleHit (t : Tables) (e : Entry) (dir : Dir) (profile port : Nat) (ks : List (Option Nat)) : Bool :=
  let present := (List.range 16).foldl (fun a i => a + (if (ks.getD i none).isSome then 2 ^ i else 0)) 0
  e.bit 0 19 && !e.bad && (match dir with | .down => e.bit 0 17 | .up => e.bit 0 18) &&
    (e.bit 0 16 || e.bits 0 6 10 == profile) && (e.bit 0 9 || e.bits 0 5 4 == port) &&
    sameUnder (e.bits 2 16 0) present (e.bits 1 16 0) &&
    [e.bits 3 10 10, e.bits 3 10 0, e.bits 4 10 10, e.bits 4 10 0].all (t.refOk ks) &&
    (List.range 16).all fun i => sameUnder (e.pair (8 + 4 * i)) ((ks.getD i none).getD 0) (e.pair (6 + 4 * i))

/-- The frame's rule: the lowest that matches. -/
def Tables.ruleOf (t : Tables) (dir : Dir) (profile port : Nat) (ks : List (Option Nat)) : Option (Nat × Entry) :=
  t.rules.find? fun e => t.ruleHit e.2 dir profile port ks

/-! ### Merging action sets (R196, R197) -/

structure Pop where
  long : Bool
  tpid : Nat
  deriving DecidableEq, Repr

structure Rewrite where
  off : Nat
  value : Nat
  mask : Nat
  deriving DecidableEq, Repr

def Entry.pops (a : Entry) : List Pop :=
  ([{ long := a.bit 2 19, tpid := a.bits 3 16 0 }, { long := a.bit 2 18, tpid := a.bits 4 16 0 }] : List Pop).take (a.bits 0 2 2)

def Entry.tagBytes (a : Entry) (i : Nat) (long : Bool) : List Byte :=
  ((List.range 4).flatMap fun j => bytes2 (a.bits (i + j) 16 0)).take (if long then 8 else 4)

def Entry.pushes (a : Entry) : List (List Byte) :=
  [a.tagBytes 5 (a.bit 2 17), a.tagBytes 9 (a.bit 2 16)].take (a.bits 0 2 0)

def Entry.rewrites (a : Entry) : List Rewrite :=
  [13, 18].flatMap fun i => if a.bit i 19 then [{ off := a.bits i 9 10, value := a.pair (i + 1), mask := a.pair (i + 3) }] else []

/-- What the merged action sets ask for (Table 6.9). -/
structure Acts where
  pops : List Pop := []
  rewrites : List Rewrite := []
  pushes : List (List Byte) := []
  excess : Nat := 0
  deriving DecidableEq, Repr

/-- Header actions of the rule set, then the LFT set; pops and pushes beyond 2 are not performed. -/
def mergeActs (sets : List Entry) : Acts :=
  let pops := sets.flatMap Entry.pops
  let pushes := sets.flatMap Entry.pushes
  { pops := pops.take 2, pushes := pushes.take 2, rewrites := sets.flatMap Entry.rewrites,
    excess := (pops.length - 2) + (pushes.length - 2) }

/-! ### Header actions (R198) -/

/-- A frame in work: its bytes without the FCS, the moved L3 offset, and the counts of what was not done. -/
structure Work where
  body : List Byte
  l3 : Nat
  popMiss : Nat := 0
  short : Nat := 0
  deriving DecidableEq, Repr

def Work.pop (x : Work) (p : Pop) : Work :=
  let n := if p.long then 8 else 4
  if 14 ≤ x.body.length ∧ be16 x.body 12 = p.tpid then
    { x with body := x.body.take 12 ++ x.body.drop (12 + n), l3 := if x.l3 ≤ 12 then x.l3 else max 12 (x.l3 - n) }
  else { x with popMiss := x.popMiss + 1 }

/-- New := (old and not mask) or (value and mask), for the bytes that lie in the frame. -/
def Work.rewrite (x : Work) (r : Rewrite) : Work :=
  let n := min 4 (x.body.length - r.off)
  let byteOf := fun (v i : Nat) => v / 256 ^ (3 - i) % 256
  let new := (List.range n).map fun i =>
    let old := BitVec.ofNat 8 (byteAt x.body (r.off + i))
    let m := BitVec.ofNat 8 (byteOf r.mask i)
    (old &&& ~~~ m) ||| (BitVec.ofNat 8 (byteOf r.value i) &&& m)
  { x with body := overwrite x.body r.off new, short := x.short + (if n < 4 then 1 else 0) }

def Work.push (x : Work) (tag : List Byte) : Work :=
  { x with body := x.body.take 12 ++ tag ++ x.body.drop 12, l3 := if x.l3 < 12 then x.l3 else x.l3 + tag.length }

def Work.run (a : Acts) (x : Work) : Work := a.pushes.foldl Work.push (a.rewrites.foldl Work.rewrite (a.pops.foldl Work.pop x))

/-! ### Checksums (R200, R201) -/

/-- A recognised IP header: its version, where it and its L4 header begin, its protocol, and whether it is a later fragment. -/
structure IpLoc where
  v6 : Bool
  l3 : Nat
  l4 : Nat
  proto : Nat
  frag : Bool
  deriving DecidableEq, Repr

/-- Recognition at an offset (R200); kind is L3_KIND. -/
def ipAt (kind off : Nat) (b : List Byte) : Option IpLoc :=
  let v := byteAt b off / 16
  let ihl := byteAt b off % 16
  if kind = 1 ∧ v = 4 ∧ 5 ≤ ihl ∧ off + 4 * ihl ≤ b.length then
    some { v6 := false, l3 := off, l4 := off + 4 * ihl, proto := byteAt b (off + 9), frag := decide (be16 b (off + 6) % 8192 ≠ 0) }
  else if kind = 2 ∧ v = 6 then
    some { v6 := true, l3 := off, l4 := off + 40, proto := byteAt b (off + 6), frag := false }
  else none

/-- The L4 protocol by L4_KIND (Table 6.4): 6 TCP, 17 UDP, 0 none. -/
def IpLoc.l4Proto (x : IpLoc) (l4Kind : Nat) : Nat :=
  match l4Kind with
  | 1 => 6
  | 2 => 17
  | 3 => if x.proto = 6 ∨ x.proto = 17 then x.proto else 0
  | _ => 0

/-- Bytes of the L4 header that begins at an offset. -/
def l4Len (proto at_ : Nat) (b : List Byte) : Nat :=
  if proto = 6 then max 20 (4 * (byteAt b (at_ + 12) / 16)) else if proto = 17 then 8 else 0

/-- One's complement sum, and the update of RFC 1624 for one word. -/
def onesAdd (a b : Nat) : Nat := if a + b < 65536 then a + b else a + b - 65535
def csumStep (hc old new : Nat) : Nat := 65535 - onesAdd (onesAdd (65535 - hc) (65535 - old)) new
def csumSteps (hc : Nat) (ws : List (Nat × Nat)) : Nat := ws.foldl (fun h w => if w.1 = w.2 then h else csumStep h w.1 w.2) hc

/-- The words of a region; of its checksum word, nothing. -/
def regionWords (b : List Byte) (at_ len skip : Nat) : List Nat :=
  (List.range (len / 2)).map fun i => if 2 * i = skip then 0 else be16 b (at_ + 2 * i)

/-- The pseudo-header's words: addresses, protocol and L4 length. -/
def IpLoc.pseudo (x : IpLoc) (b : List Byte) : List Nat :=
  if x.v6 then regionWords b (x.l3 + 8) 32 99 ++ [x.proto, be16 b (x.l3 + 4)]
  else regionWords b (x.l3 + 12) 8 99 ++ [x.proto, be16 b (x.l3 + 2) - (x.l4 - x.l3)]

/-- The IPv4 header checksum computed over a header whose checksum word counts as zero. -/
def ipCsum (b : List Byte) (x : IpLoc) : Nat := 65535 - (regionWords b x.l3 (x.l4 - x.l3) 10).foldl onesAdd 0

/-- Checksums after header actions: the frame, whether it was counted in CSUM_SKIP and in IP4_BAD_IN. old is the frame on
ingress with its L3 offset; both are without FCS. -/
def fixChecksums (kind l4Kind : Nat) (old : List Byte) (oldL3 : Nat) (new : List Byte) (l3 : Nat) : List Byte × Bool × Bool :=
  if kind = 0 ∨ old.drop oldL3 = new.drop l3 then (new, false, false)
  else match ipAt kind l3 new with
  | none => (new, true, false)
  | some x =>
    let y := (ipAt kind oldL3 old).getD { x with l3 := oldL3, l4 := oldL3 + (x.l4 - x.l3) }
    let hdrChanged := (old.drop y.l3).take (x.l4 - x.l3) ≠ (new.drop x.l3).take (x.l4 - x.l3)
    let wasOk := be16 old (y.l3 + 10) == ipCsum old y
    let (new, bad) :=
      if !x.v6 && decide hdrChanged then
        if wasOk then (overwrite new (x.l3 + 10) (bytes2 (ipCsum new x)), false)
        else
          let h := csumSteps (be16 old (y.l3 + 10))
            ((regionWords old y.l3 (x.l4 - x.l3) 10).zip (regionWords new x.l3 (x.l4 - x.l3) 10))
          (overwrite new (x.l3 + 10) (bytes2 h), true)
      else (new, false)
    let proto := x.l4Proto l4Kind
    let at_ := x.l4 + (if proto = 6 then 16 else 6)
    if proto = 0 ∨ x.frag ∨ new.length < at_ + 2 then (new, false, bad)
    else
      let have_ := be16 new at_
      let len := l4Len proto x.l4 new
      let skip := at_ - x.l4
      let ws := (y.pseudo old ++ regionWords old y.l4 len skip).zip (x.pseudo new ++ regionWords new x.l4 len skip)
      if ws.all (fun w => w.1 == w.2) || (proto == 17 && !x.v6 && have_ == 0) then (new, false, bad)
      else
        let c := csumSteps have_ ws
        (overwrite new at_ (bytes2 (if proto = 17 ∧ c = 0 then 65535 else c)), false, bad)

/-- What steps 9 and 10 make of a frame: its bytes as it leaves, whether it is too long, and what was counted. -/
structure Leaves where
  bytes : List Byte
  l3 : Nat
  tooLong : Bool
  padded : Bool
  popMiss : Nat
  short : Nat
  skip : Bool
  badIn : Bool
  removed : Nat
  added : Nat
  deriving DecidableEq, Repr

/-- Header actions, checksums, padding, FCS (R198 to R201). -/
def runHeader (a : Acts) (kind l4Kind l3 : Nat) (f : List Byte) : Leaves :=
  let old := bodyOf f
  let popped := a.pops.foldl Work.pop { body := old, l3 := l3 }
  let x := Work.run a { body := old, l3 := l3 }
  let (body, skip, badIn) := fixChecksums kind l4Kind old l3 x.body x.l3
  let padded := decide (body.length + 4 < 64)
  let out := body ++ List.replicate (60 - body.length) 0
  { bytes := if out = old then f else withFcs out, l3 := x.l3, tooLong := decide (Config.maxFrame < out.length + 4),
    padded := padded, popMiss := x.popMiss, short := x.short, skip := skip, badIn := badIn,
    removed := old.length - popped.body.length, added := x.body.length - popped.body.length }

/-! ### The PTP correction (R202, R353, R355) -/

/-- Where the PTP header of a frame begins, and whether it lies in UDP with its IP header: none when its encapsulation is not
enabled or not recognised. -/
def ptpHeader (c : PtpTc) (t : Tables) (l3 : Nat × Nat × Nat) (b : List Byte) : Option (Nat × Option IpLoc) :=
  let x := t.tags b
  if c.l2 && x.etype == 0x88F7 then some ((if x.tagged then 18 else 14), none)
  else if (l3.1 == 1 && c.udp4) || (l3.1 == 2 && c.udp6) then
    match ipAt l3.1 l3.2.2 b with
    | some ip =>
      let dst := be16 b (ip.l4 + 2)
      if ip.l4Proto l3.2.1 == 17 && (dst == 319 || dst == 320) then some (ip.l4 + 8, some ip) else none
    | none => none
  else none

/-- The outcome of the correction at egress: nothing to do, counted in PTP_SKIPPED, or the corrected frame, which the field may pass the end of
(R198, R202). -/
inductive PtpRes
  | none | skipped | fixed (bytes : List Byte) (short : Bool)
  deriving DecidableEq, Repr

/-- Add the residence time, in 2^-16 ns, to the correctionField. As a rewrite it does not write bytes beyond the frame (R202), and reads them as
zero (log entry 116). -/
def ptpCorrect (c : PtpTc) (enabled : Bool) (t : Tables) (l3 : Nat × Nat × Nat) (residence : Int) (f : List Byte) : PtpRes :=
  let b := bodyOf f
  match (if enabled then ptpHeader c t l3 b else Option.none) with
  | Option.none => .none
  | some (h, udp) =>
    if b.length < h + 2 then .none
    else if byteAt b (h + 1) % 16 ≠ 2 then .skipped
    else if 3 < byteAt b h % 16 || !c.mask.testBit (byteAt b h % 16) then .none
    else
      let have8 := (b.drop (h + 8)).take 8
      let short := decide (have8.length < 8)
      let old := natBE (have8 ++ List.replicate (8 - have8.length) 0)
      let new := unsignedOf 64 ((old : Int) + residence)
      let b2 := overwrite b (h + 8) ((bytesBE 8 new).take have8.length)
      match udp with
      | Option.none => .fixed (withFcs b2) short
      | some ip =>
        let have_ := be16 b2 (ip.l4 + 6)
        if ip.frag || (!ip.v6 && have_ == 0) then .fixed (withFcs b2) short
        else
          let s := csumSteps have_ ((regionWords b (h + 8) 8 99).zip (regionWords b2 (h + 8) 8 99))
          .fixed (withFcs (overwrite b2 (ip.l4 + 6) (bytes2 (if s = 0 then 65535 else s)))) short

end Sys2Proof
end

