-- ==== Sys2Proof/Machine/Address.lean ====
section
/-! DEFINITION. The Local Flow Table, the address table, learning and aging (07_tables.md). -/

namespace Sys2Proof

/-! ### LFT (R211 to R213) -/

def Dev.lft (d : Dev) (n lfn : Nat) : Entry := (d.slice n).tab.lft.get {} lfn
def Entry.lftValid (e : Entry) : Bool := e.bit 0 19
def Entry.lftUp (e : Entry) : Bool := e.bit 0 18
def Entry.lftTree (e : Entry) : Nat := e.bits 0 6 8
def Entry.lftAid (e : Entry) : Nat := e.w 1
def Entry.lftQueue (e : Entry) : Nat := e.bits 2 14 0

/-! ### Address entries (R214, Table 7.3) -/

/-- An entry from five words; AGE starts at 0 (R216). -/
def addrOf (w : Nat → Nat) : AddrEntry :=
  { valid := (w 3).testBit 19, static := (w 3).testBit 18, kind := (w 3).testBit 17, port := w 3 / 16 % 32, lfn := w 4,
    vlan := BitVec.ofNat 12 (w 2), mac := BitVec.ofNat 48 (w 0 * 2 ^ 28 + w 1 * 2 ^ 8 + w 2 / 4096) }

def AddrEntry.words (e : AddrEntry) : List Word :=
  let m := e.mac.toNat
  [m / 2 ^ 28, m / 2 ^ 8 % 2 ^ 20, m % 256 * 4096 + e.vlan.toNat,
   e.valid.toNat * 2 ^ 19 + e.static.toNat * 2 ^ 18 + e.kind.toNat * 2 ^ 17 + e.age * 2 ^ 9 + e.port * 16, e.lfn].map (BitVec.ofNat 20)

def Dev.addrAt (d : Dev) (n i : Nat) : AddrEntry := (d.slice n).tab.addr.get {} i

/-- The place of a pipeline, upstream 0 to 3 and downstream 4 to 7, in the order of the cycle (R219). -/
def AddrCycle.turn (c : AddrCycle) (pipe : Nat) : Nat := (pipe + 8 - c.ptr % 8) % 8

/-- The pointer advances past the last update of a cycle (R467). -/
def AddrCycle.nextPtr (c : AddrCycle) : Nat :=
  if c.ups.isEmpty then c.ptr else (c.ptr + c.ups.foldl (fun m u => max m (c.turn u.2.1)) 0 + 1) % 8

/-- The record of the present cycle, empty when a new one has begun. -/
def Tables.inCycle (t : Tables) (cycle : Nat) : AddrCycle :=
  if t.acyc.cycle == cycle then t.acyc else { cycle := cycle, ptr := t.acyc.nextPtr }

/-- Entry i changes. Lookups of the cycle go on seeing what stood when it began (R216, R219); soft: software changes it. -/
def Tables.putAddr (t : Tables) (cycle i : Nat) (e : AddrEntry) (soft : Bool) : Tables :=
  let c := t.inCycle cycle
  let before := if (c.before.get none i).isSome then c.before else c.before.set none i (some (t.addr.get {} i))
  { t with addr := t.addr.set {} i e, acyc := { c with before := before, soft := if soft then i :: c.soft else c.soft } }
def Dev.setAddr (n i : Nat) (e : AddrEntry) (d : Dev) : Dev := d.modTab n fun t => t.putAddr d.cycle i e true

/-- Entry i as a lookup of the present cycle sees it. -/
def Dev.addrSeen (d : Dev) (n i : Nat) : AddrEntry :=
  let t := (d.slice n).tab
  ((t.inCycle d.cycle).before.get none i).getD (t.addr.get {} i)

/-- A hit by a pipeline acts on entry i (R217): a refresh, or a move by f. Both stand beside each other; of several moves in one cycle the last in
rotating pipeline order stands (R219); none acts on what software has changed in the cycle (R222). A refreshing hit is remembered for the
scanner. -/
def Dev.hitAddr (n i pipe : Nat) (move : Bool) (f : AddrEntry → AddrEntry) (d : Dev) : Dev :=
  d.modTab n fun t =>
    let c := t.inCycle d.cycle
    if c.soft.contains i then t
    else
      let beaten := c.ups.any fun u => u.1 == i && u.2.2 && move && decide (c.turn pipe < c.turn u.2.1)
      let t := if beaten then t else t.putAddr d.cycle i (f (t.addr.get {} i)) false
      let c := t.inCycle d.cycle
      { t with acyc := { c with ups := c.ups ++ [(i, pipe, move)], hits := if move then c.hits else i :: c.hits } }

/-- The way among four that holds a key: valid, not uncorrectable (R214, R223). -/
def wayOf (at_ : Nat → AddrEntry) (vlan : BitVec 12) (mac : BitVec 48) : Option (Nat × AddrEntry) :=
  let s := addrSet vlan mac
  ((List.range 4).map fun w => (4 * s + w, at_ (4 * s + w))).find? fun x => x.2.valid && !x.2.bad && x.2.vlan == vlan && x.2.mac == mac
def Dev.addrFind (d : Dev) (n : Nat) (vlan : BitVec 12) (mac : BitVec 48) : Option (Nat × AddrEntry) := wayOf (d.addrAt n) vlan mac
def Dev.addrLook (d : Dev) (n : Nat) (vlan : BitVec 12) (mac : BitVec 48) : Option (Nat × AddrEntry) := wayOf (d.addrSeen n) vlan mac

/-- Forget what the learn filter holds of a key (R218). -/
def Dev.forgetKey (n : Nat) (vlan : BitVec 12) (mac : BitVec 48) (d : Dev) : Dev :=
  d.modTab n fun t => { t with filter := t.filter.filter fun r => !(r.vlan == vlan && r.mac == mac) }

/-! ### Learn notices (R218, R220, Table 7.6) -/

/-- What a notice says of the other party. -/
structure Prev where
  dir : Dir := .down
  port : Nat := 0
  val : Nat := 0
  ns : Nat := 0
  deriving DecidableEq, Repr

/-- Write a notice: it takes the next sequence number, and is lost when the queue of 4,096 is full. -/
def Dev.learnNotice (n kind : Nat) (dir : Dir) (port : Nat) (mac : BitVec 48) (vlan : BitVec 12) (aid ns : Nat) (p : Prev) (d : Dev) : Dev :=
  let t := (d.slice n).tab
  let m := mac.toNat
  let r : List Word := [t.learnSeq, kind * 2 ^ 17 + dir.num * 2 ^ 16 + port * 2 ^ 11, m / 2 ^ 28, m / 2 ^ 8 % 2 ^ 20, m % 256 * 4096 + vlan.toNat,
    aid, ns / 2 ^ 20, ns, p.dir.num * 2 ^ 16 + p.port * 2 ^ 11, p.val, p.ns / 2 ^ 20, p.ns].map (BitVec.ofNat 20)
  let full := t.learnIdx.full 4096
  let d := d.modTab n fun t =>
    { t with learnSeq := (t.learnSeq + 1) % 2 ^ 20, learnIdx := if full then t.learnIdx.lose else t.learnIdx.push 4096,
             learnQ := if full then t.learnQ else t.learnQ.set [] (t.learnIdx.dev % 4096) r }
  if full then d.bump .learnLost n 0 else d.due (400 + n)

/-- Who sent the frame whose source is looked up. -/
structure Sender where
  dir : Dir
  pipe : Nat := 0
  port : Nat
  aid : Word
  vlan : BitVec 12
  mac : BitVec 48
  ns : Nat
  deriving DecidableEq, Repr

def LearnRec.is (r : LearnRec) (x : Sender) (kind : Nat) : Bool := r.vlan == x.vlan && r.mac == x.mac && r.kind == kind
def LearnRec.onPort (r : LearnRec) (x : Sender) : Bool := r.dir == x.dir && r.port == x.port

/-- Renew the record of a kind (any port of it that `same` picks goes), dropping the oldest when 2,048 are held (R218). -/
def Dev.learnRecord (n : Nat) (x : Sender) (kind : Nat) (same : LearnRec → Bool) (d : Dev) : Dev :=
  let r : LearnRec := { vlan := x.vlan, mac := x.mac, kind := kind, dir := x.dir, port := x.port, aid := x.aid, time := d.now, devNs := x.ns }
  d.modTab n fun t => { t with filter := lastN 2048 ((t.filter.filter fun r => !(r.is x kind && same r)) ++ [r]) }

/-- A notice of kind 2, 3 or 4 within 1 ms of an equal one is suppressed (R218). -/
def Dev.filtered (n kind : Nat) (x : Sender) (p : Prev) (d : Dev) : Bool × Dev :=
  let r := (d.slice n).tab.filter.find? fun r => r.is x kind && r.onPort x
  match r with
  | some r =>
    if d.now < r.time + Config.ms then (false, d.bump .learnDedup n 0)
    else (true, (d.learnNotice n kind x.dir x.port x.mac x.vlan x.aid.toNat x.ns p).learnRecord n x kind (·.onPort x))
  | none => (true, (d.learnNotice n kind x.dir x.port x.mac x.vlan x.aid.toNat x.ns p).learnRecord n x kind (·.onPort x))

/-- A miss (Table 7.5). The record takes the new port and time of a two-port conflict, whose notice R218 may suppress. -/
def Dev.learnMiss (n : Nat) (x : Sender) (d : Dev) : Dev :=
  match (d.slice n).tab.filter.find? fun r => r.is x 0 with
  | none => (d.learnNotice n 0 x.dir x.port x.mac x.vlan x.aid.toNat x.ns {}).learnRecord n x 0 fun _ => true
  | some r =>
    if r.onPort x then
      if d.now < r.time + Config.ms then d.bump .learnDedup n 0
      else (d.learnNotice n 0 x.dir x.port x.mac x.vlan x.aid.toNat x.ns {}).learnRecord n x 0 fun _ => true
    else
      (d.filtered n 4 x { dir := r.dir, port := r.port, val := r.aid.toNat, ns := r.devNs }).2.learnRecord n x 0 fun _ => true

/-- A hit is on the same port (R217). -/
def Dev.samePort (d : Dev) (n : Nat) (x : Sender) (e : AddrEntry) : Bool :=
  if e.kind then
    let f := d.lft n e.lfn
    let k := 8 * n + x.port
    x.dir == .down && f.lftAid == x.aid.toNat && (f.lftTree == k || (d.tree f.lftTree).cfg.pair == some k)
  else x.dir == .up && e.port == x.port

/-- The other party of a notice about an entry. -/
def AddrEntry.prev (e : AddrEntry) : Prev := { dir := if e.kind then .down else .up, port := e.port, val := e.lfn }

/-- A hit (Table 7.5). -/
def Dev.learnHit (n : Nat) (x : Sender) (i : Nat) (e : AddrEntry) (d : Dev) : Dev :=
  if d.samePort n x e then d.hitAddr n i x.pipe false fun e => { e with age := 0 }
  else if e.static then ((d.bump .staticConflict n 0).filtered n 3 x e.prev).2
  else if !e.kind && x.dir == .up then
    if decide (d.now < e.holdEnd) then ((d.bump .moveHeld n 0).filtered n 2 x e.prev).2
    else
      let hold := (d.slice n).tab.learn.moveHold * Config.ms
      let d := d.hitAddr n i x.pipe true fun e => { e with port := x.port, age := 0, holdEnd := d.now + hold }
      (d.bump .moved n 0).learnNotice n 1 x.dir x.port x.mac x.vlan x.aid.toNat x.ns e.prev
  else (d.filtered n 2 x e.prev).2

/-- The source lookup (R217): a group or zero address is never learned. -/
def Dev.learn (n : Nat) (x : Sender) (d : Dev) : Dev :=
  let c := (d.slice n).tab.learn
  let on := match x.dir with | .up => c.sys.testBit x.port | .down => c.tree.testBit x.port
  if !on || x.mac == 0 || x.mac.getLsbD 40 then d
  else match d.addrLook n x.vlan x.mac with
  | none => d.learnMiss n x
  | some (i, e) => d.learnHit n x i e

/-- The destination lookup (R215): a hit of the direction's kind, refreshed when AGE_DST is set (R221). -/
def Dev.destLookup (n pipe : Nat) (dir : Dir) (vlan : BitVec 12) (mac : BitVec 48) (d : Dev) : Option AddrEntry × Dev :=
  match d.addrLook n vlan mac with
  | some (i, e) =>
    if e.kind == (dir == .up) then
      (some e, if (d.slice n).tab.learn.ageDst then d.hitAddr n i pipe false fun e => { e with age := 0 } else d)
    else (none, d)
  | none => (none, d)

/-- A learn-filter record ends 1 s after its last notice (R218). -/
def Dev.learnExpiry (n : Nat) (d : Dev) : Dev :=
  d.modTab n fun t => { t with filter := t.filter.filter fun r => decide (d.now < r.time + Config.sec) }

/-! ### Aging (R221) -/

/-- A tick of AGE_TICK starts a pass; a changed tick or limit applies from it on. -/
def Dev.agePass (n : Nat) (d : Dev) : Dev :=
  let t := (d.slice n).tab
  let tick := t.ageTick * Config.ms
  if t.agePass || Nat.blt d.now (t.ageAt + tick) then d
  else (d.wake (pdTables n) causeTimer).modTab n fun t =>
    { t with agePass := true, ageNext := 0, ageLim := max 1 t.learn.ageLimit, ageTick := t.learn.ageTick,
             ageAt := t.ageAt + (d.now - t.ageAt) / tick * tick }

/-- A notice about a removed entry: its own port and LFN. No frame has arrived: DIR is that of the entry's KIND and the time that of the visit
(DESIGN CHOICE, log entry 132). -/
def Dev.removedNotice (n kind ns : Nat) (e : AddrEntry) (d : Dev) : Dev :=
  d.learnNotice n kind (if e.kind then .down else .up) e.port e.mac e.vlan 0 ns { val := e.lfn }

/-- One way of the visited set, as it stood when the cycle began; hit: a refreshing hit reached it in this cycle, and cancels the removal (R221,
R222). The cycle's moves and software changes come after the visit (R223): a move of an entry that is removed has nothing left to change, any
other has its AGE of 0, and what software has put there stands. -/
def Dev.ageWay (n i ns : Nat) (bad hit : Bool) (d : Dev) : Dev :=
  let t := (d.slice n).tab
  let c := t.inCycle d.cycle
  let e := d.addrSeen n i
  let put := fun (f : AddrEntry → AddrEntry) (d : Dev) =>
    if c.soft.contains i then d else d.modTab n fun t => { t with addr := t.addr.set {} i (f (t.addr.get {} i)) }
  if bad || e.bad then (put (fun e => { e with valid := false, bad := false }) d).removedNotice n 6 ns e
  else if e.valid && !e.static then
    if hit then put (fun e => { e with age := 0 }) d
    else
      let a := min 255 (e.age + 1)
      if t.ageLim ≤ a then ((put (fun e => { e with valid := false }) d).bump .aged n 0).removedNotice n 5 ns e
      else if c.ups.any fun u => u.1 == i && u.2.2 then d
      else put (fun e => { e with age := a }) d
  else d

/-- The visit of a set, as the cycle ends: a lookup of that cycle has still seen its entries (R221, R222). -/
def Dev.endVisit (n set_ bad ns : Nat) (d : Dev) : Dev :=
  let hits := ((d.slice n).tab.inCycle d.cycle).hits
  d.forEach (List.range 4) fun w d => d.ageWay n (4 * set_ + w) ns (bad.testBit w) (hits.contains (4 * set_ + w))

/-- The scanner visits the next set; bad is the mask of the ways it finds uncorrectable. -/
def Dev.ageVisit (n bad : Nat) (d : Dev) : Dev :=
  let t := (d.slice n).tab
  if !t.agePass then d
  else ({ d with ending := d.ending ++ [.visit n t.ageNext bad d.devNs] } : Dev).modTab n fun t =>
    { t with ageNext := (t.ageNext + 1) % 131072, agePass := decide (t.ageNext + 1 < 131072) }

/-! ### Commands (Table 7.9) -/

/-- A 48-bit address in three dwords (R402). -/
def Req.mac (rq : Req) (i : Nat) : BitVec 48 :=
  BitVec.ofNat 48 (rq.prm i % 256 * 2 ^ 40 + rq.prm (i + 1) * 2 ^ 20 + rq.prm (i + 2))

/-- A slice's shared tables need one direction of it ready; a command wakes their domain (R207, R230, R381). -/
def Dev.wakeTables (n : Nat) (d : Dev) : Dev := d.wake (pdTables n) causeHost

/-- The bits of word j of an entry that are not reserved, by table code (Tables 6.2 to 6.6, 6.8, 7.1 and 9.1). -/
def entryBits (code j : Nat) : Word :=
  match code with
  | 1 => if j = 0 then 0xFFFE0 else 0x000FF
  | 2 => if j < 3 then 0xFFFE0 else 0x0FFFF
  | 4 => if j = 0 then 0xFFFC0 else 0xFFFFC
  | 5 => if j = 0 then 0xFC000 else 0x0FFFF
  | 6 => if j = 0 then 0xFFFF0 else if j = 3 then 0xFFFFF else if j = 4 then 0xFFFFF else if j = 5 then 0x00FFF else 0x0FFFF
  | 7 => if j < 3 then 0xFFFFF else if j = 13 then 0xFFC00 else if j = 18 then 0xFFC00 else 0x0FFFF
  | 8 =>
    match j with
    | 2 => 0x03FFF | 3 => 0xEFFFF | 4 => 0x07FFF | 5 => 0x80FFF | 6 => 0x80000
    | _ => 0xFFFFF
  | 9 => if j = 0 then 0xE0000 else 0xFFFFF
  | _ => 0xFFFFF

/-- The words of an entry of a table as they are stored: reserved bits are zero, whatever was written (R9). -/
def storedEntry (code : Nat) (ws : List Word) : Entry := { words := ws.zipWith (fun w j => w &&& entryBits code j) (List.range ws.length) }

/-- A record of the request as an entry of a table. -/
def Req.entry (rq : Req) (code i n : Nat) : Entry := storedEntry code (rq.words i n)

/-- The rules of R212 on one entry, its first word at dword i. -/
def Dev.lftRefused (d : Dev) (n : Nat) (e : Entry) (i : Nat) : Check :=
  if !e.lftValid || !e.lftUp then none
  else firstFail [failIf (e.lftTree / 8 != n) .refused i, failIf (Config.aidReserved (e.words.getD 1 0)) .refused (i + 1),
    failIf (d.workingTree e.lftTree != e.lftTree) .refused i]

/-- Fields of an entry outside their range (R212, R404). -/
def lftRange (e : Entry) (i : Nat) : Check :=
  if e.lftValid then failIf (e.bits 3 2 17 == 3) .range (i + 3) else none

/-- `lft_write`: slice; first LFN; a list of 1 to 16 entries (R212). -/
def cmdLftWrite : Cmd := fun rq d =>
  let n := rq.prm 0
  let k := rq.prm 2
  let e := fun j => rq.entry 8 (3 + 8 * j) 8
  let js := List.range k
  withChecks ([chkLenIf (decide (3 ≤ rq.len) && rq.len == 3 + 8 * k)] ++ (sliceChecks rq d 0).drop 1 ++
      [chkRange rq [(2, 1, 16), (1, 0, 2 ^ 20 - k)], js.findSome? fun j => lftRange (e j) (3 + 8 * j),
       js.findSome? fun j => d.lftRefused n (e j) (3 + 8 * j)]) d <|
    okDone ((d.wakeTables n).modTab n fun t => { t with lft := js.foldl (fun m j => m.set {} (rq.prm 1 + j) (e j)) t.lft })

/-- Place a valid entry (R216): none where the set is full. -/
def Dev.addrPlace (d : Dev) (n : Nat) (e : AddrEntry) : Option Nat :=
  let s := addrSet e.vlan e.mac
  match d.addrFind n e.vlan e.mac with
  | some (i, _) => some i
  | none => ((List.range 4).map (4 * s + ·)).find? fun i => !(d.addrAt n i).valid

/-- `addr_insert`: slice; entry; replace flag (R216). A set that holds the key is not full for it: with the flag 0 the answer is EXISTS, though R216
lists the full set first (DESIGN CHOICE, log entry 132). -/
def cmdAddrInsert : Cmd := fun rq d =>
  let n := rq.prm 0
  let e := addrOf fun i => rq.prm (1 + i)
  let f := d.lft n e.lfn
  withChecks ((sliceChecks rq d 7) ++ [failIf (!e.valid) .range 4, chkRange rq [(6, 0, 1)],
      failIf ((d.addrFind n e.vlan e.mac).isSome && !rq.flag 6) .exists,
      failIf (d.addrPlace n e).isNone .setFull (addrSet e.vlan e.mac),
      failIf (e.kind && !(f.lftValid && f.lftUp)) .refused 5]) d <|
    match d.addrPlace n e with
    | none => okDone d
    | some i => okDone (((d.wakeTables n).setAddr n i e).forgetKey n e.vlan e.mac)

/-- The key of a delete or lookup: slice; VLAN; MAC in three dwords. -/
def addrKeyChecks (rq : Req) (d : Dev) : List Check :=
  sliceChecks rq d 5 ++ [chkRange rq [(1, 0, 4095), (2, 0, 255)],
    failIf (d.addrFind (rq.prm 0) (BitVec.ofNat 12 (rq.prm 1)) (rq.mac 2)).isNone .notFound]

def cmdAddrDelete : Cmd := fun rq d =>
  withChecks (addrKeyChecks rq d) d <|
    let n := rq.prm 0
    let v := BitVec.ofNat 12 (rq.prm 1)
    match d.addrFind n v (rq.mac 2) with
    | none => okDone d
    | some (i, _) => okDone (((d.wakeTables n).setAddr n i {}).forgetKey n v (rq.mac 2))

def cmdAddrLookup : Cmd := fun rq d =>
  withChecks (addrKeyChecks rq d) d <|
    let n := rq.prm 0
    match d.addrFind n (BitVec.ofNat 12 (rq.prm 1)) (rq.mac 2) with
    | none => okDone d
    | some (i, e) => okWith (d.wakeTables n) (resWords e.words ++ resWide 17 (i / 4) ++ resWide 2 (i % 4))

/-- `addr_flush`: slice; 0 all, 1 by system port, 2 by LFN; the port or LFN; 0 dynamic only, 1 also static. -/
def cmdAddrFlush : Cmd := fun rq d =>
  let n := rq.prm 0
  let gone := fun (e : AddrEntry) => e.valid && (!e.static || rq.flag 3) &&
    (match rq.prm 1 with
     | 0 => true
     | 1 => !e.kind && e.port == rq.prm 2
     | _ => e.kind && e.lfn == rq.prm 2)
  withChecks (sliceChecks rq d 4 ++ [chkRange rq [(1, 0, 2), (2, 0, if rq.prm 1 = 1 then 31 else 2 ^ 20 - 1), (3, 0, 1)]]) d <|
    let hit := (d.slice n).tab.addr.filter fun x => gone x.2
    okWith ((d.wakeTables n).forEach hit fun x d => (d.setAddr n x.1 {}).forgetKey n x.2.vlan x.2.mac) (resWide 20 hit.length)

/-- `learn_cfg_set` (Table 7.4). -/
def cmdLearnCfgSet : Cmd := fun rq d =>
  withChecks (sliceChecks rq d 5 ++ [failIf (rq.bits 1 16 0 == 0) .range 1, failIf (decide (1000 < rq.bits 2 11 0)) .range 2]) d <|
    okDone ((d.wakeTables (rq.prm 0)).modTab (rq.prm 0) fun t =>
      { t with learn := { ageTick := rq.bits 1 16 0, ageLimit := max 1 (rq.bits 2 8 12), ageDst := rq.bit 2 11, moveHold := rq.bits 2 11 0,
                          sys := rq.prm 3 + rq.bits 4 12 0 * 2 ^ 20, tree := rq.bits 4 8 12 } })

end Sys2Proof
end

