-- ==== Sys2Proof/Machine/ClassCmd.lean ====
section
/-! DEFINITION. The commands of classification and the shadow compare: reading and writing entries of the tables by their
codes (Tables 6.12, 7.8 and 7.9). -/

namespace Sys2Proof

/-! ### Entries by table code (Table 7.8, R230) -/

/-- Words of an entry, by table code. -/
def entryWidth : Nat → Nat
  | 1 => 2 | 2 => 5 | 3 => 1 | 4 => 17 | 5 => 3 | 6 => 70 | 7 => 23 | 8 => 8 | 9 => 7 | 10 => 5 | 11 => 1 | _ => 5

def padTo (n : Nat) (ws : List Word) : List Word := (ws ++ List.replicate n 0).take n

/-- The device's static entries, ascending by VLAN then MAC. -/
def AddrEntry.key (e : AddrEntry) : Nat := e.vlan.toNat * 2 ^ 48 + e.mac.toNat
def insertKey (e : AddrEntry) : List AddrEntry → List AddrEntry
  | [] => [e]
  | x :: xs => if e.key < x.key then e :: x :: xs else x :: insertKey e xs
def Dev.statics (d : Dev) (n : Nat) : List AddrEntry :=
  ((d.slice n).tab.addr.filter fun x => x.2.valid && x.2.static && !x.2.bad).foldl (fun a x => insertKey x.2 a) []

/-- Entries of a table. -/
def Dev.tableSize (d : Dev) (n : Nat) : Nat → Nat
  | 1 => 40 | 2 => 2560 | 3 => 2 | 4 => 64 | 5 => 256 | 6 => 4096 | 7 => 4096 | 8 => 1048576 | 9 => 65536
  | 10 => (d.statics n).length | 11 => 262144 | _ => 524288

/-- One dword of an accept bitmap (R101, `accept_read`). -/
def Tree.acceptDword (x : Tree) (i : Nat) : Dword :=
  BitVec.ofNat 32 ((List.range 32).foldl (fun a b => a + (x.acc.bits.get false (32 * i + b)).toNat * 2 ^ b) 0)

/-- Entry i of a table as stored, and whether it is uncorrectable. -/
def Dev.tableEntry (d : Dev) (n code i : Nat) : Entry :=
  let t := (d.slice n).tab
  match code with
  | 1 => t.cfg i
  | 2 => t.filters.get {} i
  | 3 => { words := [(if i = 0 then t.tpidA else t.tpidB).setWidth 20] }
  | 4 => t.profiles.get {} i
  | 5 => t.ranges.get {} i
  | 6 => t.rules.get {} i
  | 7 => t.actions.get {} i
  | 8 => t.lft.get {} i
  | 9 =>
    let m := (d.slice n).sched.meters.get {} i
    { words := m.words, bad := m.bad }
  | 10 => { words := ((d.statics n).getD i {}).words }
  | _ =>
    let e := d.addrAt n i
    { words := e.words, bad := e.bad }

/-- The same as dwords. -/
def Dev.tableDwords (d : Dev) (n code i : Nat) : List Dword :=
  if code = 11 then [(d.tree (8 * n + i / 32768)).acceptDword (i % 32768)]
  else resWords (padTo (entryWidth code) (d.tableEntry n code i).words)

/-- The ingress port of entry i of INGRESS_CFG or of the MAC filters has its direction ready and is configured, as its command asks (R210,
Table 14.14). -/
def Dev.portFault (d : Dev) (n code i : Nat) : Check :=
  let p := if code = 2 then i / 64 else i
  firstFail [chkReady d [[if p < 32 then fnUs n else fnDs n]],
    failIf (if p < 32 then (d.sysPort (32 * n + p)).width == 0 else !(d.tree (8 * n + (p - 32))).cfg.configured) .unconfigured 2]

/-- Faults of an entry that the table's own write command refuses (R188, R190, R196, R212, R260), first word at dword i. -/
def Dev.entryFault (d : Dev) (n code : Nat) (e : Entry) (i : Nat) : Check :=
  let w := fun j => (e.words.getD j 0).toNat
  match code with
  | 2 => failIf (e.bits 0 2 17 == 3) .range i
  | 3 => failIf (decide (65535 < w 0)) .range i
  | 4 => failIf (e.bits 0 2 17 == 3) .range i
  | 7 => failIf (e.bits 0 2 4 == 3 || e.bits 0 2 2 == 3 || e.bits 0 2 0 == 3) .range i
  | 8 => firstFail [lftRange e i, d.lftRefused n e i]
  | 9 => let m := meterOfWords w 0; firstFail [m.range i, m.refused i]
  | _ => none

/-- Write entry i of a table, as its own command does; the entry is no longer uncorrectable. -/
def Dev.writeEntry (n code i : Nat) (e : Entry) (d : Dev) : Dev :=
  let w := fun j => (e.words.getD j 0).toNat
  match code with
  | 1 => d.modTab n fun t => { t with ingress := t.ingress.set ingressReset i e }
  | 2 => d.modTab n fun t => { t with filters := t.filters.set {} i e }
  | 3 => d.modTab n fun t => if i = 0 then { t with tpidA := BitVec.ofNat 16 (w 0) } else { t with tpidB := BitVec.ofNat 16 (w 0) }
  | 4 => d.modTab n fun t => { t with profiles := t.profiles.set {} i e }
  | 5 => d.modTab n fun t => { t with ranges := t.ranges.set {} i e }
  | 6 => d.modTab n fun t => { t with rules := t.rules.set {} i e }
  | 7 => d.modTab n fun t => { t with actions := t.actions.set {} i e }
  | 8 => d.modTab n fun t => { t with lft := t.lft.set {} i e }
  | 9 => d.modSched n fun s => { s with meters := s.meters.set {} i (meterOfWords w (d.cycle * Config.slicePeriod)) }
  | _ => d

/-- Mark entry i of a table uncorrectable: until it is rewritten, it has the effects of Tables 6.10 and 7.2 and R262; each case
raises an event that names the table and the entry (R208, R213). -/
def Dev.markBad (n code i : Nat) (d : Dev) : Dev :=
  match code with
  | 9 => d.modSched n fun s => { s with meters := s.meters.upd {} i fun m => { m with bad := true } }
  | 12 => d.modTab n fun t => { t with addr := t.addr.upd {} i fun e => { e with bad := true } }
  | _ =>
    let d := d.writeEntry n code i { d.tableEntry n code i with bad := true }
    if code = 8 then d else d.raise (qSlice n) 0x06 1 i [code]

/-! ### Commands of Table 6.12 -/

/-- The ingress port of `port_parse_set` and `mac_filter_write`: the commands name no slice, so the port is device-wide, a
first system lane upstream and a local tree index downstream (log entry 18). -/
def ingressChecks (rq : Req) (d : Dev) (n : Nat) (more : List Check) : List Check :=
  let up := rq.prm 0 == 1
  let p := rq.prm 1
  let fn := if up then (if p < 256 then fnUs (p / 32) else 99) else (if p < 64 then fnDs (p / 8) else 99)
  [chkLen rq n, chkReady d [[fn]], chkRange rq [(0, 0, 1), (1, 0, if up then 255 else 63)]] ++ more ++
    [failIf (if up then (d.sysPort p).width == 0 else !(d.tree p).cfg.configured) .unconfigured 1]
def Req.ingressSlice (rq : Req) : Nat := if rq.prm 0 = 1 then rq.prm 1 / 32 else rq.prm 1 / 8
def Req.ingressNo (rq : Req) : Nat := if rq.prm 0 = 1 then rq.prm 1 % 32 else 32 + rq.prm 1 % 8

/-- `port_parse_set` (R186). -/
def cmdPortParseSet : Cmd := fun rq d =>
  withChecks (ingressChecks rq d 4 []) d <|
    let n := rq.ingressSlice
    okDone ((d.wakeTables n).writeEntry n 1 rq.ingressNo (rq.entry 1 2 2))

/-- `tpid_set` (R187). -/
def cmdTpidSet : Cmd := fun rq d =>
  withChecks (sliceChecks rq d 3 ++ [chkRange rq [(1, 0, 65535), (2, 0, 65535)]]) d <|
    let n := rq.prm 0
    okDone ((d.wakeTables n).modTab n fun t => { t with tpidA := BitVec.ofNat 16 (rq.prm 1), tpidB := BitVec.ofNat 16 (rq.prm 2) })

/-- `mac_filter_write` (R188). -/
def cmdMacFilterWrite : Cmd := fun rq d =>
  withChecks (ingressChecks rq d 8 [chkRange rq [(2, 0, 63)], d.entryFault 0 2 (rq.entry 2 3 5) 3]) d <|
    let n := rq.ingressSlice
    okDone ((d.wakeTables n).writeEntry n 2 (64 * rq.ingressNo + rq.prm 2) (rq.entry 2 3 5))

/-- A write of one entry: slice; index; the words. -/
def writeOne (code width top : Nat) : Cmd := fun rq d =>
  withChecks (sliceChecks rq d (2 + width) ++ [chkRange rq [(1, 0, top)], d.entryFault (rq.prm 0) code (rq.entry code 2 width) 2]) d <|
    okDone ((d.wakeTables (rq.prm 0)).writeEntry (rq.prm 0) code (rq.prm 1) (rq.entry code 2 width))

def cmdProfileWrite : Cmd := writeOne 4 17 63
def cmdRangeWrite : Cmd := writeOne 5 3 255
def cmdActionWrite : Cmd := writeOne 7 23 4095

/-- `rule_write`: slice; a list of 1 to 16 rules, each an index and 70 words; then, each with its count or absent, a list of
comparators and a list of action sets, each entry an index and its words (R207, R402). -/
def cmdRuleWrite : Cmd := fun rq d =>
  let k := rq.prm 1
  let atC := 2 + 71 * k
  let c := if atC < rq.len then rq.prm atC else 0
  let atA := if atC < rq.len then atC + 1 + 4 * c else atC
  let a := if atA < rq.len then rq.prm atA else 0
  let end_ := if atA < rq.len then atA + 1 + 24 * a else atA
  let rules := (List.range k).map fun j => (6, 2 + 71 * j, 70, 4095)
  let comps := (List.range c).map fun j => (5, atC + 1 + 4 * j, 3, 255)
  let acts := (List.range a).map fun j => (7, atA + 1 + 24 * j, 23, 4095)
  let all := rules ++ comps ++ acts
  withChecks ([chkLenIf (rq.len == end_)] ++ (sliceChecks rq d 0).drop 1 ++ [chkRange rq [(1, 1, 16)],
      all.findSome? fun x => firstFail [chkRange rq [(x.2.1, 0, x.2.2.2)], d.entryFault (rq.prm 0) x.1 (rq.entry x.1 (x.2.1 + 1) x.2.2.1) (x.2.1 + 1)]]) d <|
    okDone ((d.wakeTables (rq.prm 0)).forEach all fun x d => d.writeEntry (rq.prm 0) x.1 (rq.prm x.2.1) (rq.entry x.1 (x.2.1 + 1) x.2.2.1))

/-- `cls_read`: slice; table code; first index; count; host buffer address. The halted channel that would write the buffer is found after every range
check (DESIGN CHOICE, log entry 132). -/
def cmdClsRead : Cmd := fun rq d =>
  let n := rq.prm 0
  let size := d.tableSize n (rq.prm 1)
  withChecks ([chkLen rq 6] ++ (sliceChecks rq d 6).drop 1 ++ [chkRange rq [(1, 1, 12), (2, 0, size - 1), (3, 1, size - rq.prm 2)],
      failIf (rq.raw 4 % 4 != 0) .range 4, chkDma rq d]) d <|
    let d := d.wakeTables n
    okDone (d.hostWrite rq.mb.val (rq.addr 4) ((List.range (rq.prm 3)).flatMap fun j => d.tableDwords n (rq.prm 1) (rq.prm 2 + j)))

/-! ### Shadow compare (R225 to R228) -/

/-- `shadow_set`: slice; table code; host address; entry count, for code 0x0A. -/
def cmdShadowSet : Cmd := fun rq d =>
  withChecks ([chkLenIf (rq.len == 5 || (rq.len == 4 && rq.prm 1 != 10))] ++ (sliceChecks rq d 0).drop 1 ++
      [chkRange rq [(1, 1, 11)], failIf (rq.raw 2 % 4 != 0) .range 2, failIf (rq.prm 1 == 10 && decide (524288 < rq.prm 4)) .range 4]) d <|
    okDone (d.modTab (rq.prm 0) fun t =>
      { t with shadow := { t.shadow with addr := t.shadow.addr.set none (rq.prm 1) (some (rq.addr 2)),
                                         count := if rq.prm 1 = 10 then rq.prm 4 else t.shadow.count } })

/-- The table codes of a mask: bit c is code c. -/
def maskCodes (m : Nat) : List Nat := (List.range 12).filter fun c => c != 0 && m.testBit c

/-- `shadow_start`: slice; table mask; 0 once, 1 continuous. -/
def cmdShadowStart : Cmd := fun rq d =>
  let sh := (d.slice (rq.prm 0)).tab.shadow
  withChecks (sliceChecks rq d 3 ++ [failIf (rq.prm 1 == 0 || rq.prm 1 % 2 == 1 || decide (4096 ≤ rq.prm 1)) .range 1, chkRange rq [(2, 0, 1)],
      failIf ((maskCodes (rq.prm 1)).any fun c => (sh.addr.get none c).isNone) .notFound, failIf sh.running .busy]) d <|
    okDone ((d.wakeTables (rq.prm 0)).modTab (rq.prm 0) fun t =>
      { t with shadow := { t.shadow with running := true, stopping := false, cont := rq.flag 2, mask := rq.prm 1, todo := maskCodes (rq.prm 1), index := 0,
                                         compared := 0, mism := 0, skips := 0, keys := [] } })

/-- `shadow_stop`: the current entry completes; no further compares (R230). -/
def cmdShadowStop : Cmd := fun rq d =>
  withChecks (sliceChecks rq d 1) d <|
    okDone (d.modTab (rq.prm 0) fun t => { t with shadow := { t.shadow with stopping := t.shadow.running } })

def Dev.modShadow (n : Nat) (f : Shadow → Shadow) (d : Dev) : Dev := d.modTab n fun t => { t with shadow := f t.shadow }

/-- One mismatch: an event, beyond 64 in a pass only a count (R227). flag: 0 device-only, 1 shadow-only, 2 uncorrectable, in the order listed (R402,
R462); an entry that both hold, and that differs, has 3, none of them (DESIGN CHOICE, log entry 115). -/
def Dev.shadowMismatch (n code index word dev sh flag : Nat) (d : Dev) : Dev :=
  let m := (d.slice n).tab.shadow.mism
  let d := d.modShadow n fun s => { s with mism := s.mism + 1 }
  if m < 64 then d.raise (qSlice n) 0x07 2 code [index, word, dev, sh, flag] else d.bump .shcMore n 0

/-- The first word in which an entry differs from its shadow: bits [31:20] and the AGE field are ignored (R225). -/
def firstDiff (code : Nat) (dev sh : List Nat) : Option Nat :=
  (List.range (entryWidth code)).find? fun i =>
    let clean := fun v => let v := v % 2 ^ 20; if code = 10 ∧ i = 3 then v / 2 ^ 17 * 2 ^ 17 + v % 2 ^ 9 else v
    clean (dev.getD i 0) != clean (sh.getD i 0)

/-- The pass of one table ends: its summary; then the next table, or the first again, unless it was stopped (R226, R227, R230). -/
def Dev.shadowEnd (n code : Nat) (d : Dev) : Dev :=
  let s := (d.slice n).tab.shadow
  let d := d.raise (qSlice n) 0x07 3 code [s.compared % 2 ^ 20, s.mism % 2 ^ 20, s.skips % 2 ^ 20]
  d.modShadow n fun s =>
    let rest := s.todo.drop 1
    let todo := if s.stopping then [] else if rest.isEmpty && s.cont then maskCodes s.mask else rest
    { s with todo := todo, running := !todo.isEmpty, stopping := false, index := 0, compared := 0, mism := 0, skips := 0, keys := [] }

/-- Compare one fetched entry of code 0x0A: the key is looked up among the device's static entries. -/
def Dev.shadowStatic (n i : Nat) (sh : List Nat) (d : Dev) : Dev :=
  let e := addrOf fun j => sh.getD j 0
  match (d.addrFind n e.vlan e.mac).bind fun x => if x.2.static then some x else none with
  | none =>
    let s := addrSet e.vlan e.mac
    let bad := (List.range 4).any fun w => (d.addrAt n (4 * s + w)).bad
    d.shadowMismatch n 10 i 0 0 (sh.getD 0 0) (if bad then 2 else 1)
  | some (_, f) =>
    match firstDiff 10 (f.words.map (·.toNat)) sh with
    | none => d
    | some w => d.shadowMismatch n 10 i w ((f.words.getD w 0).toNat) (sh.getD w 0) 3

/-- The flag of a differing dword of an accept bitmap: a bit set in the shadow alone makes it shadow-only, else it is device-only (R227, R472; log
entry 115). -/
def acceptFlag (dev sh : Nat) : Nat := if Nat.land sh dev == sh then 0 else 1

/-- Compare one fetched entry of another table. -/
def Dev.shadowEntry (n code i : Nat) (sh : List Nat) (d : Dev) : Dev :=
  let dev := (d.tableDwords n code i).map fun v => v.toNat % 2 ^ 20
  let bad := if code == 11 then (d.tree (8 * n + i / 32768)).acc.badWords.contains (i % 32768) else (d.tableEntry n code i).bad
  match firstDiff code dev sh with
  | none => if bad then d.shadowMismatch n code i 0 (dev.getD 0 0) (sh.getD 0 0) 2 else d
  | some w =>
    d.shadowMismatch n code i w (dev.getD w 0) (sh.getD w 0) (if bad then 2 else if code == 11 then acceptFlag (dev.getD w 0) (sh.getD w 0) else 3)

/-- The device's static entries that the shadow list lacks. -/
def Dev.shadowOrphans (n : Nat) (d : Dev) : Dev :=
  let s := (d.slice n).tab.shadow
  let es := d.statics n
  d.forEach (List.range es.length) fun i d =>
    let e := es.getD i {}
    if s.keys.contains e.key then d else d.shadowMismatch n 10 (s.count + i) 0 ((e.words.getD 0 0).toNat) 0 0

/-- Entries of a pass. -/
def Dev.shadowSize (d : Dev) (n code : Nat) : Nat := if code = 10 then (d.slice n).tab.shadow.count else d.tableSize n code

/-- After an entry: the next one, or the end of the pass. -/
def Dev.shadowNext (n code : Nat) (d : Dev) : Dev :=
  let d := d.modShadow n fun s => { s with index := s.index + 1 }
  if (d.slice n).tab.shadow.stopping then d.shadowEnd n code
  else if (d.slice n).tab.shadow.index < d.shadowSize n code then d
  else (if code = 10 then d.shadowOrphans n else d).shadowEnd n code

/-- A shadow entry arrives (R226) with the completion status of its read, in the numbers of CAUSE of
Table 14.18: 0 is success, another ends the pass with an event that gives the table
and the status; raced, a write completed in between and the entry is skipped. -/
def Dev.shadowFetch (n status : Nat) (entry : List Dword) (raced : Bool) (d : Dev) : Dev :=
  let s := (d.slice n).tab.shadow
  let sh := entry.map fun v => v.toNat % 2 ^ 20
  let key := (addrOf fun j => sh.getD j 0).key
  match s.todo with
  | [] => d
  | code :: _ =>
    if !s.running then d
    else if status != 0 then (d.raise (qSlice n) 0x07 4 code [status]).shadowEnd n code
    else if decide (d.shadowSize n code ≤ s.index) then d.shadowNext n code
    else
      let unsorted := code == 10 && (s.keys.head?.map fun k => decide (key ≤ k)).getD false
      let d := if code == 10 then d.modShadow n fun s => { s with keys := key :: s.keys } else d
      if unsorted then (d.raise (qSlice n) 0x07 4 code [0]).shadowEnd n code
      else if raced then ((d.bump .shcSkip n 0).modShadow n fun s => { s with skips := s.skips + 1 }).shadowNext n code
      else
        let d := d.modShadow n fun s => { s with compared := s.compared + 1 }
        (if code = 10 then d.shadowStatic n s.index sh else d.shadowEntry n code s.index sh).shadowNext n code

/-- Repair one static entry: index below the shadow's count, the shadow entry is inserted or replaces; from there on, the
index less the count names a static entry of the device, which is deleted if the shadow lacks it (R228, log entry 19). -/
def Dev.repairStatic (n i count : Nat) (sh : List Nat) (victims : List (Option AddrEntry)) (d : Dev) : Dev :=
  if i < count then
    let e := addrOf fun j => sh.getD j 0
    match d.addrPlace n e with
    | none => d
    | some a => (d.setAddr n a e).forgetKey n e.vlan e.mac
  else
    match (victims.getD (i - count) none).bind fun e => d.addrFind n e.vlan e.mac with
    | none => d
    | some (a, e) => (d.setAddr n a {}).forgetKey n e.vlan e.mac

/-- The checks of `addr_insert` on a shadow entry (R216, R228). -/
def Dev.staticFault (d : Dev) (n : Nat) (sh : List Nat) : Check :=
  let e := addrOf fun j => sh.getD j 0
  let f := d.lft n e.lfn
  firstFail [failIf (!e.valid) .range 2, failIf (d.addrPlace n e).isNone .setFull (addrSet e.vlan e.mac),
    failIf (e.kind && !(f.lftValid && f.lftUp)) .refused 2]

/-- The checks of entries first to first + k - 1 of code 0x0A, each after the repairs before it. -/
def Dev.staticFaults (n first k count : Nat) (sh : Nat → List Nat) (victims : List (Option AddrEntry)) (d : Dev) : Check :=
  ((List.range k).foldl (fun (r : Check × Dev) j =>
    let c := r.1.orElse fun _ => if first + j < count then r.2.staticFault n (sh j) else none
    (c, r.2.repairStatic n (first + j) count (sh j) victims)) (none, d)).1

/-- The static entries of the device, those that a shadow list holds too left out (R228). -/
def Dev.deviceOnly (d : Dev) (n : Nat) (shadow : List Dword) : List (Option AddrEntry) :=
  let w := entryWidth 10
  let keys := (List.range (shadow.length / w)).map fun i => (addrOf fun j => (shadow.getD (w * i + j) 0).toNat % 2 ^ 20).key
  (d.statics n).map fun e => if keys.contains e.key then none else some e

/-- `shadow_repair`: slice; table code; first index; count; host buffer 0 holds the named shadow entries, for code 0x0A host buffer 1 the whole list,
against which the entries to be deleted are checked. -/
def cmdShadowRepair : Cmd := fun rq d =>
  let n := rq.prm 0
  let code := rq.prm 1
  let sh := (d.slice n).tab.shadow
  let w := entryWidth code
  let dw := fun j => ((rq.hostBuf 0).drop (w * j)).take w
  let e := fun j : Nat => storedEntry code ((dw j).map fun v => v.setWidth 20)
  let key := fun j : Nat => (dw j).map fun v => v.toNat % 2 ^ 20
  let size := if code = 10 then sh.count + (d.statics n).length else d.tableSize n code
  let js := List.range (rq.prm 3)
  withChecks (sliceChecks rq d 4 ++ [chkRange rq [(1, 1, 11), (2, 0, size - 1), (3, 1, size - rq.prm 2)], failIf (d.dmaHalted (52 + n)) .dmaError (52 + n),
      failIf (sh.addr.get none code).isNone .notFound, failIf (code == 11) .refused 1,
      if code = 10 then d.staticFaults n (rq.prm 2) (rq.prm 3) sh.count key (d.deviceOnly n (rq.hostBuf 1))
      else js.findSome? fun j => firstFail [if code ≤ 2 then d.portFault n code (rq.prm 2 + j) else none, d.entryFault n code (e j) 2]]) d <|
    let victims := d.deviceOnly n (rq.hostBuf 1)
    okDone ((d.wakeTables n).forEach js fun j d =>
      if code = 10 then d.repairStatic n (rq.prm 2 + j) sh.count (key j) victims
      else d.writeEntry n code (rq.prm 2 + j) (e j))

end Sys2Proof
end

