-- ==== Sys2Proof/Machine/Ingress.lean ====
section
/-! DEFINITION. A frame on its way through a slice: arrival on a system port, its buffer, the dispatch backlogs, classification
in a pipeline, release, metering, admission and enqueue (Table 6.1, R233, R234, R240, R264, R452). -/

namespace Sys2Proof

/-! ### MAC statistics (Table 16.4) -/

/-- Bin of a length, indices 6 to 15. -/
def sizeBin (len : Nat) : Nat :=
  if len ≤ 64 then 6 else if len ≤ 127 then 7 else if len ≤ 255 then 8 else if len ≤ 511 then 9 else if len ≤ 1023 then 10
  else if len ≤ 1518 then 11 else if len ≤ 2047 then 12 else if len ≤ 4095 then 13 else if len ≤ 8191 then 14 else 15

/-- Unicast, multicast or broadcast, indices 2 to 4, by destination MAC. -/
def castIndex (f : List Byte) : Nat :=
  let m := macAt f 0
  if m = 0xFFFFFFFFFFFF then 4 else if m.getLsbD 40 then 3 else 2

/-- Indices 0 to 15 for one good frame. -/
def Dev.macOk (c : CN) (owner : Nat) (tagged : Bool) (f : List Byte) (d : Dev) : Dev :=
  let d := (((d.bump c owner 0).bumpN c owner 1 f.length).bump c owner (castIndex f)).bump c owner (sizeBin f.length)
  if tagged then d.bump c owner 5 else d

/-- The index under which the MAC drops a received frame (indices 16 to 20). -/
def macBad (f : List Byte) : Option Nat :=
  let ok := fcsOk f
  if f.length < 64 then some (if ok then 17 else 18)
  else if Config.maxFrame < f.length then some (if ok then 19 else 20)
  else if ok then none else some 16

/-! ### Parts of the ingress -/

def Slice.disp (s : Slice) (dir : Dir) : Dispatch := match dir with | .down => s.ds | .up => s.us
def Dev.disp (d : Dev) (n : Nat) (dir : Dir) : Dispatch := (d.slice n).disp dir
def Dev.modDisp (n : Nat) (dir : Dir) (f : Dispatch → Dispatch) (d : Dev) : Dev :=
  d.modSlice n fun s => match dir with | .down => { s with ds := f s.ds } | .up => { s with us := f s.us }

/-- Ports per direction (R186). -/
def portsOf (dir : Dir) : Nat := match dir with | .up => 32 | .down => 8

/-- The party that frees or re-tags a frame before its admission: host DMA for a host transmit frame, else a pipeline port. -/
def Frame.freer (f : Frame) (pipe : Nat) : Nat :=
  if f.ring.isSome then 8 else match f.dir with | .up => pipe | .down => 4 + pipe

/-- The direct path to a system port's queue of a class (R272, Table 6.7): the queue that CQ names, if it is still valid and of
that port and class. -/
def Dev.portQueue (d : Dev) (p cls : Nat) : Option Nat :=
  match (d.egress p).cq.get none cls with
  | none => none
  | some q =>
    let c := (d.queue (p / 32) q).cfg
    if c.valid && c.kind == 1 && c.target == p % 32 && c.cls == cls then some q else none

/-! ### Admission and enqueue (R240, R250, R264) -/

/-- An answer is ready and joins the tree's queue, with the next ASEQ (R151, R152). -/
def Dev.queueAnswer (k : Nat) (a : Answer) (d : Dev) : Dev :=
  d.modTree k fun x =>
    { x with join := { x.join with aseq := (x.join.aseq + 1) % 2 ^ 32 },
             ex := { x.ex with answers := x.ex.answers ++ [{ a with aseq := x.join.aseq, ready := d.now }] } }

/-- A parcel enqueued upstream for a dormant AID asks for the lift, at most once per 10 ms per AID (R174); in a pair, the working member asks, which
the queue names (DESIGN CHOICE, log entry 131). -/
def Dev.askLift (k : Nat) (aid : Word) (d : Dev) : Dev :=
  let a := (d.tree k).allocs.get {} aid.toNat
  let early := (a.lastLift.map fun t => decide (d.now < t + 10 * Config.ms)).getD false
  if a.dormant && !early then
    let slot : Block := put 128 108 aid ||| put 128 106 (2 : BitVec 2)
    (d.modTree k fun x => { x with allocs := x.allocs.set {} aid.toNat { a with lastLift := some d.now } }).queueAnswer k
      { atype := 0x47, body := [slot], tagged := true, param := 1 }
  else d

/-- What follows an enqueue: an upstream queue with an open assembly wakes its Barrow, a system port's leaves low-power idle (R274, R375). -/
def Dev.enqueued (n q : Nat) (d : Dev) : Dev :=
  let c := (d.queue n q).cfg
  if c.kind = 0 then
    let d := d.askLift c.target c.aid
    let building := (treesOf n).any fun k =>
      d.workingTree k == c.target && (d.tree k).pitches.any fun x => x.phase == 0 && x.opened && x.aid == c.aid
    if building then d.wake (pdBarrow n) causeTraffic else d
  else if c.kind = 1 then
    let p := 32 * n + c.target
    (d.modEgress p fun e => { e with emptySince := d.now }).lpiCheck p
  else d

/-- The descriptor of an admitted buffer. -/
def Dev.descOf (d : Dev) (n p i : Nat) (a : Admit) : Desc :=
  let b := d.buffer n p i
  { pool := p, index := i, cls := a.cls, yellow := a.yellow, staged := decide (0 < b.staged), poison := b.frame.poison,
    moth := b.frame.moth.isSome, tsReq := b.frame.ts.isSome, offset := b.off, lfn := a.lfn, meter := a.meter,
    length := b.frame.bytes.length }

/-- A frame asks for its place in a queue: the cell allocator serves the enqueuing parties at the end of the cycle, in the order of R242. -/
def Dev.takeIn (n p i : Nat) (a : Admit) (d : Dev) : Dev := { d with ending := d.ending ++ [.enter n p i a] }

/-- The charge moves, the buffer is re-tagged, the descriptor is enqueued; what is refused is dropped. -/
def Dev.endAdmit (n p i : Nat) (a : Admit) (d : Dev) : Dev :=
  let b := d.buffer n p i
  let c := (d.queue n a.queue).cfg
  let port := c.sysPort n
  if !d.chargeMoves n p i a.holder a.yellow then (d.bump .admitRefused n a.queue).dropBuffer n a.party p i 3 port
  else
    let d := (d.setBuffer n p i { b with holder := a.holder }).retag n a.party p i (if c.kind = 0 then 3 else 4)
    match d.enqueue n a.queue a.holder a.party (d.descOf n p i a) with
    | (.done, d) => (d.mothStage n b.frame.moth 5).enqueued n a.queue
    | (_, d) => d.dropBuffer n 12 p i 3 port

/-! ### Buffers for frames (R233, R234) -/

/-- A frame joins a backlog in the order of last bits: before the later frames of its port that got their buffers earlier (R203). -/
def Dev.joinBacklog (d : Dev) (n : Nat) (w : Waiting) (lastBit : Ticks) : List Waiting → List Waiting
  | [] => [w]
  | x :: xs =>
    if x.port == w.port && Nat.blt lastBit (d.buffer n x.pool x.index).frame.lastBit then w :: x :: xs
    else x :: d.joinBacklog n w lastBit xs

/-- A frame with its buffer enters its dispatch backlog, and may be tagged by the Moth Trap (R203, R457). -/
def Dev.enterBacklog (n p i : Nat) (d : Dev) : Dev :=
  let f := (d.buffer n p i).frame
  let base := (d.time.devOf (f.arrFrc * 65536) / 65536).toNat
  let (moth, d) := d.mothCandidate n f.dir f.port f.cls f.aid.toNat base f.arrFrc
  let d := (d.modFrame n p i fun f => { f with moth := moth }).mothStage n moth 1 |>.mothStage n moth 2
  let w : Waiting := { pool := p, index := i, port := f.port }
  let d := d.wakeAll [pdTables n, pdPipe n f.dir] causeTraffic
  d.modDisp n f.dir fun x =>
    let x := { x with busyAt := d.now }
    if f.cls = 0 then { x with prio := d.joinBacklog n w f.lastBit x.prio } else { x with normal := d.joinBacklog n w f.lastBit x.normal }

/-- A host transmit frame goes straight to its system port's queue (R417, PATH 0). -/
def Dev.directToPort (n p i cls : Nat) (d : Dev) : Dev :=
  let f := (d.buffer n p i).frame
  let port := 32 * n + f.port
  match d.portQueue port cls with
  | none => (d.bump .egNoq port 0).dropBuffer n 8 p i 1 (some port)
  | some q => d.takeIn n p i { queue := q, holder := (d.queue n q).cfg.stallholder, cls := cls, yellow := false, lfn := none, meter := none, party := 8 }

/-- A host transmit frame for its system port's queue waits until every word of its data is written (R317). -/
def Dev.directFrame (n p i cls : Nat) (d : Dev) : Dev :=
  if (d.buffer n p i).left = 0 then d.directToPort n p i cls else d.modBuf n fun b => { b with direct := b.direct ++ [(p, i, cls)] }

/-- The place of a logical address in its buffer, in words of 32 bytes. -/
def bufferWord (p addr : Nat) : Nat := (addr % rankBytes - poolOffset p) % Config.poolSize p / 32

/-- The controller performs a write and reports it (R317): of a packet write, that word of its buffer's frame data is written. -/
def Dev.written (n port addr : Nat) (r : MemRq) (d : Dev) : Dev :=
  let d := d.writePerformed n port addr r
  match (if port = 0 then bufferAt addr else none) with
  | none => d
  | some (p, i) =>
    let b := d.buffer n p i
    if d.allocated n p i && b.left.testBit (bufferWord p addr) then
      let d := d.setBuffer n p i { b with left := b.left - 2 ^ bufferWord p addr }
      match (d.slice n).buf.direct.find? fun x => x.1 == p && x.2.1 == i with
      | some x => if (d.buffer n p i).left = 0 then (d.modBuf n fun b => { b with direct := b.direct.erase x }).directToPort n p i x.2.2 else d
      | none => d
    else d

/-- The request is granted: the frame goes its way. -/
def Dev.granted (n p i : Nat) (r : SpillReq) (d : Dev) : Dev :=
  match r.path with
  | 0 => d.enterBacklog n p i
  | 1 => d.directFrame n p i r.arg
  | 3 => d.freeBuf n r.party p i
  | 4 => d.modTree r.arg fun x => { x with fr := { x.fr with recv := x.fr.recv.map fun y => { y with buf := some (p, i) } } }
  | _ =>
    let d := if r.party = 14 then d else d.retag n r.party p i (0x10 + r.arg)
    d.modBuf n fun b => { b with copies := b.copies ++ [{ ring := r.arg, pool := p, index := i, reason := r.reason, fromLft := r.fromLft, idx := r.idx }] }

/-- A request to a pool, which wakes the slice's tables (R366): it is decided at the end of the cycle, in the order of R242. -/
def Dev.request (n : Nat) (r : SpillReq) (d : Dev) : Dev :=
  let d := d.wake (pdTables n) causeTraffic
  { d with ending := d.ending ++ [.request n r] }

/-- One request to one pool: granted, passed to the next pool for the next cycle, or finally refused (R234). -/
def Dev.endRequest (n : Nat) (r : SpillReq) (d : Dev) : Dev :=
  let ring := if r.party = 14 then r.arg else r.frame.ring.getD 0
  match d.askPool n r.pool r.party r.holder ring r.frame with
  | (some i, d) => d.granted n r.pool i r
  | (none, d) =>
    if r.pool < 5 && (d.slice n).buf.spillUp.testBit r.pool then
      d.modBuf n fun b => { b with spills := b.spills ++ [{ r with pool := r.pool + 1 }] }
    else
      let port := if r.path = 1 then some (32 * n + r.frame.port) else none
      ((d.bump .bufRefused n r.party).tsNotSent r.frame port).portEmptier port

/-- The next refused request passes to its next pool. -/
def Dev.spillUp (n : Nat) (d : Dev) : Dev :=
  match (d.slice n).buf.spills with
  | [] => d
  | r :: rs => (d.modBuf n fun b => { b with spills := rs }).request n r

/-- The ingress writer gives frames to its four buffer ports in rotation (R241): the party of the next. -/
def Dev.nextParty (n : Nat) (dir : Dir) (d : Dev) : Nat × Dev :=
  let w := (d.disp n dir).wrPort
  ((match dir with | .up => w | .down => 4 + w), d.modDisp n dir fun x => { x with wrPort := (w + 1) % 4 })

/-! ### Step 1: ingress port and filters (R186 to R189) -/

/-- An on-die table's words are found uncorrectable as they are read: they are bad until rewritten (R208, R213, R223, R334). -/
def Dev.badWords (n : Nat) (ue : List (Nat × Nat)) (d : Dev) : Dev := d.forEach ue fun x d => (d.sramBad n x.1 x.2).markBad n x.1 x.2

/-- The filters of the ingress port act on a frame whose last bit is now; the frame comes with its port, stamps and INGRESS_CFG record and,
downstream, its AID and the parcel header's CLASS in soft. What is found says where the frame goes with its buffer: to its backlog, to a host
ring, or nowhere. -/
def Dev.stepOne (n party : Nat) (f : Frame) (d : Dev) : SpillReq × Dev :=
  let t := (d.slice n).tab
  let no := ingressNo f.dir f.port
  let cfg := f.ing
  let f := { f with cls0 := f.dir == .down && f.soft == some 0, lastBit := d.now }
  let r : SpillReq := { pool := firstPool f.bytes.length, party := party, holder := cfg.bits 1 8 0, frame := f, path := 3 }
  let hit := t.filterOf no (t.tags f.bytes)
  let d := match hit with | some (i, _) => d.bump .mfHits n (64 * no + i) | none => d
  if cfg.bad then (r, d.bump .actBad n f.dir.num)
  else
    let action : Nat := (hit.map fun x => x.2.bits 0 2 15).getD 0
    let fcls : Nat := (hit.map fun x => x.2.bits 0 3 11).getD 0
    let pinned : Bool := (hit.map fun x => x.2.bit 0 14).getD false
    let pin := if action = 1 && pinned then some fcls else none
    let soft := if action = 1 && !pinned then some fcls else f.soft
    let at2 := match f.dir with
      | .up => if action = 1 then fcls else cfg.bits 0 3 11
      | .down => pin.getD (f.soft.getD 7)
    let f := { f with pin := pin, soft := soft, cls := at2 }
    if action = 3 then ({ r with frame := f }, d.bump .mfDrop n no)
    else if action = 2 then
      let x := hit.getD (0, {})
      ({ r with frame := f, path := 2, arg := x.2.bits 0 6 5, idx := x.1 }, d.bump .steered n no)
    else ({ r with frame := f, path := 0 }, d)

/-- An upstream frame at its last bit: the request for its buffer, unless it is dropped (R233). -/
def Dev.ingress (n : Nat) (ue : List (Nat × Nat)) (f : Frame) (d : Dev) : Dev :=
  let d := d.badWords n ue
  let f := { f with ing := (d.slice n).tab.cfg (ingressNo f.dir f.port) }
  let (party, e) := d.nextParty n f.dir
  let (r, d') := d.stepOne n party f
  if r.path = 3 then d' else (e.stepOne n party f).2.request n r

/-! ### Parcels in reception (R233) -/

/-- The header of a parcel of tree k passes check 5: the request for its buffer, from LENGTH. -/
def Dev.requestParcel (k : Nat) (h : Block) (ue : List (Nat × Nat)) (d : Dev) : Dev :=
  let n := sliceOfTree k
  let d := d.badWords n ue
  let cfg := (d.slice n).tab.cfg (ingressNo .down (k % 8))
  let (party, d) := d.nextParty n .down
  let len := (fld 14 86 h).toNat
  let f : Frame := { bytes := List.replicate len 0, dir := .down, port := k % 8, aid := fld 20 100 h, cls0 := fld 3 83 h == 0, ing := cfg }
  let d := d.modTree k fun x => { x with fr := { x.fr with recv := some { hdr := h, kept := 1, party := party, ing := cfg } } }
  d.request n { pool := firstPool len, party := party, holder := cfg.bits 1 8 0, frame := f, path := 4, arg := k }

/-- The parcel in reception on tree k is over, and r says where it goes: with its buffer, or with the request that still waits for one. After a
final refusal it has gone (R234). -/
def Dev.settleParcel (k : Nat) (buf : Option (Nat × Nat)) (r : SpillReq) (d : Dev) : Dev :=
  let n := sliceOfTree k
  match buf with
  | some (p, i) => (d.modFrame n p i fun _ => r.frame).granted n p i r
  | none =>
    let g := fun (y : SpillReq) => if y.path == 4 && y.arg == k then { r with pool := y.pool } else y
    let e : Dev := { d with ending := d.ending.map fun o => match o with | .request m y => .request m (g y) | o => o }
    e.modBuf n fun b => { b with spills := b.spills.map g }

/-- A parcel in reception that is lost: its buffer is freed, at once or as it is granted. -/
def Dev.loseParcel (k : Nat) (x : Reception) (d : Dev) : Dev :=
  if x.kept != 1 then d
  else d.settleParcel k x.buf { pool := 0, party := x.party, holder := x.ing.bits 1 8 0, frame := { dir := .down, port := k % 8 }, path := 3 }

/-! ### System port receive (R273, R452) -/

/-- A PAUSE frame: MAC control, opcode 0x0001 (IEEE 802.3). -/
def isPause (f : List Byte) : Bool := be16 f 12 == 0x8808 && be16 f 14 == 0x0001
/-- A priority-based flow control frame: opcode 0x0101. -/
def isPfc (f : List Byte) : Bool := be16 f 12 == 0x8808 && be16 f 14 == 0x0101

/-- Rate of a system port in bits per second: width times that of its mode's MAC (Table 2.2). -/
def SysPort.rate (x : SysPort) : Nat := x.width * (if x.mode = 0 then 200 else if x.mode = 1 then 100 else if x.mode = 2 then 50 else 25) * 1000000000

/-- Ticks of a number of bit times at the port's rate. -/
def SysPort.bitTicks (x : SysPort) (bits : Nat) : Ticks := if x.rate = 0 then 0 else bits * Config.sec / x.rate

/-- Count a class's paused time up to now or its end, in us, and count on from now; the part of a us that is left counts later (R281). -/
def Dev.countPaused (p cls : Nat) (d : Dev) : Dev :=
  let e := d.egress p
  let stop := min d.now (e.pauseEnd.get 0 cls)
  let span := e.pauseRest.get 0 cls + (stop - e.pauseFrom.get 0 cls)
  (d.bumpN .pausedUs p cls (span / Config.us)).modEgress p fun e =>
    { e with pauseFrom := e.pauseFrom.set 0 cls d.now, pauseRest := e.pauseRest.set 0 cls (span % Config.us) }

/-- The us of a class's pause, or of low-power idle, that run now and stand in no count yet: a read of the count takes them in (R281). -/
def Dev.stillRunning (d : Dev) (c : CN) (p cls : Nat) : Nat :=
  let e := d.egress p
  match c with
  | .pausedUs => (e.pauseRest.get 0 cls + (min d.now (e.pauseEnd.get 0 cls) - e.pauseFrom.get 0 cls)) / Config.us
  | .lpiUs => if e.lpi then (e.lpiRest + (d.now - e.lpiSince)) / Config.us else 0
  | _ => 0

/-- A pause of a class replaces the time left; a time of 0 resumes at once (R273). -/
def Dev.pauseClass (p cls : Nat) (span : Ticks) (d : Dev) : Dev :=
  (d.countPaused p cls).modEgress p fun e => { e with pauseEnd := e.pauseEnd.set 0 cls (if span = 0 then 0 else d.now + span) }

/-- The pauses that have run out end (R273); a frame that is eligible again ends low-power idle (R274). -/
def Dev.pauseExpiry (p : Nat) (d : Dev) : Dev :=
  (d.forEach (List.range 8) fun c d =>
    let e := (d.egress p).pauseEnd.get 0 c
    if e != 0 && decide (e ≤ d.now) then
      (d.countPaused p c).modEgress p fun x => { x with pauseEnd := x.pauseEnd.set 0 c 0, pauseFrom := x.pauseFrom.set 0 c 0 }
    else d).lpiCheck p

/-- A PAUSE frame stops new frame starts in every class; a later frame replaces the time left (R273). -/
def Dev.pauseFrame (p : Nat) (f : List Byte) (d : Dev) : Dev :=
  let span := (d.sysPort p).bitTicks (512 * be16 f 16)
  (((d.forEach (List.range 8) fun c d => d.pauseClass p c span).bump .pauseRx p 0).bump .macRx p 21).lpiCheck p

/-- A PFC frame pauses class 7 - p for the time given for priority p (R273). -/
def Dev.pfcFrame (p : Nat) (f : List Byte) (d : Dev) : Dev :=
  let vec := be16 f 16
  (d.forEach (List.range 8) fun pr d =>
    if vec.testBit pr then (d.pauseClass p (7 - pr) ((d.sysPort p).bitTicks (512 * be16 f (18 + 2 * pr)))).bump .pfcRx p pr else d).bump .macRx p 21 |>.lpiCheck p

/-- A frame's last bit arrives on system port p; stampAt is the instant of its stamp point (R354). -/
def Dev.sysFrame (p : Nat) (bytes : List Byte) (stampAt : Ticks) (ue : List (Nat × Nat)) (d : Dev) : Dev :=
  let sp := d.sysPort p
  if sp.width = 0 || !sp.enabled || !sp.up then d
  else
    let n := p / 32
    let d := (d.bumpN .macRx p 22 bytes.length).bwAdd n (2 * (p % 32)) bytes.length
    match macBad bytes with
    | some i => d.bump .macRx p i
    | none =>
      let d := d.macOk .macRx p ((d.slice n).tab.tags bytes).tagged bytes
      let e := d.egress p
      if e.pauseEn && isPause bytes then d.pauseFrame p bytes
      else if e.pfcEn && isPfc bytes then d.pfcFrame p bytes
      else d.ingress n (ue.filter fun x => Nat.ble x.1 2) { bytes := bytes, dir := .up, port := p % 32, stamp := d.devAt stampAt, arrFrc := d.time.frcNs }

/-! ### Steps 3 to 11: dispatch and pipeline (R190 to R204) -/

/-- The ports with a waiting frame, and the first of them at or after the pointer. -/
def nextHead (ws : List Waiting) (ptr : Nat) : Option Waiting :=
  match atOrAfter ptr ((List.range 32).filter fun p => ws.any fun w => w.port == p) with
  | none => none
  | some p => ws.find? fun w => w.port == p

/-- A mirror copy asks for its buffer as party 14, under its ring's stallholder (R197, R240). -/
def Dev.mirrorCopy (n ring : Nat) (fromLft : Bool) (idx : Nat) (f : Frame) (d : Dev) : Dev :=
  let g := { f with moth := none, ts := none, ring := none }
  d.request n { pool := firstPool f.bytes.length, party := 14, holder := (d.host.rx.get {} ring).stallholder, frame := g, path := 2, arg := ring,
                reason := 1, fromLft := fromLft, idx := if fromLft then 0 else idx }

/-- The destination of Table 6.7: an LFN, or a system port, or none. -/
def destOf (dir : Dir) (ruleSet : Option Entry) (cfg : Entry) (hit : Option AddrEntry) : Option (Option Nat × Nat) :=
  match ruleSet.bind (fun a => if a.bit 0 11 then some (a.w 1) else none) with
  | some l => some (some l, 0)
  | none =>
    match dir, hit with
    | .up, some e => some (some e.lfn, 0)
    | .up, none => none
    | .down, some e => some (none, e.port)
    | .down, none => if cfg.bit 0 10 then some (none, cfg.bits 0 5 5) else none

/-- The first rows of Table 7.2: why a frame is dropped at step 8. -/
def Dev.lftRefuses (d : Dev) (n : Nat) (dir : Dir) (lfn : Nat) : Option CN :=
  let e := d.lft n lfn
  if e.bad then some .lftBad
  else if !e.lftValid then some .lftInvalid
  else if e.lftUp != (dir == .up) then some .lftDir
  else none

/-- A frame dropped in a pipeline: its buffer is freed, its place in the reorder buffer stays. -/
def Dev.dropInPipe (n pipe : Nat) (w : Waiting) (f : Frame) (v : Verdict) (d : Dev) : Verdict × Dev :=
  ({ v with drop := true }, d.dropBuffer n (f.freer pipe) w.pool w.index 1 none)

/-- A frame in its buffer from an offset, in words of 32 bytes, headroom and the rest zero (R233, R322). -/
def bufferWords (off len : Nat) (f : List Byte) : List (List Byte) :=
  let img := List.replicate off (0 : Byte) ++ f
  (List.range len).map fun i => ((img ++ List.replicate (32 * len) 0).drop (32 * i)).take 32

/-- The words of a buffer that header actions change, word w as bit w: each is written again before the frame may be queued (R317). -/
def changedWords (off : Nat) (f : List Byte) (off2 : Nat) (g : List Byte) : Nat :=
  let len := cdiv (max (off + f.length) (off2 + g.length)) 32
  (((bufferWords off len f).zip (bufferWords off2 len g)).zip (List.range len)).foldl (fun m x => if x.1.1 != x.1.2 then m + 2 ^ x.2 else m) 0

/-- Steps 8 to 11 of a frame with a destination: merging, header actions, length, checksums, mirror copy. -/
def Dev.actOn (n pipe : Nat) (w : Waiting) (f : Frame) (rule : Option (Nat × Entry)) (ruleSet : Option Entry) (profile : Entry)
    (dest : Option Nat × Nat) (v : Verdict) (d : Dev) : Verdict × Dev :=
  let lft := dest.1.map (d.lft n)
  let lftSet := lft.bind fun e => if e.bit 5 19 then some ((d.slice n).tab.actions.get {} (e.bits 5 12 0)) else none
  if (lftSet.map (·.bad)).getD false then (d.bump .actBad n f.dir.num).dropInPipe n pipe w f v
  else
    let sets := ruleSet.toList ++ lftSet.toList
    let mir := sets.find? fun a => a.bit 0 18
    let fromLft := !((ruleSet.map fun a => a.bit 0 18).getD false)
    let mirror := fun (g : Frame) (d : Dev) =>
      match mir with
      | none => d
      | some a => d.mirrorCopy n (a.bits 0 6 12) fromLft ((rule.map (·.1)).getD 0) g
    if sets.any fun a => a.bit 0 19 then
      let (v, d) := d.dropInPipe n pipe w f v
      (v, mirror f d)
    else
      let a := mergeActs sets
      let known := profile.bit 0 19 && !profile.bad
      let kind := if known then profile.bits 0 2 17 else 0
      let out := runHeader a kind (profile.bits 0 2 6) (profile.bits 0 9 8) f.bytes
      let s := f.dir.num
      let d := (((d.bumpN .actExcess n s a.excess).bumpN .popMiss n s out.popMiss).bumpN .rwShort n s out.short).bumpN .csumSkip n s out.skip.toNat
      let d := d.bumpN .ip4BadIn n s out.badIn.toNat
      if out.tooLong then (d.bump .lenOver n s).dropInPipe n pipe w f v
      else
        let d := d.bumpN .padded n s out.padded.toNat
        let g := { f with bytes := out.bytes, l3 := (kind, profile.bits 0 2 6, out.l3) }
        let b := d.buffer n w.pool w.index
        let off := min 16 (b.off + out.removed - out.added)
        let new := if decide (0 < b.staged) then 0 else changedWords b.off f.bytes off out.bytes
        let d := d.setBuffer n w.pool w.index { b with frame := g, off := off, left := b.left ||| new }
        let ruleCls := ruleSet.bind fun a => if a.bit 0 10 then some (a.bits 0 3 7) else none
        let lftCls := lft.bind fun e => if e.bit 0 17 then some (e.bits 0 3 14) else none
        let ruleMeter := ruleSet.bind fun a => if a.bit 0 6 then some (a.bits 2 16 0, a.bits 0 2 4) else none
        let lftMeter := lft.bind fun e => if e.bit 3 19 then some (e.bits 3 16 0, e.bits 3 2 17) else none
        let meter := ruleMeter.orElse fun _ => lftMeter
        let dei := ((d.slice n).tab.tags f.bytes).dei
        let yellow := match meter with
          | some (_, 1) => dei
          | some (_, 2) => true
          | _ => false
        let cls := (((f.pin.orElse fun _ => ruleCls).orElse fun _ => lftCls).orElse fun _ => f.soft).getD (f.ing.bits 0 3 11)
        ({ v with entry := lft.getD {}, cls := cls, lfn := dest.1, egPort := dest.2, dei := yellow, meter := meter.map (·.1) }, mirror g d)

/-- Steps 4 to 11 of a frame. The source is learned and the destination looked up at step 7. A frame dropped for want of a
destination or by its LFT entry is still mirrored when its rule's action set itself says DROP and MIRROR (R197). -/
def Dev.pipeline (n pipe : Nat) (dir : Dir) (w : Waiting) (v : Verdict) (d : Dev) : Verdict × Dev :=
  let t := (d.slice n).tab
  let f := (d.buffer n w.pool w.index).frame
  let cfg := f.ing
  let profile := t.profiles.get {} (cfg.bits 0 6 14)
  let tags := t.tags f.bytes
  let rule := t.ruleOf dir (cfg.bits 0 6 14) w.port (profile.keys f.bytes)
  let d := match rule with | some (i, _) => d.bump .ruleHits n i | none => d
  let ruleSet := rule.map fun x => t.actions.get {} (x.2.bits 5 12 0)
  let vlan := BitVec.ofNat 12 tags.vid
  let turn := (if dir = .up then 0 else 4) + pipe
  let (hit, d) := d.destLookup n turn dir vlan (macAt f.bytes 0)
  let d := d.learn n { dir := dir, pipe := turn, port := w.port, aid := f.aid, vlan := vlan, mac := macAt f.bytes 6, ns := f.stamp / 65536 }
  let copy := fun (d : Dev) =>
    match ruleSet with
    | some a => if a.bit 0 19 && a.bit 0 18 && !a.bad then d.mirrorCopy n (a.bits 0 6 12) false ((rule.map (·.1)).getD 0) f else d
    | none => d
  if (ruleSet.map (·.bad)).getD false then (d.bump .actBad n dir.num).dropInPipe n pipe w f v
  else match destOf dir ruleSet cfg hit with
  | none =>
    let (v, d) := (d.bump .clsUnmatched n dir.num).dropInPipe n pipe w f v
    (v, copy d)
  | some dest =>
    match dest.1.bind (d.lftRefuses n dir) with
    | some c =>
      let l := dest.1.getD 0
      let d := if c = .lftBad then d.raise (qSlice n) 0x07 1 l [(d.lft n l).w 7] else d
      let (v, d) := (d.bump c n 0).dropInPipe n pipe w f v
      (v, copy d)
    | none => d.actOn n pipe w f rule ruleSet profile dest v

/-- An earlier frame of the same port and backlog still waits for its buffer: the backlog takes frames in the order of their last bits (R203). -/
def Dev.behind (d : Dev) (n : Nat) (dir : Dir) (w : Waiting) : Bool :=
  let f := (d.buffer n w.pool w.index).frame
  let waits := (d.slice n).buf.spills ++ d.ending.filterMap fun o => match o with | .request m r => if m = n then some r else none | _ => none
  waits.any fun r => r.path == 0 && r.frame.dir == dir && r.frame.port == w.port && (r.frame.cls == 0) == (f.cls == 0) &&
    Nat.blt r.frame.lastBit f.lastBit

/-- The dispatcher gives the next waiting frame to the next pipeline: heads of priority backlogs first; a full reorder buffer
makes it wait (R204, R205). -/
def Dev.dispatchFrame (n : Nat) (dir : Dir) (ue : List (Nat × Nat)) (d : Dev) : Dev :=
  let x := d.disp n dir
  if 4096 ≤ x.reorder.length then d
  else
    let ready := fun (ws : List Waiting) => ws.filter fun w => !d.behind n dir w
    let hp := nextHead (ready x.prio) x.ptrPrio
    match hp.orElse fun _ => nextHead (ready x.normal) x.ptrNormal with
    | none => d
    | some w =>
      let prio := hp.isSome
      let ptr := (w.port + 1) % portsOf dir
      let d := d.modDisp n dir fun x =>
        { x with prio := if prio then x.prio.erase w else x.prio, normal := if prio then x.normal else x.normal.erase w,
                 busyAt := d.now, pipe := (x.pipe + 1) % 4, ptrPrio := if prio then ptr else x.ptrPrio, ptrNormal := if prio then x.ptrNormal else ptr }
      let d := (d.perf n 2 dir.num 0 1).mothStage n (d.buffer n w.pool w.index).frame.moth 3
      let d := if prio then d.perf n 3 dir.num 0 1 else d
      let (v, d) := (d.badWords n (ue.filter fun x => Nat.ble 4 x.1)).pipeline n x.pipe dir w { pool := w.pool, index := w.index, port := w.port, prio := prio, pipe := x.pipe }
      d.modDisp n dir fun x => { x with reorder := x.reorder ++ [v] }

/-! ### Step 12: release, metering, admission (R205, R213, R264) -/

/-- The queue and stallholder of a released frame by the LFT entry that it carries, or the count under which it is dropped (Tables 6.7 and 7.2, R130, R272). -/
def Dev.queueFor (d : Dev) (n : Nat) (dir : Dir) (v : Verdict) (len : Nat) : Sum (CN × Nat × Nat) (Nat × Nat) :=
  match v.lfn with
  | none =>
    let port := 32 * n + v.egPort
    match d.portQueue port v.cls with
    | none => .inl (.egNoq, port, 0)
    | some q => .inr (q, (d.queue n q).cfg.stallholder)
  | some _ =>
    let e := v.entry
    let c := (d.queue n e.lftQueue).cfg
    let k := d.workingTree e.lftTree
    if dir == .up && !((d.tree k).allocs.get {} e.lftAid).us then .inl (.lftNoalloc, n, 0)
    else if !c.valid || c.kind != (if dir = .up then 0 else 1) then .inl (.lftNoqueue, n, 0)
    else if dir == .up && decide ((d.queue n e.lftQueue).awning < len) then .inl (.awnLong, n, e.lftQueue)
    else .inr (e.lftQueue, e.bits 0 8 0)

/-- The key context bound to a tree and AID (R287). -/
def Dev.ctxOf (d : Dev) (n k aid : Nat) : Option Nat :=
  ((d.slice n).key.ctx.find? fun e => e.2.bound && e.2.tree == k && e.2.aid.toNat == aid).map (·.1)

/-- What the frame's LFN adds at admission: the per-LFN counts, of every frame that reached a queue's door, dropped red or refused there too, but not
for want of an allocation, a queue or Awning length (DESIGN CHOICE, log entry 132), a context mismatch, the trap slot's names (R213, R290, R461). -/
def Dev.noteLfn (n : Nat) (dir : Dir) (v : Verdict) (f : Frame) (d : Dev) : Dev :=
  match v.lfn with
  | none => d
  | some l =>
    let e := v.entry
    let d := d.mothSet n f.moth fun s => { s with lfn := l, aid := if dir = .up then e.lftAid else s.aid }
    let d := if e.bit 6 19 then (d.bump .lfnFrames n l).bumpN .lfnBytes n l f.bytes.length else d
    if dir == .up && d.ctxOf n (d.workingTree e.lftTree) e.lftAid != some (e.bits 4 15 0) then d.bump .keyCtxMismatch n 0 else d

/-- A released frame is metered and admitted; meterBad: its meter's record is found uncorrectable (R262). -/
def Dev.admitReleased (n : Nat) (dir : Dir) (v : Verdict) (qf : QFault) (meterBad : Bool) (d : Dev) : Dev :=
  let f := (d.buffer n v.pool v.index).frame
  let d := match (if meterBad then v.meter else none) with
    | some m => d.badWords n [(9, m)]
    | none => d
  let party := f.freer v.pipe
  match d.queueFor n dir v f.bytes.length with
  | .inl (c, owner, sub) => (d.bump c owner sub).dropBuffer n party v.pool v.index 3 none
  | .inr (q, holder) =>
    let d := d.noteLfn n dir v f
    let (colour, meter, d) := d.meterFrame n v.meter v.dei f.bytes.length
    if colour = 2 then d.dropBuffer n party v.pool v.index 2 none
    else (d.checkQueue n q qf).takeIn n v.pool v.index
      { queue := q, holder := holder, cls := v.cls, yellow := colour == 1, lfn := v.lfn, meter := meter, party := party }

/-- The next frame of a port and backlog is released to the meter unit, once its data is written (R205, R263, R317). -/
def Dev.releaseFrame (n : Nat) (dir : Dir) (port : Nat) (prio : Bool) (qf : QFault) (meterBad : Bool) (d : Dev) : Dev :=
  match (d.disp n dir).reorder.find? fun v => v.port == port && v.prio == prio with
  | none => d
  | some v =>
    let d' := d.modDisp n dir fun x => { x with reorder := x.reorder.erase v, busyAt := d.now }
    if v.drop then d'
    else if (d.buffer n v.pool v.index).left != 0 then d
    else
      let d' := d'.mothStage n (d.buffer n v.pool v.index).frame.moth 4
      { d' with ending := d'.ending ++ [.meter n dir v qf meterBad] }

/-! ### Host transmit rings (R417) -/

/-- The indices of a ring: descriptors between. -/
def Idx.avail (x : Idx) (entries : Nat) : Nat := if entries = 0 then 0 else (x.host + 2 * entries - x.dev) % (2 * entries)

/-- The fields of a transmit descriptor (Table 14.16), and whether one is out of range. -/
structure TxDesc where
  len : Nat
  ts : Bool
  id : Nat
  path : Nat
  port : Nat
  cls : Nat
  deriving DecidableEq, Repr

def txDescOf (ws : List Dword) : TxDesc :=
  let a := (ws.getD 2 0).toNat
  let b := (ws.getD 3 0).toNat
  { len := a % 2 ^ 14, ts := b.testBit 31, id := b / 2 ^ 23 % 256, path := b / 2 ^ 21 % 4, port := b / 2 ^ 16 % 32, cls := b / 2 ^ 13 % 8 }

def TxDesc.bad (x : TxDesc) : Bool :=
  decide (x.len < 60 ∨ 10236 < x.len) || x.path == 3 || (x.path == 2 && decide (8 ≤ x.port))

def Dev.txRing (d : Dev) (r : Nat) : Ring := d.host.tx.get {} r
def Dev.modTxRing (r : Nat) (f : Ring → Ring) (d : Dev) : Dev := d.modHost fun h => { h with tx := h.tx.upd {} r f }

/-- The next descriptor of transmit ring r and its frame are read; one that goes in as if received on a port whose INGRESS_CFG is uncorrectable is
dropped like those of the port (R208). -/
def Dev.txRead (r : Nat) (ws : List Dword) (bytes : List Byte) (d : Dev) : Dev :=
  let x := d.txRing r
  if !x.reg || x.idx.avail x.entries = 0 || d.dmaHalted (32 + r / 4) then d
  else
    let t := txDescOf ws
    let d := (d.modTxRing r fun x => { x with idx := x.idx.push x.entries }).due (336 + r)
    if t.bad then d.bump .badDesc 0 r
    else
      let body := (bytes ++ List.replicate (t.len - bytes.length) 0).take t.len
      let f : Frame := { bytes := withFcs body, dir := if t.path = 2 then .down else .up, port := t.port, cls := t.cls,
                         soft := if t.path = 0 then none else some t.cls, stamp := d.devLin.toNat, arrFrc := d.time.frcNs, lastBit := d.now,
                         ing := ((d.slice x.slice).tab.cfg (ingressNo (if t.path = 2 then .down else .up) t.port)),
                         ts := if t.ts then some (r, t.id) else none, ring := some r }
      if t.path != 0 && f.ing.bad then (d.bump .actBad x.slice f.dir.num).tsNotSent f none
      else
        let path := if t.path = 0 then 1 else 0
        d.request x.slice { pool := firstPool f.bytes.length, party := 8, holder := x.stallholder, frame := f, path := path, arg := t.cls }

/-! ### Host receive rings (R416) -/

/-- Bytes as little-endian dwords. -/
def dwordsLE : List Byte → List Dword
  | [] => []
  | a :: bs =>
    match bs with
    | b :: c :: e :: rest => (e ++ c ++ b ++ a) :: dwordsLE rest
    | [b, c] => [(0 : Byte) ++ c ++ b ++ a]
    | [b] => [(0 : Byte) ++ (0 : Byte) ++ b ++ a]
    | [] => [a.setWidth 32]

def Dev.rxRing (d : Dev) (r : Nat) : Ring := d.host.rx.get {} r
def Dev.modRxRing (r : Nat) (f : Ring → Ring) (d : Dev) : Dev := d.modHost fun h => { h with rx := h.rx.upd {} r f }

/-- The receive completion descriptor (Table 14.15). -/
def rxDescriptor (f : Frame) (n reason : Nat) (fromLft : Bool) (idx : Nat) (poison : Bool) : List Dword :=
  let (s, ns, fr) := linFields f.stamp
  [2 ^ 31 + poison.toNat * 2 ^ 30 + ns, s % 65536 * 65536 + fr,
   reason * 2 ^ 23 + f.dir.num * 2 ^ 22 + f.port * 2 ^ 17 + n * 2 ^ 14 + f.bytes.length, fromLft.toNat * 2 ^ 12 + idx].map (BitVec.ofNat 32)

/-- A frame in buffer (p, i) goes to a receive ring, or is dropped as ring-full; its buffer is freed as party 8 (12 frees the
one of a KIND 2 queue, whose tag is that of a queued frame). A handle that is not trusted frees nothing: a sweep reclaims the buffer (R256). -/
def Dev.toRing (n : Nat) (c : RingCopy) (party : Nat) (poison trusted : Bool) (d : Dev) : Dev :=
  let x := d.rxRing c.ring
  let f := (d.buffer n c.pool c.index).frame
  let ok := x.reg && decide (0 < x.idx.avail x.entries) && decide (f.bytes.length ≤ x.bufSize) && !d.dmaHalted (16 + c.ring / 4)
  let d := d.mothStage n f.moth 6
  if !ok then (if trusted then (d.bump .ringFull 0 c.ring).dropBuffer n party c.pool c.index 5 none else (d.bump .ringFull 0 c.ring).triggerSweep n)
  else
    let slot := x.idx.dev % x.entries
    let ch := 16 + c.ring / 4
    let d := (d.mothStage n f.moth 7).out (.dma ch (x.bufs.get 0 slot) (dwordsLE f.bytes))
    let d := d.out (.dma ch (x.addr + 16 * slot) (rxDescriptor f n c.reason c.fromLft c.idx (poison || f.poison)))
    let d := (d.modRxRing c.ring fun x => { x with idx := x.idx.push x.entries }).due (272 + c.ring)
    let d := ((d.mothStage n f.moth 8).mothClose n f.moth 6 f.bytes.length).tsNotSent f none
    if trusted then d.freeBuf n party c.pool c.index else d.triggerSweep n

/-- The staged data of a frame is read; an uncorrectable word of it poisons the frame (R235, R334). -/
def Dev.readStaging (n p i : Nat) (stageBad : Bool) (d : Dev) : Dev :=
  if stageBad && Nat.blt 0 (d.buffer n p i).staged then (d.sramBad n 17 i).modFrame n p i fun f => { f with poison := true } else d

/-- The next copy to a host ring of slice n; with none under way, the next descriptor of a host receive queue (KIND 2), whose
buffer carries the queued tag of its direction. -/
def Dev.ringCopy (n : Nat) (qf : QFault) (stageBad : Bool) (d : Dev) : Dev :=
  if d.noRank n then d
  else match (d.slice n).buf.copies with
  | c :: cs => ((d.modBuf n fun b => { b with copies := cs }).readStaging n c.pool c.index stageBad).toRing n c 8 false true
  | [] =>
    match d.queuesWhere n fun _ q => q.cfg.kind == 2 && !q.unread.isEmpty with
    | [] => d
    | q :: _ =>
      let d := d.checkQueue n q qf
      let Q := d.queue n q
      match Q.head with
      | none => d
      | some x =>
        let x := poisonDesc Q.cfg Q.fault x
        let d := (d.setQueue n q Q.advance).release n q Q.gen (Q.readPos + 1)
        (d.readStaging n x.pool x.index stageBad).toRing n { ring := Q.cfg.target, pool := x.pool, index := x.index, reason := 2 } 12 x.poison
          (!x.badHandle)

end Sys2Proof
end

