-- ==== Sys2Proof/Machine/Egress.lean ====
section
/-! DEFINITION. The transmit side of a system port: the choice of the next frame, its sending, low-power idle (R271 to R274,
R265, R355, R356, R412). -/

namespace Sys2Proof

/-- The procedure of R268 for system port p and class c, then the integrity check of the queue it chose: the queue, its head and
whether the frame can be read. -/
def Dev.takeEgress (p c : Nat) (qf : QFault) (d : Dev) : Option (Nat × Desc) × Dev :=
  let n := p / 32
  let key := p % 32 * 8 + c
  let (pick, ptr, d) := drrPick n (d.classQueues p c) ((d.slice n).sched.ptrDown.get 0 key) d
  let d := d.modSched n fun s => { s with ptrDown := s.ptrDown.set 0 key ptr }
  match pick with
  | none => (none, d)
  | some (q, _, _) =>
    let d := d.checkQueue n q qf
    let Q := d.queue n q
    match Q.head with
    | none => (none, d)
    | some x =>
      let d := (d.setQueue n q Q.advance).release n q Q.gen (Q.readPos + 1)
      let (ptr, d) := drrTaken n q x.length ptr d
      (some (q, poisonDesc Q.cfg Q.fault x), d.modSched n fun s => { s with ptrDown := s.ptrDown.set 0 key ptr })

/-- A frame that the port does not send: its buffer is freed by the egress, or, when its handle is not trusted, left to the
sweep (R256). -/
def Dev.dropEgress (p outcome : Nat) (x : Desc) (d : Dev) : Dev :=
  if x.badHandle then (d.triggerSweep (p / 32)).portEmptier (some p) else d.dropBuffer (p / 32) 11 x.pool x.index outcome (some p)

/-- The correction of the PTP field of a frame as it leaves, with its counts (R355). -/
def Dev.ptpLeaving (n : Nat) (dir : Dir) (f : Frame) (at_ : Nat) (d : Dev) : List Byte × Dev :=
  let s := d.slice n
  let on := match dir with | .down => s.ptp.ds | .up => s.ptp.us
  match ptpCorrect s.ptp on s.tab f.l3 ((at_ : Int) - f.stamp) f.bytes with
  | .none => (f.bytes, d)
  | .skipped => (f.bytes, d.bump .ptpSkipped n dir.num)
  | .fixed b short => (b, (d.bump .ptpCorrected n dir.num).bumpN .rwShort n dir.num short.toNat)

/-- A chosen frame is sent: the second meter reading, the PTP correction, the stamp, which names the octet after the eight of preamble and
delimiter (R354), the read of its data. -/
def Dev.sendFrame (p c q : Nat) (x : Desc) (d : Dev) : Dev :=
  let n := p / 32
  let f := (d.buffer n x.pool x.index).frame
  let at_ := d.devAt (d.now + (d.sysPort p).bitTicks 64)
  let (bytes, d) := (d.meterSent n x).ptpLeaving n .down f at_
  let d := ((d.mothStage n f.moth 6).mothStage n f.moth 7).mothStage n f.moth 8
  let d := d.modFrame n x.pool x.index fun f => { f with bytes := bytes, stamp := at_ }
  let busy := d.now + (d.sysPort p).bitTicks ((bytes.length + 20) * 8)
  let d := d.modEgress p fun e => { e with busyEnd := busy, emptySince := d.now }
  d.modBuf n fun b => { b with reads := b.reads ++ [{ port := p, queue := q, desc := x, cls := c }] }

/-- A system port that can start a frame takes one (R271); a port whose link is down drops it (R45, R412). -/
def Dev.frameStartSys (p : Nat) (qf : QFault) (d : Dev) : Dev :=
  let sp := d.sysPort p
  let e := d.egress p
  let up := sp.enabled && sp.up
  if sp.width = 0 || d.noRank (p / 32) || (up && (e.lpi || decide (d.now < e.busyEnd) || decide (d.now < e.wakeEnd))) then d
  else match d.nextClass p up with
  | none => d
  | some c =>
    match d.takeEgress p c qf with
    | (none, d) => d
    | (some (q, x), d) =>
      if !up then (d.bump .macTx p 16).dropEgress p 5 x
      else if x.poison || (d.buffer (p / 32) x.pool x.index).frame.poison then (d.bump .poisonDrop (p / 32) q).dropEgress p 4 x
      else d.sendFrame p c q x

/-- The data of a frame has been read and sent: it counts at its last bit, its buffer is freed (R452, R461). -/
def Dev.egressDone (n pool index : Nat) (d : Dev) : Dev :=
  match (d.slice n).buf.reads.find? fun r => r.desc.pool == pool && r.desc.index == index with
  | none => d
  | some r =>
    let f := (d.buffer n pool index).frame
    let d := (d.modBuf n fun b => { b with reads := b.reads.erase r }).portEmptier (some r.port)
    let d := match f.ts with | some (_, id) => d.tsSys r.port id true f.stamp | none => d
    let d := d.out (.sysFrame r.port r.cls { bytes := f.bytes })
    let d := d.macOk .macTx r.port ((d.slice n).tab.tags f.bytes).tagged f.bytes
    let d := d.bwAdd n (2 * (r.port % 32) + 1) f.bytes.length
    (d.mothClose n f.moth 0 f.bytes.length).freeBuf n 11 pool index

/-- The read of a frame's data is bad: it is poisoned; one that its port had begun to read is dropped there (Table 11.5, R256). -/
def Dev.egressPoison (n pool index : Nat) (d : Dev) : Dev :=
  let d := d.modFrame n pool index fun f => { f with poison := true }
  match (d.slice n).buf.reads.find? fun r => r.desc.pool == pool && r.desc.index == index with
  | none => d
  | some r =>
    let d := d.modBuf n fun b => { b with reads := b.reads.erase r }
    let d := d.mothSet n (d.buffer n pool index).frame.moth fun s => { s with stages := Tab.erase s.stages 8 }
    (d.bump .poisonDrop n r.queue).dropEgress r.port 4 r.desc

/-- The data of a frame is read; an uncorrectable word of staging poisons it (R334, R256). -/
def Dev.egressRead (n pool index : Nat) (stageBad : Bool) (d : Dev) : Dev :=
  if stageBad && Nat.blt 0 (d.buffer n pool index).staged then (d.sramBad n 17 index).egressPoison n pool index
  else d.egressDone n pool index

/-- The LPI block that each PCS lane of a port in low-power idle sends in place of every idle block (R274): a 64B/66B control block, its type octet
0x1E, then eight control characters of seven bits, each 0x06; the octet and the characters stand here most significant first. -/
def lpiBlock : BitVec 64 := (List.range 8).foldl (fun b _ => b <<< 7 ||| 0x06) 0x1E
/-- The idle block: the same with control characters 0. -/
def idleBlock66 : BitVec 64 := (0x1E : BitVec 64) <<< 56
/-- What the PCS lanes of an enabled port send between frames. -/
def Dev.idleSent (d : Dev) (p : Nat) : BitVec 64 := if (d.egress p).lpi then lpiBlock else idleBlock66

/-- The idle time in ns that a port needs after its partner's low-power idle, TW_RX_MIN (R275). -/
def twRxMin : Nat := 1000
/-- The port status of R275: whether the port is enabled, whether its link is up, whether it is in low-power idle, and TW_RX_MIN. The spec names
no page and no command that carries it (UNVERIFIED, log entry 133). -/
structure PortStatus where
  enabled : Bool
  up : Bool
  lpi : Bool
  twRxMin : Nat
  deriving DecidableEq, Repr
def Dev.portStatus (d : Dev) (p : Nat) : PortStatus :=
  { enabled := (d.sysPort p).enabled, up := (d.sysPort p).up, lpi := (d.egress p).lpi, twRxMin := twRxMin }

/-- Nothing keeps system port p out of low-power idle (R274). -/
def Dev.lpiFree (d : Dev) (p : Nat) : Bool :=
  let e := d.egress p
  let sp := d.sysPort p
  let b := (d.slice (p / 32)).buf
  e.lpiEn && sp.enabled && sp.up && !e.lpi && (d.portQueues p).all (fun q => (d.queue (p / 32) q).descs.isEmpty) &&
    !((d.portQueues p).any fun q => (d.queue (p / 32) q).cfg.cls == 0) && !(b.reads.any fun r => r.port == p) &&
    !(b.spills.any fun r => r.path == 1 && r.frame.port == p % 32) &&
    !(b.direct.any fun x => (d.buffer (p / 32) x.1 x.2.1).frame.port == p % 32) &&
    !(d.ending.any fun o => match o with
      | .request n r => n == p / 32 && r.path == 1 && r.frame.port == p % 32
      | .enter n _ _ a => n == p / 32 && (d.portQueues p).contains a.queue
      | _ => false) &&
    decide (e.emptySince + e.lpiHold * Config.us ≤ d.now)

def Dev.lpiEntry (p : Nat) (d : Dev) : Dev :=
  if d.lpiFree p then (d.modEgress p fun e => { e with lpi := true, lpiSince := d.now }).bump .lpiEntries p 0 else d

/-- The wake time has run out: frames may start (R274). -/
def Dev.lpiWakeEnd (p : Nat) (d : Dev) : Dev :=
  let e := d.egress p
  if !e.lpi && decide (e.wakeEnd ≤ d.now) then d.modEgress p fun e => { e with wakeEnd := 0 } else d

end Sys2Proof
end

