-- ==== Sys2Proof/Machine/Stream.lean ====
section
/-! DEFINITION. The deskewed stream of a tree: its stripe set, reference lane, the instants at which blocks are received,
and the selected member of a protection pair (R20 to R23, R31, R37 to R39, R86, R90, R104, R496). -/

namespace Sys2Proof

/-- The logical lanes of the tree's group: configured, neither excluded nor removed (R23). -/
def Tree.groupLanes (x : Tree) : List Nat := x.stripe.filter fun i => (x.laneOf i).isSome

/-- The extra delay that deskew gives a stripe lane: the largest skew less its own, in UI (R90). -/
def Dev.laneDelay (d : Dev) (k l : Nat) : Nat := d.maxSkew k - (d.align l).skew

/-- The blocks of the stripe lanes, each lane's in order of position from one position on, as deskew releases them: at each position one
block of each lane, in ascending logical lane order (R90, R92). -/
def destripe : Nat → List (List RxBlock) → List RxBlock
  | 0, _ => []
  | n + 1, lanes => lanes.filterMap List.head? ++ destripe n (lanes.map List.tail)

/-- The working member of a tree's pair; of an unpaired tree, the tree itself (R37). -/
def Dev.pairKey (d : Dev) (k : Nat) : Nat := d.workingTree k

/-- SELECT of an accepted switching-request value: SR2 bit 7 (Table 3.10). -/
def selectOf (sr : BitVec 16) : Bool := sr.getLsbD 7

/-- The tree is the member that carries traffic, or is in no pair (R39). -/
def Dev.selected (d : Dev) (k : Nat) : Bool :=
  match (d.tree k).cfg.pair with
  | none => true
  | some _ => (d.tree (d.pairKey k)).cfg.selProtect != (d.tree k).cfg.working

/-- The member that carries the traffic of working tree w (R39). -/
def Dev.carrier (d : Dev) (w : Nat) : Nat :=
  match (d.tree w).cfg.pair with
  | none => w
  | some o => if d.selected w then w else o

/-- The SELECT that the pair of working tree w follows (R104): the working member's while it has tree frame lock, otherwise the
protect member's; none leaves the selection. -/
def Dev.followed (d : Dev) (w : Nat) : Option Bool :=
  match (d.tree w).cfg.pair with
  | none => none
  | some o =>
    if (d.tree w).fr.tfl then (d.tree w).fr.sr.map selectOf
    else if (d.tree o).fr.tfl then (d.tree o).fr.sr.map selectOf else none

/-- REQUEST of an accepted switching-request value: SR1 [7:4] (R102). -/
def requestOf (sr : BitVec 16) : Nat := (fld 4 12 sr).toNat

/-- The followed selection differs from the one in force: a switch begins, completed within one frame (R39, R104). The members'
accepted values begin to differ: an event, which reports their REQUESTs too (R102, R104; log entry 100). -/
def Dev.reselect (k : Nat) (d : Dev) : Dev :=
  let w := d.pairKey k
  match (d.tree w).cfg.pair with
  | none => d
  | some o =>
    let differ := match (d.tree w).fr.sr, (d.tree o).fr.sr with
      | some a, some b => selectOf a != selectOf b
      | _, _ => false
    let req := fun (k : Nat) => (((d.tree k).fr.sr.map requestOf).getD 0)
    let d := if differ && !(d.tree w).cfg.differ then d.raise (qTree w) 0x03 6 w [o, req w, req o] else d
    let want := d.followed w
    d.modTree w fun x =>
      { x with cfg := { x.cfg with differ := differ,
                                   switching := if want.isSome && want != some x.cfg.selProtect then want else none } }

/-- The counts of the frames that the tree's Pitches, EqDs, notices and accept bits wait for move with the tree's count. -/
def Tree.moveFrames (x : Tree) (move : Nat → Nat) : Tree :=
  { x with fr := { x.fr with listDone := x.fr.listDone.map fun e => (e.1, move e.2) },
           pitches := x.pitches.map (fun p => { p with frame := move p.frame }), il := x.il.map (fun w => { w with entry := { w.entry with frame := move w.entry.frame } }),
           eqd := { x.eqd with next := x.eqd.next.map (fun e => (e.1, e.2.map move)),
                               rangeNext := x.eqd.rangeNext.map (fun e => (e.1, e.2.map move)),
                               roundNext := x.eqd.roundNext.map (fun e => (e.1, e.2.map move)) },
           ex := { x.ex with queue := x.ex.queue.map fun n => { n with frame := move n.frame } },
           acc := { x.acc with waiting := x.acc.waiting.map fun c => { c with frame := move c.frame } } }

/-- Body block 0 of a notice. -/
def b0 (q : NoticeQ) : Block := q.body.getD 0 0

/-- Slot s of a body block (R179). -/
def slotOf (b : Block) (s : Nat) : BitVec 32 := fld 32 (96 - 32 * s) b
def slotAid (v : BitVec 32) : Word := fld 20 12 v
def slotDir (v : BitVec 32) : Nat := (fld 2 10 v).toNat
def slotEpoch (v : BitVec 32) : Nat := (fld 2 8 v).toNat

/-- An accepted N.ALLOC_REMOVE that is not processed yet takes the upstream direction from an AID: its assemblies have been undone (R133,
R148). -/
def Tree.removing (x : Tree) (aid : Word) : Bool :=
  x.ex.queue.any fun q => q.ntype == 0x08 && !q.dup && [0, 1, 2, 3].any fun s => slotAid (slotOf (b0 q) s) == aid && decide (2 ≤ slotDir (slotOf (b0 q) s))

/-- A list header (Table 3.7): none when the list is discarded; an idle block is an empty list (R95). -/
def Dev.listHeader (d : Dev) (k : Nat) (h : RxBlock) : Option (Nat × Nat) :=
  let x := d.tree k
  let entries := (fld 13 107 h.pl).toNat
  let notices := (fld 13 94 h.pl).toNat
  if !h.ctl || h.unc then none
  else if fld 8 120 h.pl = 0x1E then some (0, 0)
  else if fld 8 120 h.pl = 0x3C ∧ fld 32 0 h.pl = crc32 (bitsMsb (fld 96 32 h.pl)) ∧ (fld 2 92 h.pl).toNat = (x.fr.fc + 2) % 4 ∧
      1 + entries + notices ≤ 160 * x.stripe.length then some (entries, notices)
  else none

/-- The list is discarded and counted, once (R95). -/
def Dev.badList (k : Nat) (d : Dev) : Dev :=
  if (d.tree k).fr.listBad then d
  else (d.modTree k fun x => { x with fr := { x.fr with listBad := true, listNew := [] } }).bump .listBad k 0

/-- A direction of an allocation. -/
def Alloc.has (a : Alloc) (dir : Dir) : Bool := match dir with | .down => a.ds | .up => a.us

end Sys2Proof
end

