-- ==== Sys2Proof/Machine/Keys.lean ====
section
/-! DEFINITION. Key contexts, epochs, packet numbers and the derivation unit (10_cipher.md). -/

namespace Sys2Proof

def Dev.keyCtx (d : Dev) (n c : Nat) : KeyCtx := (d.slice n).key.ctx.get {} c
def Dev.txEpoch (d : Dev) (n c : Nat) : TxEpoch := (d.slice n).key.tx.get {} c
def Dev.modCtx (n c : Nat) (f : KeyCtx → KeyCtx) (d : Dev) : Dev :=
  d.modKey n fun k => { k with ctx := k.ctx.upd {} c f }
def Dev.modTxEpoch (n c : Nat) (f : TxEpoch → TxEpoch) (d : Dev) : Dev :=
  d.modKey n fun k => { k with tx := k.tx.upd {} c f }

/-! ### Derivation (R291 to R294) -/

/-- The serial of the previous, current or next epoch of a direction: 0, 1, 2 (R300). -/
def KeyCtx.serialOf (x : KeyCtx) (dir : Dir) (which : Nat) : Nat :=
  ((match dir with | .down => x.rx.serial | .up => x.txSerial) + which + (2 ^ 32 - 1)) % 2 ^ 32

/-- A request to the derivation unit for that epoch's key, at a level of R292; the cipher domain of its direction is woken for it. -/
def Dev.derive (n level c : Nat) (dir : Dir) (which : Nat) (cause : Nat) (d : Dev) : Dev :=
  let x : Deriv := { level := level, ctx := c, dir := dir, serial := (d.keyCtx n c).serialOf dir which }
  ((d.wake (pdCipher n dir) cause).modKey n fun k => { k with derivs := k.derivs ++ [x] }).perf n 9 dir.num 0 1

/-- The request served next: the lowest level, in order of arrival within it (R292). -/
def nextDeriv (xs : List Deriv) : Option Deriv :=
  [1, 2, 3, 4].findSome? fun l => xs.find? fun x => x.level == l

/-- Which of the context's live epochs a serial names; none: the direction has moved on since the request. -/
def Dev.liveEpoch (d : Dev) (n c : Nat) (dir : Dir) (serial : Nat) : Option Nat :=
  let x := d.keyCtx n c
  let over_ := match dir with | .down => x.rxOld.isSome | .up => (d.txEpoch n c).overlap
  if x.serialOf dir 1 = serial then some 1
  else if over_ then (if x.serialOf dir 0 = serial then some 0 else none)
  else if x.serialOf dir 2 = serial then some 2 else none

/-- The cache entry of a live epoch, the previous, current or next one, 0, 1, 2: its key with the GHASH subkey, or absent (R294). -/
def Dev.setCached (n c : Nat) (dir : Dir) (which : Nat) (key : Option CellKey) (d : Dev) : Dev :=
  match dir, which with
  | .down, 0 => d.modCtx n c fun x => { x with rxOld := x.rxOld.map fun e => { e with key := key } }
  | .down, 1 => d.modCtx n c fun x => { x with rx := { x.rx with key := key } }
  | .down, _ => d.modCtx n c fun x => { x with rxNext := key }
  | .up, 0 => d.modTxEpoch n c fun e => { e with prev := key }
  | .up, 1 => d.modTxEpoch n c fun e => { e with key := key }
  | .up, _ => d.modTxEpoch n c fun e => { e with next := key }

/-- The parcel key of a context's direction and serial, from the tree's root key (R291). -/
def Dev.keyFor (d : Dev) (n c : Nat) (dir : Dir) (serial : Nat) : CellKey :=
  let x := d.keyCtx n c
  parcelKey (d.vault.roots.get {} x.tree).key dir x.tree x.aid.toNat serial (d.tree x.tree).join.fcAssign

/-- A derivation ends: the key is in the cell set's cache (R292, R294). -/
def Dev.derived (n : Nat) (d : Dev) : Dev :=
  match nextDeriv (d.slice n).key.derivs with
  | none => d
  | some x =>
    let d := (d.modKey n fun k => { k with derivs := k.derivs.erase x }).bump .derivations n 0
    match d.liveEpoch n x.ctx x.dir x.serial with
    | none => d
    | some w => d.setCached n x.ctx x.dir w (some (d.keyFor n x.ctx x.dir x.serial))

/-- The keys of a new direction are asked for at level 3: the current epoch's, then the next one's (R292). -/
def Dev.deriveNew (n c : Nat) (dir : Dir) (cause : Nat) (d : Dev) : Dev :=
  (d.derive n 3 c dir 1 cause).derive n 3 c dir 2 cause

/-- The AID of a context holds a valid class-0 queue (R292). -/
def Dev.ctxClass0 (d : Dev) (n c : Nat) : Bool :=
  let x := d.keyCtx n c
  !(d.queuesWhere n fun _ q => q.cfg.kind == 0 && q.cfg.cls == 0 && q.cfg.target == d.pairKey x.tree && q.cfg.aid == x.aid).isEmpty

/-- The cache holds the key of an epoch: the previous, current or next one, 0, 1, 2 (R294). -/
def Dev.cachedKey (d : Dev) (n c : Nat) (dir : Dir) (which : Nat) : Bool :=
  let x := d.keyCtx n c
  let t := d.txEpoch n c
  match dir, which with
  | .down, 0 => (x.rxOld.bind (·.key)).isSome
  | .down, 1 => x.rx.key.isSome
  | .down, _ => x.rxNext.isSome
  | .up, 0 => t.prev.isSome
  | .up, 1 => t.key.isSome
  | .up, _ => t.next.isSome

/-- A cache entry is uncorrectable: absent, derived again, reported (R294, R334). -/
def Dev.cacheEntryBad (n c : Nat) (dir : Dir) (which : Nat) (d : Dev) : Dev :=
  if d.cachedKey n c dir which then
    let level := if d.ctxClass0 n c then 1 else 4
    let d := ((d.sramBad n 19 c).bump .cacheBad n 0).raise (qSlice n) 0x0A 2 c [dir.num, which]
    (d.setCached n c dir which none).derive n level c dir which causeError
  else d

/-! ### Contexts (R287, R288, R300) -/

/-- The per-AID counts that a new allocation starts from 0. -/
def aidCounts : List CN :=
  [.lostDropped, .displaced, .rewound, .poisonTx, .txCut, .parcelsCommitted, .bytesCommitted, .removeDropped, .keyMissTx, .kswEarly,
   .epochsDs, .epochsUs, .c0GapMax]

/-- The epoch state of a direction that is added to context c with EPOCH e (R300): the serial, numbers from 1, an empty window. -/
def KeyCtx.start (x : KeyCtx) (dir : Dir) : KeyCtx :=
  match dir with
  | .down => { x with rx := { serial := (4 * x.serialHi + x.epDs) % 2 ^ 32 }, rxOld := none, rxNext := none, rxLeft := 0,
                      rxNextFails := 0 }
  | .up => { x with txSerial := (4 * x.serialHi + x.epUs) % 2 ^ 32, txPn := 1 }

/-- The direction starts (R292, R300). -/
def Dev.startDir (n c : Nat) (dir : Dir) (cause : Nat) (d : Dev) : Dev :=
  let d := d.modCtx n c fun x => x.start dir
  let d := if dir = .up then d.modKey n fun k => { k with tx := k.tx.erase c } else d
  if (d.keyCtx n c).keyed then d.deriveNew n c dir cause else d

/-- An allocation holds a direction anew, with its EPOCH (R287, R300). -/
def Dev.addDir (n c epoch : Nat) (dir : Dir) (d : Dev) : Dev :=
  let d := d.modCtx n c fun x => match dir with
    | .down => { x with ds := true, epDs := epoch }
    | .up => { x with us := true, epUs := epoch }
  d.startDir n c dir causeTree

/-- A direction is removed, the context stays bound: its serial, numbers and keys go (R287). -/
def Dev.dropDir (n c : Nat) (dir : Dir) (d : Dev) : Dev :=
  let d := d.modKey n fun k => { k with derivs := k.derivs.filter fun x => !(x.ctx == c && x.dir == dir) }
  match dir with
  | .down => d.modCtx n c fun x => { x with ds := false, epDs := 0, rx := {}, rxOld := none, rxNext := none, rxLeft := 0, rxNextFails := 0 }
  | .up => (d.modCtx n c fun x => { x with us := false, epUs := 0, txSerial := 0, txPn := 1 }).modKey n fun k =>
      { k with tx := k.tx.erase c }

/-- The lowest free context of the slice is bound to the tree and AID; the event follows that of R173 (R287). -/
def Dev.bindCtx (k : Nat) (aid : Word) (d : Dev) : Nat × Dev :=
  let n := sliceOfTree k
  let ctx := (d.slice n).key.ctx
  let c := ((List.range (ctx.length + 1)).find? fun i => !(ctx.get {} i).bound).getD 0
  let d := d.modCtx n c fun _ => { bound := true, tree := k, aid := aid }
  let d := d.forEach aidCounts fun x d => d.clearCount x k aid.toNat
  (c, d.raise (qTree k) 0x0A 1 k [aid.toNat, c])

/-- The allocation ceases: its context is free, every field at its reset value (R287). -/
def Dev.freeCtx (n c : Nat) (d : Dev) : Dev :=
  d.modKey n fun k => { ctx := k.ctx.erase c, tx := k.tx.erase c, derivs := k.derivs.filter fun x => x.ctx != c }

/-! ### Downstream: check 8 (R296 to R298, R301) -/

/-- The packet number rebuilt from SEQ as the value nearest to TOP + 1 (R296). -/
def rebuildPn (top seq : Nat) : Nat :=
  let base : Int := top + 1
  let pn := base - 32768 + ((seq : Int) - (base - 32768)) % 65536
  (if pn < 1 then pn + 65536 else pn).toNat

/-- Step 2 of R297. -/
def RxEpoch.fresh (e : RxEpoch) (win pn : Nat) : Bool :=
  decide (e.top < pn) || (decide (pn < e.top ∧ e.top - pn < win) && !e.seen.contains pn)

/-- pn is accepted: marked, TOP raised (R297). Marks are kept for the largest window, so that a window made larger still finds them. -/
def RxEpoch.accept (e : RxEpoch) (pn : Nat) : RxEpoch :=
  let top := max e.top pn
  { e with top := top, seen := (pn :: e.seen).filter (fun v => decide (top - v < 1024)), fails := 0 }

/-- The threshold event of a direction (R298). -/
def Dev.pnWarning (k c : Nat) (dir : Dir) (serial : Nat) (d : Dev) : Dev :=
  d.raise (qTree k) 0x0A 4 c [dir.num, serial / 2 ^ 20, serial % 2 ^ 20]

/-- Which live epoch EPOCH names: 1 the current, 0 the previous, 2 the next (R297, R301). -/
def KeyCtx.epochOf (x : KeyCtx) (ep : Nat) : Option Nat :=
  if x.rx.key.isSome && x.rx.serial % 4 == ep then some 1
  else if (x.rxOld.map fun e => e.key.isSome && e.serial % 4 == ep).getD false then some 0
  else if x.rxOld.isNone && x.rxNext.isSome && (x.rx.serial + 1) % 4 == ep then some 2
  else none

/-- The state of that epoch before the parcel. -/
def KeyCtx.epochState (x : KeyCtx) (w : Nat) : RxEpoch :=
  match w with
  | 0 => x.rxOld.getD {}
  | 1 => x.rx
  | _ => { serial := (x.rx.serial + 1) % 2 ^ 32, key := x.rxNext, fails := x.rxNextFails }

def KeyCtx.setEpoch (x : KeyCtx) (w : Nat) (e : RxEpoch) : KeyCtx :=
  match w with
  | 0 => { x with rxOld := some e }
  | 1 => { x with rx := e }
  | _ => { x with rxNextFails := e.fails }

/-- The switch of a direction to the next serial, with the first number accepted in it (R301). -/
def KeyCtx.switchRx (x : KeyCtx) (e : RxEpoch) (now : Ticks) : KeyCtx :=
  { x with rxOld := some x.rx, rx := e, rxNext := none, rxNextFails := 0, rxLeft := max 1 x.overlap, rxAt := now }

/-- A tag failed: after 16 in a row an event (R296). -/
def Dev.tagFailed (k n c w : Nat) (d : Dev) : Dev :=
  let e := (d.keyCtx n c).epochState w
  let f := satInc 65535 e.fails
  let d := d.modCtx n c fun x => x.setEpoch w { e with fails := f }
  if f = 16 then d.raise (qTree k) 0x0A 3 c [e.serial / 2 ^ 20, e.serial % 2 ^ 20] else d

/-- Check 8 of Table 3.9 (R297) on the parcel's data blocks: the frame in the clear, or the count of the step that failed. -/
def Dev.check8 (k aid ep seq : Nat) (hdr : Block) (data : List Block) (d : Dev) : Option (List Byte) × Dev :=
  let n := sliceOfTree k
  match d.ctxOf n k aid with
  | none => (none, d.bump .parNokey k 0)
  | some c =>
    let x := d.keyCtx n c
    match (if x.keyed then x.epochOf ep else none) with
    | none => (none, d.bump .parNokey k 0)
    | some w =>
      let e := x.epochState w
      let pn := rebuildPn e.top seq
      if !e.fresh x.replayWin pn then (none, d.bump .parReplay k 0)
      else match openParcel (e.key.getD {}) x.saltDs pn hdr (d.tree k).cfg.lockedId (hdrLength hdr) data with
      | none => (none, (d.tagFailed k n c w).bump .parTag k 0)
      | some plain =>
          let e' := e.accept pn
          let warn := !e'.warned && decide (2 ^ x.pnWarn ≤ e'.top)
          let e' := { e' with warned := e'.warned || warn }
          let d := if w = 2 then (d.modCtx n c fun x => x.switchRx e' d.now).bump .epochsDs k aid
                   else d.modCtx n c fun x => x.setEpoch w e'
          (some plain, if warn then d.pnWarning k c .down e.serial else d)

/-- A frame start of tree k is received: it counts for the overlaps whose switch lies before it (R301, R302). -/
def Dev.overlapFrame (k : Nat) (d : Dev) : Dev :=
  let n := sliceOfTree k
  let at_ := d.receivedAt k 0
  d.forEach ((d.slice n).key.ctx.filter fun e => e.2.bound && e.2.tree == k) fun e d =>
    let d := if e.2.rxOld.isSome && decide (e.2.rxAt < at_) then d.modCtx n e.1 fun x => { x with rxLeft := x.rxLeft - 1 } else d
    let t := d.txEpoch n e.1
    if t.overlap && decide (t.swAt < at_) then d.modTxEpoch n e.1 fun t => { t with left := t.left - 1 } else d

/-- Position 200 of the last frame of an overlap: the previous key is erased, the next one asked for (R301, R302). -/
def Dev.overlapEnd (k aid : Nat) (dir : Dir) (d : Dev) : Dev :=
  let n := sliceOfTree k
  match d.ctxOf n k aid with
  | none => d
  | some c =>
    let x := d.keyCtx n c
    let t := d.txEpoch n c
    let there := decide (d.receivedAt k 200 ≤ d.now)
    match dir with
    | .down =>
      if x.rxOld.isSome && x.rxLeft == 0 && there then
        (d.modCtx n c fun x => { x with rxOld := none }).derive n 2 c .down 2 causeTree
      else d
    | .up =>
      if t.overlap && t.left == 0 && there then
        (d.modTxEpoch n c fun t => { t with overlap := false, prev := none }).derive n 2 c .up 2 causeTree
      else d

/-! ### Upstream numbers (R295, R298, R302) -/

/-- A KSW Pitch of AID aid commits: the direction switches, or KSW_EARLY counts (R302). -/
def Dev.kswCommit (k aid : Nat) (d : Dev) : Dev :=
  let n := sliceOfTree k
  match d.ctxOf n k aid with
  | none => d.bump .kswEarly k aid
  | some c =>
    let t := d.txEpoch n c
    if t.overlap || t.next.isNone then d.bump .kswEarly k aid
    else
      let d := d.modCtx n c fun x => { x with txSerial := (x.txSerial + 1) % 2 ^ 32, txPn := 1 }
      (d.modTxEpoch n c fun _ =>
        { key := t.next, prev := t.key, overlap := true, left := max 1 (d.keyCtx n c).overlap, swAt := d.now, epsDue := true }).bump .epochsUs k aid

/-- The next upstream number of context c, with EPOCH, EPS and the key, where present (R294, R295, R302). -/
structure TxNumber where
  epoch : Nat
  eps : Bool
  pn : Nat
  key : Option CellKey
  deriving DecidableEq, Repr

def Dev.takeNumber (k n c : Nat) (d : Dev) : TxNumber × Dev :=
  let x := d.keyCtx n c
  let t := d.txEpoch n c
  let warn := !t.warned && decide (2 ^ x.pnWarn ≤ x.txPn)
  let d := d.modCtx n c fun x => { x with txPn := x.txPn + 1 }
  let d := d.modTxEpoch n c fun t => { t with epsDue := false, warned := t.warned || warn }
  ({ epoch := x.txSerial % 4, eps := t.epsDue, pn := x.txPn, key := t.key },
   if warn then d.pnWarning k c .up x.txSerial else d)

/-- The queues of an AID may be placed: KEYED, and the keys of the new allocation or direction in place (R288, R292). -/
def Dev.txKeyed (d : Dev) (k aid : Nat) : Bool :=
  let n := sliceOfTree k
  match d.ctxOf n k aid with
  | none => false
  | some c =>
    let x := d.keyCtx n c
    x.keyed && !((d.slice n).key.derivs.any fun y => y.ctx == c && y.dir == .up && y.level == 3)

/-! ### Commands (Table 10.6) -/

def keyChecks (rq : Req) (d : Dev) (n : Nat) : List Check :=
  [chkLen rq n, chkReady d [[fnVault], needSlice (rq.prm 0)], chkRange rq [(0, 0, 7)]]

/-- The record of Table 10.2. -/
def KeyCtx.words (x : KeyCtx) : List Word :=
  [x.bound.toNat * 2 ^ 19 + x.keyed.toNat * 2 ^ 18 + x.ds.toNat * 2 ^ 17 + x.us.toNat * 2 ^ 16 + x.tree, x.aid.toNat,
   x.saltDs.toNat / 65536, x.saltDs.toNat % 65536, x.saltUs.toNat / 65536, x.saltUs.toNat % 65536,
   x.serialHi / 1024, x.serialHi % 1024 * 1024, x.replayWin, x.pnWarn * 2 ^ 14 + x.overlap * 256].map (BitVec.ofNat 20)

/-- Words 2 to 9 of a request as they are stored, reserved bits 0 (R9). -/
def keyWords (rq : Req) : List Nat :=
  [rq.bits 2 16 0, rq.bits 3 16 0, rq.bits 4 16 0, rq.bits 5 16 0, rq.prm 6, rq.bits 7 10 10 * 1024, rq.bits 8 11 0,
   rq.bits 9 6 14 * 2 ^ 14 + rq.bits 9 6 8 * 256]

/-- `key_ctx_set` (R288): the first write sets KEYED, fixes the serials and asks for the keys; after it words 2 to 7 hold still. -/
def cmdKeyCtxSet : Cmd := fun rq d =>
  let n := rq.prm 0
  let c := rq.prm 1
  let x := d.keyCtx n c
  let new := keyWords rq
  let changed := fun i => (x.words.map (·.toNat)).getD i 0 != new.getD (i - 2) 0
  withChecks (keyChecks rq d 10 ++ [chkRange rq [(1, 0, 32767)], failIf (decide (1024 < rq.bits 8 11 0)) .range 8,
      failIf (decide (rq.bits 9 6 14 < 16 ∨ rq.bits 9 6 8 < 1)) .range 9, failIf (!x.bound) .notFound,
      if x.keyed then ([2, 3, 4, 5, 6, 7].find? changed).map fun i => { code := .refused, detail := i } else none]) d <|
    let win := rq.bits 8 11 0
    let trim := fun (e : RxEpoch) => { e with seen := e.seen.filter fun v => decide (e.top - v < max win 1) }
    let d := d.modCtx n c fun x =>
      { x with keyed := true, saltDs := BitVec.ofNat 32 (rq.bits 2 16 0 * 65536 + rq.bits 3 16 0),
               saltUs := BitVec.ofNat 32 (rq.bits 4 16 0 * 65536 + rq.bits 5 16 0),
               serialHi := rq.prm 6 * 1024 + rq.bits 7 10 10, replayWin := win, pnWarn := rq.bits 9 6 14,
               overlap := rq.bits 9 6 8, rx := trim x.rx, rxOld := x.rxOld.map trim }
    if x.keyed then okDone d
    else
      let d := if x.ds then d.startDir n c .down causeHost else d
      okDone (if x.us then d.startDir n c .up causeHost else d)

/-- `key_ctx_read`: the record, the serials, the numbers, and the overlap and derivation state. -/
def cmdKeyCtxRead : Cmd := fun rq d =>
  let n := rq.prm 0
  let c := rq.prm 1
  let x := d.keyCtx n c
  let t := d.txEpoch n c
  withChecks (keyChecks rq d 2 ++ [chkRange rq [(1, 0, 32767)], failIf (!x.bound) .notFound]) d <|
    let open_ := fun dir => ((d.slice n).key.derivs.filter fun y => y.ctx == c && y.dir == dir).length
    okWith d (resWords x.words ++ resWide 32 x.rx.serial ++ resWide 32 x.txSerial ++ resWide 64 x.txPn ++ resWide 64 x.rx.top ++
      resWide 64 ((x.rxOld.map (·.top)).getD 0) ++
      [BitVec.ofNat 32 x.rxOld.isSome.toNat, BitVec.ofNat 32 t.overlap.toNat, BitVec.ofNat 32 (open_ .down), BitVec.ofNat 32 (open_ .up)])

def cmdKeyCtxFind : Cmd := fun rq d =>
  let k := rq.prm 0
  withChecks [chkLen rq 2, chkReady d [[fnVault], needSlice (k / 8)], chkRange rq [(0, 0, 63)],
      failIf (d.ctxOf (sliceOfTree k) k (rq.prm 1)).isNone .notFound] d <|
    okWith d (resWide 20 ((d.ctxOf (sliceOfTree k) k (rq.prm 1)).getD 0))

/-- `cipher_status`: outstanding derivations of levels 1 to 4, cells of the set of each of the slice's trees, the counts. -/
def cmdCipherStatus : Cmd := fun rq d =>
  let n := rq.prm 0
  withChecks (keyChecks rq d 1) d <|
    okWith d (([1, 2, 3, 4].map fun l => BitVec.ofNat 32 ((d.slice n).key.derivs.filter fun x => x.level == l).length) ++
      ((treesOf n).map fun k => BitVec.ofNat 32 (12 * (d.groupLanes k).length)) ++
      ([CN.keyCtxMismatch, .derivations, .cacheBad].flatMap fun c => resWide 48 (d.count c n 0).val.toNat))

end Sys2Proof
end

