-- ==== Sys2Proof/Machine/Barrow.lean ====
section
/-! DEFINITION. The Barrow: used Pitches, assemblies, takes, undo, class-0 placement and revisions (R109 to R116, R130 to R135,
R23, R33, R43, R152, R267 to R270). -/

namespace Sys2Proof

/-! ### The shape of a Pitch (R115 to R121) -/

/-- The logical lanes that the mask names and the group holds; from its commit on, those that it named then (R23, R115). -/
def Tree.namedLanes (x : Tree) (p : Pitch) : List Nat := p.names.getD (x.groupLanes.filter fun i => p.mask.getLsbD i)
/-- The mask bits that name a lane not in the group (R23). -/
def Tree.ignoredMask (x : Tree) (p : Pitch) : BitVec 16 :=
  x.groupLanes.foldl (fun m i => m &&& ~~~ ((1 : BitVec 16) <<< i)) p.mask
/-- Those of them that this Pitch has not counted yet: each bit counts once, at its use or at its commit (R23). -/
def Tree.newIgnored (x : Tree) (p : Pitch) : Nat :=
  ((List.range 16).filter fun i => (x.ignoredMask p &&& ~~~ p.ignored).getLsbD i).length
/-- R of R120; the answer space of R152 for a Pitch that carries answers. -/
def Tree.region (x : Tree) (p : Pitch) : Nat :=
  let m := (x.namedLanes p).length
  if p.answering then 35 * m else m * (40 * p.codewords - 41)

def Take.isC0 (t : Take) : Bool := t.desc.cls == 0
def takesBlocks (ts : List Take) : Nat := ts.foldl (fun a t => a + t.blocks) 0
def Answer.blocks (a : Answer) : Nat := 2 + a.body.length
def Pitch.placed (p : Pitch) : Nat := takesBlocks p.takes + p.answers.foldl (fun n a => n + a.blocks) 0
def Pitch.c0Blocks (p : Pitch) : Nat := takesBlocks (p.takes.filter Take.isC0)
def Pitch.is (p : Pitch) (frame pid : Nat) : Bool := p.frame == frame && p.pid == pid

def Dev.modPitch (k frame pid : Nat) (f : Pitch → Pitch) (d : Dev) : Dev :=
  d.modTree k fun x => { x with pitches := x.pitches.map fun p => if p.is frame pid then f p else p }
def Dev.pitch (d : Dev) (k frame pid : Nat) : Option Pitch := (d.tree k).pitches.find? fun p => p.is frame pid

/-- Pitch p starts before q, or at the same instant with a lower PITCH_ID (R111, R295). -/
def Dev.pitchBefore (d : Dev) (k : Nat) (p q : Pitch) : Bool :=
  let a := d.pitchS k p
  let b := d.pitchS k q
  decide (a < b) || (a == b && decide (p.pid < q.pid))

def insertPitch (d : Dev) (k : Nat) (p : Pitch) : List Pitch → List Pitch
  | [] => [p]
  | q :: qs => if d.pitchBefore k p q then p :: q :: qs else q :: insertPitch d k p qs

/-- Pitches in order of start. -/
def Dev.inOrder (d : Dev) (k : Nat) (ps : List Pitch) : List Pitch := ps.foldl (fun a p => insertPitch d k p a) []

/-- A disable-transmit record applies to the tree (R43, R176). -/
def Dev.dtApplies (d : Dev) (k : Nat) : Bool :=
  let x := d.tree k
  x.dt.held && (!x.fr.tfl || x.fr.heldId == x.dt.treeId)

/-- The commit instant of a Pitch: the first SLICE edge at or after S - 1,200 ns (R136). The edges are taken to stand at whole periods from
instant 0: the spec gives the clock no phase (DESIGN CHOICE, log entry 98). -/
def Dev.commitAt (d : Dev) (k : Nat) (p : Pitch) : Ticks :=
  cdiv (d.pitchS k p - commitLead) Config.slicePeriod * Config.slicePeriod

/-- The Pitch is used and its commit instant has not come: its burst can still change (R135, R136). -/
def Dev.beforeCommit (d : Dev) (k : Nat) (p : Pitch) : Bool := p.phase == 0 && decide (d.now < d.commitAt k p)

/-- An allocation that the tree holds changes; an AID that is none stays none (R172). -/
def Tree.modAlloc (x : Tree) (aid : Nat) (f : Alloc → Alloc) : Tree :=
  let a := x.allocs.get {} aid
  if a.ds || a.us then { x with allocs := x.allocs.set {} aid (f a) } else x

/-- The open assemblies of an AID, in order of start (R131). -/
def Dev.assemblies (d : Dev) (k : Nat) (aid : Word) : List Pitch :=
  d.inOrder k ((d.tree k).pitches.filter fun p => d.beforeCommit k p && p.opened && p.aid == aid)

/-! ### Opening (R131) -/

def Dev.openCount (d : Dev) (n : Nat) : Nat := (d.openPitches n).length
def Dev.placedCount (d : Dev) (n : Nat) : Nat := (d.openPitches n).foldl (fun a x => a + x.2.takes.length + x.2.answers.length) 0

/-- No further parcel or answer can be placed in the slice (R131). -/
def Dev.barrowFull (d : Dev) (n : Nat) : Bool := Nat.ble Config.maxPlacedParcels (d.placedCount n)

/-- Pitches of a slice's trees in order of start; those that start together, by tree. -/
def insertSlice (d : Dev) (e : Nat × Pitch) : List (Nat × Pitch) → List (Nat × Pitch)
  | [] => [e]
  | g :: gs => if Nat.blt (d.pitchS e.1 e.2) (d.pitchS g.1 g.2) then e :: g :: gs else g :: insertSlice d e gs

/-- Assemblies open in order of start over the slice while the limits and disable transmit allow; the Pitches of the allocations of a
member that is not selected are held without one (R39, R131, R175, R472). -/
def Dev.openAll (n : Nat) (d : Dev) : Dev :=
  let closed := (treesOf n).flatMap fun k =>
    if d.dtApplies k then []
    else (d.inOrder k ((d.tree k).pitches.filter fun p => d.beforeCommit k p && !p.opened && (p.reserved || d.selected k))).map fun p => (k, p)
  d.forEach (closed.foldl (fun a e => insertSlice d e a) []) fun (k, p) d =>
    if Nat.blt (d.openCount n) Config.maxOpenAssemblies && !d.barrowFull n then
      d.modPitch k p.frame p.pid fun p => { p with opened := true }
    else d

/-! ### Undo (R132, R133, R270) -/

def ptrKey (w : Nat) (aid : Word) (c : Nat) : Nat := (w * 2 ^ 20 + aid.toNat) * 8 + c

/-- The descriptor of a stale rewind is dropped: its buffer is freed by party 12, or, when its handle is not trusted, left to the sweep (R253, R256). -/
def Dev.dropStale (n : Nat) (x : Desc) (d : Dev) : Dev :=
  if x.badHandle then d.triggerSweep n else d.dropBuffer n 12 x.pool x.index 5 none

/-- One take is undone: the queue's READ, its scheduler state and the rotation pointer are as before it. Of a queue that has been reset, the
scheduler state comes back all the same, and the frame is dropped (R253, R270). -/
def Dev.undoTake (k : Nat) (aid : Word) (displaced : Bool) (t : Take) (d : Dev) : Dev :=
  let n := sliceOfTree k
  let (fresh, d) := d.rewind n t.queue t.gen t.pos
  let d := if fresh then d else (d.dropStale n t.desc).bump .qresetDrop n t.queue
  let d := d.modQueue n t.queue fun q =>
    { q with deficit := t.deficit, turn := t.turn, placed := q.placed - (if t.isC0 then 0 else t.desc.length) }
  let d := d.modSched n fun s => { s with ptrUp := s.ptrUp.set 0 (ptrKey (d.pairKey k) aid t.desc.cls) t.ptr }
  let d := d.mothRewind n (d.buffer n t.desc.pool t.desc.index).frame.moth
  let d := d.modTree k fun x => x.modAlloc aid.toNat fun a =>
    if displaced then { a with displaced := satInc (2 ^ 20 - 1) a.displaced } else { a with rewound := satInc (2 ^ 20 - 1) a.rewound }
  (d.bump (if displaced then .displaced else .rewound) k aid.toNat).perf n 7 1 0 1

/-- The last take of a list, by its place in the AID's take log. -/
def lastTake (ts : List Take) : Option Take :=
  ts.foldl (fun b t => match b with | none => some t | some u => if u.seq < t.seq then some t else some u) none

/-- Undo takes of Pitch p that satisfy f, last first, while more is true of the Pitch. -/
def Dev.undoWhile (k frame pid : Nat) (displaced : Bool) (f : Take → Bool) (more : Pitch → Bool) : Nat → Dev → Dev
  | 0, d => d
  | i + 1, d =>
    match d.pitch k frame pid with
    | none => d
    | some p =>
      if !more p then d
      else match lastTake (p.takes.filter f) with
      | none => d
      | some t =>
        let d := (d.undoTake k p.aid displaced t).modPitch k frame pid fun p => { p with takes := p.takes.erase t }
        d.undoWhile k frame pid displaced f more i

/-- Undone answers return to the head of the queue they were placed from; an A.SERIAL keeps its NSEQ and the instant at which it became
ready for the next window (R152, R153). -/
def Dev.returnAnswers (k : Nat) (p : Pitch) (d : Dev) : Dev :=
  let of_ := fun (ty : Nat) => p.answers.filter fun a => a.atype == ty
  let back := p.answers.filter fun a => a.atype != 0x41 && a.atype != 0x42
  d.modTree k fun x => { x with ex := { x.ex with answers := back ++ x.ex.answers, ranges := of_ 0x42 ++ x.ex.ranges },
                                join := match (of_ 0x41).head? with
                                        | some a => { x.join with pass := some a }
                                        | none => x.join }

/-- A Pitch's assembly is undone wholly, as it stands, and may be assembled again. -/
def Dev.undoPitch (k : Nat) (p : Pitch) (d : Dev) : Dev :=
  match d.pitch k p.frame p.pid with
  | none => d
  | some p =>
  let d := d.undoWhile k p.frame p.pid false (fun _ => true) (fun _ => true) p.takes.length
  (d.returnAnswers k p).modPitch k p.frame p.pid fun p => { p with answers := [], passed := [], awnOld := [] }

/-- Assemblies are undone from the latest backward. -/
def Dev.undoAll (k : Nat) (ps : List Pitch) (d : Dev) : Dev := d.forEach ps.reverse fun p d => d.undoPitch k p

/-- Every assembly of an AID from one of some Pitches on, in order of start. -/
def Dev.undoFrom (k : Nat) (aid : Word) (ps : List Pitch) (d : Dev) : Dev :=
  d.undoAll k ((d.assemblies k aid).filter fun q => ps.any fun p => !d.pitchBefore k q p)

/-- Every later assembly of the AID of Pitch p. -/
def Dev.undoLater (k : Nat) (p : Pitch) (d : Dev) : Dev :=
  d.undoAll k ((d.assemblies k p.aid).filter fun q => d.pitchBefore k p q)

/-- Every assembly of an AID; of the tree. -/
def Dev.undoAid (k : Nat) (aid : Word) (d : Dev) : Dev := d.undoAll k (d.assemblies k aid)
def Dev.undoTree (k : Nat) (d : Dev) : Dev :=
  d.undoAll k (d.inOrder k ((d.tree k).pitches.filter fun p => d.beforeCommit k p && p.opened))

/-- A Pitch is trimmed until its takes fit its region: not class 0 first, then class 0 (Table 4.10). -/
def Dev.trim (k frame pid : Nat) (d : Dev) : Dev :=
  match d.pitch k frame pid with
  | none => d
  | some p =>
    let d := d.undoLater k p
    let big := fun (p : Pitch) => decide ((d.tree k).region p < p.placed)
    let d := d.undoWhile k frame pid false (fun t => !t.isC0) big p.takes.length
    let d := d.undoWhile k frame pid false (fun _ => true) big p.takes.length
    match d.pitch k frame pid with
    | none => d
    | some p => if big p then (d.returnAnswers k p).modPitch k frame pid fun p => { p with answers := [] } else d

/-- The interlock's copy takes a Pitch from the list and revision decoders, in the place of the one of its name; or drops it (R139). -/
def Dev.ilSet (k : Nat) (frame pid : Nat) (p : Option Pitch) (d : Dev) : Dev :=
  d.modTree k fun x => { x with il := x.il.filter (fun w => !w.is frame pid) ++ p.toList.map fun p => { entry := p } }

/-- Pitch p is no longer used: its assembly and every later one of the AID are undone; it stays held (R111, R113). -/
def Dev.setAside (k : Nat) (p : Pitch) (d : Dev) : Dev :=
  (((d.undoLater k p).undoPitch k p).ilSet k p.frame p.pid none).modPitch k p.frame p.pid fun p =>
    { p with phase := 5, opened := false }

/-- The lanes of the tree's group have changed: the uncommitted Pitches are judged again (Table 4.10, R23). was: the tree before. -/
def Dev.lanesChanged (k : Nat) (was : Tree) (d : Dev) : Dev :=
  d.forEach (d.inOrder k ((d.tree k).pitches.filter fun p => d.beforeCommit k p)) fun q d =>
    match d.pitch k q.frame q.pid with
    | none => d
    | some p =>
    if ((d.tree k).namedLanes p).isEmpty then (d.undoLater k p).undoPitch k p
    else if Nat.blt ((d.tree k).region p) (was.region p) then d.trim k p.frame p.pid
    else d

/-! ### Use and overlap (R23, R111, R112, R121, R131) -/

def Dev.pitchClose (d : Dev) (k : Nat) (p : Pitch) : Ticks := d.pitchS k p + p.length * Config.cwt

def Dev.overlaps (d : Dev) (k : Nat) (p q : Pitch) : Bool :=
  decide (d.pitchS k p < d.pitchClose k q ∧ d.pitchS k q < d.pitchClose k p) &&
    ((d.tree k).namedLanes p).any fun i => q.mask.getLsbD i

/-- The used Pitches that overlap p. -/
def Dev.rivals (d : Dev) (k : Nat) (p : Pitch) : List Pitch :=
  (d.tree k).pitches.filter fun q => q.phase != 5 && !q.is p.frame p.pid && d.overlaps k p q

/-- R111 for Pitch p: false when it is not used; the overlapping uncommitted Pitches that start later are set aside. -/
def Dev.resolve (k : Nat) (p : Pitch) (d : Dev) : Bool × Dev :=
  let rs := d.rivals k p
  if rs.any fun q => q.phase != 0 || d.pitchBefore k q p then (false, d.bump .pitchOverlap k 0)
  else (true, d.forEach rs fun q d => (d.setAside k q).bump .pitchOverlap k 0)

/-- The standing class-0 grant of R112: as a used STD Pitch reaches its commit instant, and can move no more, its start is held against
that of the one before it, in CWT, of which the spec gives no rounding: a part counts as one (DESIGN CHOICE, log entry 130); its region is kept for
`c0_report`. -/
def Dev.noteStd (k : Nat) (p : Pitch) (d : Dev) : Dev :=
  if p.std && !p.reserved then
    let s := d.pitchS k p
    let r := (d.tree k).region p
    let d := match ((d.tree k).allocs.get {} p.aid.toNat).lastStd with
      | none => d
      | some l => d.countMax .c0GapMax k p.aid.toNat (cdiv (s - l) Config.cwt)
    d.modTree k fun x => x.modAlloc p.aid.toNat fun a =>
      { a with lastStd := some s, stdRegions := (a.stdRegions.filter fun r => decide (x.fr.fc ≤ r.1 + 64)) ++
        [(p.frame, r, Config.preambleUi (BitVec.ofNat 4 p.preamble))] }
  else d

/-- The ignored mask bits of a used Pitch have been counted (R23). -/
def Pitch.counted (p : Pitch) (x : Tree) : Pitch := { p with ignored := p.ignored ||| x.ignoredMask p }

/-- The lane and length tests of R23 and R121 on a Pitch that would be used; false when it is not. -/
def Dev.usable (k : Nat) (p : Pitch) (d : Dev) : Bool × Dev :=
  if p.codewords = 0 then (false, d.bump .pitchShort k 0)
  else
  let d := d.bumpN .pitchMaskIgnored k 0 ((d.tree k).newIgnored p)
  if ((d.tree k).namedLanes p).isEmpty then (false, d.bump .pitchEmpty k 0)
  else (true, d)

/-- The bursts of the port that a completed list or an applied revision is assembled with (R116). -/
def Dev.withPort (d : Dev) (k : Nat) (p : Pitch) : Pitch :=
  let l := d.port (portOfTree k)
  { p with tonUi := cdiv (l.ton * 106272) 1000, toffUi := cdiv (l.toff * 106272) 1000 }

/-- Pitches of a completed list become used, in order of start. A Pitch that loses at its list is not held. -/
def Dev.useList (k : Nat) (ps : List Pitch) (d : Dev) : Dev :=
  let n := sliceOfTree k
  let ps := d.inOrder k (ps.map (d.withPort k))
  let d := d.forEach ps fun p d =>
    match d.usable k p with
    | (false, d) => d
    | (true, d) =>
      match d.resolve k p with
      | (false, d) => d
      | (true, d) => (d.ilSet k p.frame p.pid (some p)).modTree k fun x => { x with pitches := x.pitches ++ [p.counted x] }
  d.openAll n

/-! ### Takes (R130, R134, R267 to R270) -/

/-- The Awning length of queue q for Pitch p: the one its assembly was opened with (R130, R144). -/
def Dev.awning (d : Dev) (n q : Nat) (p : Pitch) : Nat :=
  match p.awnOld.get 0 q with
  | 0 => (d.queue n q).awning
  | v + 1 => v
def awningWidth (len : Nat) : Nat := cdiv len 16 + 2
def parcelBlocks (len : Nat) : Nat := cdiv len 16 + 2

/-- The upstream queues of an AID; those of a pair name its working member (R38). -/
def Dev.aidQueues (d : Dev) (k : Nat) (aid : Word) : List Nat :=
  d.queuesWhere (sliceOfTree k) fun _ q => q.cfg.kind == 0 && q.cfg.target == d.pairKey k && q.cfg.aid == aid

def Queue.credit (q : Queue) : Int := (q.earned : Int) - q.spent - q.placed
def Queue.headLen (q : Queue) : Nat := (q.head.map (·.length)).getD 0

/-- Queue q cannot be served in Pitch p any more: the free region is below its W, or its head exceeds its credit (R130, R267). -/
def Dev.passesOver (d : Dev) (n q free : Nat) (p : Pitch) : Bool :=
  let x := d.queue n q
  decide (free < awningWidth (d.awning n q p)) ||
    (x.cfg.cls != 0 && !x.unread.isEmpty && decide (x.credit < x.headLen))

/-- A queue is served only in the assembly that holds its last take, or in a later one (R131). -/
def Dev.lastIn (d : Dev) (k : Nat) (q : Nat) (p : Pitch) : Bool :=
  !((d.assemblies k p.aid).any fun x => d.pitchBefore k p x && x.takes.any fun t => t.queue == q)

def Dev.eligible (d : Dev) (k c : Nat) (p : Pitch) : List Nat :=
  let n := sliceOfTree k
  (d.aidQueues k p.aid).filter fun q =>
    let x := d.queue n q
    x.cfg.cls == c && !x.unread.isEmpty && !p.passed.contains q && d.lastIn k q p &&
      (c == 0 || (!d.pwr.suspended && decide ((x.headLen : Int) ≤ x.credit)))

/-- Class-0 parcels stand first in the burst (R134). -/
def placeTake (t : Take) (ts : List Take) : List Take :=
  if t.isC0 then ts.filter Take.isC0 ++ [t] ++ ts.filter (fun u => !u.isC0) else ts ++ [t]

/-- The head of queue q becomes a parcel of Pitch p; deficit, turn and ptr are the state that an undo restores (R132, R270). -/
def Dev.logTake (k : Nat) (p : Pitch) (q : Nat) (x : Desc) (deficit : Int) (turn : Bool) (ptr : Nat) (d : Dev) : Dev :=
  let n := sliceOfTree k
  let Q := d.queue n q
  let a := (d.tree k).allocs.get {} p.aid.toNat
  let t : Take := { queue := q, desc := x, blocks := parcelBlocks x.length, pos := Q.readPos, gen := Q.gen, deficit := deficit,
                    turn := turn, placed := Q.placed, ptr := ptr, seq := a.takeSeq }
  let d := d.setQueue n q { Q.advance with placed := Q.placed + (if Q.cfg.cls = 0 then 0 else x.length) }
  let d := d.modTree k fun y => y.modAlloc p.aid.toNat fun a => { a with takeSeq := a.takeSeq + 1 }
  let d := d.modPitch k p.frame p.pid fun p => { p with takes := placeTake t p.takes }
  (d.mothStage n (d.buffer n x.pool x.index).frame.moth 6).perf n 6 1 0 1

/-- Normal service of one class: the queue by R268 or R269, its integrity check, the take. -/
def Dev.takeClass (k c : Nat) (p : Pitch) (qs : List Nat) (qf : QFault) (d : Dev) : Dev :=
  let n := sliceOfTree k
  let key := ptrKey (d.pairKey k) p.aid c
  let ptr0 := (d.slice n).sched.ptrUp.get 0 key
  let setPtr := fun (v : Nat) (d : Dev) => d.modSched n fun s => { s with ptrUp := s.ptrUp.set 0 key v }
  if c = 0 then
    let (pick, ptr, d) := drrPick n qs ptr0 d
    let d := setPtr ptr d
    match pick with
    | none => d
    | some (q, def0, before) =>
      let d := d.checkQueue n q qf
      let Q := d.queue n q
      match Q.head with
      | none => d
      | some x =>
        let d := d.logTake k p q (poisonDesc Q.cfg Q.fault x) def0 true before
        let (ptr, d) := drrTaken n q x.length ptr d
        setPtr ptr d
  else
    match atOrAfter ptr0 qs with
    | none => d
    | some q =>
      let d := d.checkQueue n q qf
      let Q := d.queue n q
      match Q.head with
      | none => d
      | some x => setPtr ((q + 1) % 16384) (d.logTake k p q (poisonDesc Q.cfg Q.fault x) Q.deficit Q.turn ptr0)

/-- One step of normal service in Pitch p: queues are passed over, then the lowest class with an eligible queue gives a parcel;
false when none does (R267). -/
def Dev.serve (k : Nat) (p : Pitch) (qf : QFault) (d : Dev) : Bool × Dev :=
  let n := sliceOfTree k
  let free := (d.tree k).region p - p.placed
  let over_ := (d.aidQueues k p.aid).filter fun q => !p.passed.contains q && d.passesOver n q free p
  let p := { p with passed := p.passed ++ over_ }
  let d := d.modPitch k p.frame p.pid fun _ => p
  match (List.range 8).find? fun c => !(d.eligible k c p).isEmpty with
  | none => (false, d)
  | some c => (true, d.takeClass k c p (d.eligible k c p) qf)

/-- The first assembly in order of start that takes a parcel. -/
def Dev.serveFirst (k : Nat) (qf : QFault) : List Pitch → Dev → Dev
  | [], d => d
  | p :: ps, d =>
    match d.serve k p qf with
    | (true, d) => d
    | (false, d) => d.serveFirst k qf ps

/-- Normal assembly of an AID takes its next parcel (R131, R267); with a record of its take log uncorrectable, its assemblies are undone
first, to be rebuilt (R325, R334). -/
def Dev.assemble (k : Nat) (aid : Word) (qf : QFault) (d : Dev) : Dev :=
  let n := sliceOfTree k
  if d.noRank n || d.dtApplies k || !d.txKeyed k aid.toNat || d.barrowFull n then d
  else if qf = .takeLog then (d.sramBad n 18 aid.toNat).undoAid k aid
  else (d.wake (pdBarrow n) causePitch).serveFirst k qf ((d.assemblies k aid).filter fun p => !p.answering)

/-- The class-0 parcel at the head of queue q is placed, if a Pitch qualifies (R134). -/
def Dev.placeC0 (k q : Nat) (aid : Word) (x : Desc) (d : Dev) : Option Dev :=
  let n := sliceOfTree k
  let ps := (d.assemblies k aid).filter fun p => !p.answering && d.lastIn k q p
  let need := parcelBlocks x.length
  match ps.find? fun p => decide (p.c0Blocks + need ≤ (d.tree k).region p) with
  | none => none
  | some p =>
    let d := d.undoLater k p
    let full := fun (p : Pitch) => decide ((d.tree k).region p < p.placed + need)
    let d := d.undoWhile k p.frame p.pid true (fun t => !t.isC0) full p.takes.length
    if d.barrowFull n then none
    else
      let Q := d.queue n q
      let ptr := (d.slice n).sched.ptrUp.get 0 (ptrKey (d.pairKey k) aid 0)
      let d := d.logTake k p q x Q.deficit Q.turn ptr
      some (d.modQueue n q fun y => { y with deficit := y.deficit - x.length })

def Dev.placeAllC0 (k q : Nat) (aid : Word) : Nat → Dev → Dev
  | 0, d => d
  | i + 1, d =>
    let d := d.checkQueue (sliceOfTree k) q .ok
    let Q := d.queue (sliceOfTree k) q
    match Q.head with
    | none => d
    | some x =>
      match d.placeC0 k q aid (poisonDesc Q.cfg Q.fault x) with
      | none => d
      | some d => d.placeAllC0 k q aid i

/-- A class-0 parcel has reached the Barrow (R134); a slice without a rank in service carries none (R333). -/
def Dev.class0Arrival (n q : Nat) (d : Dev) : Dev :=
  let Q := d.queue n q
  let k := d.carrier Q.cfg.target
  if !Q.cfg.valid || Q.cfg.kind != 0 || Q.cfg.cls != 0 || sliceOfTree Q.cfg.target != n || d.noRank n || d.dtApplies k || !d.txKeyed k Q.cfg.aid.toNat ||
      (d.tree k).removing Q.cfg.aid then d
  else (d.wake (pdBarrow n) causeTraffic).placeAllC0 k q Q.cfg.aid Q.unread.length

/-! ### Entries and revisions (R109, R110, R113, R114, R33) -/

/-- A Pitch from its block (Table 4.2), for a frame. -/
def pitchOf (b : Block) (frame : Nat) : Pitch :=
  { frame := frame, aid := fld 20 108 b, leaf := (fld 10 98 b).toNat, mask := fld 16 82 b, start := (fld 13 69 b).toNat,
    length := (fld 13 56 b).toNat, preamble := (fld 4 52 b).toNat, flags := (fld 5 47 b).toNat, pid := (fld 12 35 b).toNat,
    rev := (fld 4 31 b).toNat }

/-- The block of a Pitch (Table 4.2). -/
def Pitch.block (p : Pitch) : Block :=
  withChk (put 128 108 p.aid ||| put 128 98 (BitVec.ofNat 10 p.leaf) ||| put 128 82 p.mask ||| put 128 69 (BitVec.ofNat 13 p.start) |||
    put 128 56 (BitVec.ofNat 13 p.length) ||| put 128 52 (BitVec.ofNat 4 p.preamble) ||| put 128 47 (BitVec.ofNat 5 p.flags) |||
    put 128 35 (BitVec.ofNat 12 p.pid) ||| put 128 31 (BitVec.ofNat 4 p.rev))

/-- R32 is broken: beyond the frame, or no codeword long. -/
def Pitch.malformed (p : Pitch) : Bool := p.length == 0 || decide (4920 < p.start + p.length)

/-- The AID is an allocation of the tree that holds the upstream direction (R110). -/
def Tree.upAlloc (x : Tree) (aid : Word) : Bool := (x.allocs.get {} aid.toNat).us

/-- Table 5.4 and R155: a reserved AID's Pitch is one the tree uses. -/
def Tree.usesReserved (x : Tree) (aid : Word) : Bool :=
  match x.join.leaf with
  | none => aid == Config.aidAnnounce
  | some _ => aid == Config.aidRanging || aid == Config.aidMgmt

/-- A reduction of R114: within the held window and mask, every other field the same. -/
def Dev.isReduction (d : Dev) (k : Nat) (held new : Pitch) : Bool :=
  new.length == 0 ||
  (decide (d.pitchS k held ≤ d.pitchS k new ∧ d.pitchClose k new ≤ d.pitchClose k held) && decide (new.mask &&& ~~~ held.mask = 0) &&
    new.aid == held.aid && new.preamble == held.preamble && new.flags == held.flags)

/-- The target frame of a revision: among f - 1 to f + 2 the one whose count has these low 2 bits (R113). -/
def revTarget (f low : Nat) : Nat := f - 1 + (low + 4 - (f - 1) % 4) % 4

/-- The committed or past-commit Pitch takes no revision (R33). -/
def Dev.pastCommit (d : Dev) (k : Nat) (p : Pitch) : Bool :=
  (p.phase != 0 && p.phase != 5) || decide (d.commitAt k p ≤ d.now)

def Dev.countLate (k : Nat) (p : Pitch) (d : Dev) : Dev :=
  (d.modTree k fun x => if p.reserved then x else
    x.modAlloc p.aid.toNat fun a => { a with lateRev := satInc 255 a.lateRev }).bump .revLate k 0

/-- A revision applies (R113, R114, Table 4.10): cancelled, not used any more, trimmed, or assembled anew. -/
def Dev.applyRev (k : Nat) (held new : Pitch) (reduction : Bool) (d : Dev) : Dev :=
  let n := sliceOfTree k
  let okAid := if new.reserved then (d.tree k).usesReserved new.aid else (d.tree k).upAlloc new.aid
  if new.length = 0 then (d.setAside k held).modPitch k held.frame held.pid fun _ => { new with phase := 5 }
  else if !okAid then
    let d := if new.reserved then d else d.bump .entryUnknown k 0
    (d.setAside k held).modPitch k held.frame held.pid fun _ => { new with phase := 5 }
  else
    let (ok, d) := d.usable k new
    if !ok then (d.setAside k held).modPitch k held.frame held.pid fun _ => { new with phase := 5 }
    else
      let (ok, d) := d.resolve k new
      if !ok then (d.setAside k held).modPitch k held.frame held.pid fun _ => { new with phase := 5 }
      else
      let new := new.counted (d.tree k)
      let put_ := fun (d : Dev) => d.modPitch k held.frame held.pid fun p =>
        { new with opened := p.opened, takes := p.takes, passed := p.passed, awnOld := p.awnOld, answers := p.answers }
      let d := d.ilSet k held.frame held.pid (some new)
      if reduction && held.phase == 0 then ((put_ (d.undoLater k held)).trim k held.frame held.pid).openAll n
      else
        let d := if held.phase = 0 then d.undoFrom k held.aid [held, new] else d
        let d := if held.phase = 0 && new.aid != held.aid then d.undoFrom k new.aid [new] else d
        (d.modPitch k held.frame held.pid fun _ => new).openAll n

/-- N.PITCH_REV (R113, R114, R33): f is the extended count of the frame that holds its trailer. -/
def Dev.revise (k f low : Nat) (b : Block) (d : Dev) : Dev :=
  let target := revTarget f low
  let new0 := pitchOf b target
  match (d.tree k).pitches.find? fun p => p.is target new0.pid && p.leaf == new0.leaf with
  | none => d.bump .revUnknown k 0
  | some held =>
    let later := (new0.rev + 16 - held.rev) % 16
    if !(decide (1 ≤ later ∧ later ≤ 7)) then d.bump .revStale k 0
    else if new0.length != 0 && new0.malformed then d.bump .pitchMalformed k 0
    else
      let new := { d.withPort k new0 with ignored := held.ignored }
      let red := d.isReduction k held new
      let edge := min (d.pitchS k held) (d.pitchS k new)
      if d.pastCommit k held || (!red && decide (edge < d.now + 10 * Config.us)) then d.countLate k held
      else (d.wake (pdBarrow (sliceOfTree k)) causePitch).applyRev k held new red

/-! ### Commands of assembly (Table 4.14) -/

def cmdLinePortBurstSet : Cmd := fun rq d =>
  withChecks [chkLen rq 3, chkReady d [[if rq.prm 0 < 16 then fnPort (rq.prm 0) else 99]],
      chkRange rq [(0, 0, 15), (1, 0, 1000), (2, 0, 1000)]] d <|
    okDone (d.modPort (rq.prm 0) fun p => { p with ton := rq.prm 1, toff := rq.prm 2 })

/-- `barrow_awning_set`: the queue number counts the queues of all slices, slice * 16,384 + queue. Open assemblies keep the length
they were opened with (R130, R144). -/
def cmdBarrowAwningSet : Cmd := fun rq d =>
  let n := rq.prm 0 / 16384
  let q := rq.prm 0 % 16384
  withChecks [chkLen rq 2, chkReady d [[if n < 8 then fnUs n else 99]], chkRange rq [(0, 0, 131071), (1, 64, 10240)]] d <|
    let old := (d.queue n q).awning + 1
    let d := d.forEach (treesOf n) fun k d => d.modTree k fun x =>
      { x with pitches := x.pitches.map fun p =>
          if p.phase == 0 && p.opened && p.awnOld.get 0 q == 0 then { p with awnOld := p.awnOld.set 0 q old } else p }
    okDone (d.modQueue n q fun x => { x with awning := rq.prm 1 })

def cmdBarrowStatus : Cmd := fun rq d =>
  let n := rq.prm 0
  withChecks [chkLen rq 1, chkReady d [[if n < 8 then fnUs n else 99]], chkRange rq [(0, 0, 7)]] d <|
    let full := (treesOf n).foldl (fun a k => a + (d.count .barFull k 0).val.toNat) 0
    okWith d (resWide 20 (d.openCount n) ++ resWide 21 (d.placedCount n) ++ resWide 48 (full % 2 ^ 48))

/-- `pitch_read`: the held Pitches of the next two frames, each as its block of Table 4.2 and its commit state. -/
def cmdPitchRead : Cmd := fun rq d =>
  let k := rq.prm 0
  withChecks [chkLen rq 3, chkDma rq d, chkReady d [needPortOf k, [if k < 64 then fnUs (k / 8) else 99]], chkRange rq [(0, 0, 63)],
      failIf (!(d.tree k).cfg.configured) .unconfigured 0, failIf (rq.raw 1 % 4 != 0) .range 1] d <|
    let f := (d.tree k).fr.fc
    let ps := d.inOrder k ((d.tree k).pitches.filter fun p => p.frame == f + 1 || p.frame == f + 2)
    okDone (d.hostWrite rq.mb.val (rq.addr 1) (ps.flatMap fun p => resWide 128 p.block.toNat ++ [BitVec.ofNat 32 p.phase]))

/-- `IL_STATUS` (Table 4.12). -/
def Dev.ilStatus (d : Dev) (p : Nat) : Nat :=
  let bits := fun (f : Tree → Bool) => (List.range 4).foldl (fun a i => a + (f (d.tree (4 * p + i))).toNat * 2 ^ i) 0
  bits (fun x => x.dt.held) * 2 ^ 16 + bits (fun x => x.fr.loss) * 2 ^ 12 + d.pwr.trip.toNat * 2 ^ 11 +
    (d.port p).tripSeen.toNat * 2 ^ 10 + (d.port p).trips

def cmdIlStatus : Cmd := fun rq d =>
  let p := rq.prm 0
  withChecks [chkLen rq 1, chkReady d [[if p < 16 then fnPort p else 99]], chkRange rq [(0, 0, 15)]] d <|
    let ts := (d.port p).lastTrips
    okWith d (resWide 20 (d.ilStatus p) ++ resWide 20 ts.length ++ ts.flatMap fun t => resWide 64 t.time ++ resWide 20 t.cause)

end Sys2Proof
end

