-- ==== Sys2Proof/Machine/Burst.lean ====
section
/-! DEFINITION. Commit, the burst and the transmit interlock (R115 to R128, R136 to R144, R151, R152, R162). -/

namespace Sys2Proof

/-! ### The blocks of a burst (R122 to R126) -/

def idleBlock : Block := put 128 120 (0x1E : BitVec 8)

/-- The burst header of one lane (Table 4.6). -/
def burstHeader (leaf fc cw m lane : Nat) (p : Pitch) : Block :=
  withChk (put 128 120 (0x81 : BitVec 8) ||| put 128 110 (BitVec.ofNat 10 leaf) ||| put 128 90 p.aid ||| put 128 58 (BitVec.ofNat 32 fc) |||
    put 128 46 (BitVec.ofNat 12 p.pid) ||| put 128 42 (BitVec.ofNat 4 p.rev) ||| put 128 38 (BitVec.ofNat 4 lane) |||
    put 128 25 (BitVec.ofNat 13 cw) ||| put 128 21 (BitVec.ofNat 4 (m - 1)) ||| put 128 20 (b1 p.rng))

/-- A lane identifier (Table 3.4). -/
def laneIdBlock (treeId lane count serial : Nat) : Block :=
  put 128 120 (0x2D : BitVec 8) ||| put 128 88 (BitVec.ofNat 32 treeId) ||| put 128 84 (BitVec.ofNat 4 lane) |||
    put 128 79 (BitVec.ofNat 5 count) ||| put 128 0 (BitVec.ofNat 64 serial)

/-- Reports A and B with RCHK (Table 4.7). -/
def reportBlocks (q : Nat → Nat) (headroom displaced rewound late : Nat) : List Block :=
  let w := fun v => BitVec.ofNat 20 (min v 0xFFFFF)
  let a : Block := put 128 120 (0x83 : BitVec 8) ||| put 128 100 (w (q 0)) ||| put 128 80 (w (q 1)) ||| put 128 60 (w (q 2)) |||
    put 128 40 (w (q 3)) ||| put 128 20 (w (q 4)) ||| put 128 0 (w (q 5))
  let b : Block := put 128 120 (0x84 : BitVec 8) ||| put 128 100 (w (q 6)) ||| put 128 80 (w (q 7)) |||
    put 128 76 (BitVec.ofNat 4 headroom) ||| put 128 56 (w displaced) ||| put 128 36 (w rewound) ||| put 128 28 (BitVec.ofNat 8 late)
  [a, b ||| (crc16 (bitsMsb a ++ bitsMsb (fld 112 16 b))).setWidth 128]

/-- The end-of-burst block (R125). -/
def endBlock (parcels : Nat) : Block := withChk (put 128 120 (0x8F : BitVec 8) ||| put 128 100 (BitVec.ofNat 20 parcels))

/-! ### Answers as blocks (R151, R181, Tables 5.1, 5.2) -/

/-- The header block of an answer. -/
def Answer.header (a : Answer) (leaf : Nat) : Block :=
  withChk (put 128 120 (BitVec.ofNat 8 a.atype) ||| put 128 108 (BitVec.ofNat 10 (if a.atype = 0x41 then 0 else leaf)) |||
    put 128 98 (BitVec.ofNat 10 a.body.length) ||| put 128 97 (b1 a.tagged) ||| put 128 64 (BitVec.ofNat 32 a.param) |||
    put 128 32 (BitVec.ofNat 32 a.aseq))

/-- The blocks of an answer: header, body and its tag or check (R151, R305). -/
def Dev.answerWords (d : Dev) (k frame : Nat) (a : Answer) : List Block :=
  let x := d.tree k
  let hb := a.header (x.join.leaf.getD 0) :: a.body
  let up := ((d.vault.noticeKeys.get none k).map (·.2)).getD {}
  hb ++ [if a.tagged then noticeTag up (frame / 2 ^ 32) a.aseq (a.header (x.join.leaf.getD 0)) a.body x.cfg.lockedId
         else (crc32Blocks hb).setWidth 128]

/-- The body of A.RANGE (Table 5.16). -/
def Dev.rangeBody (d : Dev) (k : Nat) (p : Pitch) : Block :=
  let x := d.tree k
  put 128 124 (BitVec.ofNat 4 (x.roundFor p.frame)) ||| put 128 97 (BitVec.ofNat 27 (x.eqdFor p.frame true)) |||
    put 128 80 (BitVec.ofNat 17 p.tonUi) ||| put 128 63 (BitVec.ofNat 17 p.toffUi) ||| put 128 43 (BitVec.ofNat 20 (d.maxSkew k))

/-- The body of A.SERIAL (Table 5.16). -/
def Dev.serialBody (d : Dev) : Block :=
  put 128 64 (BitVec.ofNat 64 d.vault.fuses.serial) ||| put 128 48 (0x5120 : BitVec 16) ||| put 128 40 (0xB1 : BitVec 8) |||
    put 128 27 (4096 : BitVec 13)

/-- A line of the join log (R184). -/
def Dev.joinLog (k typ nseq result : Nat) (d : Dev) : Dev :=
  d.modTree k fun x => { x with ex := { x.ex with log := lastN 256 (x.ex.log ++ [{ typ := typ, nseq := nseq, result := result, time := d.devNs }]) } }

/-- The result of an answer, as the join log shows it: of an A.ACK its result code, of answers with a result per slot the first that is not
0, else 0 (R184; log entry 63). -/
def Answer.result (a : Answer) : Nat :=
  let b := a.body.getD 0 0
  if a.atype = 0x43 then (fld 8 80 b).toNat
  else if a.atype = 0x46 ∨ (a.atype = 0x47 ∧ a.param = 0) then
    (([80, 72, 64, 56].map fun i => (fld 8 i b).toNat).find? (· != 0)).getD 0
  else 0

/-- What the commit of an answer starts: T_ASSIGN from the Pitch's close, T_KEX from the commit instant, and the end of a response (R157,
R165, R166). -/
def Dev.answerCommitted (k : Nat) (at_ close : Ticks) (a : Answer) (d : Dev) : Dev :=
  let d := d.joinLog k a.atype a.aseq a.result
  d.modTree k fun x =>
    if a.atype = 0x41 then { x with join := { x.join with tAssign := some (close + 2 * Config.ms) } }
    else if a.atype = 0x44 ∧ a.body.length = 14 then { x with join := { x.join with tKex := some (at_ + 2 * Config.sec) } }
    else if a.atype = 0x45 then
      let last := x.ex.respLeft == 1
      { x with ex := { x.ex with respLeft := x.ex.respLeft - 1, challenged := x.ex.challenged || (last && x.ex.respKind == 1),
                                 measured := x.ex.measured || (last && x.ex.respKind == 2),
                                 respKind := if last then 0 else x.ex.respKind } }
    else x

/-! ### Placing answers (R152, R158, R162) -/

/-- The announcement windows held, not yet committed, in order of start. -/
def Dev.windows (d : Dev) (k : Nat) : List Pitch :=
  d.inOrder k ((d.tree k).pitches.filter fun p => d.beforeCommit k p && p.aid == Config.aidAnnounce)

/-- The window that the draw names: the next one for an A.SERIAL that passes on, else the r-th counted from the draw (R152, R158). -/
def Dev.drawnWindow (d : Dev) (k : Nat) : Option Pitch :=
  let j := (d.tree k).join
  if j.pass.isSome then (d.windows k).head?
  else match j.draw with
  | none => none
  | some r => (d.windows k)[r - j.count - 1]?

/-- A.SERIAL is placed in the drawn window; one that was undone goes as it was (R152, R158). A window of the ranging form takes
none (R154). -/
def Dev.placeSerial (k : Nat) (d : Dev) : Dev :=
  let x := d.tree k
  match d.drawnWindow k with
  | none => d
  | some p =>
    if !p.opened || p.rng || x.join.st != 0 || !x.fr.tfl || x.fr.dup || decide (x.region p < 3) || d.barrowFull (sliceOfTree k) ||
        (d.windows k).any (fun q => !q.answers.isEmpty) then d
    else
      let n := if x.join.pass.isSome then x.join.attempts else x.join.attempts + 1
      let a := x.join.pass.getD { atype := 0x41, body := [d.serialBody], ready := d.now, aseq := n % 2 ^ 32 }
      (d.modPitch k p.frame p.pid fun p => { p with answers := [a] }).modTree k fun x =>
        { x with join := { x.join with attempts := n, pass := none, draw := none } }

/-- A Pitch of the ranging form takes its A.RANGE and no other answer: one that was undone, else a new one (R152, R162). -/
def Dev.placeRange (k : Nat) (p : Pitch) (d : Dev) : Dev :=
  let x := d.tree k
  if p.answers.isEmpty && decide (3 ≤ x.region p) && x.join.leaf.isSome && !d.barrowFull (sliceOfTree k) then
    match x.ex.ranges with
    | a :: rest =>
      (d.modPitch k p.frame p.pid fun p => { p with answers := [a] }).modTree k fun x => { x with ex := { x.ex with ranges := rest } }
    | [] =>
      let a : Answer := { atype := 0x42, body := [d.rangeBody k p], ready := d.now, aseq := x.join.aseq }
      (d.modPitch k p.frame p.pid fun p => { p with answers := [a] }).modTree k fun x =>
        { x with join := { x.join with aseq := (x.join.aseq + 1) % 2 ^ 32 } }
  else d

/-- The answer at the head of the queue goes into the earliest management Pitch that has room and lies at or after the last one
that holds an answer (R152). -/
def Dev.placeAnswer (k : Nat) (d : Dev) : Dev :=
  let x := d.tree k
  match x.ex.answers with
  | [] => d
  | a :: rest =>
    let ps := if d.barrowFull (sliceOfTree k) then [] else (d.assemblies k Config.aidMgmt).filter fun p => !p.rng
    let ok := fun (p : Pitch) => !(ps.any fun q => d.pitchBefore k p q && !q.answers.isEmpty) && decide (p.placed + a.blocks ≤ x.region p)
    match ps.find? ok with
    | none => d
    | some p => (d.modPitch k p.frame p.pid fun p => { p with answers := p.answers ++ [a] }).modTree k fun x =>
        { x with ex := { x.ex with answers := rest } }

/-- The Barrow's next step of normal assembly for an AID of tree k (R131, R152, R267): it acts in its cycle after the arrivals (R135). -/
def Dev.barrowStep (k : Nat) (aid : Word) (qf : QFault) (d : Dev) : Dev :=
  if d.dtApplies k then d
  else
    let d := d.forEach ((d.assemblies k aid).filter Pitch.ranging) fun p d => d.placeRange k p
    if aid = Config.aidAnnounce then d.placeSerial k
    else if aid = Config.aidMgmt then d.placeAnswer k
    else if Config.aidReserved aid then d
    else if (d.tree k).removing aid then d
    else d.assemble k aid qf

/-! ### Commit (R127, R136, Table 4.11) -/

/-- UI from S to the first bit of block j of the parcel region on its lane (Tables 4.4 and 4.9). -/
def Pitch.blockUi (p : Pitch) (m j : Nat) : Nat :=
  let pos := 40 + j / max 1 m
  p.lead + pos / 40 * 2700 + pos % 40 * 65

/-- A committed parcel that is not sent: idle blocks in its positions, its buffer freed, or left to the sweep when its handle is not
trusted (R256, R294). -/
def Dev.sendIdle (n : Nat) (x : Desc) (d : Dev) : Dev :=
  if x.badHandle then d.triggerSweep n else d.dropBuffer n 10 x.pool x.index 4 none

/-- One parcel commits: queue space is released, the statistics and the second meter reading count it, it takes its number and is
fixed in the burst (R136, R138, R143, R265, R294, R355, R452). From here the take's pos is its place in the parcel region. -/
def Dev.commitTake (k : Nat) (p : Pitch) (s : Ticks) (m : Nat) (t : Take) (acc : List BurstItem × Nat × List Take) (d : Dev) :
    (List BurstItem × Nat × List Take) × Dev :=
  let n := sliceOfTree k
  let aid := p.aid.toNat
  let (items, pos, keep) := acc
  let f := (d.buffer n t.desc.pool t.desc.index).frame
  let len := t.desc.length
  let d := d.release n t.queue t.gen (t.pos + 1)
  let d := if t.isC0 then d else d.modQueue n t.queue fun q => { q with placed := q.placed - len, spent := q.spent + len }
  let d := (d.bump .parcelsCommitted k aid).bumpN .bytesCommitted k aid len
  let d := (d.macOk .treeTx k ((d.slice n).tab.tags f.bytes).tagged f.bytes).bwAdd n (64 + 2 * (k % 8) + 1) len
  let d := d.meterSent n t.desc
  let next := pos + t.blocks
  let idle := (items ++ [BurstItem.idle t.blocks], next, keep)
  if t.desc.poison || f.poison then (idle, (d.bump .poisonDrop n t.queue).sendIdle n t.desc)
  else
    match d.ctxOf n k aid with
    | none => (idle, (d.bump .keyMissTx k aid).sendIdle n t.desc)
    | some c =>
      let (num, d) := d.takeNumber k n c
      if num.key.isNone then (idle, (d.bump .keyMissTx k aid).sendIdle n t.desc)
      else
        let at_ := d.devAt (s + p.blockUi m (pos + 1) * Config.ui)
        let (bytes, d) := d.ptpLeaving n .up f at_
        let d := d.modFrame n t.desc.pool t.desc.index fun f => { f with bytes := bytes, stamp := at_ }
        let d := (d.mothStage n f.moth 7).mothStageAt n f.moth 8 (d.time.frcNs + (s + p.blockUi m pos * Config.ui - d.now) / Config.ns)
        let item := BurstItem.parcel p.aid t.desc.cls num.epoch num.eps num.pn pos t.blocks { bytes := bytes }
        ((items ++ [item], next, keep ++ [{ t with pos := pos }]), d)

def Dev.commitTakes (k : Nat) (p : Pitch) (s : Ticks) (m : Nat) :
    List Take → List BurstItem × Nat × List Take → Dev → (List BurstItem × Nat × List Take) × Dev
  | [], acc, d => (acc, d)
  | t :: ts, acc, d =>
    let (acc, d) := d.commitTake k p s m t acc
    d.commitTakes k p s m ts acc

/-- Q of R123 for class c over some queues: bytes not yet released, in units of 640. -/
def Dev.reportQ (d : Dev) (n : Nat) (qs : List Nat) (c : Nat) : Nat :=
  cdiv (qs.foldl (fun a q => if (d.queue n q).cfg.cls = c then a + (d.queue n q).qBytes else a) 0) 640

/-- The queues that the reports of Pitch p cover (R123, R152). -/
def Dev.reportQueues (d : Dev) (k : Nat) (p : Pitch) : List Nat :=
  if p.aid = Config.aidMgmt && !p.rng then (d.tree k).allocs.flatMap fun e => d.aidQueues k (BitVec.ofNat 20 e.1)
  else if p.answering then [] else d.aidQueues k p.aid

/-- The header blocks of each lane in ascending order, then the end-of-burst block (R122 to R125). -/
def Dev.burstBlocks (d : Dev) (k : Nat) (p : Pitch) (parcels : Nat) : List Block :=
  let x := d.tree k
  let lanes := x.namedLanes p
  let a := if p.answering then {} else x.allocs.get {} p.aid.toNat
  let reports := reportBlocks (d.reportQ (sliceOfTree k) (d.reportQueues k p)) (d.headroom (sliceOfTree k)) a.displaced a.rewound a.lateRev
  (lanes.flatMap fun i =>
    [burstHeader (x.join.leaf.getD 0) p.frame (if p.answering then 1 else p.codewords) lanes.length i p,
     laneIdBlock x.cfg.lockedId i x.cfg.size d.vault.fuses.serial] ++ reports) ++ [endBlock parcels]

/-- The interlock freezes the window of a Pitch at its commit instant, from its own copy of the schedule (R139). -/
def Dev.ilFreeze (k frame pid : Nat) (d : Dev) : Dev :=
  let x := d.tree k
  let fix := fun (w : IlWindow) =>
    { w with frozen := true, start := d.pitchS k w.entry, close := d.pitchClose k w.entry, lanes := (x.namedLanes w.entry).filterMap x.laneOf }
  d.modTree k fun x => { x with il := x.il.map fun w => if w.is frame pid then fix w else w }

/-- A Pitch with nothing sent in it: it stays held until its close, and its window, which has no burst, allows no lane (R139). No burst is
committed in it, so the counts of R123, which run since the AID's previous committed burst, go on (DESIGN CHOICE, log entry 99). -/
def Dev.skipPitch (k : Nat) (p : Pitch) (s : Ticks) (d : Dev) : Dev :=
  (d.ilSet k p.frame p.pid none).modPitch k p.frame p.pid fun p => { p with phase := 2, fixedS := some s }

/-- An announcement window that the draw did not name is counted as it is reached (R158). -/
def Dev.countWindow (k : Nat) (p : Pitch) (d : Dev) : Dev :=
  if p.aid == Config.aidAnnounce && p.answers.isEmpty then
    d.modTree k fun x => if x.join.draw.isSome then { x with join := { x.join with count := x.join.count + 1 } } else x
  else d

/-- R127: nothing is sent. -/
def Pitch.skips (p : Pitch) : Bool :=
  let empty := p.takes.isEmpty && p.answers.isEmpty
  (p.aid == Config.aidAnnounce && empty) || (empty && p.esa && !p.rpt && !p.rng)

/-- The burst is fixed (R136). keyBad: the cache entry of the current upstream key is found uncorrectable (R294). -/
def Dev.commitBurst (k : Nat) (p : Pitch) (s : Ticks) (keyBad : Bool) (d : Dev) : Dev :=
  let n := sliceOfTree k
  let d := d.wake (pdBarrow n) causePitch
  let d := if p.takes.isEmpty then d else d.wake (pdCipher n .up) causePitch
  let d := match (if keyBad then d.ctxOf n k p.aid.toNat else none) with
    | some c => d.cacheEntryBad n c .up 1
    | none => d
  let m := ((d.tree k).namedLanes p).length
  let ((items, _, keep), d) := d.commitTakes k p s m p.takes ([], 0, [])
  let answers := p.answers.map fun a => if a.atype = 0x42 then { a with body := [d.rangeBody k p] } else a
  let hdr := d.burstBlocks k p (if p.answering then answers.length else p.takes.length)
  let sent := items ++ answers.map fun a => BurstItem.answer (d.answerWords k p.frame a)
  let close := s + p.length * Config.cwt
  let d := d.forEach answers fun a d => d.answerCommitted k (d.commitAt k p) close a
  let d := if p.answering then d else d.modTree k fun x =>
    x.modAlloc p.aid.toNat fun a => { a with displaced := 0, rewound := 0, lateRev := 0 }
  let names := (d.tree k).namedLanes p
  let ls := names.filterMap (d.tree k).laneOf
  (d.modPitch k p.frame p.pid fun p =>
    { p with phase := 1, fixedS := some s, sent := sent, hdr := hdr, takes := keep, names := some names, lanes := ls }).perf n 8 1 0 1

/-- The commit instant of one Pitch (R136); an empty one that is skipped switches its key all the same (R302). -/
def Dev.commitOne (k frame pid : Nat) (keyBad : Bool) (d : Dev) : Dev :=
  match d.pitch k frame pid with
  | none => d
  | some p =>
    if p.phase != 0 || !d.pastCommit k p then d
    else
      let s := d.pitchS k p
      let n := sliceOfTree k
      let d := d.ilFreeze k frame pid
      let d := if d.dtApplies k then ((d.noteStd k p).bump .pitchWithheld k 0).skipPitch k p s
        else if (!p.reserved && !d.selected k) || (d.tree k).fr.dup then d.skipPitch k p s
        else
          let d := (d.noteStd k p).countWindow k p
          let d := d.bumpN .pitchMaskIgnored k 0 ((d.tree k).newIgnored p)
          if ((d.tree k).namedLanes p).isEmpty then (d.bump .pitchEmpty k 0).skipPitch k p s
          else
            let d := if p.opened then d else d.bump .barFull k 0
            let d := if p.ksw && !p.answering then d.kswCommit k p.aid.toNat else d
            if p.skips then (d.bump .pitchSkipped k 0).skipPitch k p s
            else d.commitBurst k p s keyBad
      d.openAll n

/-- Every Pitch of the tree whose commit instant has come is committed, in order, before what happens after it (R135, R136). -/
def Dev.commitDue (k : Nat) (d : Dev) : Dev :=
  d.forEach (d.inOrder k ((d.tree k).pitches.filter fun p => p.phase == 0 && d.pastCommit k p)) fun p d => d.commitOne k p.frame p.pid false

/-- The commit instant of a Pitch: those of the tree that come before it, at the same edge or an earlier one, are committed first, so that
packet numbers follow the order of start, then of PITCH_ID (R295). -/
def Dev.commit (k frame pid : Nat) (keyBad : Bool) (d : Dev) : Dev :=
  match d.pitch k frame pid with
  | none => d
  | some p =>
    let first := (d.tree k).pitches.filter fun q => q.phase == 0 && d.pastCommit k q && d.pitchBefore k q p
    (d.forEach (d.inOrder k first) fun q d => d.commitOne k q.frame q.pid false).commitOne k frame pid keyBad

/-! ### The burst and the interlock (R24, R51, R115, R128, R138 to R144) -/

/-- Lanes begin or end driving; the outputs of their blocks follow. Under EXTEST the balls stay deasserted (R436). -/
def Dev.setDrive (ls : List Nat) (on : Bool) (d : Dev) : Dev :=
  let on := on && d.tapNow != .extest
  (d.forEach ls fun l d => d.modTx l fun x => { x with drives := on }).showOutputs (ls.map (· / 4)).eraseDups d

/-- A burst leaves its lanes; those that nothing needs any more go to power-down (R373, R411). -/
def Dev.laneEnd (ls : List Nat) (d : Dev) : Dev := (d.setDrive ls false).forEach ls Dev.laneDown

/-- Causes in the record of a trip (R144); the numbers are the model's. -/
def tripWindow : Nat := 1
def tripLost : Nat := 2
def tripDisable : Nat := 3
def tripThermal : Nat := 4
def tripBall : Nat := 5

/-- A trip of the interlock of line port p (R139, R142, R144). -/
def Dev.trip (p cause : Nat) (d : Dev) : Dev :=
  (d.modPort p fun x => { x with trips := satInc 1023 x.trips, tripSeen := true,
                                 lastTrips := lastN 16 (x.lastTrips ++ [{ time := d.devNs, cause := cause }]) }).raise (qPort p) 0x04 1 p [cause]

/-- Why the interlock does not allow tree k to transmit; none when it does (R139). -/
def Dev.heldOff (d : Dev) (k : Nat) : Option Nat :=
  if d.pwr.trip then some tripThermal
  else if (d.tree k).fr.loss then some tripLost
  else if d.dtApplies k then some tripDisable
  else none

/-- R139 for one lane of tree k: the time lies in a committed Pitch's window whose burst includes the lane, and nothing holds the tree
off. -/
def Dev.laneAllowed (d : Dev) (k l : Nat) : Bool :=
  (d.heldOff k).isNone && (d.tree k).il.any fun w => w.frozen && w.lanes.contains l && decide (w.start ≤ d.now ∧ d.now < w.close)

/-- R139 for burst-enable output b: it may be asserted while a lane of its block may transmit. -/
def Dev.outputAllowed (d : Dev) (b : Nat) : Bool :=
  (treesOfPort (b / 4)).any fun k => (List.range 4).any fun i => d.laneAllowed k (4 * b + i)

/-- The instant at which item blocks [pos, pos + blocks) have been sent. -/
def Pitch.itemEnd (p : Pitch) (m pos blocks : Nat) : Ticks := p.fixedS.getD 0 + (p.blockUi m (pos + blocks - 1) + 65) * Config.ui

/-- A burst's symbols, those since the rate was set in it, count towards the programmed rate (R61). -/
def LaneTx.countSymbols (x : LaneTx) (symbols : Nat) : LaneTx :=
  if x.inject = 3 then { x with injCount := (x.injCount + (symbols - x.injFrom)) % (x.injN * 2 ^ x.injE), injFrom := 0 }
  else { x with injFrom := 0 }

/-- The symbols of a burst on one lane: after T_on, preamble, delimiter and codewords (Table 4.4); of one that has started, those sent by an
instant. -/
def Pitch.symbols (p : Pitch) : Nat := p.lead - p.tonUi + 2700 * (if p.answering then 1 else p.codewords)
def Pitch.symbolsBy (p : Pitch) (now : Ticks) : Nat := min p.symbols ((now - p.fixedS.getD 0) / Config.ui - p.tonUi)

/-- The stamps of the parcels of a burst that a cut leaves unsent are entries of frames that were never sent (R357). -/
def Dev.stampsCut (k frame pid : Nat) (d : Dev) : Dev :=
  let lost := d.ao.tsWait.filter fun x => x.tree == k && x.frame == frame && x.pid == pid && decide (d.now < x.done)
  (d.modAo fun a => { a with tsWait := a.tsWait.filter fun x => !lost.contains x }).forEach lost fun x d => d.tsRing x.ring x.id false 0

/-- A committed burst is cut or not sent: the parcels not yet sent count in TX_CUT, the buffers not yet read are freed (R138, R177). -/
def Dev.cutPitch (k : Nat) (p : Pitch) (d : Dev) : Dev :=
  let n := sliceOfTree k
  let m := ((d.tree k).namedLanes p).length
  let lost := p.sent.filter fun i => match i with
    | .parcel _ _ _ _ _ pos blocks _ => p.phase == 1 || decide (d.now < p.itemEnd m pos blocks)
    | _ => false
  let d := d.bumpN .txCut k p.aid.toNat lost.length
  let d := d.forEach p.takes fun t d => d.dropBuffer n 10 t.desc.pool t.desc.index 5 none
  let d := d.stampsCut k p.frame p.pid
  let d := if p.phase = 3 then
      ((d.forEach p.lanes fun l d => d.modTx l fun x => x.countSymbols (p.symbolsBy d.now)).laneEnd p.lanes).out (.burstCut k)
    else d
  d.modPitch k p.frame p.pid fun p => { p with phase := 4, takes := [] }

/-- Bursts that have started are cut (R139); those committed and not started are not sent (R177). -/
def Dev.cutStarted (k : Nat) (d : Dev) : Dev :=
  d.forEach ((d.tree k).pitches.filter fun p => p.phase == 3) fun p d => d.cutPitch k p
def Dev.dropCommitted (k : Nat) (d : Dev) : Dev :=
  d.forEach ((d.tree k).pitches.filter fun p => p.phase == 1) fun p d => d.cutPitch k p

/-- A lane enters its burst: the waiting taps hold, a driver whose short is over resumes, a waiting injection is made (R51, R61, R68). -/
def LaneTx.intoBurst (x : LaneTx) : LaneTx :=
  { x with eq := x.eqNext.getD x.eq, eqNext := none, shortOver := false, inject := if x.inject = 3 then 3 else 0, injFrom := 0, cut := false }

/-- What a transmitter does to the symbols it is about to send (R60, R71). -/
def LaneTx.error (x : LaneTx) : TxError :=
  { inject := x.inject, len := x.injLen, period := x.injN * 2 ^ x.injE, count := x.injCount, inv := x.inv }

/-- What holds for the i-th symbol: the last change at or before it (R61). -/
def txErrorAt (es : List TxError) (i : Nat) : TxError := ((es.filter fun e => Nat.ble e.start i).getLast?).getD {}

/-- What holds n symbols on. -/
def TxError.after (e : TxError) (n : Nat) : TxError :=
  match e.inject with
  | 1 => if n = 0 then e else { e with inject := 0 }
  | 2 => { e with len := e.len - n }
  | _ => { e with count := e.count + n }

/-- The burst that runs on line lane l: its tree and Pitch. -/
def Dev.runningOn (d : Dev) (l : Nat) : Option (Nat × Pitch) :=
  (treesOfPort (l / 16)).findSome? fun k =>
    ((d.tree k).pitches.find? fun p => p.phase == 3 && p.lanes.contains l).map fun p => (k, p)

/-- The symbol that line lane l sends next in its burst; 0 outside one. -/
def Dev.symbolNow (d : Dev) (l : Nat) : Nat := ((d.runningOn l).map fun e => e.2.symbolsBy d.now).getD 0

/-- What the transmitter of line lane l does changes within the burst that it sends, from the next symbol on (R61). -/
def Dev.changeTx (l : Nat) (f : TxError → TxError) (d : Dev) : Dev :=
  match d.runningOn l with
  | none => d
  | some (k, p) =>
    let at_ := p.symbolsBy d.now
    let lane := (List.range (p.names.getD []).length).filter fun i => ((p.names.getD [])[i]?.bind (d.tree k).laneOf) == some l
    let now := fun (es : List TxError) =>
      let e := txErrorAt es at_
      es ++ [{ f (e.after (at_ - e.start)) with start := at_ }]
    let tx := (p.tx.zip (List.range p.tx.length)).map fun (es, i) => if lane.contains i then now es else es
    d.modPitch k p.frame p.pid fun p => { p with tx := tx }

/-- The blocks of an upstream parcel of tree k (R96, R97, R286): the epoch serial is the one of its two low bits that is the direction's current one
or the one before. -/
def Dev.parcelOut (d : Dev) (k : Nat) (aid : Word) (cls epoch : Nat) (eps : Bool) (pn : Nat) (bytes : List Byte) : List (Bool × Block) :=
  let n := sliceOfTree k
  let c := (d.ctxOf n k aid.toNat).getD 0
  let t := d.txEpoch n c
  let key := if (d.keyCtx n c).txSerial % 4 = epoch then t.key else t.prev
  sealedParcel (key.getD {}) (d.keyCtx n c).saltUs pn (parcelHeader aid bytes.length cls epoch pn eps) (d.tree k).cfg.lockedId bytes

/-- The blocks that an item of a burst puts into its region. -/
def Dev.itemBlocks (d : Dev) (k : Nat) : BurstItem → List (Bool × Block)
  | .parcel aid cls epoch eps pn _ _ f => d.parcelOut k aid cls epoch eps pn f.bytes
  | .answer body => body.map fun b => (false, b)
  | .idle n => List.replicate n (true, idleBlock)

/-- The start of a committed Pitch (R128): the lanes take their waiting taps, drive, and the burst leaves; where the interlock
does not allow it, or the window has passed, it trips (R51, R139). -/
def Dev.burstStart (k frame pid : Nat) (d : Dev) : Dev :=
  match d.pitch k frame pid with
  | none => d
  | some p =>
    let s := p.fixedS.getD 0
    if p.phase != 1 || decide (d.now < s) then d
    else match d.heldOff k with
    | some cause => (d.trip (portOfTree k) cause).cutPitch k p
    | none =>
      if d.pitchClose k p ≤ d.now then (d.trip (portOfTree k) tripWindow).cutPitch k p
      else
        let d := d.wake (pdLtx (portOfTree k)) causePitch
        let tx := (p.names.getD []).map fun i => (((d.tree k).laneOf i).map fun l => [(d.txLane l).error]).getD []
        let d := d.forEach p.lanes fun l d => d.modTx l fun x => { x.intoBurst with driveAt := s + p.tonUi * Config.ui }
        let d := (d.setDrive p.lanes true).out (.burst k s p.hdr (p.sent.flatMap (d.itemBlocks k)))
        (d.bump .burstsSent k 0).modPitch k frame pid fun p => { p with phase := 3, tx := tx }

/-- The last codeword of a burst has been sent, (H + 2,700 C) UI after S (Table 4.9). Lanes of a tree that is no longer configured go to power-down (R411). -/
def Dev.burstEnd (k frame pid : Nat) (d : Dev) : Dev :=
  match d.pitch k frame pid with
  | none => d
  | some p =>
    let last := p.burstUi * Config.ui + p.fixedS.getD 0
    if p.phase != 3 || decide (d.now < last) then d
    else
      let d := d.forEach p.lanes fun l d => d.modTx l fun x => x.countSymbols p.symbols
      (d.laneEnd p.lanes).modPitch k frame pid fun p => { p with phase := 4 }

/-- A Pitch closes: it is held no longer (R113, R128). -/
def Dev.pitchCloses (k frame pid : Nat) (d : Dev) : Dev :=
  match d.pitch k frame pid with
  | none => d
  | some p =>
    if d.now < d.pitchClose k p then d
    else
      let d := if p.phase = 0 then d.undoPitch k p else if p.phase = 3 then d.burstEnd k frame pid else d
      let d := d.modTree k fun x => { x with pitches := x.pitches.filter (fun q => !q.is frame pid), il := x.il.filter fun w => !w.is frame pid }
      d.openAll (sliceOfTree k)

/-- The data of a committed parcel, or of a frame of a system port, has been read: its buffer is freed by its handle (R136, R265). A handle that
names nothing that the party reads is presented for its free all the same, and is decided as R244 says. -/
def Dev.readDone (n party slice pool index : Nat) (stageBad : Bool) (d : Dev) : Dev :=
  if slice = n ∧ party = 11 ∧ (d.slice n).buf.reads.any fun r => r.desc.pool == pool && r.desc.index == index then
    d.egressRead n pool index stageBad
  else if slice = n ∧ party = 10 then
    let hit := (treesOf n).findSome? fun k =>
      ((d.tree k).pitches.find? fun p => p.phase != 0 && p.takes.any fun t => t.desc.pool == pool && t.desc.index == index).map fun p => (k, p)
    match hit with
    | none => d.freeHandle n party slice pool index
    | some (k, p) =>
      let f := (d.buffer n pool index).frame
      let m := ((d.tree k).namedLanes p).length
      let named := fun (t : Take) => t.desc.pool == pool && t.desc.index == index
      let d := match f.ts, p.takes.find? named with
        | some (ring, id), some t =>
          (d.waitStamp { ring := ring, id := id, stamp := f.stamp, at_ := p.fixedS.getD 0 + p.blockUi m (t.pos + 1) * Config.ui,
                         done := p.itemEnd m t.pos t.blocks, tree := k, frame := p.frame, pid := p.pid }).passStamps
        | _, _ => d
      let d := d.modPitch k p.frame p.pid fun p => { p with takes := p.takes.filter fun t => !named t }
      (d.mothClose n f.moth 0 f.bytes.length).freeBuf n 10 pool index
  else d.freeHandle n party slice pool index

/-- The data of item i of a committed burst is uncorrectable: it goes as idle blocks (R138). -/
def Dev.poisonItem (k frame pid i : Nat) (d : Dev) : Dev :=
  match d.pitch k frame pid with
  | none => d
  | some p =>
    match p.sent[i]?, (p.phase == 1 || p.phase == 3) with
    | some (.parcel aid _ _ _ _ pos blocks _), true =>
      let d := d.bump .poisonTx k aid.toNat
      let d := match p.takes.find? fun t => t.pos == pos with
        | none => d
        | some t => (d.dropBuffer (sliceOfTree k) 10 t.desc.pool t.desc.index 4 none).modPitch k frame pid fun p => { p with takes := p.takes.erase t }
      d.modPitch k frame pid fun p => { p with sent := p.sent.set i (.idle blocks) }
    | _, _ => d

/-- R141: output that passes the interlock: a pattern or loopback on a lane of a block with no configured tree lane, its burst-enable
deasserted. -/
def Dev.testPasses (d : Dev) (l : Nat) : Bool :=
  d.patternTest l && !d.outputOn (l / 4) && (List.range 4).all fun i => (d.treeOfLane (l / 4 * 4 + i)).isNone

/-- A lane may transmit: in a window of its tree, or as R141 lets a test pass. -/
def Dev.laneMay (d : Dev) (l : Nat) : Bool :=
  ((d.treeOfLane l).map fun k => d.laneAllowed k l).getD false || d.testPasses l

/-- The interlock of line port p finds swing on the lanes that seen names, or the burst-enable outputs that outs names asserted (by their places
in the port). Where one is not allowed, on a lane of any tree or of none, it trips: the drivers are squelched, a pattern's too until it is set
again, the outputs deasserted, and the bursts that run there are cut (R139, R141). -/
def Dev.interlockTrip (p : Nat) (seen : BitVec 16) (outs : BitVec 4) (d : Dev) : Dev :=
  let ls := (List.range 16).map fun i => 16 * p + i
  let bad := ls.filter fun l => (seen.getLsbD (l % 16) && !d.laneMay l) || (outs.getLsbD (l / 4 % 4) && !d.outputAllowed (l / 4))
  if bad.isEmpty then d
  else
    let d := d.trip p (((bad.filterMap d.treeOfLane).findSome? d.heldOff).getD tripWindow)
    let d := d.forEach (treesOfPort p) fun k d =>
      d.forEach ((d.tree k).pitches.filter fun p => p.phase == 3 && p.lanes.any bad.contains) fun p d => d.cutPitch k p
    (d.setDrive bad false).forEach bad fun l d => d.modTx l fun x => { x with cut := x.pattern != 0 }

/-- A burst-enable ball differs from its driven level for 100 ns: a trip, and the drivers of its block's lanes are squelched while
the mismatch is latched (R494). -/
def Dev.ballMismatch (b : Nat) (d : Dev) : Dev :=
  if d.pwr.balls.get false b then d
  else (d.trip (b / 4) tripBall).modPwr fun w => { w with balls := w.balls.set false b true }

/-- The ball agrees again: the squelch ends (R494). -/
def Dev.ballMatches (b : Nat) (d : Dev) : Dev := d.modPwr fun w => { w with balls := w.balls.set false b false }

/-- The drivers of lane l are on: a line lane's from the end of a burst's laser-on lead, with no trip and no mismatch of its block's ball that
squelches them, or for a test pattern; a system lane's while it is powered. A domain that is not on, a short, or a near-end loopback holds them
off (R24, R58, R68, R115, R140, R366, R494). -/
def Dev.driverOn (d : Dev) (l : Nat) : Bool :=
  let x := d.txLane l
  d.isOn ((laneDoms l).getD 0 0) && !x.short && !x.shortOver && !(d.rxLane l).loopback &&
    (if l < 256 then
      (x.drives && decide (x.driveAt ≤ d.now) && !d.pwr.balls.get false (l / 4) && !d.pwr.trip) || (x.pattern != 0 && !x.cut)
     else x.powered)

end Sys2Proof
end

