-- ==== Sys2Proof/Machine/Cycle.lean ====
section
/-! DEFINITION. The end of a SLICE cycle, where the Barrow's arrivals and assemblies (R135) and the requests, enqueues and frees (R237, R242,
R245) of that cycle are decided, and the beginning and the close of a step. -/

namespace Sys2Proof

/-- Put x among those that came before it, by a key; never before one that it must follow. -/
def insertTurn {α : Type} (key : α → Nat) (follows : α → α → Bool) (x : α) : List α → List α
  | [] => [x]
  | y :: ys => if Nat.blt (key x) (key y) && !((y :: ys).any (follows x)) then x :: y :: ys else y :: insertTurn key follows x ys

/-- A list in the order of a key; of equal keys, and where one must follow another, in the order of arrival. -/
def inTurns {α : Type} (key : α → Nat) (follows : α → α → Bool) (xs : List α) : List α := xs.foldl (fun ys x => insertTurn key follows x ys) []

/-- The place of a party in the order of R242: the pipeline ports from the pointer on, then host DMA, firmware, the mirror unit. -/
def partyTurn (rot party : Nat) : Nat := if party < 8 then (party + 8 - rot % 8) % 8 else party

/-- What waits for the end of the cycle, of one kind, and the block without it. -/
def Dev.takeEnding {α : Type} (pick : EndOp → Option α) (d : Dev) : List α × Dev :=
  (d.ending.filterMap pick, { d with ending := d.ending.filter fun o => (pick o).isNone })

/-- The requests for buffers, each against the state that the grants before it left (R242). -/
def Dev.endRequests (d : Dev) : Dev :=
  let (rs, e) := d.takeEnding fun o => match o with | .request n r => some (n, r) | _ => none
  let key := fun (x : Nat × SpillReq) => (8 * x.1 + x.2.pool) * 16 + partyTurn ((d.slice x.1).buf.rot.get 0 x.2.pool) x.2.party
  e.forEach (inTurns key (fun _ _ => false) rs) fun x e => e.endRequest x.1 x.2

/-- The place of a frame in the meter unit's cycle (R263): one direction first, then the other, each in pipeline order from a pointer. The
unit's alternation and its pointer are taken to start with cycle 0 (DESIGN CHOICE, log entry 98). -/
def meterTurn (cycle n : Nat) (dir : Dir) (pipe : Nat) : Nat :=
  (n * 2 + (cycle + dir.num) % 2) * 4 + (pipe + 4 - cycle % 4) % 4

/-- The first k entries of each slice. -/
def perSlice {α : Type} (k : Nat) (slice : α → Nat) (xs : List α) : List α := (List.range 8).flatMap fun n => (xs.filter fun x => slice x == n).take k

/-- The meter unit of each slice takes up to 8 frames of those released; the frames of one port keep their order, the rest wait (R205, R263). -/
def Dev.endMeters (d : Dev) : Dev :=
  let (xs, e) := d.takeEnding fun o => match o with | .meter n dir v qf bad => some (n, dir, v, qf, bad) | _ => none
  let key := fun (x : Nat × Dir × Verdict × QFault × Bool) => meterTurn d.cycle x.1 x.2.1 x.2.2.1.pipe
  let follows := fun (x y : Nat × Dir × Verdict × QFault × Bool) =>
    x.1 == y.1 && x.2.1 == y.2.1 && x.2.2.1.port == y.2.2.1.port && x.2.2.1.prio == y.2.2.1.prio
  let turns := inTurns key follows xs
  let now := perSlice 8 (·.1) turns
  let wait := turns.filter fun x => !now.contains x
  let e := { e with ending := e.ending ++ wait.map fun (n, dir, v, qf, bad) => EndOp.meter n dir v qf bad }
  e.forEach now fun x e => e.admitReleased x.1 x.2.1 x.2.2.1 x.2.2.2.1 x.2.2.2.2

/-- The frames that ask for a place in a queue, by the cell allocator of their bank; frames of one queue keep their order (R205, R242). -/
def Dev.endAdmits (d : Dev) : Dev :=
  let (xs, e) := d.takeEnding fun o => match o with | .enter n p i a => some (n, p, i, a) | _ => none
  let bank := fun (x : Nat × Nat × Nat × Admit) => bankNo (d.queue x.1 x.2.2.2.queue).cfg.isPriv
  let key := fun (x : Nat × Nat × Nat × Admit) =>
    (8 * x.1 + bank x) * 16 + partyTurn ((d.slice x.1).buf.rot.get 0 (bank x)) x.2.2.2.party
  e.forEach (inTurns key (fun x y => x.1 == y.1 && x.2.2.2.queue == y.2.2.2.queue) xs) fun x e => e.endAdmit x.1 x.2.1 x.2.2.1 x.2.2.2

/-- The frees of the cycle, of one pool in ascending party order (R245), and the cells freed in it. -/
def Dev.endFrees (d : Dev) : Dev :=
  let (xs, e) := d.takeEnding fun o => match o with | .free n party s p i => some (n, party, s, p, i) | _ => none
  let key := fun (x : Nat × Nat × Nat × Nat × Nat) => (8 * x.1 + x.2.2.2.1) * 16 + x.2.1
  let e := e.endFreeList (inTurns key (fun _ _ => false) xs) []
  let (cs, e) := e.takeEnding fun o => match o with | .cell n c => some (n, c) | _ => none
  e.forEach cs fun x e => e.modBuf x.1 fun b => { b with cells := b.cells.erase x.2 }

/-- The scanner's visits of the cycle (R222). -/
def Dev.endVisits (d : Dev) : Dev :=
  let (xs, e) := d.takeEnding fun o => match o with | .visit n set_ bad ns => some (n, set_, bad, ns) | _ => none
  e.forEach xs fun x e => e.endVisit x.1 x.2.1 x.2.2.1 x.2.2.2

/-- The Barrow's arrivals of the cycle, then its steps of normal assembly: every commit and revision of the cycle came before them (R135, R249). -/
def Dev.endBarrow (d : Dev) : Dev :=
  let (as_, e) := d.takeEnding fun o => match o with | .arrive n q => some (n, q) | _ => none
  let (bs, e) := e.takeEnding fun o => match o with | .assemble k aid qf => some (k, aid, qf) | _ => none
  let e := e.forEach as_ fun x e => e.class0Arrival x.1 x.2
  e.forEach bs fun x e => e.barrowStep x.1 x.2.1 x.2.2

/-- A class-0 parcel reaches the Barrow; what has befallen its queue is found as it is placed (R134, R252). -/
def Dev.arriveC0 (n q : Nat) (qf : QFault) (d : Dev) : Dev :=
  let d := d.damage n q qf
  { d with ending := d.ending ++ [.arrive n q] }

/-- The Barrow is to take a step of normal assembly. -/
def Dev.assembleNext (k : Nat) (aid : Word) (qf : QFault) (d : Dev) : Dev := { d with ending := d.ending ++ [.assemble k aid qf] }

/-- The commit instant of a Pitch; what has befallen queues of its slice is found at their next use, its own parcels' at their release. -/
def Dev.commitWith (k frame pid : Nat) (keyBad : Bool) (flaws : List (Nat × QFault)) (d : Dev) : Dev :=
  (d.forEach flaws fun x d => d.damage (sliceOfTree k) x.1 x.2).commit k frame pid keyBad

/-- The cycle ends: the Barrow reads before anything is enqueued, and grants see none of the cycle's frees (R135, R237, R245, R249). -/
def Dev.endCycle (d : Dev) : Dev := d.endBarrow.endRequests.endMeters.endAdmits.endFrees.endVisits

/-- The first instant of the next SLICE cycle. -/
def Dev.nextCycle (d : Dev) : Ticks := (d.cycle + 1) * Config.slicePeriod

/-- The SLICE cycles that end before instant t and have something left to do end in turn, at most k of them. -/
def Dev.endCycles (t : Nat) : Nat → Dev → Dev
  | 0, d => d
  | k + 1, d =>
    if d.ending.isEmpty || Nat.blt t d.nextCycle then d else ((d.reach (d.nextCycle - 1)).endCycle.reach d.nextCycle).endCycles t k

/-- A command begins at instant t: the SLICE cycles that lie before it end first. Each takes at least one of the frames that wait for the
meter unit and everything else, so that no more of them than there are entries have something to do. -/
def Dev.begin (t : Nat) (d : Dev) : Dev := (Dev.endCycles t d.ending.length d).reach t

namespace Machine

/-- Close a step: the events it raised enter their queues and the log in the order of R464. -/
def finish (s : State) (d : Dev) : State :=
  let (g, d') := drainEvents (sortEvents d.evPend) (s.log, { d with evPend := [] })
  { s with log := g, dev := d' }

/-- A command that takes effect at instant t and changes the block by f. -/
def act (t : Nat) (f : Dev → Dev) (s : State) : Host.Outcome State Fault Refusal :=
  .next (finish s (f (s.dev.begin t)))

end Machine
end Sys2Proof
end

