-- ==== Sys2Proof/Machine/SliceCmd.lean ====
section
/-! DEFINITION. Commands of the system egress, the keys, the Barrow and the bursts: one meaning for each row (Tables 4.14, 9.10, 10.4). -/

namespace Sys2Proof
namespace Machine

def execSystemPortFrameStart (t : Nat) (p : Fin 256) (qf : QFault) (s : State) : Host.Outcome State Fault Refusal :=
  act t (Dev.frameStartSys p.val qf) s
def execLpiEntry (t : Nat) (p : Fin 256) (s : State) : Host.Outcome State Fault Refusal := act t (Dev.lpiEntry p.val) s
def execLpiWakeEnd (t : Nat) (p : Fin 256) (s : State) : Host.Outcome State Fault Refusal := act t (Dev.lpiWakeEnd p.val) s

def execKeyCtxSet (t : Nat) (rq : Req) (s : State) : Host.Outcome State Fault Refusal := act t (runCmd 0x0A10 cmdKeyCtxSet rq) s
def execKeyCtxRead (t : Nat) (rq : Req) (s : State) : Host.Outcome State Fault Refusal := act t (runCmd 0x0A11 cmdKeyCtxRead rq) s
def execKeyCtxFind (t : Nat) (rq : Req) (s : State) : Host.Outcome State Fault Refusal := act t (runCmd 0x0A12 cmdKeyCtxFind rq) s
def execCipherStatus (t : Nat) (rq : Req) (s : State) : Host.Outcome State Fault Refusal := act t (runCmd 0x0A13 cmdCipherStatus rq) s
def execEpochOverlapEnd (t : Nat) (k : Fin 64) (aid : Word) (dir : Dir) (s : State) : Host.Outcome State Fault Refusal :=
  act t (Dev.overlapEnd k.val aid.toNat dir) s

def execLinePortBurstSet (t : Nat) (rq : Req) (s : State) : Host.Outcome State Fault Refusal := act t (runCmd 0x0410 cmdLinePortBurstSet rq) s
def execBarrowAwningSet (t : Nat) (rq : Req) (s : State) : Host.Outcome State Fault Refusal := act t (runCmd 0x0411 cmdBarrowAwningSet rq) s
def execBarrowStatus (t : Nat) (rq : Req) (s : State) : Host.Outcome State Fault Refusal := act t (runCmd 0x0412 cmdBarrowStatus rq) s
def execPitchRead (t : Nat) (rq : Req) (s : State) : Host.Outcome State Fault Refusal := act t (runCmd 0x0413 cmdPitchRead rq) s
def execIlStatusCmd (t : Nat) (rq : Req) (s : State) : Host.Outcome State Fault Refusal := act t (runCmd 0x0414 cmdIlStatus rq) s
def execClass0BarrowArrival (t : Nat) (n : Fin 8) (q : Nat) (qf : QFault) (s : State) : Host.Outcome State Fault Refusal :=
  act t (Dev.arriveC0 n.val q qf) s

/-- A read of IL_STATUS in the lane status page returns TRIPS and clears it (R142). -/
def execIlStatusRead (t : Nat) (p : Fin 16) (s : State) : Host.Outcome State Fault Refusal :=
  act t (fun d => d.modPort p.val fun x => { x with trips := 0 }) s
/-- TRIP_SEEN is cleared by writing 1 to it (R142). -/
def execIlStatusWrite (t : Nat) (p : Fin 16) (v : Dword) (s : State) : Host.Outcome State Fault Refusal :=
  act t (fun d => if v.getLsbD 10 then d.modPort p.val fun x => { x with tripSeen := false } else d) s

def execBarrowAssembly (t : Nat) (k : Fin 64) (aid : Word) (qf : QFault) (s : State) : Host.Outcome State Fault Refusal :=
  act t (Dev.assembleNext k.val aid qf) s
def execPitchCommit (t : Nat) (k : Fin 64) (frame pid : Nat) (keyBad : Bool) (flaws : List (Nat × QFault)) (s : State) :
    Host.Outcome State Fault Refusal :=
  act t (Dev.commitWith k.val frame pid keyBad flaws) s
def execBurstStart (t : Nat) (k : Fin 64) (frame pid : Nat) (s : State) : Host.Outcome State Fault Refusal :=
  act t (Dev.burstStart k.val frame pid) s
def execBurstEnd (t : Nat) (k : Fin 64) (frame pid : Nat) (s : State) : Host.Outcome State Fault Refusal :=
  act t (Dev.burstEnd k.val frame pid) s
def execPitchClose (t : Nat) (k : Fin 64) (frame pid : Nat) (s : State) : Host.Outcome State Fault Refusal :=
  act t (Dev.pitchCloses k.val frame pid) s
def execTransmitReadDone (t : Nat) (n : Fin 8) (party : Fin 16) (slice pool : Fin 8) (index : Word) (stageBad : Bool) (s : State) :
    Host.Outcome State Fault Refusal :=
  act t (Dev.readDone n.val party.val slice.val pool.val index.toNat stageBad) s
def execInterlockTrip (t : Nat) (p : Fin 16) (seen : BitVec 16) (outs : BitVec 4) (s : State) : Host.Outcome State Fault Refusal :=
  act t (Dev.interlockTrip p.val seen outs) s
def execBallMismatch (t : Nat) (b : Fin 64) (s : State) : Host.Outcome State Fault Refusal := act t (Dev.ballMismatch b.val) s
def execBallMismatchEnd (t : Nat) (b : Fin 64) (s : State) : Host.Outcome State Fault Refusal := act t (Dev.ballMatches b.val) s

end Machine
end Sys2Proof
end

