-- ==== Sys2Proof/Machine/LineCode.lean ====
section
/-! DEFINITION. The line below the block: PAM4 levels and precoding (R44, R55), patterns and delimiter (R55, R117, R118), scrambling (R74,
R119), line blocks and codewords (R73, R76, R77), the places of blocks on the lanes of a group (R92, R122, R126, R152), and from these the
levels that a burst sends on one lane. Commands carry blocks as the decoder passes them on, and a burst is recorded as its blocks; these
functions say what stands for them at the balls (log entry 91). -/

namespace Sys2Proof

/-! ### Symbols -/

/-- The level of a bit pair, first bit first (Table 2.1). -/
def grayLevel : Bool → Bool → Fin 4
  | false, false => 0
  | false, true => 1
  | true, true => 2
  | true, false => 3

def grayBits (l : Fin 4) : List Bool :=
  match l with
  | 0 => [false, false]
  | 1 => [false, true]
  | 2 => [true, true]
  | 3 => [true, false]

def toLevels : List Bool → List (Fin 4)
  | a :: b :: r => grayLevel a b :: toLevels r
  | _ => []
def ofLevels (ls : List (Fin 4)) : List Bool := ls.flatMap grayBits

/-- Precoding (R44): the n-th level sent is the n-th symbol less the level sent before, modulo 4. -/
def precode (before : Fin 4) : List (Fin 4) → List (Fin 4)
  | [] => []
  | x :: r => (x - before) :: precode (x - before) r

/-- The receiver's side of it: each symbol is the level received plus the level received before. -/
def unprecode (before : Fin 4) : List (Fin 4) → List (Fin 4)
  | [] => []
  | y :: r => (y + before) :: unprecode y r

/-- The exponents of a generator polynomial above 0 (Table 2.5, codes 1 to 6). -/
def prbsTaps : Nat → List Nat
  | 1 => [7, 6]
  | 2 => [9, 5]
  | 3 => [13, 12, 2, 1]
  | 4 => [15, 14]
  | 5 => [23, 18]
  | 6 => [31, 28]
  | _ => []

/-- Output bits of a generator, each the sum of the earlier output bits at the exponents of its polynomial; the bits before the first are the
seed, latest first (log entry 92). -/
def prbsBits (taps : List Nat) (seed : List Bool) : Nat → List Bool
  | 0 => []
  | n + 1 =>
    let b := taps.foldl (fun a e => a ^^ seed.getD (e - 1) false) false
    b :: prbsBits taps (b :: seed.take 30) n

/-- The levels of the preamble: 3, 0, 3, 0 … (R117). -/
def preambleLevels (n : Nat) : List (Fin 4) := (List.range n).map fun i => if i % 2 = 0 then 3 else 0

/-- The delimiter: 256 bits of PRBS13 seeded with ones, a 1 as level 3 and a 0 as level 0 (R118). -/
def delimiterLevels : List (Fin 4) := (prbsBits (prbsTaps 3) (List.replicate 31 true) 256).map fun b => if b then 3 else 0

/-! ### Scrambling: the history holds the last 58 bits, latest first -/

def scramble (h : List Bool) : List Bool → List Bool
  | [] => []
  | x :: r => let o := (x ^^ h.getD 38 false) ^^ h.getD 57 false; o :: scramble (o :: h.take 57) r

/-- The descrambler of R74, whose history is what it received. -/
def descramble (h : List Bool) : List Bool → List Bool
  | [] => []
  | x :: r => ((x ^^ h.getD 38 false) ^^ h.getD 57 false) :: descramble (x :: h.take 57) r

/-! ### Blocks and codewords -/

/-- The sync header of a block: 01 data, 10 control (R73). -/
def syncBits (ctl : Bool) : List Bool := [ctl, !ctl]

/-- Cut a list into runs of n. -/
def runs {α : Type} (n : Nat) : Nat → List α → List (List α)
  | 0, _ => []
  | k + 1, l => l.take n :: runs n k (l.drop n)

/-- The 130 bits of each block of a lane, payloads scrambled through from the history (R73, R74). -/
def lineBits (h : List Bool) (bs : List (Bool × Block)) : List Bool :=
  let pay := runs 128 bs.length (scramble h (bs.flatMap fun (b : Bool × Block) => bitsMsb b.2))
  (bs.zip pay).flatMap fun b => syncBits b.1.1 ++ b.2

/-- Multiplication in GF(2^10) with x^10 + x^3 + 1 (R76). -/
def gfMul (a b : Nat) : Nat :=
  (List.range 10).foldl (fun r i =>
    let twice := if 512 ≤ r then (2 * r) ^^^ 0x409 else 2 * r
    if b.testBit (9 - i) then twice ^^^ a else twice) 0

/-- The power of α = x. -/
def gfPow : Nat → Nat
  | 0 => 1
  | n + 1 => gfMul 2 (gfPow n)

/-- The coefficients of g(x) = (x − α^0) … (x − α^19), highest degree first. -/
def rsGenerator : List Nat :=
  (List.range 20).foldl (fun g i => List.zipWith Nat.xor (g ++ [0]) (0 :: g.map (gfMul (gfPow i)))) [1]

/-- The twenty parity symbols of a message: the remainder of its polynomial times x^20 by g(x). -/
def rsParity (m : List Nat) : List Nat :=
  let g := rsGenerator.drop 1
  m.foldl (fun reg s =>
    let f := s ^^^ reg.headD 0
    List.zipWith Nat.xor (reg.drop 1 ++ [0]) (g.map (gfMul f))) (List.replicate 20 0)

/-- The i-th syndrome of a received word: its polynomial at α^i. -/
def rsSyndrome (c : List Nat) (i : Nat) : Nat := c.foldl (fun a s => gfMul a (gfPow i) ^^^ s) 0

/-- A word of the code: 540 symbols, every syndrome zero. -/
def rsWord (c : List Nat) : Bool := decide (c.length = 540) && (List.range 20).all fun i => rsSyndrome c i == 0

def gfExp (a n : Nat) : Nat :=
  (List.range 10).foldl (fun r i => let r := gfMul r r; if n.testBit (9 - i) then gfMul r a else r) 1
def gfInv (a : Nat) : Nat := gfExp a 1022

/-- Polynomials over the field, lowest degree first. -/
def gfEval (p : List Nat) (x : Nat) : Nat := p.foldr (fun c a => gfMul a x ^^^ c) 0
def gfAdd : List Nat → List Nat → List Nat
  | [], q => q
  | p, [] => p
  | a :: p, b :: q => (a ^^^ b) :: gfAdd p q

/-- The error locator of twenty syndromes (Berlekamp and Massey). -/
structure Locator where
  c : List Nat := [1]
  b : List Nat := [1]
  len : Nat := 0
  gap : Nat := 1
  last : Nat := 1
  deriving DecidableEq, Repr

def Locator.next (x : Locator) (syn : List Nat) (n : Nat) : Locator :=
  let disc := (List.range (x.len + 1)).foldl (fun a i => a ^^^ gfMul (x.c.getD i 0) (syn.getD (n - i) 0)) 0
  if disc = 0 then { x with gap := x.gap + 1 }
  else
    let f := gfMul disc (gfInv x.last)
    let c := gfAdd x.c (List.replicate x.gap 0 ++ x.b.map (gfMul f))
    if 2 * x.len ≤ n then { c := c, b := x.c, len := n + 1 - x.len, gap := 1, last := disc }
    else { x with c := c, gap := x.gap + 1 }

/-- The word that the decoder would correct a received one to: roots of the locator, and the values of the errors there (Chien, Forney). -/
def rsGuess (r : List Nat) : List Nat :=
  let syn := (List.range 20).map (rsSyndrome r)
  let loc := (List.range 20).foldl (fun x n => x.next syn n) ({} : Locator)
  let omega := (List.range 20).map fun n => (List.range (n + 1)).foldl (fun a i => a ^^^ gfMul (loc.c.getD i 0) (syn.getD (n - i) 0)) 0
  let odd := (List.range loc.c.length).map fun i => if i % 2 = 0 then loc.c.getD (i + 1) 0 else 0
  (r.zip (List.range r.length)).map fun (s, j) =>
    let x := gfExp 2 (r.length - 1 - j)
    let inv := gfInv x
    if gfEval loc.c inv = 0 then s ^^^ gfMul x (gfMul (gfEval omega inv) (gfInv (gfEval odd inv))) else s

/-- The decoder corrects a received word r to the code word c (R77): 10 or fewer symbols differ. A word that no code word corrects is
uncorrectable and passes on unchanged. -/
def rsCorrects (r c : List Nat) : Bool := rsWord c && decide (r.length = 540) && decide (((r.zip c).filter fun p => p.1 != p.2).length ≤ 10)

/-- The decoder (R77): a word with a code word at 10 or fewer symbols becomes it; any other is uncorrectable and passes on unchanged. -/
def rsDecode (r : List Nat) : Bool × List Nat :=
  let c := rsGuess r
  if rsCorrects r c then (false, c) else (true, r)

/-- What a received word adds to CORR_SYMBOLS and UNCORR_CW (R105). -/
def rsTail (r : List Nat) : LaneTail :=
  match rsDecode r with
  | (false, c) => { corr := ((r.zip c).filter fun p => p.1 != p.2).length }
  | (true, _) => { uncorr := 1 }

def symbolsOf (bits : List Bool) : List Nat :=
  (runs 10 (bits.length / 10) bits).map fun r => r.foldl (fun a b => 2 * a + b.toNat) 0
def symbolBits (s : Nat) : List Bool := (List.range 10).map fun i => s.testBit (9 - i)

/-- The 5,400 bits of a codeword from the 5,200 of its forty blocks. -/
def codewordBits (msg : List Bool) : List Bool := msg ++ (rsParity (symbolsOf msg)).flatMap symbolBits

/-- What leaves the decoder of one lane for a received codeword (R73, R74, R77): forty blocks, their payload descrambled through from the
history, each with the codeword's flag. A block whose header is still 00 or 11 counts as uncorrectable (DESIGN CHOICE, log entry 109). -/
def decodedBlocks (h : List Bool) (r : List Nat) : List RxBlock :=
  let (unc, c) := rsDecode r
  let bs := runs 130 40 ((c.take 520).flatMap symbolBits)
  let pay := runs 128 40 (descramble h (bs.flatMap fun b => b.drop 2))
  (bs.zip pay).map fun b => { ctl := b.1.headD false, unc := unc || b.1.headD false == b.1.getD 1 false, pl := BitVec.ofNat 128 (b.2.foldl (fun a x => 2 * a + x.toNat) 0) }

/-! ### Places on the lanes of a group -/

/-- Block j of a stream that begins at position first, striped over m lanes: its position and the place of its lane among them. -/
def stripePlace (first m j : Nat) : Nat × Nat := (first + j / m, j % m)

/-- The overhead stream begins at position 40, the parcel stream at 200 (Table 3.2, R92); the parcel region of a burst at 40 (R126), its answer
space at 4 (R152). -/
def overheadPlace (m j : Nat) : Nat × Nat := stripePlace 40 m j
def parcelPlace (m j : Nat) : Nat × Nat := stripePlace 200 m j

/-- The blocks of lane i of a burst of m lanes and c codewords: the header blocks and the end-of-burst block are those recorded, the region is
striped, idle blocks fill the rest (R120, R122, R126, R152). -/
def burstLane (m c i : Nat) (answering : Bool) (header : List Block) (region : List (Bool × Block)) : List (Bool × Block) :=
  (List.range (40 * c)).map fun pos =>
    if pos + 1 = 40 * c then (true, header.getLastD idleBlock)
    else if pos < 4 then (true, header.getD (4 * i + pos) idleBlock)
    else if answering then region.getD ((pos - 4) * m + i) (true, idleBlock)
    else if pos < 40 then (true, idleBlock)
    else region.getD ((pos - 40) * m + i) (true, idleBlock)

/-- A symbol in error: the level moves to an adjacent one; on an NRZ lane the bit is inverted (R60). -/
def wrongLevel (l : Fin 4) : Fin 4 := if l = 3 then 2 else l + 1
def wrongBit (b : Bool) : Bool := !b

/-- The i-th of the symbols sent is one that an injection changes (R60, R61): the first, the first ones of the burst, or the last of each period
of the rate. -/
def TxError.hits (e : TxError) (i : Nat) : Bool :=
  match e.inject with
  | 1 => i == 0
  | 2 => decide (i < e.len)
  | 3 => (e.count + i + 1) % e.period == 0
  | _ => false

/-- What leaves a transmitter for the levels it is to send: errors are made after the precoder, an inverted pair exchanges the levels (R60,
R71). -/
def txLevels (es : List TxError) (ls : List (Fin 4)) : List (Fin 4) :=
  (ls.zip (List.range ls.length)).map fun (l, i) =>
    let e := txErrorAt es i
    let l := if e.hits (i - e.start) then wrongLevel l else l
    if e.inv then 3 - l else l
def txBits (es : List TxError) (bs : List Bool) : List Bool :=
  (bs.zip (List.range bs.length)).map fun (b, i) =>
    let e := txErrorAt es i
    (if e.hits (i - e.start) then wrongBit b else b) != e.inv

/-- The levels of a burst on one lane after T_on (Table 4.4): preamble, delimiter, then the codewords precoded from 0 and scrambled from zeros
(R117 to R119). -/
def burstLevels (preamble : Nat) (blocks : List (Bool × Block)) : List (Fin 4) :=
  let bits := (runs 5200 (blocks.length / 40) (lineBits (List.replicate 58 false) blocks)).flatMap codewordBits
  preambleLevels preamble ++ delimiterLevels ++ precode 0 (toLevels bits)

/-- What a Pitch's burst sends on the i-th of its lanes. -/
def Dev.burstLaneLevels (d : Dev) (k : Nat) (p : Pitch) (i : Nat) : List (Fin 4) :=
  let m := (p.names.getD []).length
  let c := if p.answering then 1 else p.codewords
  txLevels (p.tx.getD i [])
    (burstLevels (Config.preambleUi (BitVec.ofNat 4 p.preamble)) (burstLane m c i p.answering p.hdr (p.sent.flatMap (d.itemBlocks k))))

/-- The levels of a test pattern on a PAM4 lane, sent without precoding (R55), where Table 2.5 gives its polynomial. -/
def patternLevels (code n : Nat) (seed : List Bool) : List (Fin 4) := toLevels (prbsBits (prbsTaps code) seed (2 * n))

/-- What a system lane sends for the levels or bits of its traffic, from the injection it has on (R60, R61). -/
def LaneTx.trafficLevels (x : LaneTx) (ls : List (Fin 4)) : List (Fin 4) := txLevels [x.error] ls
def LaneTx.trafficBits (x : LaneTx) (bs : List Bool) : List Bool := txBits [x.error] bs

/-- What a lane under test sends: the pattern with what its transmitter does to it, as levels of a PAM4 lane or bits of an NRZ one. -/
def LaneTx.testLevels (x : LaneTx) (n : Nat) (seed : List Bool) : List (Fin 4) := txLevels [x.error] (patternLevels x.pattern n seed)
def LaneTx.testBits (x : LaneTx) (n : Nat) (seed : List Bool) : List Bool := txBits [x.error] (prbsBits (prbsTaps x.pattern) seed n)

end Sys2Proof
end

