-- ==== Sys2Proof/Machine/Join.lean ====
section
/-! DEFINITION. Notices, answers and the leaf state machine (05_joining.md, R304 to R306). -/

namespace Sys2Proof

/-! ### States (R156, Table 5.5) -/

/-- Every change of state raises an event (R43). -/
def Dev.setLeaf (k st : Nat) (d : Dev) : Dev :=
  let old := (d.tree k).join.st
  if old = st then d
  else (d.modTree k fun x => { x with join := { x.join with st := st } }).raise (qTree k) 0x01 1 k [old, st]

/-- A draw of R158 is made when the tree may answer windows and has none: r in 1 to 2^k. An accepted N.ASSIGN has ended the loop. -/
def Dev.tryDraw (k draw : Nat) (d : Dev) : Dev :=
  let x := d.tree k
  let j := x.join
  let placed := (d.windows k).any fun p => !p.answers.isEmpty
  if x.cfg.configured && j.st == 0 && x.fr.tfl && !x.fr.dup && j.holdoff.isNone && !d.dtApplies k && j.draw.isNone && j.tAssign.isNone &&
      j.pass.isNone && !placed && !x.ex.queue.any (fun q => q.ntype == 0x01 && !q.dup) then
    d.modTree k fun x => { x with join := { x.join with draw := some (1 + draw % 2 ^ j.k), count := 0 } }
  else d

/-- The queued parcels of a queue are dropped and their buffers released, with how many there were; takes were undone before. -/
def Dev.emptyQueue (n q : Nat) (d : Dev) : Nat × Dev :=
  let Q := d.queue n q
  let gone := Q.unread
  let d := d.forEach gone fun x d => d.dropBuffer n 12 x.pool x.index 5 none
  let keep := if Q.readN = 0 && Q.readPos % 3 = 0 then 0 else Q.readPos / 3 - Q.base / 3 + 1
  let d := d.freeCells n (Q.cells.drop keep)
  (gone.length, d.setQueue n q { Q with descs := Q.descs.take Q.readN, cells := Q.cells.take keep })

/-- The upstream parcels queued for an AID are dropped, counted per AID (R41, R172). -/
def Dev.dropQueued (k : Nat) (aid : Word) (c : CN) (d : Dev) : Dev :=
  let n := sliceOfTree k
  d.forEach (d.aidQueues k aid) fun q d =>
    let (m, d) := d.emptyQueue n q
    d.bumpN c k aid.toNat m

/-- Taps of the tree's lanes return to the reset value (R51). -/
def Dev.resetTaps (ls : List Nat) (d : Dev) : Dev := d.forEach ls fun l d => d.modTx l fun x => { x with eq := {}, eqNext := none }

/-- Exchange state that ends with the leaf: unprocessed notices, answers and SPDM state go; the log stays (R148, R184). -/
def Exchange.clear (x : Exchange) : Exchange := { log := x.log }

/-- The requests of a channel leave the P-384 unit (R429). -/
def SignUnit.drop (u : SignUnit) (ch : Nat) : SignUnit :=
  { u with wait := u.wait.filter fun r => r.ch != ch, run := u.run.filter fun r => r.ch != ch }

/-- The discard actions of R41, except the interlock: leaf number, EqD, accept bitmap, allocations, keys, the root key, the queued
parcels of its AIDs; a computation of the vault for the tree is abandoned. In a pair the queues are dropped only when the tree carries its traffic (R472). -/
def Dev.discardTree (k : Nat) (d : Dev) : Dev :=
  let n := sliceOfTree k
  let x := d.tree k
  let aids := x.allocs.map fun e => BitVec.ofNat 20 e.1
  let d := d.forEach aids fun a d =>
    let d := if d.selected k then d.dropQueued k a .lostDropped else d
    match d.ctxOf n k a.toNat with
    | some c => d.freeCtx n c
    | none => d
  let d := d.modVault fun v =>
    { v with roots := v.roots.erase k, kex := v.kex.erase k, noticeKeys := v.noticeKeys.erase k, spdm := v.spdm.erase (k + 1),
             sign := v.sign.drop k }
  let d := d.modTree k fun x =>
    { x with eqd := {}, ex := x.ex.clear, acc := {}, allocs := [],
             join := { attempts := x.join.attempts, st := x.join.st } }
  d.setLeaf k 0

/-- R177: what a deregistration, whose hold-off runs from an instant, or the expiry of a timer does, the commits that were due made. The interlock still allows the bursts that
have started. -/
def Dev.deregister (k holdoff : Nat) (at_ : Ticks) (d : Dev) : Dev :=
  let d := (d.undoTree k).dropCommitted k
  let d := d.modTree k fun x => { x with pitches := x.pitches.filter fun p => p.phase == 3 }
  let d := d.modTree k fun x => { x with il := x.il.filter fun w => x.pitches.any fun p => w.is p.frame p.pid }
  let d := (d.discardTree k).raise (qTree k) 0x05 2 k [holdoff]
  d.modTree k fun x =>
    { x with join := { x.join with holdoff := if holdoff = 0 then none else some (at_ + holdoff * Config.sec) } }

/-! ### Acceptance (R145 to R150, R305, R306) -/

def RxBlock.ok (b : RxBlock) : Bool := !b.unc && !b.ctl

/-- Fields of a notice header (Table 5.1). -/
def nType (b : Block) : Nat := (fld 8 120 b).toNat
def nAddr (b : Block) : Nat := (fld 2 118 b).toNat
def nLeaf (b : Block) : Nat := (fld 10 108 b).toNat
def nBody (b : Block) : Nat := (fld 10 98 b).toNat
def nAuth (b : Block) : Bool := b.getLsbD 97
def nParam (b : Block) : BitVec 32 := fld 32 64 b
def nSeq (b : Block) : Nat := (fld 32 32 b).toNat

/-- The body lengths of Table 5.13. It gives none for the reserved PHASE 3 of N.KEX, which no length then meets; N.DISABLE_TX with an ADDR that
Table 5.12 does not list has the length 0 of ADDR 0, and check 5 counts it (DESIGN CHOICE, log entry 106). -/
def bodyOk (ntype addr phase body : Nat) : Bool :=
  match ntype with
  | 0x01 | 0x07 | 0x08 | 0x09 | 0x0A | 0x0B | 0x0E | 0x0F => body == 1
  | 0x02 | 0x03 | 0x0D => body == 0
  | 0x04 => body == 2
  | 0x05 => (phase == 0 && decide (2 ≤ body ∧ body ≤ 33)) || (phase == 1 && body == 14) || (phase == 2 && body == 0)
  | 0x06 => decide (2 ≤ body ∧ body ≤ 33)
  | 0x0C => if addr = 1 then body == 1 else body == 0
  | _ => false

/-- A notice parcel's LENGTH at its header (R146). -/
def noticeParcelOk (h : Block) : Bool :=
  let n := (fld 14 86 h).toNat
  n % 16 == 0 && decide (32 ≤ n ∧ n ≤ 10240)

/-- The body blocks that BODY cuts, and the trailer (R145). -/
def NoticeIn.body (n : NoticeIn) : List RxBlock := n.rest.take (nBody n.hdr.pl)
def NoticeIn.trailer (n : NoticeIn) : Option RxBlock := n.rest[nBody n.hdr.pl]?

/-- The stream of a notice: whether a parcel, its name, and how many blocks of notices it has; none when its notices are ignored: those of a
discarded or an empty list (R95), of a parcel discarded at its header, or of one whose header cannot be trusted (R98, R146). -/
def Dev.noticeStream (d : Dev) (k : Nat) (n : NoticeIn) : Option (Bool × Nat × Nat) :=
  let x := d.tree k
  match n.src with
  | .list h => if x.fr.listBad then none else (d.listHeader k h).map fun e => (false, x.fr.fc % 2 ^ 32, e.2)
  | .parcel h at_ =>
    if h.ctl && !h.unc && fld 8 120 h.pl == 0x78 && blockChk h.pl == fld 16 0 h.pl && fld 20 100 h.pl == Config.aidNotice && noticeParcelOk h.pl then
      some (true, at_, (fld 14 86 h.pl).toNat / 16)
    else none

/-- The block at which the next notice of a stream is looked for (R145): the first, or the one after the notice before. -/
def Exchange.nextBlock (x : Exchange) (parcel : Bool) (key : Nat) : Option Nat :=
  match (if parcel then x.curParcel else x.curList) with
  | some c => if c.key == key then some c.next else some 0
  | none => some 0

/-- Check 3: addressed to this leaf. With ADDR 1 the serial is read from body block 0 as it came; an uncorrectable one fails check 4 if it
shows this serial (DESIGN CHOICE, log entry 107). -/
def Dev.addressed (d : Dev) (k : Nat) (h : Block) (body : List RxBlock) : Bool :=
  match nAddr h with
  | 0 => (d.tree k).join.leaf == some (nLeaf h)
  | 1 => (body.head?.map fun b => (fld 64 64 b.pl).toNat == d.vault.fuses.serial).getD false
  | 2 => true
  | _ => false

/-- Check 5 (Table 5.12): the type, ADDR and AUTH in a state; st 3 and 4 are Authenticated and Operating. -/
def stateAllows (ntype addr : Nat) (auth : Bool) (st : Nat) : Bool :=
  let early := st == 1 || st == 2
  let late := decide (3 ≤ st)
  match ntype with
  | 0x01 => addr == 1 && st == 0 && !auth
  | 0x02 => addr == 0 && early && !auth
  | 0x03 | 0x04 | 0x0D => addr == 0 && ((early && !auth) || (late && auth))
  | 0x05 => addr == 0 && st == 2
  | 0x06 => addr == 0 && ((st == 2 && !auth) || (late && auth))
  | 0x07 | 0x08 | 0x0B => addr == 0 && late && auth
  | 0x09 => addr == 0 && ((early && !auth) || late)
  | 0x0A | 0x0F => addr == 2 && !auth
  | 0x0C => addr == 0 || addr == 1
  | 0x0E => addr == 0 && st == 4 && auth
  | _ => false

/-- A line of the join log takes the result that processing gave (R184). -/
def setResult (typ nseq result : Nat) : List JoinLog → List JoinLog
  | [] => []
  | e :: es => if e.typ == typ && e.nseq == nseq then { e with result := result } :: es else e :: setResult typ nseq result es
def Dev.logResult (k : Nat) (q : NoticeQ) (result : Nat) (d : Dev) : Dev :=
  d.modTree k fun x => { x with ex := { x.ex with log := (setResult q.ntype q.nseq result x.ex.log.reverse).reverse } }

/-- The tag of a notice, in trailer t, verifies under a notice key (R305). -/
def Dev.noticeTagOk (d : Dev) (k : Nat) (key : Option NoticeKey) (n : NoticeIn) (t : Block) : Bool :=
  let x := d.tree k
  let h := n.hdr.pl
  (key.map fun y => noticeTag y (x.fr.fc / 2 ^ 32) (nSeq h) h (n.body.map (·.pl)) x.cfg.lockedId == t).getD false

/-- R306: v is new, above the highest or inside the window below it. -/
def Exchange.freshV (x : Exchange) (v : Nat) : Bool :=
  match x.vHigh with
  | none => true
  | some h => decide (h < v) || (decide (v < h ∧ h - v ≤ 63) && !x.vSeen.contains v)

def Exchange.takeV (x : Exchange) (v : Nat) : Exchange :=
  let h := max v (x.vHigh.getD 0)
  { x with vHigh := some h, vSeen := (v :: x.vSeen).filter fun w => decide (h - w ≤ 63) }

/-- A notice that fails check i is counted and stands in the log with result 16 + i (R147, R184). -/
def Dev.noticeFails (k i : Nat) (c : CN) (h : Block) (d : Dev) : Dev := (d.bump c k 0).joinLog k (nType h) (nSeq h) (16 + i)

/-! ### Answers to notices (R150, R151) -/

/-- The answers of a notice are recorded for its repetition, if it is still the last accepted of its type (R150). -/
def Exchange.record (x : Exchange) (ntype nseq : Nat) (as_ : List Answer) : Exchange :=
  { x with last := x.last.upd none ntype fun l => l.map fun l => if l.nseq = nseq then { l with answers := as_ } else l }

/-- An answer of a notice is queued and recorded for R150. -/
def Dev.reply (k : Nat) (q : NoticeQ) (a : Answer) (d : Dev) : Dev :=
  (d.queueAnswer k a).modTree k fun x =>
    { x with ex := x.ex.record q.ntype q.nseq [a] }

/-- The common start of the answer bodies: NSEQ and NTYPE of the notice answered (Table 5.16). -/
def ackBody (q : NoticeQ) : Block := put 128 96 (BitVec.ofNat 32 q.nseq) ||| put 128 88 (BitVec.ofNat 8 q.ntype)

/-- Whether an answer queued now is tagged: by the state in which it is queued, also when it is sent in a later one. R181 does not say which of the
two counts (DESIGN CHOICE, log entry 131). -/
def Dev.tagsAnswers (d : Dev) (k : Nat) : Bool := decide (3 ≤ (d.tree k).join.st)

/-- A.ACK with a result. -/
def Dev.ack (k : Nat) (q : NoticeQ) (result : Nat) (d : Dev) : Dev :=
  (d.logResult k q result).reply k q
    { atype := 0x43, tagged := d.tagsAnswers k, nseq := q.nseq, ntype := q.ntype,
      body := [ackBody q ||| put 128 80 (BitVec.ofNat 8 result)] }

/-- A.ALLOC or A.DORMANT with one result per slot; the join log shows the first that is not 0 (log entry 63). -/
def Dev.ackSlots (k : Nat) (q : NoticeQ) (atype : Nat) (rs : List Nat) (d : Dev) : Dev :=
  let res : Block := (rs.zip [80, 72, 64, 56]).foldl (fun b x => b ||| put 128 x.2 (BitVec.ofNat 8 x.1)) 0
  (d.logResult k q ((rs.find? (· != 0)).getD 0)).reply k q { atype := atype, tagged := true, nseq := q.nseq, ntype := q.ntype, body := [ackBody q ||| res] }

/-- A repetition: the recorded answers are queued again (R150). -/
def Dev.replay (k : Nat) (q : NoticeQ) (d : Dev) : Dev :=
  d.forEach (((d.tree k).ex.last.get none q.ntype).map (·.answers) |>.getD []) fun a d => d.queueAnswer k a

/-! ### What acts at acceptance (R113, R148, R176) -/

/-- N.DISABLE_TX with ACTION 1 (R176): the record, with the tree ID to which the slot is locked, the undo of every assembly, the interlock. -/
def Dev.disableSet (k : Nat) (d : Dev) : Dev :=
  let d := d.commitDue k
  let d := { d.modTree k fun x => { x with dt := { held := true, treeId := x.fr.heldId } } with recDirty := true }
  let d := (d.undoTree k).modTree k fun x => { x with pitches := x.pitches.map fun p => if p.phase == 0 then { p with opened := false } else p }
  if (d.tree k).pitches.any fun p => p.phase == 3 then (d.trip (portOfTree k) tripDisable).cutStarted k else d

/-- N.DISABLE_TX with ACTION 0 (R176): the record is cleared only when the slot is locked to the recorded tree; the answer is queued at
acceptance (R148). A lift while no record is held counts in `NOTICE_STATE` and has no answer: the spec says nothing of it (DESIGN CHOICE, log
entry 131). -/
def Dev.disableLift (k draw : Nat) (q : NoticeQ) (d : Dev) : Dev :=
  if (d.tree k).dt.held && (d.tree k).fr.heldId == (d.tree k).dt.treeId then
    let d := { (d.commitDue k).modTree k fun x => { x with dt := {} } with recDirty := true }
    ((d.ack k q 0).openAll (sliceOfTree k)).tryDraw k draw
  else (d.logResult k q 21).bump .noticeState k 0

/-- The list and revision decoder acts on N.PITCH_REV and N.DISABLE_TX at their acceptance; a repetition is not applied again, and the answer of
a lift goes again (R148, R150). -/
def Dev.actNow (k draw : Nat) (q : NoticeQ) (d : Dev) : Dev :=
  if q.ntype = 0x09 then if q.dup then d else d.revise k q.frame (q.param.toNat % 4) (b0 q)
  else if q.param.getLsbD 0 then if q.dup then d else d.disableSet k
  else if q.dup then d.replay k q
  else d.disableLift k draw q

/-- What the acceptance of another notice does at once (R133, R148, R157): N.ASSIGN stops T_ASSIGN, N.KEX phase 2 stops T_KEX, and the
assemblies of the AIDs that N.ALLOC_REMOVE takes are undone. Then it waits for its turn. -/
def Dev.enterNotice (k : Nat) (q : NoticeQ) (d : Dev) : Dev :=
  let d :=
    if q.dup then d
    else if q.ntype = 0x01 then d.modTree k fun x => { x with join := { x.join with tAssign := none } }
    else if q.ntype = 0x05 ∧ q.param.toNat % 4 = 2 then d.modTree k fun x => { x with join := { x.join with tKex := none } }
    else if q.ntype = 0x08 then
      (d.commitDue k).forEach [0, 1, 2, 3] fun s d => if Nat.ble 2 (slotDir (slotOf (b0 q) s)) then d.undoAid k (slotAid (slotOf (b0 q) s)) else d
    else d
  d.modTree k fun x => { x with ex := { x.ex with queue := x.ex.queue ++ [q] } }

/-- Acceptance: a repetition of the last notice of its type is not applied, its answer is queued again (R150). The instant is that at which
its trailer block is received (R148, R496). -/
def Dev.acceptNotice (k v draw : Nat) (n : NoticeIn) (d : Dev) : Dev :=
  let h := n.hdr.pl
  let x := d.tree k
  let rep := !nAuth h && ((x.ex.last.get none (nType h)).map fun l => l.nseq == nSeq h).getD false
  let q : NoticeQ := { ntype := nType h, param := nParam h, nseq := nSeq h, auth := nAuth h, body := n.body.map (·.pl), at_ := d.now,
                       frame := x.fr.fc, dup := rep }
  let d := if rep then d else d.modTree k fun x =>
    { x with ex := { x.ex with last := x.ex.last.set none (nType h) (some { nseq := nSeq h, v := v }) } }
  let d := d.joinLog k (nType h) (nSeq h) 0
  if q.ntype = 0x09 ∨ q.ntype = 0x0C then d.actNow k draw q else d.enterNotice k q

/-! ### Checks (Table 5.3) -/

/-- The verdict of check 4 on the tag of a notice with AUTH 1: accepted, failed, or a repetition whose answer goes again (R149, R169,
R305, R306). -/
inductive TagRes | ok | fail | again | notNow
  deriving DecidableEq, Repr

/-- The derivation unit derives the two notice keys of a tree from the candidate root key; two derivations (R304, R307). Their time is not
modelled: the tag of the notice that asks for them is checked in the same step (DESIGN CHOICE, log entry 134). -/
def Dev.deriveNotice (k : Nat) (d : Dev) : Dev :=
  let root := (d.vault.kex.get {} k).cand
  let fc := (d.tree k).join.fcAssign
  (d.modVault fun v => { v with noticeKeys := v.noticeKeys.set none k (some (noticeKey root .down k fc, noticeKey root .up k fc)) }).bumpN
    .derivations (sliceOfTree k) 0 2
def Dev.eraseNotice (k : Nat) (d : Dev) : Dev := d.modVault fun v => { v with noticeKeys := v.noticeKeys.erase k }

/-- Check 4 on the tag of a notice, in trailer t. N.KEX phase 2 asks for the notice keys, which go again when its tag fails (R169, R304). -/
def Dev.checkTag (k v : Nat) (n : NoticeIn) (t : Block) (d : Dev) : TagRes × Dev :=
  let h := n.hdr.pl
  let x := d.tree k
  let done := decide (nType h = 0x05 ∧ (nParam h).toNat % 4 = 2)
  if x.join.st < 3 then
    if nType h = 0x0C then (.ok, d)
    else if done then
      if (x.join.tKex.map fun e => decide (d.now < e)).getD false then
        if (d.vault.kex.get {} k).active then
          let d := d.deriveNotice k
          if d.noticeTagOk k ((d.vault.noticeKeys.get none k).map (·.1)) n t then (.ok, d) else (.fail, d.eraseNotice k)
        else (.fail, d)
      else (.notNow, d)
    else (.fail, d)
  else if done then (.notNow, d)
  else if !d.noticeTagOk k ((d.vault.noticeKeys.get none k).map (·.1)) n t then (.fail, d)
  else if x.ex.freshV v then (.ok, d)
  else if ((x.ex.last.get none (nType h)).map fun l => l.v == v).getD false then (.again, d)
  else (.fail, d)

/-- The block after a notice is known from now on (R145). -/
def Dev.noticeAt (k : Nat) (parcel : Bool) (key next : Nat) (d : Dev) : Dev :=
  d.modTree k fun x =>
    let c : NoticeCur := { key := key, next := next }
    { x with ex := if parcel then { x.ex with curParcel := some c } else { x.ex with curList := some c } }

/-- Checks 2 to 5 of Table 5.3 on a notice whose header passed check 1 and whose blocks have come; the value v of a tagged one is kept when it is
accepted (R306). A held duplicate is not
assigned (R21, R156). -/
def Dev.noticeChecks (k draw : Nat) (n : NoticeIn) (t : RxBlock) (d : Dev) : Dev :=
  let h := n.hdr.pl
  let x := d.tree k
  let v := x.fr.fc / 2 ^ 32 * 2 ^ 32 + nSeq h
  if nType h = 0 ∨ 15 < nType h then d.noticeFails k 2 .noticeUnknown h
  else if !d.addressed k h n.body then d
  else if !bodyOk (nType h) (nAddr h) ((nParam h).toNat % 4) (nBody h) || !(n.body.all RxBlock.ok && t.ok) then d.noticeFails k 4 .noticeBad h
  else
    let state := fun (keep : Bool) (d : Dev) =>
      if stateAllows (nType h) (nAddr h) (nAuth h) x.join.st && !(nType h == 1 && x.fr.dup) &&
          (nType h != 5 || nAuth h == decide ((nParam h).toNat % 4 = 2)) then
        (if keep then d.modTree k fun x => { x with ex := x.ex.takeV v } else d).acceptNotice k v draw n
      else d.noticeFails k 5 .noticeState h
    if !nAuth h then
      if crc32Blocks (h :: n.body.map (·.pl)) = fld 32 0 t.pl then state false d else d.noticeFails k 4 .noticeBad h
    else match d.checkTag k v n t.pl with
    | (.fail, d) => d.noticeFails k 4 .noticeAuth h
    | (.notNow, d) => d.noticeFails k 5 .noticeState h
    | (.again, d) =>
      let a := ((x.ex.last.get none (nType h)).map (·.answers)).getD []
      d.noticeFails k 4 .noticeAuth h |>.forEach a fun a d => d.queueAnswer k a
    | (.ok, d) => state (decide (3 ≤ x.join.st) || nType h == 5) d

/-- NOTICE_RECEIVED (R145 to R148, Table 5.3): the notice that stands next in its stream. BODY of a header that passed check 1 gives the block
after it; after one that did not, none is known any more in that stream (DEDUCED, log entry 106). A header of type 0 ends the notices of its
parcel. One that would run past the end of its stream counts; one that the end of a truncated parcel cuts does not. -/
def Dev.notice (k draw : Nat) (n : NoticeIn) (d : Dev) : Dev :=
  let h := n.hdr.pl
  let x := d.tree k
  if !x.cfg.configured || !x.fr.tfl then d
  else match d.noticeStream k n with
  | none => d
  | some (parcel, key, blocks) =>
    if x.ex.nextBlock parcel key != some n.off || Nat.ble blocks n.off then d
    else if !n.hdr.ok || blockChk h != fld 16 0 h then (d.noticeAt k parcel key blocks).noticeFails k 1 .noticeBad h
    else if parcel && nType h == 0 then d.noticeAt k parcel key blocks
    else if Nat.blt blocks (n.off + 2 + nBody h) then (d.noticeAt k parcel key blocks).noticeFails k 1 .noticeBad h
    else match n.trailer with
    | none => d
    | some t => (d.noticeAt k parcel key (n.off + 2 + nBody h)).noticeChecks k draw n t

/-! ### Processing (R148, R161 to R177) -/

/-- The notice of type ty at the head of the queue, taken off it. -/
def Dev.takeNotice (k ty : Nat) (d : Dev) : Option NoticeQ × Dev :=
  match (d.tree k).ex.queue with
  | q :: rest => if q.ntype = ty then (some q, d.modTree k fun x => { x with ex := { x.ex with queue := rest } }) else (none, d)
  | [] => (none, d)

/-- A computation for the notice in hand still runs (R148). -/
def Exchange.busy (x : Exchange) : Bool := x.kexShare.isSome || x.reqReady.isSome

/-- Process the notice of type ty at the head of the queue by f: one at a time, after what is computed for the one before (R148). -/
def Dev.process (k ty : Nat) (f : NoticeQ → Dev → Dev) (d : Dev) : Dev :=
  if (d.tree k).ex.busy then d
  else match d.takeNotice k ty with
  | (none, d) => d
  | (some q, d) => if q.dup then d.replay k q else f q d

/-- A value that an EqD notice sets waits for its frame (R129): two after the first whose list completes after acceptance, when that list has
completed already. -/
def Tree.eqdEntry (x : Tree) (q : NoticeQ) (v : Nat) : Nat × Option Nat :=
  (v, ((x.fr.listDone.reverse.find? fun e => Nat.blt q.at_ e.1).map fun e => e.2 + 2))

/-- N.ASSIGN (R161): every count of frames moves to the hub's 64-bit count. What is placed in announcement windows goes, and the answers that
wait take the first ASEQs (R151; DEDUCED, log entry 62). -/
def Dev.nAssign (k : Nat) (q : NoticeQ) (d : Dev) : Dev :=
  if (d.tree k).join.st != 0 || (d.tree k).fr.dup then d
  else
    let d := d.commitDue k
    let fcAssign := q.param.toNat * 2 ^ 32 + q.frame % 2 ^ 32
    let move := fun (f : Nat) => f + fcAssign - q.frame
    let d := d.modTree k fun x =>
      let y := x.moveFrames move
      let n := x.ex.answers.length
      { y with fr := { y.fr with fc := move x.fr.fc },
               pitches := y.pitches.map (fun p => if p.phase == 0 then { p with answers := [] } else p),
               cfg := { x.cfg with changes := x.cfg.changes.map fun c => { c with frame := move c.frame } },
               eqd := { y.eqd with next := y.eqd.next ++ [y.eqdEntry { q with frame := move q.frame } (fld 27 27 (b0 q)).toNat], rangeCur := none, rangeNext := [], roundCur := 0, roundNext := [] },
               ex := { y.ex with challenged := false, measured := false,
                                 answers := (x.ex.answers.zip (List.range n)).map fun e => { e.1 with aseq := e.2 } },
               join := { x.join with leaf := some (fld 10 54 (b0 q)).toNat, fcAssign := fcAssign, k := 0, draw := none, count := 0,
                                     pass := none, aseq := n, tAssign := none, tAnnounced := some (d.now + Config.sec) } }
    d.setLeaf k 1

/-- N.RANGE (R162): its EqD and its ROUND wait for the same frame. -/
def Dev.nRange (k : Nat) (q : NoticeQ) (d : Dev) : Dev :=
  d.modTree k fun x =>
    { x with eqd := { x.eqd with rangeNext := x.eqd.rangeNext ++ [x.eqdEntry q (fld 27 0 q.param).toNat],
                                 roundNext := x.eqd.roundNext ++ [x.eqdEntry q (fld 4 27 q.param).toNat] } }

/-- N.EQD (R163). -/
def Dev.nEqd (k : Nat) (q : NoticeQ) (d : Dev) : Dev :=
  let d := d.modTree k fun x => { x with eqd := { x.eqd with next := x.eqd.next ++ [x.eqdEntry q (fld 27 0 q.param).toNat] } }
  let d := d.ack k q 0
  if q.param.getLsbD 31 && (d.tree k).join.st == 1 then
    (d.modTree k fun x =>
      { x with join := { x.join with tAnnounced := none, tRanged := some (d.now + 30 * Config.sec) },
               ex := { x.ex with challenged := false, measured := false, hubKey := none, chain := 0, chainBlocks := [] } }).setLeaf k 2
  else d

/-- The rules of R50 on a tap setting. -/
def tapsOk (pre main post : Nat) : Bool := decide (pre ≤ 24 ∧ pre + main + post ≤ 63 ∧ 32 ≤ main)

/-- N.TXSET (R164): each named lane in the group alone, from the next burst (R51). -/
def Dev.nTxset (k : Nat) (q : NoticeQ) (d : Dev) : Dev :=
  let x := d.tree k
  let lanes := x.groupLanes.filter fun i => q.param.getLsbD i
  let taps := fun (i : Nat) => fld 16 (112 - 16 * (i % 8)) (q.body.getD (i / 8) 0)
  let ok := fun (i : Nat) => tapsOk (fld 5 11 (taps i)).toNat (fld 6 5 (taps i)).toNat (fld 5 0 (taps i)).toNat
  let d := d.forEach lanes fun i d =>
    match x.laneOf i with
    | none => d
    | some l =>
      if ok i then d.modTx l fun t =>
        { t with eqNext := some { pre := (fld 5 11 (taps i)).toNat, main := (fld 6 5 (taps i)).toNat, post := (fld 5 0 (taps i)).toNat, source := 1 } }
      else d.modTx l fun t => { t with eqRefused := satInc 1023 t.eqRefused }
  d.ack k q (if lanes.all ok then 0 else 4)

/-- MSG_LEN and OFFSET of a fragment, and the message bytes it holds (R165). -/
def fragLen (q : NoticeQ) : Nat := (fld 16 112 (b0 q)).toNat
def fragOff (q : NoticeQ) : Nat := (fld 16 96 (b0 q)).toNat
def fragEnd (q : NoticeQ) : Nat := min (fragLen q) (fragOff q + 16 * (q.body.length - 1))

/-! ### The P-384 unit (R429) -/

/-- The unit begins the next request, if its time has come: of those that have arrived, one of the lowest level, the first in it; then none for
25 us. A lane carries each to its end, and with one request a channel there are always lanes (80 for 65 channels). -/
def SignUnit.beginNext (u : SignUnit) (now : Ticks) : SignUnit :=
  match u.wait with
  | [] => u
  | r :: _ =>
    let s := max u.next r.at_
    if now < s then u
    else match [1, 2, 3].findSome? fun l => u.wait.find? fun r => r.level == l && decide (r.at_ ≤ s) with
    | none => u
    | some x => { wait := u.wait.erase x, run := u.run ++ [x], next := s + 25 * Config.us }

/-- The unit as it stands at an instant. -/
def SignUnit.upTo (u : SignUnit) (now : Ticks) : SignUnit := (List.range u.wait.length).foldl (fun u _ => u.beginNext now) u

def SignUnit.ask (u : SignUnit) (level ch : Nat) (now : Ticks) : SignUnit :=
  let u := u.upTo now
  { u with wait := u.wait ++ [{ level := level, ch := ch, at_ := now }] }

/-- The work of a channel has not begun: nothing of it can be ready. -/
def SignUnit.waiting (u : SignUnit) (ch : Nat) (now : Ticks) : Bool := (u.upTo now).wait.any fun r => r.ch == ch

/-- The work of a channel is done. -/
def SignUnit.done (u : SignUnit) (ch : Nat) (now : Ticks) : SignUnit := (u.upTo now).drop ch

/-! ### Key exchange (R166 to R169) -/

/-- Every certificate is signed by the one before it, all but the last are certificate authorities, the last permits signatures (R167). -/
def linked : CertView → List CertView → Bool
  | c, [] => c.digSig
  | c, x :: xs => c.ca && x.signedBy == c.key && linked x xs

/-- The chain is accepted: besides, its first issuer is a trust anchor of the policy blob (R167). -/
def chainAccepted (anchors : List Nat) : List CertView → Bool
  | [] => false
  | c :: cs => anchors.contains c.issuer && linked c cs

/-- N.KEX phase 0 (R167): the fragments are joined; certs is what the whole chain says. Only the last fragment is answered, and a failed or
partial chain is erased. -/
def Dev.kexChain (k : Nat) (certs : List CertView) (q : NoticeQ) (d : Dev) : Dev :=
  let x := (d.tree k).ex
  let blocks := (if fragOff q = 0 then [] else x.chainBlocks) ++ q.body.drop 1
  let keep := fun (next : Nat) (bs : List Block) (key : Option Nat) (d : Dev) =>
    d.modTree k fun x => { x with ex := { x.ex with chain := next, chainBlocks := bs, hubKey := key } }
  if fragOff q != x.chain && fragOff q != 0 then keep 0 [] none d
  else if fragEnd q < fragLen q then keep (fragEnd q) blocks none d
  else if chainAccepted d.vault.anchors certs && decide (fragLen q ≤ 16384) then
    (keep 0 blocks (certs.getLast?.map (·.key)) d).ack k q 0
  else (keep 0 [] none d).ack k q 5

/-- The input of H1 (R168): the label, tree ID, serial, leaf number, FC_ASSIGN, Q_H and N_H. -/
def Dev.h1Input (d : Dev) (k : Nat) (q : NoticeQ) : List Byte :=
  let x := d.tree k
  [0x4E, 0x4C, 0x44, 0x2D, 0x4B, 0x45, 0x58, 0x31] ++ bytesBE 4 x.cfg.lockedId ++ bytesBE 8 d.vault.fuses.serial ++ bytesBE 2 (x.join.leaf.getD 0) ++
    bytesBE 8 x.join.fcAssign ++ blockBytes (q.body.take 8)

/-- σ_H, blocks 8 to 13 of the body (R179). -/
def sigmaH (q : NoticeQ) : Nat := natBE (blockBytes ((q.body.drop 8).take 6))

/-- σ_H verifies over H1 under the key of the hub's end-entity certificate (R168). -/
def Dev.hubSigOk (d : Dev) (k : Nat) (q : NoticeQ) : Bool :=
  ((d.tree k).ex.hubKey.map fun key => p384Verify (BitVec.ofNat 768 key) (sha384 (d.h1Input k q)) (BitVec.ofNat 768 (sigmaH q))).getD false

/-- N.KEX phase 1 (R166, R168); after an unlock it is not answered (R437). The vault wakes for its request, which the P-384 unit
serves before all others (R379, R429). -/
def Dev.kexShareIn (k : Nat) (q : NoticeQ) (d : Dev) : Dev :=
  let d := d.wake 5 causeTree
  let x := (d.tree k).ex
  if d.vault.noSign then d
  else if !(x.challenged && x.measured && x.hubKey.isSome) then d.ack k q 7
  else if !d.hubSigOk k q then d.ack k q 5
  else (d.modVault fun v => { v with sign := v.sign.ask 1 k d.now }).modTree k fun x => { x with ex := { x.ex with kexShare := some q } }

/-- A signature of the identity key over a digest (R168, R427). -/
def Dev.sign (d : Dev) (h : BitVec 384) : BitVec 768 :=
  p384Sign (d.vault.identity.getD 0) (Config.ecdsaSecret (d.vault.identity.getD 0) h) h

/-- What the vault computes from its ephemeral key and nonce (R168): Q_L, N_L and σ_L, and the root key: one step of SP 800-56C, SHA-384 of
[1] ‖ Z ‖ "NLD-ROOT" ‖ H2, of which 256 bits are taken. -/
def Dev.kexShare (d : Dev) (k : Nat) (q : NoticeQ) (eph : Nat) (nonce : BitVec 256) : List Byte × Nat :=
  let qh := BitVec.ofNat 768 (natBE (blockBytes (q.body.take 6)))
  let ql := bytesBE 96 (p384Public eph).toNat
  let nl := bytesBE 32 nonce.toNat
  let h2 := sha384 (bytesBE 48 (sha384 (d.h1Input k q)).toNat ++ ql ++ nl)
  let z := bytesBE 48 (p384Ecdh eph qh).toNat
  let root := sha384 (bytesBE 4 1 ++ z ++ [0x4E, 0x4C, 0x44, 0x2D, 0x52, 0x4F, 0x4F, 0x54] ++ bytesBE 48 h2.toNat)
  (ql ++ nl ++ bytesBE 96 (d.sign h2).toNat, root.toNat / 2 ^ 128)

/-- A.KEX phase 1 is ready: the vault holds the exchange and the candidate root key (R168). Nothing is ready before the P-384 unit has begun
it (R429). -/
def Dev.kexReady (k eph : Nat) (nonce : BitVec 256) (d : Dev) : Dev :=
  match (d.tree k).ex.kexShare with
  | none => d
  | some q =>
    if (d.tree k).join.st != 2 || d.vault.sign.waiting k d.now then d
    else
      let (share, root) := d.kexShare k q eph nonce
      let d := d.modVault fun v => { v with kex := v.kex.set {} k { active := true, cand := root }, sign := v.sign.done k d.now }
      let d := d.modTree k fun x => { x with ex := { x.ex with kexShare := none } }
      d.reply k q { atype := 0x44, nseq := q.nseq, ntype := 0x05, body := blocksOfBytes share, param := 1 }

/-- The values a root key is sealed to (R433). -/
def Vault.sealTag (v : Vault) : SealTag := { mr0 := v.mr0, mr1 := v.mr1, mr2 := v.mr2, mr3 := v.mr3 }

/-- N.KEX phase 2 (R169): the root key is sealed, the tree is Authenticated. Its notice keys have been derived at acceptance (R304). -/
def Dev.kexDone (k : Nat) (q : NoticeQ) (d : Dev) : Dev :=
  let kex := d.vault.kex.get {} k
  if (d.tree k).join.st != 2 || !kex.active then d
  else
    let d := d.modVault fun v =>
      { v with roots := v.roots.set {} k { held := true, key := kex.cand, tag := v.sealTag }, kex := v.kex.erase k }
    let d := d.modTree k fun x => { x with join := { x.join with tRanged := none } }
    (d.setLeaf k 3).reply k q { atype := 0x44, tagged := true, nseq := q.nseq, ntype := q.ntype, param := 2 }

/-- Fragments of an earlier response that no commit has fixed are discarded, from the queue and from assemblies (R165). -/
def Dev.dropResponse (k : Nat) (d : Dev) : Dev :=
  (d.commitDue k).modTree k fun x =>
    { x with pitches := x.pitches.map fun p =>
               if p.phase == 0 then { p with answers := p.answers.filter fun a => a.atype != 0x45 } else p,
             ex := { x.ex with answers := x.ex.answers.filter (fun a => a.atype != 0x45), respLeft := 0, respKind := 0 } }

/-- What an SPDM message asks: its code stands in byte 1, its two parameters in bytes 2 and 3, the algorithms that NEGOTIATE_ALGORITHMS
offers in bytes 8 to 15 (PRESUMED from DSP0274, log entry 108). -/
def spdmKindOf (m : List Byte) : SpdmKind :=
  let b := fun i => (m.getD i 0).toNat
  match b 1 with
  | 0x84 => .getVersion
  | 0xE1 => .getCapabilities
  | 0xE3 => .negotiate (b 6 % 2 == 1 || (b 8).testBit 7 || (b 12).testBit 1)
  | 0x81 => .getDigests
  | 0x82 => .getCertificate (b 2)
  | 0x83 => .challenge (b 2) (b 3)
  | 0xE0 => .getMeasurements (b 2 % 2 == 1) (b 3)
  | _ => .other

/-- The request needs a signature of the identity key. -/
def SpdmKind.signs : SpdmKind → Bool
  | .challenge _ _ => true
  | .getMeasurements s _ => s
  | _ => false

/-- The request that a tree's fragments spell. -/
def Exchange.reqBytes (x : Exchange) : List Byte := (blockBytes x.req).take x.reqLen
def Exchange.reqKind (x : Exchange) : SpdmKind := spdmKindOf x.reqBytes

/-- A complete request goes to the P-384 unit when it asks for a signature that is not refused (R429, R437). -/
def Dev.askSign (level ch : Nat) (r : SpdmKind) (d : Dev) : Dev :=
  if r.signs && !d.vault.noSign then d.modVault fun v => { v with sign := v.sign.ask level ch d.now } else d

/-- N.ATTEST (R165). -/
def Dev.nAttest (k : Nat) (q : NoticeQ) (d : Dev) : Dev :=
  let x := (d.tree k).ex
  if fragOff q != x.reqNext && fragOff q != 0 then d.modTree k fun x => { x with ex := { x.ex with req := [], reqNext := 0, reqLen := 0 } }
  else
    let old := if fragOff q = 0 then [] else x.req
    let blocks := old ++ q.body.drop 1
    if fragEnd q < fragLen q then
      d.modTree k fun x => { x with ex := { x.ex with req := blocks, reqNext := fragEnd q, reqLen := fragLen q } }
    else
      let d := ((d.wake 5 causeTree).dropResponse k).modTree k fun x =>
        { x with ex := { x.ex with req := blocks, reqNext := 0, reqLen := fragLen q, reqReady := some q.nseq } }
      d.askSign 2 k (d.tree k).ex.reqKind

def Alloc.dirs (a : Alloc) : Nat := a.ds.toNat + 2 * a.us.toNat

/-- Each applied change raises an event (R173). -/
def Dev.allocEvent (k : Nat) (aid : Word) (before after nseq : Nat) (d : Dev) : Dev :=
  d.raise (qTree k) 0x05 1 k [aid.toNat, before, after, nseq / 2 ^ 20, nseq % 2 ^ 20]

/-- The accept bit changes at the boundary of the first frame whose start arrives after authentication (R100). -/
def Dev.bitChange (k : Nat) (aid : Word) (val : Bool) (frame : Nat) (d : Dev) : Dev :=
  d.modTree k fun x => { x with acc := { x.acc with waiting := x.acc.waiting ++ [{ aid := aid.toNat, val := val, frame := frame + 1 }] } }

/-- One entry of N.ALLOC_ADD: its result (R171). -/
def Dev.allocAdd (k : Nat) (q : NoticeQ) (v : BitVec 32) (d : Dev) : Nat × Dev :=
  let aid := slotAid v
  let dir := slotDir v
  let a := (d.tree k).allocs.get {} aid.toNat
  let new := a.dirs == 0
  let add := dir - (dir &&& a.dirs)
  if dir = 0 then (0, d)
  else if Config.aidReserved aid then (3, d)
  else if new && decide (Config.maxAids ≤ (d.tree k).allocs.length) then (2, d)
  else if add = 0 then (1, d)
  else
    let n := sliceOfTree k
    let d := d.modTree k fun x => { x with allocs := x.allocs.upd {} aid.toNat fun a =>
      { a with ds := a.ds || dir % 2 == 1, us := a.us || decide (2 ≤ dir) } }
    let d := d.allocEvent k aid a.dirs (dir ||| a.dirs) q.nseq
    let (c, d) := if new then d.bindCtx k aid else ((d.ctxOf n k aid.toNat).getD 0, d)
    let d := if add % 2 = 1 then ((d.wakeFromOff (pdPipe n .down) causeTree).addDir n c (slotEpoch v) .down).bitChange k aid true q.frame else d
    (0, if 2 ≤ add then d.addDir n c (slotEpoch v) .up else d)

/-- One entry of N.ALLOC_REMOVE (R172): an AID that holds none of the directions named stays as it is, with result 1. -/
def Dev.allocRemove (k : Nat) (q : NoticeQ) (v : BitVec 32) (d : Dev) : Nat × Dev :=
  let aid := slotAid v
  let dir := slotDir v
  let a := (d.tree k).allocs.get {} aid.toNat
  let gone := dir &&& a.dirs
  let n := sliceOfTree k
  if dir = 0 then (0, d)
  else if gone = 0 then (1, d)
  else
    let left := a.dirs - gone
    let d := if 2 ≤ gone then (d.undoAid k aid).dropQueued k aid .removeDropped else d
    let d := d.modTree k fun x =>
      { x with allocs := if left = 0 then x.allocs.erase aid.toNat
                         else x.allocs.upd {} aid.toNat fun a => { a with ds := left % 2 == 1, us := decide (2 ≤ left) } }
    let d := d.allocEvent k aid a.dirs left q.nseq
    let d := if gone % 2 = 1 then d.bitChange k aid false q.frame else d
    match d.ctxOf n k aid.toNat with
    | none => (0, d)
    | some c =>
      (0, if left = 0 then d.freeCtx n c
          else
            let d := if gone % 2 = 1 then d.dropDir n c .down else d
            if 2 ≤ gone then d.dropDir n c .up else d)

/-- Apply the four slots in order, each on its own. -/
def Dev.slots (f : BitVec 32 → Dev → Nat × Dev) (b : Block) (d : Dev) : List Nat × Dev :=
  [0, 1, 2, 3].foldl (fun (rs, d) s =>
    let (r, d) := f (slotOf b s) d
    (rs ++ [r], d)) ([], d)

def Dev.nAllocAdd (k : Nat) (q : NoticeQ) (d : Dev) : Dev :=
  if (d.tree k).join.st < 3 then d
  else
    let (rs, d) := d.slots (fun v d => d.allocAdd k q v) (b0 q)
    let d := if (d.tree k).join.st == 3 && !(d.tree k).allocs.isEmpty then d.setLeaf k 4 else d
    d.ackSlots k q 0x46 rs

def Dev.nAllocRemove (k : Nat) (q : NoticeQ) (d : Dev) : Dev :=
  if (d.tree k).join.st < 3 then d
  else
    let (rs, d) := d.slots (fun v d => d.allocRemove k q v) (b0 q)
    let d := if (d.tree k).join.st == 4 && (d.tree k).allocs.isEmpty then d.setLeaf k 3 else d
    d.ackSlots k q 0x46 rs

/-- One entry of N.DORMANT (R174). Table 5.13 lists ACT 0, 1 and 2: a slot with ACT 3 is taken as empty (DESIGN CHOICE, log entry 131). -/
def Dev.dormantSlot (k : Nat) (v : BitVec 32) (d : Dev) : Nat × Dev :=
  let aid := slotAid v
  let act_ := slotDir v
  let a := (d.tree k).allocs.get {} aid.toNat
  if act_ = 0 ∨ act_ = 3 then (0, d)
  else if a.dirs = 0 then (6, d)
  else if a.dormant = (act_ == 1) then (1, d)
  else (0, d.modTree k fun x => { x with allocs := x.allocs.upd {} aid.toNat fun a => { a with dormant := act_ == 1 } })

def Dev.nDormant (k : Nat) (q : NoticeQ) (d : Dev) : Dev :=
  let (rs, d) := d.slots (fun v d => d.dormantSlot k v) (b0 q)
  d.ackSlots k q 0x47 rs

/-- N.TIME (R178, Table 12.4). -/
def Dev.nTime (k : Nat) (q : NoticeQ) (d : Dev) : Dev :=
  d.modTree k fun x =>
    { x with time := { x.time with utc := (fld 16 112 (b0 q)).toInt, leap := (fld 2 110 (b0 q)).toNat, asym := (fld 32 78 (b0 q)).toInt } }

/-- N.PROTECT (R175). -/
def Dev.nProtect (k : Nat) (q : NoticeQ) (d : Dev) : Dev :=
  let x := d.tree k
  let partner := (fld 32 96 (b0 q)).toNat
  let ok := match x.cfg.pair with
    | none => false
    | some o => x.cfg.working == !q.param.getLsbD 0 &&
        ((d.tree o).cfg.lockedId == partner || (d.tree o).cfg.lockedId == 0)
  if ok then d.ack k q 0 else (d.ack k q 8).raise (qTree k) 0x05 3 k [partner / 2 ^ 20, partner % 2 ^ 20]

/-- N.LANE (R93): the change takes effect at position 40 of the frame it names, or of the next frame when that has passed. -/
def Dev.nLane (k : Nat) (q : NoticeQ) (d : Dev) : Dev :=
  let x := d.tree k
  let low := (fld 32 96 (b0 q)).toNat
  let ahead := (low + 2 ^ 32 - q.frame % 2 ^ 32) % 2 ^ 32
  let late := ahead == 0 || decide (2 ^ 31 ≤ ahead)
  let frame := if late then q.frame + 1 else q.frame + ahead
  let c : LaneChange := { frame := frame, lane := (fld 4 92 (b0 q)).toNat, back := (b0 q).getLsbD 91 }
  let d := if late then d.bump .laneLate k 0 else d
  d.setTree k { x with cfg := { x.cfg with changes := x.cfg.changes ++ [c] } }

/-- N.DEREGISTER (R177). -/
def Dev.nDeregister (k draw : Nat) (q : NoticeQ) (d : Dev) : Dev :=
  if (d.tree k).join.st = 0 then d else ((d.commitDue k).deregister k (q.param.toNat % 65536) q.at_).tryDraw k draw

/-! ### Timers (R153, R157, R158) -/

def past (now : Ticks) (e : Option Ticks) : Bool := (e.map fun t => decide (t ≤ now)).getD false

def Dev.assignExpiry (k draw : Nat) (d : Dev) : Dev :=
  let x := d.tree k
  if x.join.st == 0 && past d.now x.join.tAssign then
    ((d.modTree k fun x => { x with join := { x.join with tAssign := none, k := min (x.join.k + 1) 10 } }).bump .assignTimeout k 0).tryDraw k draw
  else d

def Dev.announcedExpiry (k draw : Nat) (d : Dev) : Dev :=
  if (d.tree k).join.st == 1 && past d.now (d.tree k).join.tAnnounced then ((d.commitDue k).deregister k 0 d.now).tryDraw k draw else d

def Dev.rangedExpiry (k draw : Nat) (d : Dev) : Dev :=
  if (d.tree k).join.st == 2 && past d.now (d.tree k).join.tRanged then ((d.commitDue k).deregister k 0 d.now).tryDraw k draw else d

def Dev.kexExpiry (k : Nat) (d : Dev) : Dev :=
  if past d.now (d.tree k).join.tKex then
    ((d.modVault fun v => { v with kex := v.kex.erase k }).modTree k fun x => { x with join := { x.join with tKex := none } }).bump .kexTimeout k 0
  else d

def Dev.holdoffExpiry (k draw : Nat) (d : Dev) : Dev :=
  if past d.now (d.tree k).join.holdoff then
    (d.modTree k fun x => { x with join := { x.join with holdoff := none } }).tryDraw k draw
  else d

/-- Answers not committed within 1 s of becoming ready are discarded: those that wait, an undone A.SERIAL or A.RANGE, and those in assemblies
(R153). -/
def Dev.answersStale (k : Nat) (d : Dev) : Dev :=
  let d := d.commitDue k
  let old := fun (a : Answer) => decide (a.ready + Config.sec ≤ d.now)
  let x := d.tree k
  let inP := x.pitches.foldl (fun n p => if p.phase == 0 then n + (p.answers.filter old).length else n) 0
  let attest := x.ex.answers.any (fun a => old a && a.atype == 0x45) || x.pitches.any fun p => p.phase == 0 && p.answers.any fun a => old a && a.atype == 0x45
  let d := d.bumpN .ansStale k 0 (inP + ((x.ex.answers ++ x.ex.ranges ++ x.join.pass.toList).filter old).length)
  d.modTree k fun x =>
    { x with pitches := x.pitches.map fun p => if p.phase == 0 then { p with answers := p.answers.filter fun a => !old a } else p,
             join := { x.join with pass := x.join.pass.filter fun a => !old a },
             ex := { x.ex with answers := x.ex.answers.filter (fun a => !old a), ranges := x.ex.ranges.filter (fun a => !old a), respKind := if attest then 0 else x.ex.respKind } }

/-! ### Commands (Table 5.18) -/

def treeChecks (rq : Req) (d : Dev) (n : Nat) : List Check :=
  [chkLen rq n, chkReady d [needPortOf (rq.prm 0)], chkRange rq [(0, 0, 63)], failIf (!(d.tree (rq.prm 0)).cfg.configured) .unconfigured 0]

/-- `JOIN_STATUS` (Table 5.17). -/
def Dev.joinStatus (d : Dev) (k : Nat) : List Word :=
  let x := d.tree k
  let j := x.join
  [j.st * 2 ^ 17 + x.dt.held.toNat * 2 ^ 16 + x.fr.dup.toNat * 2 ^ 15 + j.holdoff.isSome.toNat * 2 ^ 14 + j.k * 2 ^ 10 + j.leaf.getD 0,
   x.eqd.cur / 2 ^ 20, x.eqd.cur % 2 ^ 20, j.attempts / 2 ^ 40 % 256, j.attempts / 2 ^ 20 % 2 ^ 20, j.attempts % 2 ^ 20,
   x.allocs.length].map (BitVec.ofNat 20)

def joinCounts : List CN := [.noticeBad, .noticeUnknown, .noticeAuth, .noticeState, .assignTimeout, .kexTimeout, .ansStale]

def cmdJoinStatus : Cmd := fun rq d =>
  let k := rq.prm 0
  withChecks (treeChecks rq d 1) d <|
    okWith d (resWords (d.joinStatus k) ++ (joinCounts.flatMap fun c => resWide 48 (d.count c k 0).val.toNat) ++
      resWide 48 (d.tree k).join.attempts ++ [BitVec.ofNat 32 (d.tree k).dt.held.toNat] ++ resWide 32 (d.tree k).dt.treeId)

/-- `dormant_request`: tree; count; then for each of up to 4 AIDs the AID and 1 (make dormant) or 2 (lift) (R174, R402). -/
def cmdDormantRequest : Cmd := fun rq d =>
  let k := rq.prm 0
  let m := rq.prm 1
  let is := List.range m
  withChecks [chkLenIf (decide (2 ≤ rq.len) && rq.len == 2 + 2 * m), chkReady d [needPortOf k, [if k < 64 then fnUs (k / 8) else 99]],
      chkRange rq [(0, 0, 63), (1, 1, 4)], is.findSome? fun i => chkRange rq [(3 + 2 * i, 1, 2)],
      failIf (!(d.tree k).cfg.configured) .unconfigured 0,
      failIf (is.any fun i => ((d.tree k).allocs.get {} (rq.prm (2 + 2 * i))).dirs == 0) .notFound,
      (is.find? fun i => !((d.tree k).allocs.get {} (rq.prm (2 + 2 * i))).us).map fun i => { code := .refused, detail := 2 + 2 * i }] d <|
    let slot := fun (i : Nat) => put 128 (108 - 32 * i) (BitVec.ofNat 20 (rq.prm (2 + 2 * i))) ||| put 128 (106 - 32 * i) (BitVec.ofNat 2 (rq.prm (3 + 2 * i)))
    okDone (d.queueAnswer k { atype := 0x47, tagged := true, param := 1, body := [is.foldl (fun b i => b ||| slot i) 0] })

def cmdJoinLogRead : Cmd := fun rq d =>
  let k := rq.prm 0
  withChecks ([chkLen rq 3, chkDma rq d] ++ (treeChecks rq d 3).drop 1 ++ [failIf (rq.raw 1 % 4 != 0) .range 1]) d <|
    okDone (d.hostWrite rq.mb.val (rq.addr 1) ((d.tree k).ex.log.flatMap fun e =>
      resWide 20 e.typ ++ resWide 32 e.nseq ++ resWide 20 e.result ++ resWide 64 e.time))

namespace Machine

def execJoinStatusCmd (t : Nat) (rq : Req) (s : State) : Host.Outcome State Fault Refusal := act t (runCmd 0x0510 cmdJoinStatus rq) s
def execDormantRequest (t : Nat) (rq : Req) (s : State) : Host.Outcome State Fault Refusal := act t (runCmd 0x0511 cmdDormantRequest rq) s
def execJoinLogRead (t : Nat) (rq : Req) (s : State) : Host.Outcome State Fault Refusal := act t (runCmd 0x0512 cmdJoinLogRead rq) s

def execNoticeReceived (t : Nat) (k : Fin 64) (n : NoticeIn) (draw : Nat) (s : State) : Host.Outcome State Fault Refusal :=
  act t (Dev.notice k.val draw n) s
def execNAssign (t : Nat) (k : Fin 64) (s : State) : Host.Outcome State Fault Refusal := act t (Dev.process k.val 0x01 (Dev.nAssign k.val)) s
def execNRange (t : Nat) (k : Fin 64) (s : State) : Host.Outcome State Fault Refusal := act t (Dev.process k.val 0x02 (Dev.nRange k.val)) s
def execNEqd (t : Nat) (k : Fin 64) (s : State) : Host.Outcome State Fault Refusal := act t (Dev.process k.val 0x03 (Dev.nEqd k.val)) s
def execNTxset (t : Nat) (k : Fin 64) (s : State) : Host.Outcome State Fault Refusal := act t (Dev.process k.val 0x04 (Dev.nTxset k.val)) s

/-- N.KEX of one phase at the head of the queue (R167 to R169). -/
def kexHead (k phase : Nat) (f : NoticeQ → Dev → Dev) (d : Dev) : Dev :=
  if ((d.tree k).ex.queue.head?.map fun q => q.param.toNat % 4 == phase).getD false then d.process k 0x05 f else d

def execNKexPhase0 (t : Nat) (k : Fin 64) (certs : List CertView) (s : State) : Host.Outcome State Fault Refusal :=
  act t (kexHead k.val 0 (Dev.kexChain k.val certs)) s
def execNKexPhase1 (t : Nat) (k : Fin 64) (s : State) : Host.Outcome State Fault Refusal :=
  act t (kexHead k.val 1 (Dev.kexShareIn k.val)) s
def execNKexPhase2 (t : Nat) (k : Fin 64) (s : State) : Host.Outcome State Fault Refusal := act t (kexHead k.val 2 (Dev.kexDone k.val)) s
def execNAttest (t : Nat) (k : Fin 64) (s : State) : Host.Outcome State Fault Refusal := act t (Dev.process k.val 0x06 (Dev.nAttest k.val)) s
def execNAllocAdd (t : Nat) (k : Fin 64) (s : State) : Host.Outcome State Fault Refusal := act t (Dev.process k.val 0x07 (Dev.nAllocAdd k.val)) s
def execNAllocRemove (t : Nat) (k : Fin 64) (s : State) : Host.Outcome State Fault Refusal :=
  act t (Dev.process k.val 0x08 (Dev.nAllocRemove k.val)) s

/-- A notice of the type that the row names is received; it is acted on at its acceptance (R148). -/
def noticeOf (k draw ty : Nat) (f : Block → Bool) (n : NoticeIn) (d : Dev) : Dev :=
  if nType n.hdr.pl = ty && f n.hdr.pl then d.notice k draw n else d

def execNPitchRev (t : Nat) (k : Fin 64) (n : NoticeIn) (s : State) : Host.Outcome State Fault Refusal :=
  act t (noticeOf k.val 0 0x09 (fun _ => true) n) s
def execNTime (t : Nat) (k : Fin 64) (s : State) : Host.Outcome State Fault Refusal := act t (Dev.process k.val 0x0A (Dev.nTime k.val)) s
def execNProtect (t : Nat) (k : Fin 64) (s : State) : Host.Outcome State Fault Refusal := act t (Dev.process k.val 0x0B (Dev.nProtect k.val)) s
def execNDisableTxSet (t : Nat) (k : Fin 64) (n : NoticeIn) (s : State) : Host.Outcome State Fault Refusal :=
  act t (noticeOf k.val 0 0x0C (fun h => (nParam h).getLsbD 0) n) s
def execNDisableTxLift (t : Nat) (k : Fin 64) (n : NoticeIn) (draw : Nat) (s : State) : Host.Outcome State Fault Refusal :=
  act t (noticeOf k.val draw 0x0C (fun h => !(nParam h).getLsbD 0) n) s
def execNDeregister (t : Nat) (k : Fin 64) (draw : Nat) (s : State) : Host.Outcome State Fault Refusal :=
  act t (Dev.process k.val 0x0D (Dev.nDeregister k.val draw)) s
def execNDormant (t : Nat) (k : Fin 64) (s : State) : Host.Outcome State Fault Refusal := act t (Dev.process k.val 0x0E (Dev.nDormant k.val)) s

/-- N.LANE of one action at the head of the queue (R93). -/
def laneHead (k : Nat) (back : Bool) (d : Dev) : Dev :=
  if ((d.tree k).ex.queue.head?.map fun q => (b0 q).getLsbD 91 == back).getD false then d.process k 0x0F (Dev.nLane k) else d

def execNLaneRemove (t : Nat) (k : Fin 64) (s : State) : Host.Outcome State Fault Refusal := act t (laneHead k.val false) s
def execNLaneReturn (t : Nat) (k : Fin 64) (s : State) : Host.Outcome State Fault Refusal := act t (laneHead k.val true) s
def execKexShareReady (t : Nat) (k : Fin 64) (eph : Nat) (nonce : BitVec 256) (s : State) : Host.Outcome State Fault Refusal :=
  act t (Dev.kexReady k.val eph nonce) s
def execTAssignExpiry (t : Nat) (k : Fin 64) (draw : Nat) (s : State) : Host.Outcome State Fault Refusal := act t (Dev.assignExpiry k.val draw) s
def execTAnnouncedExpiry (t : Nat) (k : Fin 64) (draw : Nat) (s : State) : Host.Outcome State Fault Refusal := act t (Dev.announcedExpiry k.val draw) s
def execTRangedExpiry (t : Nat) (k : Fin 64) (draw : Nat) (s : State) : Host.Outcome State Fault Refusal := act t (Dev.rangedExpiry k.val draw) s
def execTKexExpiry (t : Nat) (k : Fin 64) (s : State) : Host.Outcome State Fault Refusal := act t (Dev.kexExpiry k.val) s
def execHoldoffExpiry (t : Nat) (k : Fin 64) (draw : Nat) (s : State) : Host.Outcome State Fault Refusal := act t (Dev.holdoffExpiry k.val draw) s
def execAnswerStale (t : Nat) (k : Fin 64) (s : State) : Host.Outcome State Fault Refusal := act t (Dev.answersStale k.val) s

end Machine
end Sys2Proof
end

