-- ==== Sys2Proof/Machine/Downstream.lean ====
section
/-! DEFINITION. From lane bits to accepted parcels (03_downstream.md, R19 to R22, R39, R41, R87, R347, R348). -/

namespace Sys2Proof

/-! ### The logical lane map (R20, R21, R23) -/

/-- The event queue of a lane's narrowest owner: the tree whose group holds it, else its port or system group (R462). -/
def Dev.laneQueue (d : Dev) (l : Nat) : Nat :=
  match (if l < 256 then d.treeOfLane l else none) with
  | some k => qTree k
  | none => qLane l

/-- Fault numbers in the detail of an event: 0 short, 1 open, 2 reversed, 3 shuffled, 4 looped; the model's (log entry 22). -/
def faultShort : Nat := 0
def faultOpen : Nat := 1
def faultReversed : Nat := 2
def faultShuffled : Nat := 3
def faultLooped : Nat := 4

/-- A fault is detected, or cleared: the event and the count of the lane (R68). -/
def Dev.laneFault (l fault : Nat) (found : Bool) (more : List Nat) (c : CN) (d : Dev) : Dev :=
  (d.raise (d.laneQueue l) 0x02 (if found then 3 else 4) l (fault :: more)).bump c l 0

/-- A lane carries the number of another place, or its own again: the table gives no clearance of this fault (R68). -/
def Dev.setShuffled (l : Nat) (on : Bool) (d : Dev) : Dev :=
  if (d.rxLane l).shuffled = on then d
  else
    let d := d.modRx l fun x => { x with shuffled := on }
    if on then d.laneFault l faultShuffled true [] .shuffleFound else d

/-- Lane a gained frame lock before lane b, or at the same instant with a lower number. -/
def Dev.lockedBefore (d : Dev) (a b : Nat) : Bool :=
  let x := (d.align a).lockAt
  let y := (d.align b).lockAt
  decide (x < y) || (x == y && decide (a < b))

def insertLane (d : Dev) (a : Nat) : List Nat → List Nat
  | [] => [a]
  | b :: bs => if d.lockedBefore a b then a :: b :: bs else b :: insertLane d a bs

/-- Lanes of the group in frame lock, in the order in which they gained it. -/
def Dev.framedLanes (d : Dev) (k : Nat) : List Nat :=
  ((d.groupLanes k).filter fun l => (d.align l).st == 2).foldl (fun a l => insertLane d l a) []

/-- The lane receives the block's own bursts (R83). -/
def Dev.looped (d : Dev) (l : Nat) : Bool :=
  let a := d.align l
  a.st != 0 && (a.ident.map fun i => i.serial == d.vault.fuses.serial).getD false

/-- The tree ID to which the group is held (R21). -/
def Dev.lockedIdOf (d : Dev) (k : Nat) : Nat :=
  let c := (d.tree k).cfg
  match d.framedLanes k with
  | [] => 0
  | ls => if c.expId != 0 then c.expId else if c.lockedId != 0 then c.lockedId
          else ((ls.find? fun l => !d.looped l).bind fun l => (d.align l).ident.map (·.treeId)).getD 0

/-- One lane in frame lock finds its place in the map, or the reason for its exclusion (R20). -/
def Dev.placeLane (d : Dev) (k locked : Nat) (acc : Tab Nat × Tab Nat) (l : Nat) : Tab Nat × Tab Nat :=
  let (m, ex) := acc
  match (d.align l).ident with
  | none => acc
  | some i =>
    if d.looped l then acc
    else if i.treeId != locked then (m, ex.set 0 l 4)
    else if (d.tree k).cfg.size ≤ i.logical then (m, ex.set 0 l 1)
    else if m.get 0 i.logical != 0 then (m, ex.set 0 l 2)
    else (m.set 0 i.logical (l + 1), ex)

/-- A lane of a running tree that has only lost its lock keeps its place, unless another lane carries its number (R23). -/
def Dev.keepPlaces (d : Dev) (k : Nat) (m ex : Tab Nat) : Tab Nat :=
  let x := d.tree k
  if x.fr.tfl then
    x.cfg.laneMap.foldl (fun m e =>
      if m.get 0 e.1 == 0 && e.2 != 0 && ex.get 0 (e.2 - 1) == 0 && (d.align (e.2 - 1)).st != 2 then m.set 0 e.1 e.2 else m) m
  else m

/-- The logical lanes of the group with their device lanes. -/
def Tree.group (x : Tree) : List (Nat × Nat) := x.groupLanes.filterMap fun i => (x.laneOf i).map fun l => (i, l)

/-- Lanes that leave the group send nothing more of the bursts committed on them (R20, R115). -/
def Dev.stopLanes (k : Nat) (gone : List Nat) (d : Dev) : Dev :=
  let running := (d.tree k).pitches.flatMap fun p => if p.phase == 3 then p.lanes.filter gone.contains else []
  (d.laneEnd running).modTree k fun x => { x with pitches := x.pitches.map fun p =>
    if p.phase == 1 || p.phase == 3 then { p with lanes := p.lanes.filter fun l => !gone.contains l } else p }

/-- A change of the tree's lanes, once the commits that are due are made: the lanes that leave the group stop and their taps are reset, the
Pitches are judged again (R23, R51, R115). -/
def Dev.regroup (k : Nat) (f : Dev → Dev) (d : Dev) : Dev :=
  let d := d.commitDue k
  let x := d.tree k
  let was := x.group
  let d := f d
  let now_ := (d.tree k).group
  if was = now_ then d
  else
    let left := (was.filter fun e => !now_.any fun g => g.2 == e.2).map (·.2)
    ((d.stopLanes k ((was.filter fun e => !now_.contains e).map (·.2))).resetTaps left).lanesChanged k x

/-- A tree holds tree frame lock to a tree ID (R21). -/
def Dev.holdsId (d : Dev) (k id : Nat) : Bool :=
  let x := d.tree k
  x.cfg.configured && x.fr.tfl && x.fr.heldId == id && id != 0

/-- Tree k, in tree frame lock, is locked to a tree ID that it did not hold: it is a duplicate while another tree holds it (R21). A tree
whose lanes all lose frame lock for less than the loss of tree frame lock holds the ID it had (DEDUCED, log entry 101). -/
def Dev.takeId (k : Nat) (d : Dev) : Dev :=
  let x := d.tree k
  let id := x.cfg.lockedId
  if !x.fr.tfl || id == 0 || id == x.fr.heldId then d
  else
    let earlier := (List.range 64).find? fun j => j != k && d.holdsId j id
    let d := d.modTree k fun x => { x with fr := { x.fr with heldId := id, dup := earlier.isSome } }
    match earlier with
    | some j => d.raise (qTree k) 0x01 4 k [j]
    | none => d

/-- Holds whose cause is gone end (R21). -/
def Dev.endHolds (d : Dev) : Dev :=
  d.forEach (List.range 64) fun k d =>
    let id := (d.tree k).fr.heldId
    if (d.tree k).fr.dup && !((List.range 64).any fun j => j != k && d.holdsId j id) then
      (d.modTree k fun x => { x with fr := { x.fr with dup := false } }).raise (qTree k) 0x01 6 k []
    else d

/-- The lane map is formed anew from the identifiers; rebuilds and exclusions are reported (R20, R21). The rule lists no further items of
the two events: they name the number of mapped lanes, and of an excluded lane the reason, 1 number too large, 2 duplicate, 3 looped,
4 foreign (DESIGN CHOICE, log entry 102). -/
def Dev.remap (k : Nat) (d : Dev) : Dev :=
  if !(d.tree k).cfg.configured then d
  else
    let x := d.tree k
    let locked := d.lockedIdOf k
    let lanes := d.groupLanes k
    let ex0 : Tab Nat := (lanes.filter d.looped).foldl (fun m l => m.set 0 l 3) []
    let (m, ex) := (d.framedLanes k).foldl (d.placeLane k locked) (([] : Tab Nat), ex0)
    let m := d.keepPlaces k m ex
    let d := d.forEach lanes fun l d =>
      let r := ex.get 0 l
      let was := (d.align l).excluded
      let d := if r != 0 && was != r then d.raise (qTree k) 0x01 3 l [r] else d
      let d := if r == 3 && was != 3 then d.laneFault l faultLooped true [] .loopFound
               else if r != 3 && was == 3 then d.laneFault l faultLooped false [] .loopCleared else d
      let d := match m.find? fun e => e.2 == l + 1 with
        | some e => d.setShuffled l (e.1 != l - x.cfg.first)
        | none => d
      d.modAlign l fun a => { a with excluded := r }
    let d := if m != x.cfg.laneMap then d.raise (qTree k) 0x01 2 k [m.length] else d
    (d.regroup k fun d => d.modTree k fun x => { x with cfg := { x.cfg with laneMap := m, lockedId := locked } }).takeId k |>.endHolds

/-- The map of the tree that lane l belongs to. -/
def Dev.remapLane (l : Nat) (d : Dev) : Dev :=
  match d.treeOfLane l with
  | none => d
  | some k => d.remap k

/-! ### Locks of a lane (R78 to R85) -/

/-- Counts of Table 3.11 for a lane, and for its tree while it is of the stripe set. -/
def Dev.pmAdd (l : Nat) (f : Pm → Pm) (d : Dev) : Dev :=
  let d := d.modAlign l fun a => { a with pm := f a.pm }
  match d.treeOfLane l with
  | none => d
  | some k =>
    if (d.tree k).stripeDev.contains l then d.modTree k fun x => { x with fr := { x.fr with pm := f x.fr.pm } } else d

/-- Both locks are dropped (Table 3.6): an event when the lane held one. -/
def Dev.dropLocks (l : Nat) (d : Dev) : Dev :=
  let a := d.align l
  if a.st = 0 then d
  else
    let d := d.raise (d.laneQueue l) 0x03 1 l [a.st, 0]
    (d.modAlign l fun a => { a with st := 0, passes := 0, fails := 0, passed := false, fresh := false, prevSkew := 0, ident := none,
                                    pm := { a.pm with lol := 1 } }).remapLane l

/-- What the decoder of lane l has counted since its last decision (R105). -/
def Dev.pmTail (l : Nat) (x : LaneTail) (d : Dev) : Dev :=
  d.pmAdd l fun p => { p with corr := p.corr + x.corr, uncorr := p.uncorr + x.uncorr, inv := p.inv + x.inv }

/-- The blocks of codeword 0 (Tables 3.3 to 3.5): what a frame start says. -/
structure FrameStart where
  pattern : Bool     -- position 0 holds the pattern; without it the frame start is missing
  passed : Bool
  fc : BitVec 32
  ident : Option Ident
  sr : Option (BitVec 16)
  tod : Option (Option Nat)
  deriving DecidableEq, Repr

/-- OH_CRC over positions 0 to 38 (R82). -/
def ohCrc (cw : List RxBlock) : BitVec 32 := crc32Blocks ((cw.take 39).map (·.pl))

def identOf (b : RxBlock) : Option Ident :=
  if b.ctl && fld 8 120 b.pl == 0x2D then
    some { treeId := (fld 32 88 b.pl).toNat, logical := (fld 4 84 b.pl).toNat, laneCount := (fld 5 79 b.pl).toNat,
           serial := (fld 64 0 b.pl).toNat }
  else none

/-- The time-of-day stamp, linear in 2^-16 ns; none when TOD_NS is out of range (R347, R348). -/
def todOf (b : Block) : Option Nat :=
  let sec := (fld 48 72 b).toNat
  let ns := (fld 32 40 b).toNat
  if ns < 1000000000 then some ((sec * 1000000000 + ns) * 65536 + (fld 16 24 b).toNat) else none

/-- What the frame positions of codeword 0 must hold (Table 3.1). -/
def positionTypes : List (Nat × BitVec 8) := [(0, 0x4B), (1, 0x2D), (2, 0x66), (3, 0x55), (39, 0x69)]

/-- The control blocks of codeword 0 whose type is not allowed where they stand (R75). -/
def wrongTypes (cw : List RxBlock) : Nat :=
  (positionTypes.filter fun p => let b := cw.getD p.1 { ctl := false, pl := 0 }; b.ctl && fld 8 120 b.pl != p.2).length

/-- A block of a wrong type is processed as idle: it carries nothing (R75). -/
def frameStartOf (cw : List RxBlock) : FrameStart :=
  let b := fun i => cw.getD i { ctl := false, pl := 0 }
  let p0 := (b 0).pl
  let has := fun i (ty : BitVec 8) => (b i).ctl && fld 8 120 (b i).pl == ty
  let pattern := has 0 0x4B && fld 56 64 p0 == 0xD359A6C21EB74F
  { pattern := pattern,
    passed := pattern && fld 8 24 p0 == 1 && !(cw.any (·.unc)) && has 39 0x69 && fld 32 0 (b 39).pl == ohCrc cw && cw.length == 40,
    fc := fld 32 32 p0, ident := identOf (b 1), 
    sr := if has 2 0x66 then some (fld 16 104 (b 2).pl) else none, tod := if has 3 0x55 then some (todOf (b 3).pl) else none }

/-- WHOLE_SECOND: what the decoders have counted of codewords that ended before the edge, beside what their decisions brought, belongs to the
record that has latched (R106). -/
def Dev.secondTail (l : Nat) (x : LaneTail) (d : Dev) : Dev :=
  let add := fun (p : PmRec) => { p with pm := { p.pm with corr := p.pm.corr + x.corr, uncorr := p.pm.uncorr + x.uncorr, inv := p.pm.inv + x.inv } }
  if 256 ≤ l || (d.align l).st == 0 then d
  else
    let d := d.modAlign l fun a => { a with pmRec := add a.pmRec }
    match d.treeOfLane l with
    | none => d
    | some k => if (d.tree k).stripeDev.contains l then d.modTree k fun x => { x with fr := { x.fr with pmRec := add x.fr.pmRec } } else d

def Dev.secondEdge (modelled : Nat) (tails : List (Nat × LaneTail)) (d : Dev) : Dev :=
  if d.timeOn && Nat.blt d.time.pulse d.time.second then (d.forEach tails fun e d => d.secondTail e.1 e.2).wholeSecond modelled else d

/-- The block positions of a frame (R80). -/
def framePositions : Nat := 196800

/-- A frame start stands at an instant; after one frame exactly, the distance is 13,284,000 UI of the recovered clock (R31). -/
def Align.startAt (a : Align) (arrival : Ticks) (oneFrame : Bool) : Align :=
  { a with arrival := arrival, interval := if oneFrame then arrival - a.arrival else a.interval }

/-- What a passing frame start leaves on its lane. -/
def Align.adopt (a : Align) (f : FrameStart) : Align :=
  { a with fc := f.fc, passed := true, fails := 0, ident := match f.ident with | some i => some i | none => a.ident,
           sr := f.sr, tod := f.tod }

/-- A lane in block lock looks for frame lock (R84): pos counts the positions since the last frame start that it judged. -/
def Dev.seekFrame (l : Nat) (arrival : Ticks) (pos : Nat) (f : FrameStart) (d : Dev) : Dev :=
  let a := d.align l
  if !f.passed then d.modAlign l fun a => { a with passes := 0, passed := false }
  else
    let whole := a.passes != 0 && pos == framePositions
    let n := if whole && f.fc == a.fc + 1 then a.passes + 1 else 1
    let d := d.modAlign l fun a => { (a.startAt arrival whole).adopt f with passes := n }
    if 3 ≤ n then
      let d := d.modAlign l fun a => { a with st := 2, passes := 0, lockAt := d.now, prevSkew := 0, fresh := true }
      (d.raise (d.laneQueue l) 0x03 1 l [2, 1]).remapLane l
    else d

/-- A codeword that ended at an instant belongs to the second that has latched (R106). -/
def Dev.inLatched (d : Dev) (at_ : Ticks) : Bool := d.timeOn && Nat.blt at_ (d.instantOf (d.time.second * 1000000000))

/-- An event of a lane, or of a tree, counts in the open second or in the one that has latched. -/
def Align.note (late : Bool) (f : Pm → Pm) (a : Align) : Align :=
  if late then { a with pmRec := { a.pmRec with pm := f a.pmRec.pm } } else { a with pm := f a.pm }
def TreeFrame.note (late : Bool) (f : Pm → Pm) (x : TreeFrame) : TreeFrame :=
  if late then { x with pmRec := { x.pmRec with pm := f x.pmRec.pm } } else { x with pm := f x.pm }
def Pm.addFs (p : Pm) : Pm := { p with fs := p.fs + 1 }
def Pm.addSkew (p : Pm) : Pm := { p with skew := p.skew + 1 }

/-- A lane in frame lock decides its frame start, one frame after the last; one that does not pass is flywheeled (R85), and counts in the second
in which its codeword ended (R106). -/
def Dev.followFrame (l : Nat) (arrival : Ticks) (f : FrameStart) (d : Dev) : Dev :=
  let late := d.inLatched (arrival + Config.cwt)
  let d := d.modAlign l fun a => { a.startAt arrival true with fresh := true }
  if f.passed then (d.modAlign l fun a => a.adopt f).remapLane l
  else d.modAlign l fun a => { a with fc := a.fc + 1, passed := false, fails := a.fails + 1 }.note late Pm.addFs

/-- Blocks of a wrong type count for the tree of their lane (R75). -/
def Dev.countTypes (l n : Nat) (d : Dev) : Dev :=
  match d.treeOfLane l with
  | none => d
  | some k => if n == 0 then d else d.bumpN .badType k 0 n

/-- FRAME_START_DECISION: the codeword at a position, pos after the last frame start, its first bit at an instant, and what the decoder has
counted (R88, R105). In frame lock only the position of the frame start is decided; a passing one elsewhere is ignored (R85). -/
def Dev.frameStartDecision (l : Nat) (arrival : Ticks) (pos : Nat) (cw : List RxBlock) (x : LaneTail) (d : Dev) : Dev :=
  let a := d.align l
  let f := frameStartOf cw
  if a.st = 0 then d
  else
    let d := d.pmTail l x
    if a.st = 1 then d.seekFrame l arrival pos f
    else if pos != framePositions then d
    else (d.countTypes l (wrongTypes cw)).followFrame l arrival f

/-- The eighth frame start in a row that does not pass: frame lock is dropped, block lock stays (R85). -/
def Dev.frameLockLoss (l : Nat) (d : Dev) : Dev :=
  let a := d.align l
  if a.st != 2 || decide (a.fails < 8) then d
  else
    let d := d.raise (d.laneQueue l) 0x03 1 l [2, 0]
    (d.modAlign l fun a => { a with st := 1, passes := 0, fails := 0, passed := false, fresh := false, prevSkew := 0, pm := { a.pm with lol := 1 } }).remapLane l

/-- A lane identifier block under block lock (R20, R83). That of a frame whose start does not pass says only whether the lane is
looped (R85). -/
def Dev.laneIdentifier (l : Nat) (blk : Block) (d : Dev) : Dev :=
  let a := d.align l
  match identOf { ctl := true, pl := blk } with
  | none => d
  | some i =>
    let own := i.serial == d.vault.fuses.serial
    if a.st = 0 then d
    else if (a.st = 2 && a.passed) || own || a.st = 1 then (d.modAlign l fun a => { a with ident := some i }).remapLane l
    else d

/-! ### Tree frames (R86 to R91) -/

/-- 8 us and one block time, in UI (R91). -/
def skewLimit : Nat := 850177
def excursionUi : Nat := 65

/-- A lane's skew in this frame, and its excursion (R90, R91). -/
def Dev.noteSkew (k l ui : Nat) (d : Dev) : Dev :=
  let a := d.align l
  let moved := a.passed && a.prevSkew != 0 && decide (a.prevSkew - 1 + excursionUi ≤ ui ∨ ui + excursionUi ≤ a.prevSkew - 1)
  let exc := moved || decide (skewLimit < ui)
  let tell := exc && a.evSec != d.devSec + 1
  let late := d.inLatched (a.arrival + Config.cwt)
  let d := d.modAlign l fun a =>
    { a with skew := ui, prevSkew := if a.passed then ui + 1 else a.prevSkew, evSec := if tell then d.devSec + 1 else a.evSec }
  let d := if exc then (d.modAlign l fun a => a.note late Pm.addSkew).modTree k fun x => { x with fr := x.fr.note late Pm.addSkew } else d
  if tell then d.raise (d.laneQueue l) 0x03 3 l [min ui 0xFFFFF] else d

/-- The lane has decided this frame's start in frame lock. -/
def Dev.laneFresh (d : Dev) (l : Nat) : Bool :=
  let a := d.align l
  a.st == 2 && a.fresh

/-- The logical lanes that a frame needs: the stripe set, with the lanes that return in it (R86, R93). -/
def Tree.needed (x : Tree) (frame : Nat) : List Nat :=
  let back := (x.cfg.changes.filter fun c => c.back && decide (c.frame ≤ frame)).map (·.lane)
  if laneCountOk x.fr.laneCount x.cfg.size then
    (List.range x.fr.laneCount).filter fun i => !x.cfg.removed.contains i || back.contains i
  else []

/-- The conditions of tree frame lock: every needed lane holds frame lock with one FRAME_COUNT, within the skew limit (R86). -/
def Dev.lockOk (d : Dev) (x : Tree) (need : List Nat) : Bool :=
  let ls := need.filterMap x.laneOf
  let fc0 := (ls.head?.map fun l => (d.align l).fc).getD 0
  !need.isEmpty && ls.length == need.length &&
    ls.all fun l => d.laneFresh l && (d.align l).fc == fc0 && decide ((d.align l).skew ≤ skewLimit)

/-- The tree frame does not fail: besides, every needed lane has a passing frame start (R86). -/
def Dev.frameOk (d : Dev) (x : Tree) (need : List Nat) : Bool :=
  d.lockOk x need && (need.filterMap x.laneOf).all fun l => (d.align l).passed

/-- LANE_COUNT follows the reference lane's identifier; a group-size mismatch is reported as it begins (R86). No rule lists the further items
of the events of SOURCE 0x03; those the model gives, here the count and the group size, are its own (DESIGN CHOICE, log entry 103). -/
def Dev.noteCount (k : Nat) (d : Dev) : Dev :=
  let x := d.tree k
  match x.refLane.bind fun l => (d.align l).ident with
  | none => d
  | some i =>
    let bad := !laneCountOk i.laneCount x.cfg.size
    let d := if bad && !x.fr.mismatch then d.raise (qTree k) 0x03 4 k [i.laneCount, x.cfg.size] else d
    d.regroup k fun d => d.modTree k fun x => { x with fr := { x.fr with laneCount := i.laneCount, mismatch := bad } }

/-- The tree gains tree frame lock (R21, R87, R89, R103). -/
def Dev.gainTree (k : Nat) (fc : BitVec 32) (d : Dev) : Dev :=
  let d := d.modTree k fun x =>
    { x with fr := { x.fr with tfl := true, hadTfl := true, loss := false, fails := 0, fc := fc.toNat, srRun := 0, sr := none, lockAt := d.now,
                               heldId := 0, dup := false, resync := false } }
  (d.raise (qTree k) 0x03 1 k [1]).takeId k

/-- The extended count of the new frame (R89): extrapolated, or, where the reference lane's passing start carries another low word, that one, under
the high word as it was. -/
def Dev.countFrame (k : Nat) (ref : Option (BitVec 32)) (d : Dev) : Dev :=
  let ext := (d.tree k).fr.fc + 1
  match ref with
  | none => d.modTree k fun x => { x with fr := { x.fr with fc := ext } }
  | some c =>
    let fc := if c.toNat = ext % 2 ^ 32 then ext else (ext - 1) / 2 ^ 32 * 2 ^ 32 + c.toNat
    let d := d.modTree k fun x => { x with fr := { x.fr with fc := fc } }
    if fc != ext then ((d.modTree k fun x => x.moveFrames fun f => f + fc - ext).bump .fcJump k 0).raise (qTree k) 0x03 2 k [c.toNat / 2 ^ 20, c.toNat % 2 ^ 20] else d

/-- The switching-request run (R103); none: the frame start did not pass. -/
def TreeFrame.run (f : TreeFrame) (v : Option (BitVec 16)) : TreeFrame :=
  match v with
  | none => { f with srRun := 0 }
  | some v => if f.srRun != 0 && f.srVal == v then { f with srRun := f.srRun + 1 } else { f with srVal := v, srRun := 1 }

/-- TREE_TIME (R347, R348); in source 1 the first valid OFFSET while armed steps device time, and ends holdover (R349, R350). -/
def Dev.treeTime (k : Nat) (tod : Option (Option Nat)) (d : Dev) : Dev :=
  let x := d.tree k
  let d := if tod = some none then d.bump .todBad k 0 else d
  match tod with
  | some (some stamp) =>
    if x.join.st < 2 || !x.fr.tfl then d.modTree k fun x => { x with time := { x.time with valid := false } }
    else
      let trip : Int := ((x.eqdFor x.fr.fc false) * Config.ui + 8 * Config.cwt : Nat)
      let t := (stamp : Int) - trip * 65536 / (2 * Config.ns) + x.time.asym
      let off := satSigned 60 (t - d.devAt x.fr.refArr)
      let d := d.modTree k fun x => { x with time := { x.time with valid := true, offset := off, lastValid := d.now } }
      if d.time.source == 1 && d.srcTree == k then
        let d := d.modTime fun y => { y with holdover := false }
        if d.time.armed then d.stepTime off else d.modTime fun y => y.noteOffset off
      else d
  | _ => d.modTree k fun x => { x with time := { x.time with valid := false } }

/-- The arrival of the frame's start on the reference lane, and the frame length of its recovered clock, as the flywheel places them (R31,
R85). -/
def Dev.refArrival (d : Dev) (k : Nat) : Ticks × Ticks :=
  let f := (d.tree k).fr
  match (d.tree k).refLane.map d.align with
  | some a => if a.st == 2 && a.fresh then (a.arrival, a.interval) else (f.refArr + f.refInt, f.refInt)
  | none => (f.refArr + f.refInt, f.refInt)

/-- The frame can be decided: every needed lane in frame lock has decided its frame start, the most skewed among them; with none in frame lock,
the time of a lane's decision has passed (R88). -/
def Dev.frameDue (d : Dev) (k : Nat) (ls : List Nat) : Bool :=
  let f := (d.tree k).fr
  match ls.filter fun l => (d.align l).st == 2 with
  | [] => f.hadTfl && decide (f.refArr + f.refInt + 3 * Config.cwt ≤ d.now)
  | a :: as => (a :: as).all fun l => (d.align l).fresh

/-- The skews of the frame, measured from the earliest needed lane (R90). -/
def Dev.measure (k : Nat) (need : List Nat) (d : Dev) : Dev :=
  let ls := (need.filterMap (d.tree k).laneOf).filter d.laneFresh
  match ls.map fun l => (d.align l).arrival with
  | [] => d
  | a :: as =>
    let first := as.foldl min a
    d.forEach ls fun l d => d.noteSkew k l (((d.align l).arrival - first) / Config.ui)

/-- TREE_FRAME_DECISION (R88): the tree decides its frame. A failed one counts in FS_ERRORS while tree frame lock is held: Table 3.11 says only
"failed tree frames" (DESIGN CHOICE, log entry 129). -/
def Dev.treeFrame (k draw : Nat) (d : Dev) : Dev :=
  if !(d.tree k).cfg.configured then d
  else
  let d := (d.remap k).noteCount k
  let x := d.tree k
  let need := x.needed (x.fr.fc + 1)
  let ls := need.filterMap x.laneOf
  if !d.frameDue k ls then d
  else
    let (at_, len) := d.refArrival k
    let d := ((d.noteStream k d.now).modPwr fun w => { w with streamCw := w.streamCw.set 0 k 0 }).measure k need
    let gain := !x.fr.tfl && d.lockOk x need
    let fail := x.fr.tfl && !d.frameOk x need
    let held := x.refLane.map d.align
    let ref := held.bind fun a => if a.st == 2 && a.fresh && a.passed then some a else none
    let d := if gain then d.gainTree k ((held.map (·.fc)).getD 0) else d.countFrame k (if x.fr.tfl then ref.map (·.fc) else none)
    let d := d.forEach ls fun l d => d.modAlign l fun a => { a with fresh := false }
    let past := if x.fr.tfl then (x.fr.refArr :: x.fr.refPast).take 16 else []
    let d := d.modTree k fun x =>
      { x with fr := { x.fr with refArr := at_, refInt := len, refPast := past, fails := if fail then x.fr.fails + 1 else 0, listBad := false,
                                 listSeen := 0, listIds := [], listNew := [] } }
    let late := d.inLatched (at_ + Config.cwt)
    let d := if fail then d.modTree k fun x => { x with fr := x.fr.note late Pm.addFs } else d
    if (d.tree k).fr.tfl then
      let d := d.modTree k fun x => { x with fr := x.fr.run (ref.bind (·.sr)) }
      let d := (d.overlapFrame k).treeTime k (ref.bind (·.tod))
      (d.reselect k).tryDraw k draw
    else d

/-- The tree loses tree frame lock: the interlock holds it off until it is regained (R41, R87, R139). -/
def Dev.loseTree (k : Nat) (d : Dev) : Dev :=
  let d := d.noteStream k d.now
  let d := match (d.tree k).fr.recv with
    | some x => d.loseParcel k x
    | none => d
  let d := d.modTree k fun x =>
    { x with fr := { x.fr with tfl := false, recv := none, loss := true, fails := 0, srRun := 0, heldId := 0, dup := false, pm := { x.fr.pm with lol := 1 } },
             time := { x.time with valid := false } }
  let d := d.raise (qTree k) 0x03 1 k [0]
  let d := if (d.tree k).pitches.any fun p => p.phase == 3 then (d.trip (portOfTree k) tripLost).cutStarted k else d
  (d.remap k).endHolds.reselect k

/-- ENTRY_TO_LOST (R41, R87): the eighth failed tree frame in a row of a tree that has left Listening. -/
def Dev.entryToLost (k : Nat) (d : Dev) : Dev :=
  let x := d.tree k
  if x.join.st = 0 || !x.fr.tfl || decide (x.fr.fails < 8) then d
  else
    let d := (((d.commitDue k).undoTree k).raise (qTree k) 0x01 5 k []).loseTree k
    let d := d.dropCommitted k
    let d := d.modTree k fun x => { x with pitches := [], il := [], cfg := { x.cfg with removed := [], changes := [] } }
    (d.discardTree k).resetTaps (d.groupLanes k)

/-- LISTENING_LOCK_LOSS (R87): the same in Listening; nothing is discarded. -/
def Dev.listeningLoss (k : Nat) (d : Dev) : Dev :=
  let x := d.tree k
  if x.join.st != 0 || !x.fr.tfl || decide (x.fr.fails < 8) then d else (d.commitDue k).loseTree k

/-! ### Switching requests (R102 to R104, R39) -/

/-- A value received identically in N consecutive frames is accepted (R103). -/
def Dev.srAccept (k : Nat) (d : Dev) : Dev :=
  let f := (d.tree k).fr
  if f.tfl && decide (f.srN ≤ f.srRun) && f.sr != some f.srVal then
    (d.modTree k fun x => { x with fr := { x.fr with sr := some x.fr.srVal } }).reselect k
  else d

/-- The switch is complete (R39): the member that carries the traffic changes; what the other has assembled and not committed goes
back to its queues. -/
def Dev.switchDone (k : Nat) (d : Dev) : Dev :=
  let w := d.pairKey k
  match (d.tree w).cfg.pair, (d.tree w).cfg.switching with
  | some o, some v =>
    let d := (d.commitDue w).commitDue o
    let d := d.modTree w fun x => { x with cfg := { x.cfg with selProtect := v, switching := none } }
    let off := if v then w else o
    let ps := d.inOrder off ((d.tree off).pitches.filter fun p => p.phase == 0 && p.opened && !p.reserved)
    let d := d.undoAll off ps
    let d := d.modTree off fun x => { x with pitches := x.pitches.map fun p => if p.phase == 0 && !p.reserved then { p with opened := false } else p }
    d.openAll (sliceOfTree w)
  | _, _ => d

/-! ### The Pitch list (R95, R109, R110, R131, R497) -/

/-- An entry of the list in reception, one of its ENTRY_COUNT (R95, R110, R154, R155). -/
def Dev.listEntry (k : Nat) (h b : RxBlock) (d : Dev) : Dev :=
  let x := d.tree k
  if !x.cfg.configured || !x.fr.tfl then d
  else match d.listHeader k h with
  | none => d.badList k
  | some (n, _) =>
    if Nat.ble n x.fr.listSeen then d
    else
    let d := d.modTree k fun x => { x with fr := { x.fr with listSeen := x.fr.listSeen + 1 } }
    let p := pitchOf b.pl (x.fr.fc + 2)
    if b.unc || b.ctl || blockChk b.pl != fld 16 0 b.pl then (if x.join.leaf.isSome then d.bump .entryBad k 0 else d)
    else if x.join.leaf.isNone && p.aid != Config.aidAnnounce then d
    else if x.join.leaf.isSome && x.join.leaf != some p.leaf then d
    else
      let seen := x.fr.listIds.contains p.pid
      let d := d.modTree k fun x => { x with fr := { x.fr with listIds := x.fr.listIds ++ [p.pid] } }
      if p.reserved && !x.usesReserved p.aid then d
      else if !p.reserved && !x.upAlloc p.aid then d.bump .entryUnknown k 0
      else if p.malformed then d.bump .pitchMalformed k 0
      else if seen then d.bump .entryDup k 0
      else d.modTree k fun x => { x with fr := { x.fr with listNew := x.fr.listNew ++ [p] } }

/-- The list is complete once its last entry is received (R497): its entries become used Pitches; an EqD authenticated before it holds from
its frame (R129). A list that is discarded completes too, and names the frame of a waiting EqD: the rule says nothing of it
(DESIGN CHOICE, log entry 104). Its end wakes the Barrow, and its Pitches the line port's transmitter from off alone (R374, R375), in
a pair that of both members (R472). -/
def Dev.listComplete (k : Nat) (h : RxBlock) (d : Dev) : Dev :=
  let x := d.tree k
  if !x.cfg.configured || !x.fr.tfl || ((d.listHeader k h).map fun e => Nat.blt x.fr.listSeen e.1).getD false then d
  else
    let d := match d.listHeader k h with
      | none => d.badList k
      | some _ => d
    let name := fun (xs : List (Nat × Option Nat)) => xs.map fun e => if e.2.isNone then (e.1, some (x.fr.fc + 2)) else e
    let ps := (d.tree k).fr.listNew
    let d := d.modTree k fun x =>
      { x with fr := { x.fr with listNew := [], listDone := ((d.now, x.fr.fc) :: x.fr.listDone).take 64 }, eqd := { x.eqd with next := name x.eqd.next, rangeNext := name x.eqd.rangeNext, roundNext := name x.eqd.roundNext } }
    let off := if ps.isEmpty then [] else (d.pairLtx k).filter fun q => (d.dom q).st == 2
    let d := d.wakeAll (pdBarrow (sliceOfTree k) :: off) causePitch
    d.useList k ps

/-- Values whose frame has come are in force (R129). -/
def Dev.eqdEffect (k : Nat) (d : Dev) : Dev :=
  d.modTree k fun x =>
    let due := fun (e : Nat × Option Nat) => (e.2.map fun n => decide (n ≤ x.fr.fc)).getD false
    { x with eqd := { cur := eqdOf x.eqd.cur x.eqd.next x.fr.fc, next := x.eqd.next.filter fun e => !due e,
                      rangeCur := if x.eqd.rangeNext.any due then some (eqdOf (x.eqd.rangeCur.getD 0) x.eqd.rangeNext x.fr.fc) else x.eqd.rangeCur,
                      rangeNext := x.eqd.rangeNext.filter (fun e => !due e),
                      roundCur := eqdOf x.eqd.roundCur x.eqd.roundNext x.fr.fc, roundNext := x.eqd.roundNext.filter fun e => !due e } }

/-! ### Changes at positions 40 and 200 (R93, R100, R101) -/

/-- Position p of the frame in progress, or of an earlier one, has been received. -/
def Dev.reached (d : Dev) (k frame pos : Nat) : Bool :=
  let f := (d.tree k).fr
  decide (frame < f.fc) || (frame == f.fc && decide (d.receivedAt k pos ≤ d.now))

/-- The stripe set changes at position 40 (R93). -/
def Dev.laneChange (k : Nat) (d : Dev) : Dev :=
  let due := (d.tree k).cfg.changes.filter fun c => d.reached k c.frame 40
  d.regroup k fun d => d.modTree k fun x =>
    { x with cfg := { x.cfg with
        removed := due.foldl (fun r c => if c.back then r.filter (fun i => i != c.lane) else if r.contains c.lane then r else r ++ [c.lane]) x.cfg.removed,
        changes := x.cfg.changes.filter fun c => !due.contains c } }

/-- A key of an allocation's downstream direction is still to come (R292). -/
def Dev.keysComing (d : Dev) (k aid : Nat) : Bool :=
  let n := sliceOfTree k
  match d.ctxOf n k aid with
  | none => false
  | some c => (d.slice n).key.derivs.any fun y => y.ctx == c && y.dir == .down && y.level == 3

/-- Accept bits change at position 200, and with them the list's downstream view (R100, R101). One whose keys are still to come waits for the next
boundary (R292). -/
def Dev.acceptBoundary (k : Nat) (d : Dev) : Dev :=
  let x := d.tree k
  let next := if d.reached k x.fr.fc 200 then x.fr.fc + 1 else x.fr.fc
  let held := fun (c : BitChange) => c.val && d.keysComing k c.aid
  let due := x.acc.waiting.filter fun c => d.reached k c.frame 200 && !held c
  let d := d.modTree k fun x =>
    { x with acc := { x.acc with waiting := x.acc.waiting.map fun c => if d.reached k c.frame 200 && held c then { c with frame := next } else c } }
  if due.isEmpty then d
  else
    let d := d.wake (pdTables (sliceOfTree k)) causeTree
    let one := fun (a : Accept) (c : BitChange) =>
      { a with bits := a.bits.set false c.aid c.val, view := a.view.set false c.aid c.val }
    d.modTree k fun x =>
      let rest := x.acc.waiting.filter fun c => !due.contains c
      { x with acc := due.foldl one { x.acc with waiting := rest } }

/-- The 32 bits of an accept word are rewritten from the view (R101); the bits that change, with the new map. -/
def Accept.rewrite (a : Accept) (word : Nat) : Nat × Accept :=
  (List.range 32).foldl (fun (r : Nat × Accept) b =>
    let i := 32 * word + b
    let v := r.2.view.get false i
    if r.2.bits.get false i = v then r else (r.1 + 1, { r.2 with bits := r.2.bits.set false i v }))
    (0, { a with badWords := a.badWords.filter fun w => w != word })

/-- An uncorrectable word is rewritten, with its event (R101). -/
def Dev.acceptRewrite (k word : Nat) (d : Dev) : Dev :=
  if (d.tree k).cfg.configured && decide (word < 32768) then
    (d.modTree k fun x => { x with acc := (x.acc.rewrite word).2 }).raise (qTree k) 0x03 5 k [word]
  else d

/-- The accept bit of an AID; every bit of an uncorrectable word counts as clear (R101). -/
def Accept.passes (a : Accept) (aid : Nat) : Bool := !a.badWords.contains (aid / 32) && a.bits.get false aid

/-! ### Parcels (R75, R96 to R99) -/

/-- Check 9 passed: the frame enters the slice's downstream path (R99, R233, R452). -/
def Dev.parcelIn (k : Nat) (x : Reception) (plain : List Byte) (stampAt tagAt : Ticks) (ue : List (Nat × Nat)) (d : Dev) : Dev :=
  let n := sliceOfTree k
  let d := (d.macOk .treeRx k ((d.slice n).tab.tags plain).tagged plain).bwAdd n (64 + 2 * (k % 8)) plain.length
  let (r, d) := (d.badWords n ue).stepOne n x.party
    { bytes := plain, dir := .down, port := k % 8, soft := some (hdrClass x.hdr), stamp := d.devAt stampAt,
      arrFrc := d.time.frcNs - (d.now - tagAt) / Config.ns, aid := fld 20 100 x.hdr, ing := x.ing }
  d.settleParcel k x.buf r

/-- Blocks of parcels that have passed check 5 (R376). -/
def Dev.acceptBlocks (k blocks : Nat) (d : Dev) : Dev :=
  d.modPwr fun w => { w with accBlocks := w.accBlocks.upd 0 (sliceOfTree k) fun v => v + blocks }

/-- A parcel's header passes check 5: the pipelines and the cipher wake, the buffer is requested (R233, R376). -/
def Dev.parcelBegin (k : Nat) (h : Block) (ue : List (Nat × Nat)) (d : Dev) : Dev :=
  ((d.wakeAll [pdPipe (sliceOfTree k) .down, pdCipher (sliceOfTree k) .down] causeTraffic).acceptBlocks k 1).requestParcel k h ue

/-- Checks 6 to 9 of Table 3.9 on the data blocks that arrived. -/
def Dev.parcelBody (k : Nat) (x : Reception) (data : List RxBlock) (keyBad : Bool) (ue : List (Nat × Nat))
    (stampAt tagAt : Ticks) (d : Dev) : Dev :=
  let n := sliceOfTree k
  let h := x.hdr
  let d := (d.wakeAll [pdPipe n .down, pdCipher n .down] causeTraffic).acceptBlocks k data.length
  if data.length < cdiv (hdrLength h) 16 + 1 then (d.bump .parTrunc k 0).loseParcel k x
  else if data.any (·.unc) then (d.bump .parFec k 0).loseParcel k x
  else
    let d := match (if keyBad then d.ctxOf n k (hdrAid h) else none) with
      | some c => d.cacheEntryBad n c .down (((d.keyCtx n c).epochOf (hdrEpoch h)).getD 1)
      | none => d
    match d.check8 k (hdrAid h) (hdrEpoch h) (hdrSeq h) h (data.map (·.pl)) with
    | (none, d) => d.loseParcel k x
    | (some plain, d) => if fcsOk plain then d.parcelIn k x plain stampAt tagAt ue else (d.bump .parFcs k 0).loseParcel k x

/-- A parcel header that can be trusted (R98). -/
def headerOk (hdr : RxBlock) : Bool := !hdr.unc && blockChk hdr.pl == fld 16 0 hdr.pl

/-- The data blocks of the parcel that a trusted header announces: up to D + 1 of those before the next control block (R98, R99). -/
def parcelData (h : Block) (rest : List RxBlock) : List RxBlock := (rest.takeWhile fun b => !b.ctl).take (cdiv (hdrLength h) 16 + 1)

/-- The data blocks between the parcel's end, which LENGTH gives, and the next control block stand outside any parcel (R96, R99). -/
def strayAfter (h : Block) (rest : List RxBlock) : Nat := (rest.takeWhile fun b => !b.ctl).length - (parcelData h rest).length

/-- The parcel in reception is over, with the blocks that came after its header: a notice parcel needs them all, one discarded at checks 2 to 5 is
only followed (R99, R146). -/
def Dev.parcelOver (k : Nat) (rest : List RxBlock) (stampAt tagAt : Ticks) (keyBad : Bool) (ue : List (Nat × Nat)) (d : Dev) : Dev :=
  match (d.tree k).fr.recv with
  | none => d
  | some x =>
    let data := parcelData x.hdr rest
    let d := d.modTree k fun y => { y with fr := { y.fr with recv := none } }
    let d := if x.kept = 1 then d.parcelBody k x data keyBad ue stampAt tagAt
             else if x.kept = 2 && (!noticeParcelOk x.hdr || decide (data.length < hdrLength x.hdr / 16 + 1)) then d.bump .noticeBad k 0 else d
    d.bumpN .strayData k 0 (strayAfter x.hdr rest)

/-- Checks 2 to 5 of Table 3.9, on the header of a parcel as it is received (R99): the accept bits that change at a boundary it has passed have
changed (R100). -/
def Dev.parcelChecks (k : Nat) (h : Block) (accBad : Bool) (ue : List (Nat × Nat)) (d : Dev) : Dev :=
  let len := hdrLength h
  if hdrAid h = Config.aidNotice.toNat then d.modTree k fun x => { x with fr := { x.fr with recv := some { hdr := h, kept := 2 } } }
  else if Config.aidReserved (fld 20 100 h) then d.bump .parRsvd k 0
  else if len < 64 ∨ 10240 < len then d.bump .parLen k 0
  else if !d.selected k then d.bump .parNotsel k 0
  else
    let word := hdrAid h / 32
    let d := d.acceptBoundary k
    let mark := fun (a : Accept) => { a with badWords := word :: a.badWords.filter fun w => w != word }
    let d := if accBad then (d.sramBad (sliceOfTree k) 11 word).modTree k fun x => { x with acc := mark x.acc } else d
    if !(d.tree k).acc.passes (hdrAid h) then d.bump .parUnacc k 0 else d.parcelBegin k h ue

/-- A control block of a parcel header: trusted, it begins its parcel; else blocks are skipped to the next control block that can be trusted
(R98). -/
def Dev.parcelHeader (k : Nat) (hdr : RxBlock) (accBad : Bool) (ue : List (Nat × Nat)) (d : Dev) : Dev :=
  if !headerOk hdr then (d.modTree k fun x => { x with fr := { x.fr with resync := true } }).bump .parHdr k 0
  else (d.modTree k fun x => { x with fr := { x.fr with resync := false, recv := some { hdr := hdr.pl } } }).parcelChecks k hdr.pl accBad ue

/-- A piece of the streams of a tree in tree frame lock (R75, R96, R98, R99). A control block ends the parcel in reception, which is truncated if
its blocks have not all come. While blocks are skipped, data blocks are not counted, and a control block of an uncorrectable codeword is skipped
with them. -/
def Dev.streamItem (k : Nat) (i : StreamItem) (keyBad : Bool) (ue : List (Nat × Nat)) (d : Dev) : Dev :=
  let x := d.tree k
  let ue := ue.filter fun e => Nat.ble e.1 2
  if !x.cfg.configured || !x.fr.tfl then d
  else match i with
  | .stray n => if x.fr.resync then d else d.bumpN .strayData k 0 n
  | .overhead typ => if typ == 0x1E then d else d.bump .badType k 0
  | .body rest stampAt tagAt => d.parcelOver k rest stampAt tagAt keyBad ue
  | .control b accBad =>
    if x.fr.resync && (!b.ctl || b.unc) then d
    else
      let d := d.parcelOver k [] d.now d.now false []
      if !b.ctl then d.bump .strayData k 0
      else if fld 8 120 b.pl == 0x78 then d.parcelHeader k b accBad ue
      else
        let d := d.modTree k fun x => { x with fr := { x.fr with resync := false } }
        if fld 8 120 b.pl == 0x1E then d else d.bump .badType k 0

/-! ### Commands (Table 3.13) -/

/-- `accept_read`: bits of an uncorrectable word read as clear (R101). The count is one dword of 20 bits, so a count of 2^20 cannot be named
and a count of 0 reads nothing (DESIGN CHOICE, log entry 105). -/
def cmdAcceptRead : Cmd := fun rq d =>
  let k := rq.prm 0
  let first := rq.prm 1
  let count := rq.prm 2
  withChecks [chkLen rq 5, chkDma rq d, chkReady d [needPortOf k], chkRange rq [(0, 0, 63)], failIf (first % 32 != 0) .range 1,
      failIf (count % 32 != 0 || decide (2 ^ 20 < first + count)) .range 2, failIf (rq.raw 3 % 4 != 0) .range 3,
      failIf (!(d.tree k).cfg.configured) .unconfigured 0] d <|
    let x := d.tree k
    okDone (d.hostWrite rq.mb.val (rq.addr 3) ((List.range (count / 32)).map fun i =>
      if x.acc.badWords.contains (first / 32 + i) then 0 else x.acceptDword (first / 32 + i)))

/-- `accept_rebuild`: the whole bitmap follows the view (R101). -/
def cmdAcceptRebuild : Cmd := fun rq d =>
  let k := rq.prm 0
  withChecks (treeChecks rq d 1) d <|
    let a := (d.tree k).acc
    let words := ((a.bits.map (·.1) ++ a.view.map (·.1)).map (· / 32)).eraseDups
    let (n, b) := words.foldl (fun (r : Nat × Accept) w =>
      let (m, a) := r.2.rewrite w
      (r.1 + m, a)) (0, a)
    okWith (d.modTree k fun x => { x with acc := { b with badWords := [] } }) (resWide 20 n)

def cmdSrFilterSet : Cmd := fun rq d =>
  let k := rq.prm 0
  withChecks [chkLen rq 2, chkReady d [needPortOf k], chkRange rq [(0, 0, 63), (1, 2, 8)], failIf (!(d.tree k).cfg.configured) .unconfigured 0] d <|
    okDone (d.modTree k fun x => { x with fr := { x.fr with srN := rq.prm 1 } })

/-- The excluded lane of the group that claims logical number i. -/
def Dev.claims (d : Dev) (k i : Nat) : Option Nat :=
  (d.groupLanes k).find? fun l => (d.align l).excluded != 0 && ((d.align l).ident.map fun x => x.logical == i).getD false

/-- `tree_skew_read`: of each logical lane its device lane, its skew and 0 stripe, 1 removed, 2 excluded, 3 absent (log entry 21).
Of a logical lane that no device lane holds, device lane and skew are 0 (DESIGN CHOICE, log entry 105). -/
def cmdTreeSkewRead : Cmd := fun rq d =>
  let k := rq.prm 0
  withChecks (treeChecks rq d 1) d <|
    let x := d.tree k
    let row := fun (i : Nat) =>
      let (l, role) := match x.laneOf i, d.claims k i with
        | some l, _ => (l, if x.cfg.removed.contains i then 1 else if x.stripe.contains i then 0 else 3)
        | none, some l => (l, 2)
        | none, none => (0, 3)
      let s := if role = 3 then 0 else (d.align l).skew
      [l, if skewLimit < s then 0xFFFFF else s, role]
    okWith d (toDwords ((List.range 16).flatMap row))

namespace Machine

def execWholeSecond (t modelled : Nat) (tails : List (Nat × LaneTail)) (s : State) : Host.Outcome State Fault Refusal :=
  act t (Dev.secondEdge modelled tails) s

def execAcceptRead (t : Nat) (rq : Req) (s : State) : Host.Outcome State Fault Refusal := act t (runCmd 0x0310 cmdAcceptRead rq) s
def execAcceptRebuild (t : Nat) (rq : Req) (s : State) : Host.Outcome State Fault Refusal := act t (runCmd 0x0311 cmdAcceptRebuild rq) s
def execSrFilterSet (t : Nat) (rq : Req) (s : State) : Host.Outcome State Fault Refusal := act t (runCmd 0x0312 cmdSrFilterSet rq) s
def execTreeSkewRead (t : Nat) (rq : Req) (s : State) : Host.Outcome State Fault Refusal := act t (runCmd 0x0313 cmdTreeSkewRead rq) s

def execFrameStartDecision (t : Nat) (l : Fin 256) (arrival pos : Nat) (cw : List RxBlock) (x : LaneTail) (s : State) :
    Host.Outcome State Fault Refusal := act t (Dev.frameStartDecision l.val arrival pos cw x) s
def execFrameLockLoss (t : Nat) (l : Fin 256) (s : State) : Host.Outcome State Fault Refusal := act t (Dev.frameLockLoss l.val) s
def execLaneIdentifierReceived (t : Nat) (l : Fin 256) (blk : Block) (s : State) : Host.Outcome State Fault Refusal :=
  act t (Dev.laneIdentifier l.val blk) s
def execTreeFrameDecision (t : Nat) (k : Fin 64) (draw : Nat) (s : State) : Host.Outcome State Fault Refusal := act t (Dev.treeFrame k.val draw) s
def execEntryToLost (t : Nat) (k : Fin 64) (s : State) : Host.Outcome State Fault Refusal := act t (Dev.entryToLost k.val) s
def execListeningLockLoss (t : Nat) (k : Fin 64) (s : State) : Host.Outcome State Fault Refusal := act t (Dev.listeningLoss k.val) s
def execSrValueAccepted (t : Nat) (k : Fin 64) (s : State) : Host.Outcome State Fault Refusal := act t (Dev.srAccept k.val) s
def execProtectionSwitchComplete (t : Nat) (k : Fin 64) (s : State) : Host.Outcome State Fault Refusal := act t (Dev.switchDone k.val) s
def execPitchListEntry (t : Nat) (k : Fin 64) (hdr blk : RxBlock) (s : State) : Host.Outcome State Fault Refusal :=
  act t (Dev.listEntry k.val hdr blk) s
def execPitchListComplete (t : Nat) (k : Fin 64) (hdr : RxBlock) (s : State) : Host.Outcome State Fault Refusal :=
  act t (Dev.listComplete k.val hdr) s
def execParcelReceived (t : Nat) (k : Fin 64) (item : StreamItem) (keyBad : Bool) (ue : List (Nat × Nat)) (s : State) : Host.Outcome State Fault Refusal :=
  act t (Dev.streamItem k.val item keyBad ue) s
def execLaneChangeEffect (t : Nat) (k : Fin 64) (s : State) : Host.Outcome State Fault Refusal := act t (Dev.laneChange k.val) s
def execAcceptBitBoundary (t : Nat) (k : Fin 64) (s : State) : Host.Outcome State Fault Refusal := act t (Dev.acceptBoundary k.val) s
def execAcceptWordRewrite (t : Nat) (k : Fin 64) (word : Nat) (s : State) : Host.Outcome State Fault Refusal := act t (Dev.acceptRewrite k.val word) s
def execEqdTakesEffect (t : Nat) (k : Fin 64) (s : State) : Host.Outcome State Fault Refusal := act t (Dev.eqdEffect k.val) s

end Machine
end Sys2Proof
end

