-- ==== Sys2Proof/Machine/Lanes.lean ====
section
/-! DEFINITION. Serial lanes: clock recovery, equalisation, patterns, injection, eye scans, connection faults, the commands on a
lane, block lock and the links of system ports (02_serial_lanes.md, R78, R79, R412, R490). Lane l below 256 is line lane l, above
it system lane l - 256. -/

namespace Sys2Proof

/-! ### Parts (Tables 2.3, 2.9, 2.11 to 2.13) -/

/-- The lane of a selector (Table 2.9), and whether it names the transmitter. -/
def selLane (v : Nat) : Nat := v / 2 ^ 9 % 2 * 256 + v % 256
def selTx (v : Nat) : Bool := v / 2 ^ 8 % 2 == 1

/-- The mode of a lane: 0 on line lanes, which are PAM4 at one rate; that of the port on system lanes (R44, R45). -/
def Dev.laneMode (d : Dev) (l : Nat) : Nat :=
  if l < 256 then 0 else ((d.sysPortOfLane (l - 256)).map fun p => (d.sysPort p).mode).getD 0

/-- Link training sets the taps and the precoding of this lane (R52). -/
def Dev.laneTrained (d : Dev) (l : Nat) : Bool :=
  decide (256 ≤ l) && ((d.sysPortOfLane (l - 256)).map fun p => (d.sysPort p).training).getD false

/-- The function that a command on a lane needs (R72). -/
def laneNeed (l : Nat) (tx : Bool) : List Nat :=
  if l < 256 then [fnPort (l / 16)] else [if tx then fnDs ((l - 256) / 32) else fnUs ((l - 256) / 32)]

/-- `LANE_RX_STATUS` (Table 2.12). -/
def Dev.laneRxStatus (d : Dev) (l : Nat) : Nat :=
  let x := d.rxLane l
  x.cdr.toNat * 2 ^ 19 + x.noSignal.toNat * 2 ^ 18 + x.openP.toNat * 2 ^ 17 + x.openN.toNat * 2 ^ 16 + x.polInv.toNat * 2 ^ 15 +
    x.dfe.toNat * 2 ^ 14 + x.chkLock.toNat * 2 ^ 13 + (d.scans.get none l).isSome.toNat * 2 ^ 12 + x.loopback.toNat * 2 ^ 11 + x.margin % 64

/-- `LANE_TX_STATUS` (Table 2.13); mode 3 never precodes (R46). -/
def Dev.laneTxStatus (d : Dev) (l : Nat) : Nat :=
  let x := d.txLane l
  x.short.toNat * 2 ^ 19 + x.shortSeen.toNat * 2 ^ 18 + x.inv.toNat * 2 ^ 17 + (x.precode && d.laneMode l != 3).toNat * 2 ^ 16 +
    x.pattern % 16 * 2 ^ 12 + x.inject % 4 * 2 ^ 10 + x.eqRefused % 1024

/-- `LANE_TX_EQ` (Table 2.3). -/
def Taps.word (x : Taps) : Nat := x.pre * 2 ^ 15 + x.main * 2 ^ 9 + x.post * 2 ^ 3 + x.source

/-- `LANE_RX_CFG` (Table 2.11). -/
def LaneRx.cfgWord (x : LaneRx) : Nat := x.dfeMode * 2 ^ 12 + x.polMode * 2 ^ 10 + x.precode.toNat * 2 ^ 9 + x.marginMin

/-! ### Connection faults, polarity and the DFE (R53, R54, R68 to R70) -/

/-- The DFE engages or disengages (R54). -/
def Dev.setDfe (l : Nat) (on : Bool) (d : Dev) : Dev :=
  if (d.rxLane l).dfe = on then d
  else ((d.modRx l fun x => { x with dfe := on }).raise (d.laneQueue l) 0x02 (if on then 1 else 2) l []).bump
    (if on then .dfeEngaged else .dfeDisengaged) l 0

/-- Receive inversion follows what the hunt or the marker lock found (R68). -/
def Dev.setPol (l : Nat) (inv : Bool) (d : Dev) : Dev :=
  if (d.rxLane l).polInv = inv then d
  else (d.modRx l fun x => { x with polInv := inv }).laneFault l faultReversed inv [] (if inv then .polInverted else .polNormal)

/-- CDR lock is dropped; an eye scan of the lane pauses (R66, R79). -/
def Dev.dropCdr (l : Nat) (d : Dev) : Dev :=
  let d := d.modRx l fun x => { x with cdr := false }
  { d with scans := d.scans.upd none l fun s => s.map fun s => if s.paused then s else { s with paused := true, lostAt := d.now } }

/-- A lane is declared without signal (Table 2.8, R490); a line lane drops both locks (R79). A plain loss of signal sets NO_SIGNAL too, and
CDR lock clears it, its value after reset with it (DESIGN CHOICE, log entry 110). -/
def Dev.noSignal (l : Nat) (d : Dev) : Dev :=
  let d := (d.dropCdr l).modRx l fun x => { x with noSignal := true }
  if l < 256 then d.dropLocks l else d

/-- A line lane without block lock under an asserted LOS input is declared without signal (R490). -/
def Dev.losDeclare (l : Nat) (d : Dev) : Dev :=
  if l < 256 && (d.port (l / 16)).los && (d.align l).st == 0 && !(d.rxLane l).losNow then
    (d.modRx l fun x => { x with losNow := true }).noSignal l
  else d

/-- CDR lock (R47): the lane is out of power-down, its receive domain on, and nothing declares it without signal. -/
def Dev.cdrLock (l : Nat) (d : Dev) : Dev :=
  let x := d.rxLane l
  if x.cdr || !d.laneNeeded l || !d.isOn ((laneDoms l).getD 1 0) || x.openNow != 0 || x.losNow then d
  else
    let d := d.modRx l fun x => { x with cdr := true, noSignal := false }
    { d with scans := d.scans.upd none l fun s => s.map fun s => { s with paused := false } }

/-- What the decoder of a line lane counted before its lock went (R105). -/
def Dev.lastTail (l : Nat) (x : LaneTail) (d : Dev) : Dev := if l < 256 && (d.align l).st != 0 then d.pmTail l x else d

/-- CDR lock is lost, or the signal (R79). -/
def Dev.signalLost (l : Nat) (x : LaneTail) (d : Dev) : Dev := ((d.lastTail l x).noSignal l).losDeclare l

def Dev.losOn (p : Nat) (d : Dev) : Dev :=
  if (d.port p).los then d
  else
    let d := d.modPort p fun x => { x with los := true }
    d.forEach (List.range 16) fun i d => d.losDeclare (16 * p + i)

def Dev.losOff (p : Nat) (d : Dev) : Dev :=
  if !(d.port p).los then d
  else
    let d := d.modPort p fun x => { x with los := false }
    d.forEach (List.range 16) fun i d => d.modRx (16 * p + i) fun x =>
      if x.losNow then { x with losNow := false, noSignal := x.openNow != 0 } else x

def legBit (leg : Nat) : Nat := leg + 1

def Dev.openFound (l leg : Nat) (x : LaneTail) (d : Dev) : Dev :=
  if (d.rxLane l).openNow.testBit leg then d
  else
    let d := (d.lastTail l x).modRx l fun x =>
      { x with openNow := x.openNow + legBit leg, openP := x.openP || leg == 0, openN := x.openN || leg == 1 }
    (d.noSignal l).laneFault l faultOpen true [leg] .openFound

def Dev.openGone (l leg : Nat) (d : Dev) : Dev :=
  if !(d.rxLane l).openNow.testBit leg then d
  else
    let d := d.modRx l fun x =>
      { x with openNow := x.openNow - legBit leg, noSignal := if x.openNow = legBit leg && !x.losNow then false else x.noSignal }
    d.laneFault l faultOpen false [leg] .openCleared

def Dev.shortFound (l : Nat) (d : Dev) : Dev :=
  if (d.txLane l).short then d
  else (d.modTx l fun x => { x with short := true, shortSeen := true, shortOver := false }).laneFault l faultShort true [] .shortFound

/-- A probe of a shorted driver (R69): with normal current the fault clears; a line driver resumes at its next burst. -/
def Dev.shortProbe (l : Nat) (normal : Bool) (d : Dev) : Dev :=
  if !(d.txLane l).short || !normal then d
  else (d.modTx l fun x => { x with short := false, shortOver := decide (l < 256) }).laneFault l faultShort false [] .shortCleared

/-- The margin monitor has measured a lane for 100 us (R53): MARGIN shows it, and below its threshold the DFE of a line lane under the automatic
policy engages (Table 2.4). A measurement reaches the block by this command alone (DESIGN CHOICE, log entry 111). -/
def Dev.dfeEngage (l margin : Nat) (d : Dev) : Dev :=
  let x := d.rxLane l
  let d := d.modRx l fun x => { x with margin := min margin 63 }
  if l < 256 && x.dfeMode == 0 && decide (margin < x.marginMin) then d.setDfe l true else d

/-! ### Block lock (R70, R78, R79) -/

/-- The hunt may end at this polarity (R70). -/
def polAllows (mode : Nat) (inverted : Bool) : Bool :=
  match mode with | 1 => !inverted | 2 => inverted | _ => true

/-- A raw sync header is valid (R73). -/
def headerValid (h : BitVec 2) : Bool := h == 1 || h == 2

/-- The candidate of a hunt that a pinned polarity allows, and the one after it: the 2,700 offsets at normal polarity, then those under inversion
(R70, R78). -/
def huntFrom (mode c : Nat) : Nat :=
  match mode with | 1 => c % 2700 | 2 => 2700 + c % 2700 | _ => c % 5400
def huntNext (mode c : Nat) : Nat := huntFrom mode (if c = 2699 ∧ mode = 1 then 0 else if c = 5399 ∧ mode = 2 then 2700 else c + 1)

/-- The hunt over the headers read at each candidate in turn (R78): 1,024 valid ones in a row lock there, the first invalid one rejects it. -/
def hunt (mode : Nat) : Nat → List (List (BitVec 2)) → Option Nat
  | _, [] => none
  | c, hs :: rest =>
    if 1024 ≤ hs.length && (hs.take 1024).all headerValid then some c
    else if hs.all headerValid then none
    else hunt mode (huntNext mode c) rest

/-- BLOCK_LOCK_GAINED: the headers that the hunt has read at each candidate since it began, at the candidate where the lane left off (R79). -/
def Dev.blockLock (l : Nat) (tries : List (List (BitVec 2))) (d : Dev) : Dev :=
  let x := d.rxLane l
  if !x.cdr || (d.align l).st != 0 then d
  else match hunt x.polMode (huntFrom x.polMode (d.align l).cand) tries with
  | none => d
  | some c =>
    let d := d.modAlign l fun a => { a with st := 1, cand := c, passes := 0, fails := 0 }
    (d.raise (d.laneQueue l) 0x03 1 l [1, 1]).setPol l (decide (2700 ≤ c))

/-- BLOCK_LOCK_LOSS: 16 of the last 1,024 raw headers since the lock are invalid (R79). -/
def Dev.blockLoss (l : Nat) (last : List (BitVec 2)) (x : LaneTail) (d : Dev) : Dev :=
  if (d.align l).st = 0 || decide (1024 < last.length) || decide ((last.filter fun h => !headerValid h).length < 16) then d
  else ((d.pmTail l x).dropLocks l).losDeclare l

/-! ### Links of system ports (R45, R46, R52, R53, R57) -/

def Dev.portLanes (d : Dev) (p : Nat) : List Nat := (List.range (d.sysPort p).width).map fun i => 256 + p + i

/-- The link goes down (R45): nothing is received, what is queued is dropped as it is served, low-power idle ends. -/
def Dev.linkDown (p : Nat) (d : Dev) : Dev :=
  if (d.sysPort p).up then (d.lpiWake p).modSys p fun x => { x with up := false } else d

/-- Lane l of a port whose link comes up, with what the start of the link found on it: clock, polarity and place (R68); after a training that
reached its end, the partner's taps where R50 allows them, and its precoder request in a PAM4 mode (R46, R52). -/
def Dev.linkLane (l : Nat) (apply pam : Bool) (x : LinkLane) (d : Dev) : Dev :=
  let d := (((d.cdrLock l).setPol l x.inv).setShuffled l x.moved)
  if !apply then d
  else
    let d := if pam then d.modTx l fun t => { t with precode := x.precode } else d
    if tapsOk x.pre x.main x.post then d.modTx l fun t => { t with eq := { pre := x.pre, main := x.main, post := x.post, source := 2 } }
    else d.modTx l fun t => { t with eqRefused := satInc 1023 t.eqRefused }

/-- The link comes up, unless a pattern or loopback keeps the port out of service (R57), or a lane's polarity is pinned to the other one (R70).
A line code without training, or a training that does not reach its end, engages the DFE (R53). -/
def Dev.linkUp (p : Nat) (trained : Bool) (lanes : List LinkLane) (d : Dev) : Dev :=
  let x := d.sysPort p
  let ls := d.portLanes p
  let found := fun (i : Nat) => lanes.getD i {}
  if x.width = 0 || !x.enabled || x.up || ls.any d.patternTest ||
      (ls.zip (List.range 8)).any (fun e => !polAllows (d.rxLane e.1).polMode (found e.2).inv) then d
  else
    let d := (d.modSys p fun x => { x with up := true, trained := x.training && trained }).modEgress p fun e => { e with emptySince := d.now }
    let d := d.forEach (ls.zip (List.range 8)) fun (l, i) d => d.linkLane l (x.training && trained) (x.mode != 3) (found i)
    d.forEach ls fun l d => if (d.rxLane l).dfeMode = 0 then d.setDfe l !(x.training && trained) else d

/-! ### Eye scans (R62 to R67) -/

/-- Points of a scan, in the order of R64; the eye, voltage and phase of point i. The higher voltage step is taken as the more positive one
(DESIGN CHOICE, log entry 112). -/
def EyeScan.nV (s : EyeScan) : Nat := s.vHi - s.vLo + 1
def EyeScan.nP (s : EyeScan) : Nat := s.pHi - s.pLo + 1
def EyeScan.eyes (s : EyeScan) : List Nat := (List.range 3).filter fun e => s.mask.testBit e
def EyeScan.points (s : EyeScan) : Nat := s.eyes.length * s.nV * s.nP
def EyeScan.place (s : EyeScan) (i : Nat) : Nat × Nat × Nat :=
  (s.eyes.getD (i / (s.nV * s.nP)) 0, s.vHi - i / s.nP % s.nV, s.pLo + i % s.nP)

/-- Height of an eye at the data phase and width at its threshold, in steps, over points without disagreement (R64): the data phase is
step 64 of 128, the threshold step 32 of 64 (log entry 23). -/
def EyeScan.open_ (s : EyeScan) (eye : Nat) : Nat × Nat :=
  let good := ((List.range s.clean.length).filter fun i => s.clean.getD i false).map s.place
  ((good.filter fun (e, _, p) => e == eye && p == 64).length, (good.filter fun (e, v, _) => e == eye && v == 32).length)

/-- The summary: status (0 complete, 1 aborted), completed points, height and width of each scanned eye (log entry 23). -/
def EyeScan.summary (s : EyeScan) (status : Nat) : List Dword :=
  toDwords ([status, s.clean.length] ++ s.eyes.flatMap fun e => [(s.open_ e).1, (s.open_ e).2])

def Dev.scanCount (d : Dev) : Nat := (d.scans.filter fun e => (e.2.map (·.running)).getD false).length

/-- The next queued scan starts when fewer than 64 run (R65); its receive domain wakes for it, and is then held on (R67). -/
def Dev.nextScan (d : Dev) : Dev :=
  match d.scanQ with
  | l :: ls =>
    if d.scanCount < Config.maxScans then
      let start (s : EyeScan) : EyeScan := { s with running := true, paused := !(d.rxLane l).cdr, lostAt := d.now }
      ({ d with scanQ := ls, scans := d.scans.upd none l fun s => s.map start } : Dev).wake ((laneDoms l).getD 1 0) causeHost
    else d
  | [] => d

/-- A scan ends: summary in the response area, completion of the work, event (R64, R66, R406). -/
def Dev.endScan (l status : Nat) (c : Code) (d : Dev) : Dev :=
  match d.scans.get none l with
  | none => d
  | some s =>
    let sum := s.summary status
    let d := { d with scans := d.scans.erase l, scanQ := d.scanQ.filter fun i => i != l }
    let d := (d.modMbox s.job.mb fun b =>
      { b with resp := [0x0214, s.job.tag.setWidth 32, BitVec.ofNat 32 (c.num * 4096 + sum.length), 0] ++ sum }).endJob s.job c
    ((d.raise (d.laneQueue l) 0x02 5 l [status, s.clean.length]).laneDown l).nextScan

/-- The symbols to compare at a point without disagreement: 3 / depth (R63). -/
def EyeScan.target (s : EyeScan) : Nat := 3 * 10 ^ (6 + s.depth)

/-- A point is over: 64 disagreements, or the target count of symbols (R63). -/
def EyeScan.pointOver (s : EyeScan) (errors symbols : Nat) : Bool :=
  if errors = 64 then decide (64 ≤ symbols ∧ symbols ≤ s.target) else decide (errors < 64) && symbols == s.target

/-- A point is complete: its record goes to the host (R63, R64). -/
def Dev.scanPoint (l errors symbols : Nat) (d : Dev) : Dev :=
  match d.scans.get none l with
  | none => d
  | some s =>
    if !s.running || s.paused || !s.pointOver errors symbols then d
    else
      let d := d.hostWrite s.job.mb (s.addr + 12 * s.clean.length) (toDwords [errors, symbols / 2 ^ 20 % 2 ^ 20, symbols % 2 ^ 20])
      let s := { s with clean := s.clean ++ [errors == 0] }
      let d := { d with scans := d.scans.set none l (some s) }
      if s.points ≤ s.clean.length then d.endScan l 0 .ok else d

/-- Lock stayed lost for 1 s (R66). -/
def Dev.scanTimeout (l : Nat) (d : Dev) : Dev :=
  match d.scans.get none l with
  | none => d
  | some s => if s.running && s.paused && decide (s.lostAt + Config.sec ≤ d.now) then d.endScan l 1 .aborted else d

/-! ### The pattern checker (R58, R59) -/

/-- What the checker compared while locked. -/
def LaneRx.compared (x : LaneRx) (c : CheckTail) : LaneRx :=
  { x with chkSymbols := satAdd (2 ^ 40 - 1) x.chkSymbols c.symbols, errSymbols := satAdd (2 ^ 40 - 1) x.errSymbols c.errSyms,
           errBits := satAdd (2 ^ 40 - 1) x.errBits c.errBits }

/-- CHECKER_LOCK: of the last 64 symbols none is in error, and the checker locks; in lock, what it has compared since is counted
(log entry 24). -/
def Dev.checkerOn (l : Nat) (errs : BitVec 64) (c : CheckTail) (d : Dev) : Dev :=
  let x := d.rxLane l
  if x.pattern = 0 then d
  else if x.chkLock then d.modRx l fun x => x.compared c
  else if errs = 0 then d.modRx l fun x => { x with chkLock := true }
  else d

/-- CHECKER_LOCK_LOSS: 32 of the last 64 symbols are in error (R58). -/
def Dev.checkerOff (l : Nat) (errs : BitVec 64) (c : CheckTail) (d : Dev) : Dev :=
  if (d.rxLane l).chkLock && decide (32 ≤ ((List.range 64).filter fun i => errs.getLsbD i).length) then
    d.modRx l fun x => { x.compared c with chkLock := false, lockLoss := satInc (2 ^ 20 - 1) x.lockLoss }
  else d

/-! ### Commands (Table 2.10) -/

def laneChecks (rq : Req) (d : Dev) (n : Nat) : List Check := [chkLen rq n, chkReady d [laneNeed (selLane (rq.prm 0)) (selTx (rq.prm 0))]]
def wrongDir (rq : Req) (tx : Bool) : Check := failIf (selTx (rq.prm 0) != tx) .refused 0

/-- A command that sets something on a lane wakes the domain that the selector names first (R381). -/
def Dev.laneWakes (rq : Req) (d : Dev) : Dev :=
  d.wake ((laneDoms (selLane (rq.prm 0))).getD (if selTx (rq.prm 0) then 0 else 1) 0) causeHost

/-- `lane_tx_set`: a setting that breaks R50 is counted on the lane and refuses the whole command. -/
def cmdLaneTxSet : Cmd := fun rq d =>
  let l := selLane (rq.prm 0)
  let taps : Taps := { pre := rq.bits 1 5 15, main := rq.bits 1 6 9, post := rq.bits 1 6 3, source := 3 }
  let own := l < 256 || d.laneTrained l
  withChecks (laneChecks rq d 4 ++ [chkRange rq [(2, 0, 1), (3, 0, 1)], wrongDir rq true]) d <|
    if !own && !tapsOk taps.pre taps.main taps.post then
      ({ code := .refused, detail := 1 }, (d.laneWakes rq).modTx l fun x => { x with eqRefused := satInc 1023 x.eqRefused })
    else
      let d := d.laneWakes rq
      let d := d.modTx l fun x => if own then { x with inv := rq.flag 3 } else { x with inv := rq.flag 3, eq := taps, precode := rq.flag 2 }
      okDone (d.changeTx l fun e => { e with inv := rq.flag 3 })

/-- `lane_rx_set`: forced on and forced off act at once, and so does a pinned polarity; the automatic policies leave DFE and polarity as they
are. -/
def cmdLaneRxSet : Cmd := fun rq d =>
  let l := selLane (rq.prm 0)
  withChecks (laneChecks rq d 2 ++ [failIf (rq.bits 1 2 12 == 3 || rq.bits 1 2 10 == 3) .range 1, wrongDir rq false]) d <|
    let d := (d.laneWakes rq).modRx l fun x =>
      { x with dfeMode := rq.bits 1 2 12, polMode := rq.bits 1 2 10, precode := rq.bit 1 9, marginMin := max 1 (rq.bits 1 5 0),
               polInv := match rq.bits 1 2 10 with | 1 => false | 2 => true | _ => x.polInv }
    okDone (match rq.bits 1 2 12 with | 1 => d.setDfe l true | 2 => d.setDfe l false | _ => d)

/-- R56: a line lane may carry test output: no lane of its block belongs to a configured group, and the block's output is off. -/
def Dev.testable (d : Dev) (l : Nat) : Bool :=
  decide (256 ≤ l) || (!((List.range 4).any fun i => (d.treeOfLane (l / 4 * 4 + i)).isSome) && !d.outputOn (l / 4))

/-- A single or burst injection that waits is made as the lane begins to send a pattern (R61). -/
def Dev.injectNow (l : Nat) (d : Dev) : Dev :=
  let x := d.txLane l
  if x.inject = 1 ∨ x.inject = 2 then
    (d.modTx l fun x => { x with inject := 0 }).out (.injected l (if x.inject = 1 then 1 else x.injLen))
  else d

/-- `lane_prbs`: the lane's domains wake; generator and checker of the lane run the pattern, the counts start from 0; a loopback that R56 does not allow is
ignored (R55 to R59). -/
def cmdLanePrbs : Cmd := fun rq d =>
  let l := selLane (rq.prm 0)
  let pat := rq.prm 1
  withChecks (laneChecks rq d 3 ++ [chkRange rq [(1, 0, 9), (2, 0, 1)], failIf (decide (7 ≤ pat) && d.laneMode l == 3) .refused 1,
      failIf (pat != 0 && !d.testable l) .refused 0]) d <|
    let loop := rq.flag 2 && d.testable l
    let d := ((d.wakeAll (laneDoms l) causeHost).modTx l fun x => { x with pattern := pat, cut := false }).modRx l fun x =>
      { x with pattern := pat, loopback := loop, chkLock := false, chkSymbols := 0, errSymbols := 0, errBits := 0, lockLoss := 0 }
    let d := match (if d.patternTest l && decide (256 ≤ l) then d.sysPortOfLane (l - 256) else none) with
      | some p => d.linkDown p
      | none => d
    let d := if pat = 0 then d else d.injectNow l
    okDone (if d.laneTest l then d.lanesUp [l] else d.laneDown l)

/-- A single or burst injection acts at once where the transmitter sends, else it waits for the next burst (R61). -/
def Dev.sending (d : Dev) (l : Nat) : Bool :=
  let x := d.txLane l
  x.drives || x.pattern != 0 || (decide (256 ≤ l) && x.powered)

/-- An injection that is set while the lane sends acts from the next symbol on: inside a burst it changes what the rest of the burst gets, a single
or burst injection is made, and a rate begins, or ends, where no burst bounds what is sent (R61). -/
def Dev.injectSet (l : Nat) (d : Dev) : Dev :=
  let x := d.txLane l
  let d := d.changeTx l fun _ => x.error
  if x.drives && x.pattern == 0 then d.injectNow l
  else (d.injectNow l).out (.injecting l (if x.inject = 3 then x.injN * 2 ^ x.injE else 0))

/-- `lane_inject` (R60): modes 0 stop, 1 single, 2 burst, 3 rate. -/
def cmdLaneInject : Cmd := fun rq d =>
  let l := selLane (rq.prm 0)
  let mode := rq.prm 1
  withChecks (laneChecks rq d 5 ++ [chkRange rq [(1, 0, 3)], if mode = 2 then chkRange rq [(2, 1, 255)] else none,
      if mode = 3 then chkRange rq [(3, 1, 1048575), (4, 0, 15)] else none, wrongDir rq true]) d <|
    let d := d.laneWakes rq
    let d := d.modTx l fun x =>
      { x with inject := mode, injLen := rq.prm 2, injN := rq.prm 3, injE := rq.prm 4, injCount := 0, injFrom := d.symbolNow l }
    okDone (if d.sending l then d.injectSet l else d)

/-- `lane_eye_scan`: selector; eye mask; first and last voltage step; first and last phase step; depth; host buffer (R62 to R65). -/
def cmdLaneEyeScan : Cmd := fun rq d =>
  let l := selLane (rq.prm 0)
  withChecks ([chkLen rq 9, chkDma rq d] ++ (laneChecks rq d 9).drop 1 ++
      [chkRange rq [(1, 1, if d.laneMode l = 3 then 1 else 7), (2, 0, 63), (3, rq.prm 2, 63), (4, 0, 127), (5, rq.prm 4, 127), (6, 0, 5)],
       failIf (rq.raw 7 % 4 != 0) .range 7, wrongDir rq false, failIf (d.scans.get none l).isSome .busy]) d <|
    let j : Job := { mb := rq.mb.val, tag := rq.tag, opcode := 0x0214, params := rq.params.map (·.toNat), host := rq.host }
    let s : EyeScan := { mask := rq.prm 1, vLo := rq.prm 2, vHi := rq.prm 3, pLo := rq.prm 4, pHi := rq.prm 5, depth := rq.prm 6, addr := rq.addr 7,
                         job := j }
    let d := { d with scans := d.scans.set none l (some s), scanQ := d.scanQ ++ [l] }
    ({ code := .async }, (((d.modHost fun h => { h with jobs := h.jobs ++ [j] }).lanesUp [l])).nextScan)

/-- `lane_eye_abort`: the records of completed points stand (R66). -/
def cmdLaneEyeAbort : Cmd := fun rq d =>
  let l := selLane (rq.prm 0)
  withChecks (laneChecks rq d 1 ++ [failIf (d.scans.get none l).isNone .notFound, wrongDir rq false]) d <|
    okDone (d.endScan l 1 .aborted)

/-- `lane_status`: no field is cleared by it (R72). -/
def cmdLaneStatus : Cmd := fun rq d =>
  let l := selLane (rq.prm 0)
  let x := d.rxLane l
  withChecks (laneChecks rq d 1) d <|
    okWith d (toDwords [if selTx (rq.prm 0) then d.laneTxStatus l else d.laneRxStatus l, (d.txLane l).eq.word] ++ resWide 40 x.chkSymbols ++
      resWide 40 x.errSymbols ++ resWide 40 x.errBits ++ resWide 20 x.lockLoss)

/-! ### The lane status page (R72, Tables 2.12, 2.13) -/

def Dev.rxStatusWrite (l : Nat) (v : Dword) (d : Dev) : Dev :=
  d.modRx l fun x => { x with openP := x.openP && !v.getLsbD 17, openN := x.openN && !v.getLsbD 16 }
def Dev.txStatusRead (l : Nat) (d : Dev) : Dev := d.modTx l fun x => { x with eqRefused := 0 }
def Dev.txStatusWrite (l : Nat) (v : Dword) (d : Dev) : Dev := d.modTx l fun x => { x with shortSeen := x.shortSeen && !v.getLsbD 18 }

namespace Machine

def execLaneTxSet (t : Nat) (rq : Req) (s : State) : Host.Outcome State Fault Refusal := act t (runCmd 0x0210 cmdLaneTxSet rq) s
def execLaneRxSet (t : Nat) (rq : Req) (s : State) : Host.Outcome State Fault Refusal := act t (runCmd 0x0211 cmdLaneRxSet rq) s
def execLanePrbs (t : Nat) (rq : Req) (s : State) : Host.Outcome State Fault Refusal := act t (runCmd 0x0212 cmdLanePrbs rq) s
def execLaneInject (t : Nat) (rq : Req) (s : State) : Host.Outcome State Fault Refusal := act t (runCmd 0x0213 cmdLaneInject rq) s
def execLaneEyeScan (t : Nat) (rq : Req) (s : State) : Host.Outcome State Fault Refusal := act t (runCmd 0x0214 cmdLaneEyeScan rq) s
def execLaneEyeAbort (t : Nat) (rq : Req) (s : State) : Host.Outcome State Fault Refusal := act t (runCmd 0x0215 cmdLaneEyeAbort rq) s
def execLaneStatus (t : Nat) (rq : Req) (s : State) : Host.Outcome State Fault Refusal := act t (runCmd 0x0216 cmdLaneStatus rq) s

def execLaneRxStatusWrite (t : Nat) (l : Fin 512) (v : Dword) (s : State) : Host.Outcome State Fault Refusal := act t (Dev.rxStatusWrite l.val v) s
def execLaneTxStatusRead (t : Nat) (l : Fin 512) (s : State) : Host.Outcome State Fault Refusal := act t (Dev.txStatusRead l.val) s
def execLaneTxStatusWrite (t : Nat) (l : Fin 512) (v : Dword) (s : State) : Host.Outcome State Fault Refusal := act t (Dev.txStatusWrite l.val v) s
def execCdrLock (t : Nat) (l : Fin 512) (s : State) : Host.Outcome State Fault Refusal := act t (Dev.cdrLock l.val) s
def execLossOfSignal (t : Nat) (l : Fin 512) (x : LaneTail) (s : State) : Host.Outcome State Fault Refusal := act t (Dev.signalLost l.val x) s
def execLosAsserted (t : Nat) (p : Fin 16) (s : State) : Host.Outcome State Fault Refusal := act t (Dev.losOn p.val) s
def execLosCleared (t : Nat) (p : Fin 16) (s : State) : Host.Outcome State Fault Refusal := act t (Dev.losOff p.val) s
def execRxOpenDetected (t : Nat) (l : Fin 512) (leg : Fin 2) (x : LaneTail) (s : State) : Host.Outcome State Fault Refusal :=
  act t (Dev.openFound l.val leg.val x) s
def execRxOpenCleared (t : Nat) (l : Fin 512) (leg : Fin 2) (s : State) : Host.Outcome State Fault Refusal := act t (Dev.openGone l.val leg.val) s
def execTxShortDetected (t : Nat) (l : Fin 512) (s : State) : Host.Outcome State Fault Refusal := act t (Dev.shortFound l.val) s
def execTxShortProbe (t : Nat) (l : Fin 512) (normal : Bool) (s : State) : Host.Outcome State Fault Refusal := act t (Dev.shortProbe l.val normal) s
def execDfeEngage (t : Nat) (l : Fin 512) (margin : Nat) (s : State) : Host.Outcome State Fault Refusal := act t (Dev.dfeEngage l.val margin) s
def execEyeScanPointDone (t : Nat) (l : Fin 512) (errors symbols : Nat) (s : State) : Host.Outcome State Fault Refusal :=
  act t (Dev.scanPoint l.val errors symbols) s
def execEyeScanLockTimeout (t : Nat) (l : Fin 512) (s : State) : Host.Outcome State Fault Refusal := act t (Dev.scanTimeout l.val) s
def execBlockLockGained (t : Nat) (l : Fin 256) (tries : List (List (BitVec 2))) (s : State) : Host.Outcome State Fault Refusal :=
  act t (Dev.blockLock l.val tries) s
def execBlockLockLoss (t : Nat) (l : Fin 256) (last : List (BitVec 2)) (x : LaneTail) (s : State) : Host.Outcome State Fault Refusal :=
  act t (Dev.blockLoss l.val last x) s
def execCheckerLock (t : Nat) (l : Fin 512) (errs : BitVec 64) (c : CheckTail) (s : State) : Host.Outcome State Fault Refusal :=
  act t (Dev.checkerOn l.val errs c) s
def execCheckerLockLoss (t : Nat) (l : Fin 512) (errs : BitVec 64) (c : CheckTail) (s : State) : Host.Outcome State Fault Refusal :=
  act t (Dev.checkerOff l.val errs c) s
def execSysLinkUp (t : Nat) (p : Fin 256) (trained : Bool) (lanes : List LinkLane) (s : State) : Host.Outcome State Fault Refusal :=
  act t (Dev.linkUp p.val trained lanes) s
def execSysLinkDown (t : Nat) (p : Fin 256) (s : State) : Host.Outcome State Fault Refusal := act t (Dev.linkDown p.val) s

end Machine
end Sys2Proof
end

