-- ==== Sys2Proof/Machine/Trust.lean ====
section
/-! DEFINITION. Measurement, attestation, sealing, zeroisation and the debug lock (15_trust.md). A digest is kept as the number
its 48 bytes spell; a register as what it was extended by (log entry 5). -/

namespace Sys2Proof

/-! ### Measurement registers (R424 to R426, R432) -/

/-- One extension: MR := SHA-384(MR ‖ d). -/
def extendMr (mr d : List Byte) : List Byte := bytesBE 48 (sha384 (mr ++ d)).toNat

def mrZero : List Byte := List.replicate 48 0

/-- A digest as it extends a register. -/
def digestBytes (v : Nat) : List Byte := bytesBE 48 v

/-- A record of items as its digest extends a register. -/
def recordDigest (v : Nat) : List Byte := bytesBE 48 (sha384 (bytesBE 64 v)).toNat

/-- The fuse record: vendor key index, fused minimum, debug policy, stepping B1. -/
def Fuses.measured (f : Fuses) : Nat := ((f.vendorKey * 2 ^ 32 + f.minSvn) * 2 ^ 32 + f.debug) * 256 + 0xB1

def Vault.mr0Bytes (v : Vault) : List Byte :=
  match v.mr0 with
  | [] => mrZero
  | rom :: rs => rs.foldl (fun m x => extendMr m (recordDigest x)) (extendMr mrZero (digestBytes rom))
def Vault.mr1Bytes (v : Vault) : List Byte := (v.mr1.map digestBytes).getD mrZero
def Vault.mr2Bytes (v : Vault) : List Byte := (v.mr2.map digestBytes).getD mrZero
def Vault.mr3Bytes (v : Vault) : List Byte := v.mr3.foldl (fun m x => extendMr m (recordDigest x)) mrZero
def Vault.mr4Bytes (v : Vault) : List Byte := v.mr4.foldl (fun m x => extendMr m (digestBytes x)) mrZero

/-- Block 16 of tree k (R426). -/
def Dev.treeBinding (d : Dev) (k : Nat) : List Byte :=
  let x := d.tree k
  let role := if x.cfg.pair.isNone then 0 else if x.cfg.working then 1 else 2
  bytesBE 1 k ++ bytesBE 1 x.cfg.size ++ bytesBE 4 x.cfg.lockedId ++ bytesBE 8 d.vault.fuses.serial ++
    bytesBE 2 (x.join.leaf.getD 0) ++ bytesBE 8 x.join.fcAssign ++ bytesBE 1 role ++ List.replicate 7 0

/-- The measurement blocks of a channel: DOE has six, a tree the binding too (Table 15.1). -/
def Dev.measBlocks (d : Dev) (tree : Option Nat) : List (Nat × List Byte) :=
  let v := d.vault
  [(1, v.mr0Bytes), (2, v.mr1Bytes), (3, v.mr2Bytes), (4, v.mr3Bytes), (5, v.mr4Bytes),
   (6, bytesBE 4 v.runSvn ++ bytesBE 4 v.fuses.minSvn)] ++
  match tree with
  | some k => [(16, d.treeBinding k)]
  | none => []

/-- The blocks that GET_MEASUREMENTS of an index reports: none for index 0, the count; all for 0xFF (Table 15.2). -/
def Dev.measReport (d : Dev) (tree : Option Nat) (idx : Nat) : List (Nat × List Byte) :=
  if idx = 0xFF then d.measBlocks tree else (d.measBlocks tree).filter fun b => b.1 == idx

/-! ### SPDM (R430 to R432, R437) -/

/-- The request is one that the channel's state allows (R431): GET_VERSION always, then capabilities, algorithms, and the rest. -/
def SpdmKind.inOrder (r : SpdmKind) (st : Nat) : Bool :=
  match r with
  | .getVersion => true
  | .getCapabilities => st == 1
  | .negotiate _ => st == 2
  | _ => st == 3

/-- What it names is there (Tables 15.1 and 15.2). The codes of the answers to a slot, a hash type or a block that is not there are
PRESUMED (log entry 108). -/
def Dev.spdmValid (d : Dev) (tree : Option Nat) : SpdmKind → Bool
  | .negotiate offers => offers
  | .getCertificate slot => slot == 0
  | .challenge slot hash => slot == 0 && (hash == 0 || hash == 1 || hash == 0xFF)
  | .getMeasurements _ i => i == 0 || !(d.measReport tree i).isEmpty
  | _ => true

/-- The code of the ERROR that answers a request: 7 UnsupportedRequest, 4 UnexpectedRequest, 1 InvalidRequest, 5 Unspecified (R431, R437). -/
def Dev.spdmError (d : Dev) (tree : Option Nat) (st : Nat) (r : SpdmKind) : Option Nat :=
  if r = .other then some 7
  else if !r.inOrder st then some 4
  else if !d.spdmValid tree r then some 1
  else if r.signs && d.vault.noSign then some 5
  else none

/-- The state that a channel reaches by a request: 1 version, 2 capabilities, 3 algorithms; GET_VERSION starts it again. -/
def SpdmKind.reaches : SpdmKind → Nat
  | .getVersion => 1
  | .getCapabilities => 2
  | _ => 3

/-- What the response reports and what it counts for under R166: 1 CHALLENGE_AUTH, 2 signed MEASUREMENTS, 0 any other. -/
def SpdmKind.respKind : SpdmKind → Nat
  | .challenge _ _ => 1
  | .getMeasurements true _ => 2
  | _ => 0
def Dev.spdmBlocks (d : Dev) (tree : Option Nat) : SpdmKind → List (Nat × List Byte)
  | .getMeasurements _ i => d.measReport tree i
  | _ => []

/-- The fragments of a response: at most 512 bytes each, in ascending OFFSET, with their info blocks (R165). -/
def attestFragments (resp : List Byte) : List (List Block) :=
  (List.range (max 1 (cdiv resp.length 512))).map fun i =>
    (put 128 112 (BitVec.ofNat 16 resp.length) ||| put 128 96 (BitVec.ofNat 16 (512 * i))) :: blocksOfBytes ((resp.drop (512 * i)).take 512)

/-- The blocks that a response reports: those that stood when the vault began its signature, else those that stand now (R432). -/
def Dev.reported (d : Dev) (ch : Nat) (tree : Option Nat) (r : SpdmKind) : List (Nat × List Byte) :=
  (d.vault.snap.get none ch).getD (d.spdmBlocks tree r)

/-- The chain as a CERTIFICATE names it and as a CHALLENGE_AUTH hashes it (R428): written once at manufacture, its leaf certificate names the
serial and the public key of the identity key that the secret gives (R427). -/
def Vault.chain (v : Vault) : List Byte :=
  Config.certChain v.fuses.serial (p384Public (Config.identityKey v.fuses.secret identLabel))

def sha384Bytes (m : List Byte) : List Byte := bytesBE 48 (sha384 m).toNat

def bytesLE (n v : Nat) : List Byte := (bytesBE n v).reverse

/-- The DMTF value types of Table 15.1. -/
def measType : Nat → Nat
  | 1 => 0x00 | 2 => 0x01 | 3 => 0x03 | 4 => 0x05 | 5 => 0x01 | 6 => 0x87 | _ => 0x82

/-- A measurement block in a record: index, DMTF specification, its size, its type, the size of its value, the value. -/
def measRecord (b : Nat × List Byte) : List Byte :=
  bytesLE 1 b.1 ++ [1] ++ bytesLE 2 (b.2.length + 3) ++ bytesLE 1 (measType b.1) ++ bytesLE 2 b.2.length ++ b.2

/-- The measurement summary hash of a CHALLENGE_AUTH (Table 15.2): none, over blocks 1 to 4, or over all. -/
def Dev.summaryHash (d : Dev) (tree : Option Nat) (hash : Nat) : List Byte :=
  if hash = 0 then []
  else sha384Bytes (((d.measBlocks tree).filter fun b => hash == 0xFF || Nat.ble b.1 4).flatMap measRecord)

/-- A response up to its signature (Table 15.2). What it says is the table's; the place of each byte is PRESUMED from DSP0274 (log entry 108). -/
def Dev.spdmBody (d : Dev) (tree : Option Nat) (req : List Byte) (blocks : List (Nat × List Byte)) (nonce : BitVec 256) :
    SpdmKind → List Byte
  | .getVersion => [0x10, 0x04, 0, 0, 0, 1, 0, 0x13]
  | .getCapabilities => [0x13, 0x61, 0, 0, 0, 12, 0, 0, 0x16, 0, 0, 0] ++ bytesLE 4 4096 ++ bytesLE 4 4096
  | .negotiate _ =>
    [0x13, 0x63, 0, 0] ++ bytesLE 2 36 ++ [1, 0] ++ bytesLE 4 2 ++ bytesLE 4 0x80 ++ bytesLE 4 2 ++ List.replicate 16 0
  | .getDigests => [0x13, 0x01, 0, 1] ++ sha384Bytes d.vault.chain
  | .getCertificate _ =>
    let off := natBE ((req.drop 4).take 2).reverse
    let part := (d.vault.chain.drop off).take (min 1024 (natBE ((req.drop 6).take 2).reverse))
    [0x13, 0x02, 0, 0] ++ bytesLE 2 part.length ++ bytesLE 2 (d.vault.chain.length - off - part.length) ++ part
  | .challenge _ hash =>
    [0x13, 0x03, 0, 1] ++ sha384Bytes d.vault.chain ++ bytesBE 32 nonce.toNat ++ d.summaryHash tree hash ++ [0, 0]
  | .getMeasurements _ idx =>
    let record := blocks.flatMap measRecord
    [0x13, 0x60, BitVec.ofNat 8 (if idx = 0 then (d.measBlocks tree).length else 0), 0, BitVec.ofNat 8 blocks.length] ++
      bytesLE 3 record.length ++ record ++ bytesBE 32 nonce.toNat ++ [0, 0]
  | .other => []

/-- What the signature of a response covers: the transcript of its message (R431). -/
def SpdmChan.covered (x : SpdmChan) (r : SpdmKind) (m : List Byte) : List Byte :=
  match r with
  | .challenge _ _ => x.vca ++ x.certs ++ m
  | _ => x.vca ++ x.meas ++ m

/-- The response to a request, with its signature by the identity key where it has one; or the ERROR (R431, R437). -/
def Dev.spdmResponse (d : Dev) (ch : Nat) (tree : Option Nat) (x : SpdmChan) (req : List Byte) (nonce : BitVec 256) (err : Option Nat) :
    List Byte :=
  match err with
  | some c => [0x13, 0x7F, BitVec.ofNat 8 c, 0]
  | none =>
    let r := spdmKindOf req
    let body := d.spdmBody tree req (d.reported ch tree r) nonce r
    if r.signs then
      body ++ bytesBE 96 (d.sign (sha384 (x.covered r (req ++ body)))).toNat
    else body

/-- The channel after a request and its response (R430, R431): GET_VERSION starts it anew; an ERROR leaves it. -/
def SpdmChan.next (x : SpdmChan) (r : SpdmKind) (req resp : List Byte) (err : Option Nat) : SpdmChan :=
  if err.isSome then x
  else match r with
  | .getVersion => { st := 1, vca := req ++ resp }
  | .getCapabilities | .negotiate _ => { x with st := r.reaches, vca := x.vca ++ req ++ resp }
  | .getDigests | .getCertificate _ => { x with certs := x.certs ++ req ++ resp, meas := [] }
  | .challenge _ _ => { x with certs := [], meas := [] }
  | .getMeasurements signed _ => { x with meas := if signed then [] else x.meas ++ req ++ resp }
  | .other => x

/-- The channel's work in the vault is over. -/
def Vault.spdmDone (v : Vault) (ch idx : Nat) (x : SpdmChan) (now : Ticks) : Vault :=
  { v with spdm := v.spdm.set {} idx x, sign := v.sign.done ch now, snap := v.snap.erase ch }

/-- Before the registers change, the values stand for the signatures that have begun (R429, R432). -/
def Dev.snapSigned (d : Dev) : Dev :=
  d.forEach ((d.vault.sign.upTo d.now).run.filter fun x => x.level != 1) fun x d =>
    if (d.vault.snap.get none x.ch).isSome then d
    else
      let r := if x.ch < 64 then (d.tree x.ch).ex.reqKind else spdmKindOf d.vault.doeReq
      let blocks := d.spdmBlocks (if x.ch < 64 then some x.ch else none) r
      d.modVault fun v => { v with snap := v.snap.set none x.ch (some blocks) }

/-- The response to a tree's request is ready: its fragments join the answer queue, and are recorded for a repetition of the notice (R150,
R165). A signed one is not ready before the P-384 unit has begun it (R429). The nonce is what the DRBG gives. -/
def Dev.attestReady (k : Nat) (nonce : BitVec 256) (d : Dev) : Dev :=
  match (d.tree k).ex.reqReady with
  | none => d
  | some nseq =>
    if d.vault.sign.waiting k d.now then d
    else
      let req := (d.tree k).ex.reqBytes
      let r := spdmKindOf req
      let ch := d.vault.spdm.get {} (k + 1)
      let err := d.spdmError (some k) ch.st r
      let resp := d.spdmResponse k (some k) ch req nonce err
      let blocks := if err.isNone then d.reported k (some k) r else []
      let frags := attestFragments resp
      let d := d.modVault fun v => v.spdmDone k (k + 1) (ch.next r req resp err) d.now
      let answers := frags.map fun body => ({ atype := 0x45, tagged := d.tagsAnswers k, nseq := nseq, ntype := 6, body := body } : Answer)
      let d := d.modTree k fun x =>
        { x with ex := { x.ex with reqReady := none, req := [], respLeft := frags.length, respMeas := blocks,
                                   respKind := if err.isNone then r.respKind else 0,
                                   last := (x.ex.record 6 nseq answers).last } }
      d.forEach answers fun a d => d.queueAnswer k a

/-! ### DOE (R430) -/

/-- A data object of vendor 0x0001: two header dwords, the second the length in dwords, and the content, padded (PRESUMED from PCI Express, log
entry 108). -/
def doeObject (type : Nat) (content : List Byte) : List Byte :=
  bytesLE 2 1 ++ bytesLE 1 type ++ [0] ++ bytesLE 4 (2 + cdiv content.length 4) ++ content ++ List.replicate (4 * cdiv content.length 4 - content.length) 0

/-- DOE discovery: index 0 is discovery itself, index 1 CMA/SPDM, of type 1; no other is there. -/
def doeDiscovery (index : Nat) : List Byte :=
  match index with
  | 0 => doeObject 0 (bytesLE 2 1 ++ [0, 1])
  | 1 => doeObject 0 (bytesLE 2 1 ++ [1, 0])
  | _ => doeObject 0 (bytesLE 2 0xFFFF ++ [0, 0])

/-- A data object over DOE, of up to 4 KiB: one at a time. Discovery is answered at once; for an SPDM request the vault wakes; an object of
any other vendor or type is dropped (R430). -/
def Dev.doeRequest (msg : List Byte) (d : Dev) : Dev :=
  if d.vault.doeBusy || Nat.blt 4096 msg.length then d
  else if msg.take 2 != [1, 0] then d
  else match (msg.getD 2 0).toNat with
  | 0 => d.out (.doe (doeDiscovery (msg.getD 8 0).toNat) [])
  | 1 =>
    let req := msg.drop 8
    ((d.wake 5 causeHost).modVault fun v => { v with doeBusy := true, doeReq := req }).askSign 3 64 (spdmKindOf req)
  | _ => d

/-- The response to the SPDM request is written. -/
def Dev.doeReady (nonce : BitVec 256) (d : Dev) : Dev :=
  if !d.vault.doeBusy || d.vault.sign.waiting 64 d.now then d
  else
    let req := d.vault.doeReq
    let r := spdmKindOf req
    let ch := d.vault.spdm.get {} 0
    let err := d.spdmError none ch.st r
    let resp := d.spdmResponse 64 none ch req nonce err
    let blocks := if err.isNone then d.reported 64 none r else []
    let d := d.modVault fun v => { v.spdmDone 64 0 (ch.next r req resp err) d.now with doeBusy := false, doeReq := [] }
    d.out (.doe (doeObject 1 resp) blocks)

/-- The abort bit: the data object in progress is abandoned. -/
def Dev.doeAbort (d : Dev) : Dev :=
  d.modVault fun v => { v with doeBusy := false, doeReq := [], sign := v.sign.drop 64, snap := v.snap.erase 64 }

/-! ### Sealing and zeroisation (R433 to R439) -/

/-- A root key fails the test of R433: it is erased, its tree deregisters with hold-off 0. -/
def Dev.unsealFailed (k : Nat) (d : Dev) : Dev :=
  (((d.modVault fun v => { v with roots := v.roots.erase k }).commitDue k).deregister k 0 d.now).raise qVault 0x0F 1 k []

/-- The derivation served next is performed only while the sealing digest equals the root key's tag (R291, R433). -/
def Dev.deriveDone (n : Nat) (d : Dev) : Dev :=
  match nextDeriv (d.slice n).key.derivs with
  | none => d
  | some x =>
    let k := (d.keyCtx n x.ctx).tree
    let r := d.vault.roots.get {} k
    if r.held && decide (r.tag ≠ d.vault.sealTag) then d.unsealFailed k
    else if !r.held then d.modKey n fun y => { y with derivs := y.derivs.erase x }
    else d.derived n

/-- Derived keys go from the derivation units and the cell caches. -/
def KeySt.zero (x : KeySt) : KeySt :=
  { ctx := x.ctx.mapV {} fun _ c => c.noRxKeys,
    tx := x.tx.mapV {} fun _ e => { e with key := none, next := none, prev := none },
    derivs := [] }

/-- Trees past Listening. -/
def Dev.pastListening (d : Dev) : List Nat := (List.range 64).filter fun k => (d.tree k).join.st != 0

/-- Zeroisation (R438): every secret goes in one step, the DRBG is seeded anew, and the trees past Listening deregister. -/
def Dev.zeroise (d : Dev) : Dev :=
  let ks := d.pastListening
  let d := d.forEach ks fun k d => d.commitDue k
  let d := d.modVault fun v => { v with roots := [], kex := [], noticeKeys := [], reseeds := v.reseeds + 1 }
  let d := d.forEach (List.range 8) fun n d => d.modKey n KeySt.zero
  let d := (d.modHost fun h => { h with irq := { h.irq with vault := true } }).raise qVault 0x0F 2 0 []
  d.forEach ks fun k d => d.deregister k 0 d.now

/-- A token of the vendor, bound to this serial and to the nonce that the TAP shows (R436). -/
def Dev.tokenOk (d : Dev) (x : UnlockToken) : Bool :=
  x.signer == d.vault.fuses.vendorKey && x.serial == d.vault.fuses.serial && x.nonce == d.vault.nonce

/-- An unlock token (R437). -/
def Dev.jtagUnlock (token : UnlockToken) (d : Dev) : Dev :=
  if d.tokenOk token && d.vault.locked then
    let d := d.wake 5 causeHost
    let d := d.modVault fun v =>
      { v with locked := false, noSign := true, mr3 := v.mr3 ++ [token.digest % 2 ^ 384 * 2 ^ 96 + d.devLin.toNat % 2 ^ 96],
               fuses := { v.fuses with unlocks := v.fuses.unlocks + 1 } }
    d.zeroise
  else d

/-- A TAP instruction is shifted in (R436). -/
def Dev.jtagInstruction (i : TapInstr) (d : Dev) : Dev := d.modVault fun v => { v with tap := d.tapAllowed i }

/-! ### Commands (Table 15.4) -/

def trustChecks (rq : Req) (d : Dev) (n : Nat) : List Check := [chkLen rq n, chkReady d [[fnVault]]]

/-- `trust_status`: MR0 to MR4, running and fused versions, locked, unlocks; then for each tree: held, tag equal. -/
def cmdTrustStatus : Cmd := fun rq d =>
  withChecks (trustChecks rq d 0) d <|
    let d := d.wake 5 causeHost
    let v := d.vault
    okWith d (([v.mr0Bytes, v.mr1Bytes, v.mr2Bytes, v.mr3Bytes, v.mr4Bytes].flatMap fun m => resWide 384 (natBE m)) ++
      resWide 32 v.runSvn ++ resWide 32 v.fuses.minSvn ++ resWide 1 v.locked.toNat ++ resWide 20 v.fuses.unlocks ++
      ((List.range 64).flatMap fun k =>
        let r := v.roots.get {} k
        [BitVec.ofNat 32 r.held.toNat, BitVec.ofNat 32 (r.held && decide (r.tag = v.sealTag)).toNat]))

/-- `cert_read`: the slot 0 chain goes to the host buffer. -/
def cmdCertRead : Cmd := fun rq d =>
  withChecks ([chkLen rq 2, chkDma rq d] ++ (trustChecks rq d 2).drop 1 ++ [failIf (rq.raw 0 % 4 != 0) .range 0]) d <|
    okDone ((d.wake 5 causeHost).hostWrite rq.mb.val (rq.addr 0) (dwordsLE d.vault.chain))

/-- `svn_advance` (R441). -/
def cmdSvnAdvance : Cmd := fun rq d =>
  let v := d.vault
  let older := [0, 1].any fun i =>
    let x := d.host.slots.get {} i
    x.present && decide (x.svn < v.runSvn)
  withChecks (trustChecks rq d 0 ++ [failIf (decide (v.runSvn ≤ v.fuses.minSvn)) .refused, failIf older .refused]) d <|
    okDone ((d.wake 5 causeHost).modVault fun v => { v with fuses := { v.fuses with minSvn := v.runSvn } })

/-- `vault_zeroise`: the trees affected, as a count. -/
def cmdVaultZeroise : Cmd := fun rq d =>
  withChecks (trustChecks rq d 0) d <|
    okWith (d.wake 5 causeHost).zeroise (resWide 20 d.pastListening.length)

namespace Machine

def execTrustStatus (t : Nat) (rq : Req) (s : State) : Host.Outcome State Fault Refusal := act t (runCmd 0x0F10 cmdTrustStatus rq) s
def execCertRead (t : Nat) (rq : Req) (s : State) : Host.Outcome State Fault Refusal := act t (runCmd 0x0F11 cmdCertRead rq) s
def execSvnAdvance (t : Nat) (rq : Req) (s : State) : Host.Outcome State Fault Refusal := act t (runCmd 0x0F12 cmdSvnAdvance rq) s
def execVaultZeroise (t : Nat) (rq : Req) (s : State) : Host.Outcome State Fault Refusal := act t (runCmd 0x0F13 cmdVaultZeroise rq) s
def execDerivationComplete (t : Nat) (n : Fin 8) (s : State) : Host.Outcome State Fault Refusal := act t (Dev.deriveDone n.val) s

/-- An SPDM response is complete: of tree k, or of the DOE channel, 64. -/
def execSpdmResponseReady (t : Nat) (k : Fin 65) (nonce : BitVec 256) (s : State) : Host.Outcome State Fault Refusal :=
  act t (fun d => if k.val < 64 then d.attestReady k.val nonce else d.doeReady nonce) s
def execSpdmDoeRequest (t : Nat) (msg : List Byte) (s : State) : Host.Outcome State Fault Refusal := act t (Dev.doeRequest msg) s
def execDoeAbort (t : Nat) (s : State) : Host.Outcome State Fault Refusal := act t Dev.doeAbort s
def execJtagUnlock (t : Nat) (token : UnlockToken) (s : State) : Host.Outcome State Fault Refusal := act t (Dev.jtagUnlock token) s
def execJtagInstruction (t : Nat) (instr : TapInstr) (s : State) : Host.Outcome State Fault Refusal := act t (Dev.jtagInstruction instr) s

end Machine
end Sys2Proof
end

