-- ==== Sys2Proof/Machine/Budget.lean ====
section
/-! DEFINITION. The budget frame boundary, heat, the ends of domain entries and wakes (R140, R269, R276, R277, R367 to R386, R439). -/

namespace Sys2Proof

/-! ### Sensors and heat (R140, R276) -/

/-- E_CAP at the highest reading t, in whole degrees C. -/
def eCapOf (t : Nat) : Nat := if t < 95 then 64 else if t < 110 then 64 * (110 - t) / 15 else 0

/-- The instant since which a limit has held without a break. -/
def heldSince (ok : Bool) (was : Option Ticks) (now : Ticks) : Option Ticks := if ok then some (was.getD now) else none

/-- A limit has held for a span. -/
def heldFor (x : Option Ticks) (span now : Ticks) : Bool := (x.map fun a => decide (a + span ≤ now)).getD false

/-- The 48 sensors are read. -/
def Dev.sense (temps : List Nat) (d : Dev) : Dev :=
  let hot := temps.foldl max 0
  d.modPwr fun w => { w with sensors := temps, below107 := heldSince (decide (hot < 107)) w.below107 d.now,
                             below115 := heldSince (decide (hot < 115)) w.below115 d.now }

/-! ### Suspension (R276, R277) -/

/-- The class 1 to 7 takes of every uncommitted assembly of tree k are undone, from the latest backward. A Pitch that commits at the same
SLICE edge keeps them (R471). -/
def Dev.suspendTree (k : Nat) (d : Dev) : Dev :=
  let edge := cdiv d.now Config.slicePeriod * Config.slicePeriod
  let ps := d.inOrder k ((d.tree k).pitches.filter fun p => d.beforeCommit k p && p.opened && decide (edge < d.commitAt k p))
  d.forEach ps.reverse fun p d => d.undoWhile k p.frame p.pid false (fun t => !t.isC0) (fun _ => true) p.takes.length

/-- Suspension begins at the first boundary at 110 degrees or more, and ends at the first one after 100 ms below 107. -/
def Dev.suspension (d : Dev) : Dev :=
  let hot := d.maxTemp
  if d.pwr.suspended then
    if heldFor d.pwr.below107 (100 * Config.ms) d.now then d.modPwr fun w => { w with suspended := false } else d
  else if 110 ≤ hot then (d.modPwr fun w => { w with suspended := true }).forEach (List.range 64) Dev.suspendTree
  else d

/-! ### E-scale and credit (R269, R276, R386) -/

/-- E_BUDGET of a slice at a boundary: the delivered one, the previous one for up to 8 frames, then the fall-back. -/
def Escale.next (x : Escale) (fallback cap : Nat) : Escale :=
  let y : Escale := match x.newBudget with
    | some e => { x with eBudget := e, newBudget := none, missed := 0 }
    | none => { x with missed := min 9 (x.missed + 1), eBudget := if x.missed < 8 then x.eBudget else fallback }
  { y with eNum := min y.eBudget cap }

/-- The credit of an upstream queue of class 1 to 7 at a boundary. -/
def Queue.refill (q : Queue) (eNum : Nat) : Queue :=
  if q.cfg.valid && q.cfg.kind == 0 && q.cfg.cls != 0 then
    let qs := q.quantum * eNum
    { q with earned := max q.earned (min (q.earned + qs) (q.spent + qs + 10240)) }
  else q

/-- Configurations that wait for the next budget frame (R388). -/
def Dev.budgetSettings (d : Dev) : Dev :=
  d.modPwr fun w =>
    let w := match w.cfgNext with
      | none => w
      | some (c, r) =>
        { w with cfg := c, cfgNext := none,
                 railCh := (List.range c.rails).foldl (fun (m : Tab Rail) i =>
                   let y : Rail := r.get {} i
                   m.upd {} i fun x => { x with addr := y.addr, page := y.page, supply := y.supply, iLimit := y.iLimit,
                                                readAt := if i < w.cfg.rails then x.readAt else d.now }) w.railCh }
    { w with seqNext := [], seq := w.seqNext.foldl (fun m e => m.set {} e.1 (e.2.getD {})) w.seq }

/-- E_CAP, E_NUM and the fall-back. -/
def Dev.scale (d : Dev) : Dev :=
  let was := d.pwr.fallback
  let cap := eCapOf d.maxTemp
  let d := d.modPwr fun w =>
    let es := (List.range 8).foldl (fun m n => m.upd {} n fun x => x.next w.cfg.eFallback cap) w.escale
    { w with eCap := cap, escale := es, fallback := (List.range 8).any fun n => decide (9 ≤ (es.get {} n).missed) }
  if d.pwr.fallback && !was then d.raise qPower 0x0D 3 0 [d.pwr.cfg.eFallback] else d

/-- A reading of 120 or more trips the line transmitters: the bursts that run are cut, and nothing starts while the trip lasts (R140). -/
def Dev.hotTrip (d : Dev) : Dev :=
  if d.pwr.trip || decide (d.maxTemp < 120) then d
  else
    let d := d.modPwr fun w => { w with trip := true }
    d.forEach (List.range 64) fun k d =>
      if (d.tree k).pitches.any fun p => p.phase == 3 then (d.trip (portOfTree k) tripThermal).cutStarted k else d

/-- The boundary of a budget frame: the sensors, the trip, E_CAP and E_NUM, suspension, the counts of capped and suspended frames and the
credits. A commit at the same edge keeps its parcels of every class, and reports the new frame's headroom (R14, R471). -/
def Dev.budgetBoundary (temps : List Nat) (d : Dev) : Dev :=
  if d.timeOn && d.devNs / 125000 != d.pwr.bFrame then
    let d := ((d.sense temps).hotTrip.budgetSettings).scale
    let d := d.suspension
    let d := d.forEach (List.range 8) fun n d =>
      let d := if d.pwr.eCap < 64 then d.bump .framesCapped n 0 else d
      let d := if d.pwr.suspended then d.bump .framesSuspended n 0 else d
      d.modBuf n fun b => { b with queues := b.queues.mapV {} fun _ q => q.refill (d.eNumOf n) }
    d.modPwr fun w => { w with bFrame := d.devNs / 125000 }
  else d

/-! ### The thermal trip (R140) -/

/-- A sensor reads 120 or more. -/
def Dev.thermalTrip (temps : List Nat) (d : Dev) : Dev := (d.sense temps).hotTrip

/-- Every sensor has read below 115 for 1 s. -/
def Dev.thermalClear (d : Dev) : Dev :=
  if d.pwr.trip && heldFor d.pwr.below115 Config.sec d.now then d.modPwr fun w => { w with trip := false } else d

/-! ### Entries and wakes that complete (R367 to R369, R439) -/

/-- What a domain loses as it reaches off and something else notices at once: a line receiver's DFE disengages, its lanes are without
signal (Table 2.4). -/
def Dev.lostAtOff (p : Nat) (d : Dev) : Dev :=
  if 79 ≤ p ∧ p < 95 then d.forEach (List.range 16) fun i d => (d.setDfe (16 * (p - 79) + i) false).noSignal (16 * (p - 79) + i)
  else if 111 ≤ p ∧ p < 127 then d.forEach (List.range 16) fun i d => (d.setDfe (256 + 16 * (p - 111) + i) false).noSignal (256 + 16 * (p - 111) + i)
  else d

/-- An entry ends: completed, or aborted by a dependency that has arisen during it, counted under every refuser (R369). Host
policy does not bear on an entry that the host has asked for (R380). -/
def Dev.entryComplete (p : Nat) (d : Dev) : Dev :=
  let x := d.dom p
  if x.st = 3 ∧ x.target ≠ 0 then
    match d.refusers p x.target x.asker.isSome with
    | [] => let d := d.endEntry p; if x.target = 2 then d.lostAtOff p else d
    | rs =>
      let d := rs.foldl (fun d r => d.bump .pdAborted p r) d
      let low := rs.foldl min 255
      (d.setDom p fun y => { y.settle d.devNs with st := 0, target := 0, lastRef := low }).entryAnswer p { code := .aborted, detail := low }
  else d

/-- `power_enter` (R369, R380): on wakes the domain; retention and off are refused with the lowest refuser, lost to a wake at the same edge, or
begun, and then the answer says how the entry ended. A domain on its way somewhere is at work (R404). -/
def cmdPowerEnter : Cmd := fun rq d =>
  let p := rq.prm 0
  let target := rq.prm 1
  withChecks [chkLen rq 2, chkReady d [[0]], chkRange rq [(0, 0, 126), (1, 0, 2)]] d <|
    if target = 0 then okDone (d.wake p causeHost)
    else if (d.dom p).st = target then okDone d
    else if (d.dom p).st = 3 then ({ code := .busy }, d)
    else if d.neededNow p then ({ code := .aborted, detail := 0x10 }, d.entryLost p)
    else
      let d := if target = 1 && (d.dom p).st = 2 then d.wake p causeHost else d
      match d.refusers p target true with
      | [] => ({ later := true }, (d.beginEntry p target).modDom p fun x => { x with asker := some (rq.mb.val, rq.tag) })
      | r :: rs => ({ code := .refused, detail := rs.foldl min r }, d.refuse p (r :: rs))

/-- The self-test of the vault fails at its start: function 2 is failed with reason 6, the vault is zeroised (R439). -/
def Dev.vaultFailed (d : Dev) : Dev :=
  let d := d.modVault fun v => { v with selfTest := false }
  let d := (d.modHost fun h => { h with initDone := h.initDone.set false 2 false }).setReady 2 { st := 2, reason := 6 }
  (d.zeroise).settleReady

/-- A domain whose exit is under way is usable again; the vault's self-test of a start from off ends with it (R439). -/
def Dev.wakeComplete (p : Nat) (selfTest : Bool) (d : Dev) : Dev :=
  let x := d.dom p
  let d := if x.st = 3 && x.target = 0 then
      let d := d.wake p 0
      if p = d.idleHalf && d.host.fw.update == 1 then d.modFw fun f => { f with update := 2 } else d
    else d
  if p = 5 && d.vault.starting then
    let d := d.modVault fun v => { v with starting := false }
    if selfTest then d else d.vaultFailed
  else d

/-- The time at which the sequencer begins a timed exit (R374, R375): S - 100 ns of a Pitch for a line port's transmitter, the commit instant
- 200 ns for the upstream cipher, 2 us before a commit for the Barrow. -/
def Dev.exitDue (d : Dev) (p : Nat) : Bool :=
  let held := fun (ks : List Nat) => ks.flatMap fun k => ((d.tree k).pitches.filter fun x => Nat.ble x.phase 1).map fun x => (k, x)
  let commits := fun (n lead : Nat) => (held (treesOf n)).any fun (k, x) => x.phase == 0 && Nat.ble (d.commitAt k x) (d.now + lead)
  if 63 ≤ p ∧ p < 79 then (d.portPitches (p - 63)).any fun s => Nat.ble s (d.now + 100 * Config.ns)
  else if 7 ≤ p ∧ p < 55 then
    let n := (p - 7) / 6
    match (p - 7) % 6 with
    | 3 => commits n (200 * Config.ns)
    | 4 => commits n (2 * Config.us)
    | _ => false
  else false
def Dev.scheduledExit (p : Nat) (d : Dev) : Dev := if d.exitDue p then d.beginExit p causePitch else d

/-- Every open assembly of a slice is built: none takes a further parcel (R375). -/
def Dev.barrowBuilt (d : Dev) (n : Nat) : Bool :=
  (d.openPitches n).all fun (k, p) => p.answering || !(d.txKeyed k p.aid.toNat) || !(d.serve k p .ok).1

/-- The sequencer decides an entry of a domain; the Barrow's waits until its assemblies are built. -/
def Dev.domainEntry (p target : Nat) (d : Dev) : Dev :=
  if target == 1 && Nat.ble 7 p && Nat.blt p 55 && (p - 7) % 6 == 4 && !d.barrowBuilt ((p - 7) / 6) then d else d.seqEntry p target

namespace Machine

def execBudgetFrameBoundary (t : Nat) (temps : List Nat) (s : State) : Host.Outcome State Fault Refusal := act t (Dev.budgetBoundary temps) s
def execThermalTrip (t : Nat) (temps : List Nat) (s : State) : Host.Outcome State Fault Refusal := act t (Dev.thermalTrip temps) s
def execThermalTripClear (t : Nat) (s : State) : Host.Outcome State Fault Refusal := act t Dev.thermalClear s
def execPowerEnter (t : Nat) (rq : Req) (s : State) : Host.Outcome State Fault Refusal := act t (runCmd 0x0D11 cmdPowerEnter rq) s
def execPdEntryComplete (t : Nat) (pd : Fin 127) (s : State) : Host.Outcome State Fault Refusal := act t (Dev.entryComplete pd.val) s
def execPdWakeComplete (t : Nat) (pd : Fin 127) (selfTest : Bool) (s : State) : Host.Outcome State Fault Refusal :=
  act t (Dev.wakeComplete pd.val selfTest) s
def execPdEntry (t : Nat) (pd : Fin 127) (target : Fin 3) (s : State) : Host.Outcome State Fault Refusal :=
  act t (Dev.domainEntry pd.val target.val) s
def execPdScheduledExit (t : Nat) (pd : Fin 127) (s : State) : Host.Outcome State Fault Refusal :=
  act t (Dev.scheduledExit pd.val) s

end Machine
end Sys2Proof
end

