-- ==== Sys2Proof/Machine/Dma.lean ====
section
/-! DEFINITION. Halts and restarts of the 64 DMA channels, and what a halt means for each user (R389, R420). -/

namespace Sys2Proof

def Dev.modDma (c : Nat) (f : DmaStatus → DmaStatus) (d : Dev) : Dev := d.modHost fun h => { h with dma := h.dma.upd {} c f }

/-- The work of job j ends with REFUSED and a result code of Table 14.2 beside it (R422, R423; log entry 34). -/
def Dev.failJob (j : Job) (result : Nat) (d : Dev) : Dev :=
  (d.modHost fun h => { h with jobs := h.jobs.erase j }).raise (128 + j.mb) 0x0E 1 j.mb
    [j.tag.toNat, j.opcode, Code.refused.num + 256 * result]

/-- The `fw_load` in progress (R422). -/
def Dev.loadJob (d : Dev) : Option Job := d.host.jobs.find? fun j => j.opcode == 0x0E11

/-- An image fails verification, or cannot be read: the slot is left marked empty (R422). -/
def Dev.loadFailed (result : Nat) (d : Dev) : Dev :=
  match d.loadJob, d.host.fw.loading with
  | some j, some k =>
    ((d.modHost fun h => { h with slots := h.slots.set {} k {} }).modFw fun f => { f with loading := none }).failJob j result
  | _, _ => d

/-- What the halt of channel c means for its users, beyond what their own rules test (R420). -/
def Dev.haltUser (c cause : Nat) (d : Dev) : Dev :=
  if c < 16 then
    match (d.mbox c).fetching with
    | none => d
    | some f => d.answer { mb := Fin.ofNat 16 c, tag := f.tag } f.opcode { code := .dmaError, detail := c }
  else if 52 ≤ c ∧ c < 60 then d.shadowFetch (c - 52) cause [] false
  else if c = 60 then d.loadFailed 3
  else d

/-- Channel c halts: its status, its vector, an event, its users (R420, Table 14.18). -/
def Dev.dmaHalt (c cause : Nat) (d : Dev) : Dev :=
  if d.dmaHalted c then d
  else
    let d := d.modDma c fun x => { halted := true, cause := cause, halts := satInc 65535 x.halts }
    ((d.due (729 + c)).raise qCtl 0x0E 3 c [cause]).haltUser c cause

/-- A cause that can hold: Bus Master Enable is clear for cause 5, PERST# is asserted for cause 6 (Table 14.18). -/
def Dev.causeHolds (d : Dev) (cause : Nat) : Bool :=
  match cause with
  | 0 | 7 => false
  | 5 => !d.host.busMaster
  | 6 => d.host.perst
  | _ => true

/-- The channel works again; its users resume from where they stand (R420). -/
def Dev.dmaResume (c : Nat) (d : Dev) : Dev := d.modDma c fun x => { x with halted := false }

/-- A channel halted with cause 5 or 6 restarts without a command, once Bus Master Enable is set or the reset has ended (R420). -/
def Dev.autoRestart (c : Nat) (d : Dev) : Dev :=
  let x := d.host.dma.get {} c
  if x.halted && ((x.cause == 5 && d.host.busMaster) || (x.cause == 6 && !d.host.perst)) then d.dmaResume c else d

/-- `dma_restart`: channel (R409, R420). -/
def cmdDmaRestart : Cmd := fun rq d =>
  withChecks [chkLen rq 1, chkReady d [[0]], chkRange rq [(0, 0, 63)]] d <| okDone (d.dmaResume (rq.prm 0))

namespace Machine

def execDmaAutoRestart (t : Nat) (c : Fin 64) (s : State) : Host.Outcome State Fault Refusal := act t (Dev.autoRestart c.val) s
def execDmaRestart (t : Nat) (rq : Req) (s : State) : Host.Outcome State Fault Refusal := act t (runCmd 0x0E16 cmdDmaRestart rq) s
/-- A read of a channel's status clears its count of halts (Table 14.18). -/
def execDmaStatusRead (t : Nat) (c : Fin 64) (s : State) : Host.Outcome State Fault Refusal :=
  act t (Dev.modDma c.val fun x => { x with halts := 0 }) s

end Machine
end Sys2Proof
end

