-- ==== Sys2Proof/Machine/Boot.lean ====
section
/-! DEFINITION. Supplies, cold starts, the boot ROM, readiness, the resets from the host's side and the persistent records
(R340, R390 to R397, R424, R425, R483 to R485). -/

namespace Sys2Proof

/-! ### The persistent record area (R395) -/

/-- The AO records of the block as a copy in flash holds them. -/
def Dev.dtRecords (d : Dev) : Tab DtRec := (List.range 64).foldl (fun m k => m.set {} k (d.tree k).dt) []
def Dev.rankMaps (d : Dev) : Tab RankMap := (List.range 8).foldl (fun m n => m.set {} n (d.stack n).map) []

/-- AO records come into force. -/
def Dev.restoreRecords (dt : Tab DtRec) (maps : Tab RankMap) (d : Dev) : Dev :=
  let d := d.forEach (List.range 64) fun k d => d.modTree k fun x => { x with dt := dt.get {} k }
  d.forEach (List.range 8) fun n d => d.modStack n fun m => { m with map := maps.get {} n, oneCopy := (Stack.start (maps.get {} n) 0).oneCopy }

/-- The valid copy with the higher generation. -/
def Dev.bestCopy (d : Dev) : Option (Nat × Tab DtRec × Tab RankMap) :=
  match d.flashA, d.flashB with
  | some a, some b => if a.1 < b.1 then some b else some a
  | some a, none => some a
  | none, b => b

/-- The boot ROM reads both copies at a cold start: the AO records come from the better one, unless AO storage was kept; with none
valid they have their reset values, and an event is due. -/
def Dev.loadRecords (kept : Bool) (d : Dev) : Dev :=
  match d.bestCopy with
  | none => d.modBoot fun b => { b with recBad := true }
  | some (_, dt, maps) => if kept then d else d.restoreRecords dt maps

/-- The firmware writes the copy with the lower generation, an invalid one first, and gives it the next generation. -/
def Dev.writeRecords (d : Dev) : Dev :=
  if d.recDirty && d.host.fw.running then
    let g := max ((d.flashA.map (·.1)).getD 0) ((d.flashB.map (·.1)).getD 0)
    let copy := some ((g + 1) % 2 ^ 32, d.dtRecords, d.rankMaps)
    let intoA := match d.flashA, d.flashB with
      | none, _ => true
      | some _, none => false
      | some a, some b => decide (a.1 ≤ b.1)
    let d := { d with recDirty := false }
    if intoA then { d with flashA := copy } else { d with flashB := copy }
  else d

/-! ### BOOT_STATUS and the boot ROM (R390 to R393) -/

/-- A step of the boot ROM writes BOOT_STATUS; each change signals vector 728. -/
def Dev.bootStep (f : Boot → Boot) (d : Dev) : Dev := (d.modBoot fun b => { f b with stageAt := d.now }).due 728

/-- The boot ROM begins: the vault starts, the boot ROM measures itself and the fuses, then reads the persistent records. -/
def Dev.bootBegin (kept : Bool) (d : Dev) : Dev :=
  let d := d.modVault fun v => { v.start with mr0 := v.mr0 ++ [Config.romDigest.toNat, v.fuses.measured] }
  (d.loadRecords kept).bootStep fun b => { b with started := true, stage := 1, tried := 0 }

/-- PERST# is released with every supply in range: at the first release since the cold start the boot ROM begins (R390, R394). -/
def Dev.perstRelease (d : Dev) : Dev :=
  if !d.host.perst || !d.pwr.railsOk then d
  else
    let d := d.modHost fun h => { h with perst := false }
    if d.host.boot.started then d else d.bootBegin false

/-- The verification of an image (R391, R425), as a result code of Table 14.2: its size, the digest of image and blob, the signature of the
fused vendor key over the header, and the fused minimum. The code of an image over 24 MiB is a DESIGN CHOICE (log entry 118). -/
def FwImage.verify (x : FwImage) (f : Fuses) : Nat :=
  if Nat.blt 25165824 x.image.length then 2
  else if x.digest != (sha384 (x.image ++ x.blob)).toNat then 4
  else if x.signer != f.vendorKey || x.signed != (x.digest, x.svn) || Nat.blt x.svn f.minSvn then 5
  else 1

/-- A flash slot that holds an image: its digests are MR1 and MR2 once it runs (R424, R425). -/
def FwImage.slot (x : FwImage) : FlashSlot :=
  { present := true, digest := x.digest, image := (sha384 x.image).toNat, blob := (sha384 x.blob).toNat, svn := x.svn,
    anchors := x.anchors }

/-- Result codes of Table 14.2. -/
def ImageTry.result (f : Fuses) : ImageTry → Nat
  | .noImage => 2 | .readError => 3 | .found x => x.verify f

/-- What trying source i reads: a host image must be posted and its channel must not be halted (R390, R420). -/
def Dev.sourceRead (d : Dev) (i : Nat) (src : ImageTry) : ImageTry :=
  if i == 2 && !d.host.boot.posted then .noImage
  else if i == 2 && d.dmaHalted 60 then .readError
  else src

/-- The image is accepted: the boot ROM measures it and its blob before it runs (R424, R425). -/
def Vault.measure (v : Vault) (y : FlashSlot) : Vault :=
  { v with mr1 := some y.image, mr2 := some y.blob, mr4 := v.mr4 ++ [y.image], runSvn := y.svn, anchors := y.anchors }

def Boot.setResult (b : Boot) (i r : Nat) : Boot :=
  if i = 0 then { b with resSlot0 := r } else if i = 1 then { b with resSlot1 := r } else { b with resHost := r }

/-- The boot ROM moves on after source i: to the next source, or to a wait after the third (R390). -/
def Boot.nextSource (b : Boot) (i : Nat) : Boot :=
  if i < 2 then { b with stage := i + 2, tried := i + 1 }
  else { b with stage := 4, tried := 0, waitS := Config.bootWait b.waits, waits := b.waits + 1 }

/-- The boot ROM tries a source. -/
def Dev.bootAttempt (src : ImageTry) (d : Dev) : Dev :=
  let b := d.host.boot
  if !(b.started && d.pwr.railsOk && !d.host.fw.running && decide (1 ≤ b.stage ∧ b.stage ≤ 3)) then d
  else
    let i := b.tried
    let d := if i = 0 then d.modBoot fun b => { b with attempts := satInc (2 ^ 20 - 1) b.attempts } else d
    let read := d.sourceRead i src
    let result := read.result d.vault.fuses
    match read, result with
    | .found x, 1 =>
      let d := d.modVault fun v => v.measure x.slot
      let d := if i < 2 then d.modHost fun h => { h with slots := h.slots.set {} i x.slot } else d
      d.bootStep fun b => { b.setResult i 1 with source := i, stage := 5, posted := b.posted && i != 2 }
    | _, _ => d.bootStep fun b => (b.setResult i result).nextSource i

/-- The wait is over: a new attempt (R390). -/
def Dev.bootWaitExpiry (d : Dev) : Dev :=
  if d.host.boot.stage == 4 && Nat.ble (d.host.boot.stageAt + d.host.boot.waitS * Config.sec) d.now then d.bootStep fun b => { b with stage := 1, waitS := 0, tried := 0 } else d

/-- The firmware has been starting for 2 s (R391). -/
def Dev.startedLate (d : Dev) : Bool := Nat.ble (d.host.boot.stageAt + 2 * Config.sec) d.now

/-- The firmware reports running, within 2 s of its start; the other half goes off (R379, R391, R395). -/
def Dev.firmwareRunning (d : Dev) : Dev :=
  if d.host.boot.stage == 5 && !d.startedLate then
    let bad := d.host.boot.recBad
    let d := ((d.bootStep fun b => { b with stage := 6, waits := 0, recBad := false }).modFw fun f => { f with running := true }).halfOff d.idleHalf
    if bad then d.raise qCtl 0x0E 6 0 [] else d
  else d

/-- It does not within 2 s: result 6, and the next source (R391). -/
def Dev.firmwareTimeout (d : Dev) : Dev :=
  if d.host.boot.stage == 5 && d.startedLate then
    d.bootStep fun b => { ((b.setResult b.source 6).nextSource b.source) with source := 3 }
  else d

/-- A host image is posted; ignored while firmware runs (R392). A write of any other dword than 1 is none (DESIGN CHOICE, log entry 128). -/
def Dev.hostImgPost (v : Dword) (d : Dev) : Dev :=
  if v == 1 && !d.host.fw.running then d.modBoot fun b => { b with posted := true } else d

/-! ### Readiness (R396, R397) -/

/-- The reason of a function whose initialisation fails, where Table 14.4 names one. -/
def failReason (f : Nat) : Option Nat :=
  if 3 ≤ f ∧ f < 11 then some 3 else if 27 ≤ f then some 4 else none

/-- Function f ends its initialisation: it becomes ready once every function it depends on is; the directions of a slice without a logical rank in
service stay not ready (R333). A stack or a line port that fails is marked failed, and a vault whose self-test fails is zeroised as well (R439). -/
def Dev.functionReady (f : Nat) (ok : Bool) (d : Dev) : Dev :=
  if !d.host.fw.running || d.isReady f || (d.readyW f).st == 2 then d
  else if ok && ((List.range 8).any fun n => d.noRank n && (f == fnDs n || f == fnUs n)) then d.setReady f { st := 2, reason := 5 }
  else if ok then
    let d := (d.modHost fun h => { h with initDone := h.initDone.set false f true }).settleReady
    if f = 0 && d.isReady 0 then d.fusedCores else d
  else if f = 2 then d.vaultFailed
  else match failReason f with
  | some r => (d.setReady f { st := 2, reason := r }).settleReady
  | none => d

/-! ### Resets from the host's side (R394) -/

/-- The PCIE domain and the host-facing state of the mailbox interface are reset; channels halt with cause 6. -/
def Dev.hostReset (d : Dev) : Dev :=
  let d := (d.modHost fun h => { h with busMaster := false, mboxes := [], turns := [] }).forEach (List.range 61) fun c d => d.dmaHalt c 6
  let d := d.modPwr fun w => { w with doms := w.doms.mapV {} fun _ x => { x with asker := none } }
  let d := d.forEach (List.range 8) fun n d => d.modStack n fun m => { m with scrub := m.scrub.map fun x => { x with asker := none } }
  (d.modHost fun h =>
    { h with
      evq := h.evq.mapV {} fun _ q => { q with reg := false, addr := 0, entries := 0 }
      rx := h.rx.mapV {} fun _ r => { idx := r.idx }
      tx := h.tx.mapV {} fun _ r => { idx := r.idx }
      msix := {} }).doeAbort

def Dev.perstAssert (d : Dev) : Dev :=
  if d.host.perst then d
  else (({ d with host := { d.host with perst := true } } : Dev).pcieLink 0).hostReset

def Dev.functionReset (d : Dev) : Dev := if d.host.perst then d else d.hostReset

/-! ### Supplies (R340, R483 to R485) -/

/-- The block at a cold start: every register at its reset value. What lies outside the die and in fuses stays: PERST#, the flash
slots and record copies, the fuses; so do the clock of the model and what has been driven out. -/
def Dev.coldDev (d : Dev) : Dev :=
  { now := d.now, free := d.free, outs := d.outs, flashA := d.flashA, flashB := d.flashB,
    host := { perst := d.host.perst, slots := d.host.slots }, vault := { fuses := d.vault.fuses },
    mems := (List.range 8).foldl (fun m n => m.set {} n (Stack.start {} d.now)) [] }

/-- A main rail leaves its range for 2 us (R485): every output and driver goes off, every domain but AO enters off, the firmware
and the functions stop. -/
def Dev.railsLost (d : Dev) : Dev :=
  let d := d.forEach (List.range 64) fun k d =>
    if (d.tree k).pitches.any fun p => p.phase == 3 then d.out (.burstCut k) else d
  let d := d.setDrive (List.range 256) false
  let d := if d.timeOn then d.saveTime else d
  let d := d.modPwr fun w =>
    { w with railsOk := false,
             doms := (List.range 126).foldl (fun m i => m.upd {} (i + 1) fun x => { x.settle d.devNs with st := 2, target := 0 }) w.doms }
  let d := d.modFw fun f => { f with running := false }
  d.modHost fun h => { h with ready := [], initDone := [] }

/-- A rail excursion: of an AO rail it ends AO storage as well. Code 0 names no rail. -/
def Dev.railExcursion (rail : Nat) (d : Dev) : Dev :=
  if rail = 0 then d
  else
    let d := if d.pwr.railsOk then d.railsLost else d
    let d := if rail = 17 then d.modPwr fun w => { w with vddio := false } else d
    if 19 ≤ rail then d.modPwr fun w => { w with aoDown := true } else d

/-- The first power-up of the AO domain, or its return after AO storage has ended: the FRC starts at 0, UNCERTAIN is raised
(R340, R345). -/
def Dev.aoColdStart (d : Dev) : Dev := (d.coldDev.modAo fun a => { a with cold := true }).raiseUncertain none

/-- The main rails return while AO storage stood: a cold start that keeps AO storage, rebuilds the FRC, and begins the boot ROM
without waiting for PERST# (R352, R484, R485). -/
def Dev.mainRestored (d : Dev) : Dev :=
  let dt := d.dtRecords
  let maps := d.rankMaps
  let ao := d.ao
  let c := ({ d.coldDev with ao := ao, time := { errNs := d.time.errNs } } : Dev)
  let c := (c.restoreRecords dt maps).rebuildTime
  ({ c with recDirty := d.recDirty } : Dev).bootBegin true

namespace Machine

def execRailExcursion (t : Nat) (rail : Fin 21) (s : State) : Host.Outcome State Fault Refusal := act t (Dev.railExcursion rail.val) s
/-- The event log is cleared at a cold start (R463). -/
def execAoColdStart (t : Nat) (s : State) : Host.Outcome State Fault Refusal :=
  if s.dev.pwr.aoDown || !s.dev.ao.cold then act t Dev.aoColdStart { s with log := {} } else act t id s
def execMainRailsRestored (t : Nat) (s : State) : Host.Outcome State Fault Refusal :=
  if !s.dev.pwr.railsOk && !s.dev.pwr.aoDown then act t Dev.mainRestored { s with log := {} } else act t id s
def execPerstRelease (t : Nat) (s : State) : Host.Outcome State Fault Refusal := act t Dev.perstRelease s
def execBootAttempt (t : Nat) (src : ImageTry) (s : State) : Host.Outcome State Fault Refusal := act t (Dev.bootAttempt src) s
def execBootWaitExpiry (t : Nat) (s : State) : Host.Outcome State Fault Refusal := act t Dev.bootWaitExpiry s
def execFirmwareRunning (t : Nat) (s : State) : Host.Outcome State Fault Refusal := act t Dev.firmwareRunning s
def execFirmwareStartTimeout (t : Nat) (s : State) : Host.Outcome State Fault Refusal := act t Dev.firmwareTimeout s
def execFunctionReady (t : Nat) (f : Fin 43) (ok : Bool) (s : State) : Host.Outcome State Fault Refusal :=
  act t (Dev.functionReady f.val ok) s
def execPerstAssert (t : Nat) (s : State) : Host.Outcome State Fault Refusal := act t Dev.perstAssert s
def execFunctionLevelReset (t : Nat) (s : State) : Host.Outcome State Fault Refusal := act t Dev.functionReset s
def execHostImgPost (t : Nat) (v : Dword) (s : State) : Host.Outcome State Fault Refusal := act t (Dev.hostImgPost v) s
def execPersistentRecordWrite (t : Nat) (s : State) : Host.Outcome State Fault Refusal := act t Dev.writeRecords s

end Machine
end Sys2Proof
end

