-- ==== Sys2Proof/Machine/Firmware.lean ====
section
/-! DEFINITION. Firmware in flash and in the two halves: `fw_status`, `fw_load`, `fw_update`, the handover, traps and the swap of halves
(R406, R409, R421 to R423, R434, R435). -/

namespace Sys2Proof

def Dev.activeDom (d : Dev) : Nat := 2 + d.host.fw.activeHalf

/-- BOOT_STATUS (Table 14.2). -/
def Boot.words (b : Boot) : List Word :=
  [BitVec.ofNat 20 (b.stage * 2 ^ 17 + b.resSlot0 * 2 ^ 14 + b.resSlot1 * 2 ^ 11 + b.resHost * 2 ^ 8 + b.waitS * 4 + b.source),
   BitVec.ofNat 20 b.attempts]

/-- `fw_status`: BOOT_STATUS, slot of the running image, the digest of each slot's header, active half, update state, then the last
faults as a list of core, address and device time (R409; log entry 33). -/
def cmdFwStatus : Cmd := fun rq d =>
  withChecks [chkLen rq 0, chkReady d [[0]]] d <|
    let f := d.host.fw
    okWith d (resWords d.host.boot.words ++ resWide 2 d.host.boot.source ++
      ([0, 1].flatMap fun i => resWide 384 (d.host.slots.get {} i).digest) ++ resWide 1 f.activeHalf ++ resWide 3 f.update ++
      resWide 5 f.faults.length ++ (f.faults.flatMap fun x => resWide 3 x.core ++ resWide 40 x.addr ++ resWide 64 x.devNs))

/-- `fw_load`: slot; host address; length in bytes (R422). It is refused for the slot of the running image, and busy for a slot that a
`fw_update` reads or while another load runs. -/
def cmdFwLoad : Cmd := fun rq d =>
  let len := rq.wide2 3
  withChecks [chkLen rq 5, chkReady d [[0]], chkRange rq [(0, 0, 1)], failIf (rq.raw 1 % 4 != 0) .range 1, chkRange rq [(3, 0, 63)],
      failIf (len == 0 || decide (33554432 < len)) .range 4,
      failIf (d.host.boot.source == rq.prm 0) .refused 0,
      failIf ((d.host.fw.update != 0 && d.host.fw.updSlot == rq.prm 0) || d.host.fw.loading.isSome) .busy] d <|
    ({ code := .async }, (d.modFw fun f => { f with loading := some (rq.prm 0) }).addJob rq 0x0E11)

/-- A root key or a key exchange is held by some tree. -/
def Dev.anySecret (d : Dev) : Bool :=
  (List.range 64).any fun k => (d.vault.roots.get {} k).held || (d.vault.kex.get {} k).active

/-- The conditions of R434 on an image: verified, not older than the running one, with the blob that MR2 measures. -/
def Dev.keepsSeal (d : Dev) (verified : Bool) (blob svn : Nat) : Bool :=
  verified && decide (d.vault.runSvn ≤ svn) && decide (d.vault.mr2 = some blob)

/-- `fw_update`: slot (R423, R434). -/
def cmdFwUpdate : Cmd := fun rq d =>
  let x := d.host.slots.get {} (rq.prm 0)
  withChecks [chkLen rq 1, chkReady d [[0], [fnVault]], chkRange rq [(0, 0, 1)], failIf (d.host.fw.update != 0) .busy,
      failIf (d.host.fw.loading == some (rq.prm 0)) .busy,
      failIf (d.anySecret && !d.keepsSeal x.present x.blob x.svn) .refused 0] d <|
    let d := d.wake 5 causeHost
    let awake := d.isOn d.idleHalf
    let d := if awake then d else d.beginExit d.idleHalf causeHost
    let d := d.modFw fun f => { f with update := if awake then 2 else 1, updSlot := rq.prm 0 }
    ({ code := .async }, d.addJob rq 0x0E12)

def Dev.updateJob (d : Dev) : Option Job := d.host.jobs.find? fun j => j.opcode == 0x0E12

/-- A step before the handover fails: the idle half goes off, the running firmware stays (R423). -/
def Dev.updateFailed (result : Nat) (d : Dev) : Dev :=
  if d.host.fw.update = 0 then d
  else
    let d := (d.modFw fun f => { f with update := 0 }).halfOff d.idleHalf
    match d.updateJob with
    | none => d
    | some j => d.failJob j result

/-- The new half takes over (R423, R421): the old one goes off. -/
def Dev.swapHalves (d : Dev) : Dev :=
  let old := d.activeDom
  let d := d.modFw fun f => { f with activeHalf := 1 - f.activeHalf }
  (d.halfOff old).raise qCtl 0x0E 5 d.host.fw.activeHalf []

/-- What the vault does at a handover: it measures the new image of the slot, moves the tags of the root keys when R434 allows, erases the
exchanges in progress with what the P-384 unit does for them, and the record of R166, the hub's chain included (R425, R434, R435). -/
def Dev.vaultHandover (y : FlashSlot) (d : Dev) : Dev :=
  let keep := d.keepsSeal y.present y.blob y.svn
  let d := d.modVault fun v =>
    { v.measure y with kex := [] }
  let d := if keep then
      d.modVault fun v => { v with roots := v.roots.mapV {} fun _ r => if r.held then { r with tag := v.sealTag } else r }
    else d
  d.forEach (List.range 64) fun k d =>
    let d := if (d.tree k).ex.kexShare.isSome then d.modVault fun v => { v with sign := v.sign.done k d.now } else d
    d.modTree k fun x =>
      { x with ex := { x.ex with challenged := false, measured := false, kexShare := none, chain := 0, chainBlocks := [], hubKey := none } }

/-- The words that differ from what they read during a swap are reported (R396). -/
def Dev.reportSwap (start : Bool) (d : Dev) : Dev :=
  d.forEach (List.range 43) fun f d =>
    let r := if start then ({ st := 0, reason := 7 } : Readiness) else d.readyW f
    if d.readyW f = { st := 0, reason := 7 } then d else d.raise qCtl 0x0E 2 f [r.st, r.reason]

/-- The handover, at a budget frame boundary: of an update whose new half has started with its slot's image, or of a swap, which extends MR4 by
the running image's digest (R421, R423). -/
def Dev.handover (d : Dev) : Dev :=
  let d := d.snapSigned
  let w := d.host.fw
  if d.devNs % 125000 != 0 then d
  else if w.swapping then
    let d := d.modVault fun v => { v with mr4 := v.mr4 ++ [v.mr1.getD 0] }
    let d := (d.modFw fun f => { f with swapping := false }).swapHalves
    (d.reportSwap false).settleReady
  else if w.update = 2 then
    let d := (d.vaultHandover (d.host.slots.get {} w.updSlot)).swapHalves
    let d := (d.modFw fun f => { f with update := 0 }).bootStep fun b => { b with source := w.updSlot }
    match d.updateJob with
    | none => d
    | some j => d.endJob j .ok
  else d

/-- The long work of an ASYNC command ends (R406): a load, verified or not, or an update that fails before its handover. A pass, a
scan and a handover end in their own steps. -/
def Dev.asyncDone (m : Nat) (tag : Word) (ok : Bool) (image : ImageTry) (d : Dev) : Dev :=
  match d.host.jobs.find? fun j => j.mb == m && j.tag == tag && (j.opcode == 0x0E11 || j.opcode == 0x0E12) with
  | none => d
  | some j =>
    if j.opcode = 0x0E12 then
      if ok then d else d.updateFailed (match image.result d.vault.fuses with | 1 => 6 | r => r)
    else
      let image := if !ok || d.dmaHalted 60 then ImageTry.readError else image
      let result := image.result d.vault.fuses
      match d.host.fw.loading, image, result with
      | some k, .found x, 1 =>
        let d := (d.modHost fun h => { h with slots := h.slots.set {} k x.slot }).modFw fun f => { f with loading := none }
        d.endJob j .ok
      | _, _, _ => d.loadFailed result

/-- A core traps (R421): a bad word of the half's instruction or data SRAM, false and true, is counted and reported as memory 20 or 21 of the slice of
the core's number, which the spec does not say (R334; log entry 114); the fault is recorded, the page reloaded, the command of the task answered with FW_FAULT, an event raised. When
the reload fails, or the same page has trapped within 1 s, the halves swap; a swap that fails asserts FAULT. -/
def Dev.firmwareTrap (core addr page : Nat) (sram : Option Bool) (task : Option (Fin 16)) (reloaded swapped : Bool) (d : Dev) : Dev :=
  let w := d.host.fw
  if !w.running || w.swapping then d
  else
    let again := w.faults.any fun f => f.page == page && decide (d.now ≤ f.time + Config.sec)
    let x : FwFault := { core := core, addr := addr, page := page, time := d.now, devNs := d.devNs }
    let d := match sram with
      | some data => d.sramBad core (if data then 21 else 20) (addr / 32)
      | none => d
    let d := d.modFw fun f => { f with faults := lastN 16 (f.faults ++ [x]), memFault := f.memFault.set 0 core 0 }
    let d := match task with
      | none => d
      | some m =>
        match (d.mbox m.val).fetching with
        | none => d
        | some c => d.answer { mb := m, tag := c.tag } c.opcode { code := .fwFault, detail := core }
    let d := d.raise qCtl 0x0E 4 core [addr / 2 ^ 20 % 2 ^ 20, addr % 2 ^ 20]
    let slot := d.host.boot.source
    let image := Nat.blt slot 2 && (d.host.slots.get {} slot).present
    if reloaded && image && !again then d
    else if swapped && image then
      let d := d.updateFailed 6
      let d := d.wake d.idleHalf causeError
      (d.reportSwap true).modFw fun f => { f with swapping := true }
    else d.modFw fun f => { f with faultOut := true }

namespace Machine

def execFwStatus (t : Nat) (rq : Req) (s : State) : Host.Outcome State Fault Refusal := act t (runCmd 0x0E10 cmdFwStatus rq) s
def execFwLoad (t : Nat) (rq : Req) (s : State) : Host.Outcome State Fault Refusal := act t (runCmd 0x0E11 cmdFwLoad rq) s
def execFwUpdate (t : Nat) (rq : Req) (s : State) : Host.Outcome State Fault Refusal := act t (runCmd 0x0E12 cmdFwUpdate rq) s
def execFwHandover (t : Nat) (s : State) : Host.Outcome State Fault Refusal := act t Dev.handover s
def execAsyncCompletion (t : Nat) (m : Fin 16) (tag : Word) (ok : Bool) (image : ImageTry) (s : State) :
    Host.Outcome State Fault Refusal := act t (Dev.asyncDone m.val tag ok image) s

end Machine
end Sys2Proof
end

