-- ==== Sys2Proof/Machine/Hbm.lean ====
section
/-! DEFINITION. The reads of a memory stack as they return, with the effect of an uncorrectable or poisoned one for the port
that made it (R313, R321 to R327, Table 11.5), and the update of a count block (R446, R447). -/

namespace Sys2Proof

/-- The requester port of a read, in the order of Table 11.2. -/
def ReadUse.port : ReadUse → Nat
  | .packetWrite _ _ => 0
  | .rmw p => p.val
  | .commit _ _ _ _ | .egress _ _ | .hostRing _ _ => 1
  | .spill _ _ => 2
  | .table _ _ | .count _ _ => 3
  | .hostDma _ => 4
  | .fwFetch _ | .fwData _ => 5
  | .scrub | .migration => 6

/-- The read is of a control region, which R313 holds twice. -/
def ReadUse.control : ReadUse → Bool
  | .spill _ _ | .table _ _ | .count _ _ | .fwFetch _ | .fwData _ => true
  | _ => false

/-- The read is the first half of a read-modify-write (R322). -/
def ReadUse.isRmw : ReadUse → Bool
  | .packetWrite _ _ | .rmw _ => true
  | _ => false

/-- The physical rank of a read: the spare for a pass over it, the source for a migration copy, otherwise the map (R309, R330). -/
def Dev.physFor (d : Dev) (n addr : Nat) (use : ReadUse) : Nat :=
  match use with
  | .scrub => d.physOf n addr (((d.stack n).scrub.map (·.spare)).getD false)
  | .migration => ((d.stack n).mig.map (·.src)).getD ((d.stack n).map.phys (logicalOf addr))
  | _ => (d.stack n).map.phys (logicalOf addr)

/-- The counts held in count blocks, by instance (R446): per LFN, meter, queue, rule and MAC filter. -/
def blockCounts : List CN :=
  [.ruleHits, .mfHits, .lfnFrames, .lfnBytes, .mtrGreen, .mtrGreenBytes, .mtrYellow, .mtrYellowBytes, .mtrRed, .mtrRedBytes,
   .mtrSentGreen, .mtrSentYellow] ++ queueCounts

/-- One count restarts from 0 with its invalid flag set (R447). -/
def Dev.invalidate (c : CN) (owner sub : Nat) (d : Dev) : Dev :=
  { d with counts := d.counts.set {} (c.key owner sub) { val := 0, invalid := true } }

/-- Both copies of the block of instance i of a family are bad: its four counts restart, with an event (R447). The counts per key
context are those of the tree and AID that the context is bound to. -/
def Dev.restartBlock (n name i : Nat) (d : Dev) : Dev :=
  let insts := (List.range 4).map (4 * (i / 4) + ·)
  match blockCounts.find? (·.index == name), aidCounts.find? (·.index == name) with
  | some c, _ => (d.forEach insts fun j d => d.invalidate c n j).raise (qSlice n) 0x10 3 n [name, 4 * (i / 4)]
  | _, some c =>
    (d.forEach insts fun j d =>
      let x := d.keyCtx n j
      if x.bound then d.invalidate c x.tree x.aid.toNat else d).raise (qSlice n) 0x10 3 n [name, 4 * (i / 4)]
  | _, _ => d

/-- The effect of Table 11.5 for the user of a bad word; of a control region, when both copies are bad. A core's trap for what it could not read is an
event of its own (R421). -/
def Dev.badEffect (n : Nat) (use : ReadUse) (d : Dev) : Dev :=
  match use with
  | .packetWrite p i => d.modFrame n p i fun f => { f with poison := true }
  | .commit k frame pid item => d.poisonItem k frame pid item
  | .egress p i => d.egressPoison n p i
  | .hostRing p i => d.modFrame n p i fun f => { f with poison := true }
  | .spill k aid => d.undoAid k aid
  | .table code i => d.markBad n code i
  | .count name i => d.restartBlock n name i
  | .hostDma c => d.dmaHalt (c % 64) 1
  | .fwFetch c => d.modFw fun f => { f with memFault := f.memFault.set 0 c 1 }
  | .fwData c => d.modFw fun f => { f with memFault := f.memFault.set 0 c 2 }
  | .rmw _ | .scrub | .migration => d

/-- A scrub pass has read its next word; with write-back on, one that it corrected or found uncorrectable is written back before the pass goes
on (R326, R327). -/
def Dev.scrubWord (n addr : Nat) (r : ReadResult) (d : Dev) : Dev :=
  d.modStack n fun m => { m with scrub := m.scrub.map fun x =>
    let x := { x with flying := false }
    let y := match r with
      | .ok => x
      | .corrected => { x with corrected := x.corrected + 1 }
      | .uncorrectable => { x with uncorr := x.uncorr + 1, first16 := (x.first16 ++ [addr]).take 16 }
      | .poisoned => { x with poison := x.poison + 1 }
    if x.wb && (r == .corrected || r == .uncorrectable) then { y with back := some (r == .uncorrectable) }
    else { y with done := y.done + 32 } }

/-- A migration has read its next word, which goes to the spare, as poison if it was bad (R323, R330). -/
def Dev.migrateWord (n : Nat) (r : ReadResult) (d : Dev) : Dev :=
  d.modStack n fun m => { m with mig := m.mig.map fun g => { g with word := some r.bad } }

/-- A word of a control region is written whole to every copy (R313). -/
def Dev.writeCopies (n port addr : Nat) (d : Dev) : Dev :=
  d.forEach (d.stack n).map.copies fun l d => d.memAsk n { port := port, write := true, addr := l * rankBytes + addr % rankBytes, prio := 0 }

/-- A read of a control region returns (R313): a bad word is read from the other copy, and the effect follows when that is bad as well; a good word of
the other copy is written over the bad one. The read of a count block to which increments are added is followed by the writes of it (R446). -/
def Dev.controlRead (n addr : Nat) (use : ReadUse) (r : MemRq) (res : ReadResult) (d : Dev) : Dev :=
  let others := (d.stack n).map.copies.filter fun l => l != logicalOf addr
  let at_ := fun (l : Nat) => l * rankBytes + addr % rankBytes
  match (if res.bad && !r.second then others else []) with
  | l :: _ => d.memAsk n { port := use.port, write := false, addr := at_ l, prio := 0, second := true, upd := r.upd }
  | [] =>
    let d := if res.bad then d.badEffect n use else d
    let d := if r.second && !res.bad then
        d.forEach others fun l d => d.memAsk n { port := use.port, write := true, addr := at_ l, prio := 0 }
      else d
    if r.upd then d.writeCopies n use.port addr else d

/-- Offsets of the control regions in a logical rank (Table 11.1): table images, count blocks, take-log spill, firmware. -/
def controlRegion (i : Nat) : Nat × Nat :=
  match i with
  | 0 => (0x200000000, 0x204000000) | 1 => (0x204000000, 0x214000000) | 2 => (0x214000000, 0x218000000) | _ => (0x218000000, 0x258000000)

/-- The address lies in control region i of a logical rank. -/
def inRegion (i addr : Nat) : Bool :=
  Nat.ble (controlRegion i).1 (addr % rankBytes) && Nat.blt (addr % rankBytes) (controlRegion i).2

/-- The offset of a count block, for a family of counts and an instance; the spec gives the region alone (DESIGN CHOICE, log entry 86). -/
def blockOffset (name i : Nat) : Nat := 0x204000000 + 32 * ((name * 65536 + i / 4) % 8388608)

/-- The read can be the one it says: its address is of the buffer, the control region or the word in progress that its use names, and a pass or
migration reads no further word while one waits to be written (R311 to R313, R326, R328, R330). -/
def Dev.readFits (d : Dev) (n addr : Nat) (use : ReadUse) : Bool :=
  match use with
  | .packetWrite p i | .egress p i | .hostRing p i => bufferAt addr == some (p, i)
  | .commit k frame pid item =>
    match (d.pitch k frame pid).bind fun p => (p.sent[item]?).map fun x => (p, x) with
    | some (p, .parcel _ _ _ _ _ pos _ _) => p.takes.any fun t => t.pos == pos && bufferAt addr == some (t.desc.pool, t.desc.index)
    | _ => false
  | .spill _ _ => inRegion 2 addr
  | .table _ _ => inRegion 0 addr
  | .count name i => addr % rankBytes == blockOffset name i
  | .fwFetch _ | .fwData _ => inRegion 3 addr
  | .rmw p => [2, 3, 4, 5].contains p.val
  | .hostDma c => Nat.blt c 64
  | .scrub => ((d.stack n).scrub.map fun x => (!x.paused || x.flying) && x.back.isNone && Nat.blt x.done x.len && x.addr == addr).getD false
  | .migration => ((d.stack n).mig.map fun g => g.word.isNone && Nat.blt g.ptr rankBytes && g.addr == addr).getD false

/-- A read of stack n returns (R313, R321 to R325): its slot, the on-die correction, then what the word shows. -/
def Dev.hbmRead (n addr : Nat) (w : WordRead) (use : ReadUse) (dieCorr : Bool) (r : MemRq) (d : Dev) : Dev :=
  let phys := d.physFor n addr use
  let res := w.result ((d.stack n).poisoned phys addr)
  let d := d.access n use.port phys addr false
  let d := if dieCorr then d.bump .dieCorr n phys else d
  let d := if use.isRmw then d.rmwRead n r res else d.memDone n r
  let d := match use with
    | .scrub => d.scrubWord n addr res
    | .migration => d.migrateWord n res
    | _ => if use.control then d.controlRead n addr use r res else if res.bad then d.badEffect n use else d
  d.readSeen n use.port addr phys res

/-- The request that a returning read answers: for a read-modify-write the write whose read is still to come. -/
def readAsked (use : ReadUse) (addr : Nat) (r : MemRq) : Bool :=
  r.port == use.port && r.addr == addr && r.mig == (use == .migration) && (if use.isRmw then r.write && r.part else !r.write)

/-- Increments gathered on die are added to a count block (R446): the counts of the model are exact at all times, so what remains is the read of the
block's word, which the writes of every copy follow (R313). -/
def Dev.blockUpdate (n name i : Nat) (d : Dev) : Dev :=
  match (blockCounts ++ aidCounts).find? (·.index == name) with
  | none => d
  | some _ =>
    d.forEach ((d.stack n).map.copies.take 1) fun l d =>
      d.memAsk n { port := 3, write := false, addr := l * rankBytes + blockOffset name i, prio := 0, upd := true }

namespace Machine

def execCountBlockUpdate (t : Nat) (n : Fin 8) (name : Nat) (inst : Nat) (s : State) : Host.Outcome State Fault Refusal :=
  act t (Dev.blockUpdate n.val name inst) s

end Machine
end Sys2Proof
end

