-- ==== Sys2Proof/Machine/HostQ.lean ====
section
/-! DEFINITION. Event queues, host packet rings, the queue index page, vectors, board interrupts and plain registers (R8, R398, R399,
R409, R413 to R419). -/

namespace Sys2Proof

/-! ### Registration (Table 14.12) -/

def isPow2 (n lo hi : Nat) : Bool := decide (lo ≤ n ∧ n ≤ hi) && (List.range 21).any fun i => n == 2 ^ i

/-- `event_queue_set`: queue; host address; entries, 0 to unregister. A reserved queue is out of range (log entry 36). -/
def cmdEventQueueSet : Cmd := fun rq d =>
  let q := rq.prm 0
  let n := rq.prm 3
  withChecks [chkLen rq 4, chkReady d [[0]], failIf (decide ((116 ≤ q ∧ q < 128) ∨ 144 ≤ q)) .range 0, failIf (rq.raw 1 % 4 != 0) .range 1,
      failIf (n != 0 && !isPow2 n 64 65536) .range 3] d <|
    okDone (d.modHost fun h => { h with evq := h.evq.upd {} q fun x =>
      if n = 0 then { x with reg := false, addr := 0, entries := 0 }
      else { x with reg := true, addr := rq.addr 1, entries := n, idx := { x.idx with dev := 0, host := 0 } } })

/-- `ring_set`: direction, 0 receive and 1 transmit; ring; host address; entries; buffer size; stallholder; the slice of a transmit ring
(log entry 36). -/
def cmdRingSet : Cmd := fun rq d =>
  let tx := rq.flag 0
  let r := rq.prm 1
  let ring : Ring := if tx then d.txRing r else d.rxRing r
  withChecks [chkLen rq (if tx then 8 else 7), chkReady d ([[0]] ++ if tx then [needSlice (rq.prm 7)] else []),
      chkRange rq [(0, 0, 1), (1, 0, 63)], failIf (rq.raw 2 % 4096 != 0) .range 2, failIf (!isPow2 (rq.prm 4) 64 4096) .range 4,
      failIf (decide (rq.prm 5 < 256 ∨ 10240 < rq.prm 5) || rq.prm 5 % 64 != 0) .range 5, chkRange rq [(6, 0, 255)],
      if tx then chkRange rq [(7, 0, 7)] else none, failIf ring.reg .busy] d <|
    let x : Ring := { reg := true, addr := rq.addr 2, entries := rq.prm 4, bufSize := rq.prm 5, stallholder := rq.prm 6,
                      slice := if tx then rq.prm 7 else 0, idx := { ring.idx with dev := 0, host := 0 } }
    okDone (if tx then d.modTxRing r fun _ => x else d.modRxRing r fun _ => x)

/-- `ring_stop`: direction; ring. The registration is cleared. -/
def cmdRingStop : Cmd := fun rq d =>
  let stop := fun (x : Ring) => ({ idx := x.idx } : Ring)
  withChecks [chkLen rq 2, chkReady d [[0]], chkRange rq [(0, 0, 1), (1, 0, 63)]] d <|
    okDone (if rq.flag 0 then d.modTxRing (rq.prm 1) stop else d.modRxRing (rq.prm 1) stop)

/-- `echo`: a list of up to 16 dwords, its count first (R402), comes back (log entry 26). -/
def cmdEcho : Cmd := fun rq d =>
  withChecks [chkLenIf (decide (1 ≤ rq.len) && rq.len == 1 + rq.prm 0), chkReady d [[0]], chkRange rq [(0, 0, 16)]] d <|
    okWith d (BitVec.ofNat 32 (rq.prm 0) :: rq.params.drop 1)

/-! ### The queue index page (Table 14.14) -/

/-- HOST_IDX is written: it counts modulo twice the entries. -/
def Idx.hostWrite (x : Idx) (entries v : Nat) : Idx := { x with host := if entries = 0 then v % 2 ^ 32 else v % (2 * entries) }

/-- Change the record at an offset of the index page; f gets the queue's entries. An offset that no queue has changes nothing. -/
def Dev.modIdx (off : Nat) (f : Nat → Idx → Idx) (d : Dev) : Dev :=
  if off < 0x400 then d.modRxRing (off / 16) fun x => { x with idx := f x.entries x.idx }
  else if off < 0x800 then d.modTxRing ((off - 0x400) / 16) fun x => { x with idx := f x.entries x.idx }
  else if off < 0x1800 then d.modHost fun h => { h with evq := h.evq.upd {} ((off - 0x800) / 16) fun x => { x with idx := f x.entries x.idx } }
  else if off < 0x1880 then d.modTab ((off - 0x1800) / 16) fun t => { t with learnIdx := f 4096 t.learnIdx }
  else if off < 0x2000 then d
  else if off < 0x3000 then d.modAo fun a => { a with tsqSys := a.tsqSys.upd {} ((off - 0x2000) / 16) fun q => { q with idx := f 64 q.idx } }
  else if off < 0x3400 then d.modAo fun a => { a with tsqRing := a.tsqRing.upd {} ((off - 0x3000) / 16) fun q => { q with idx := f 64 q.idx } }
  else if off < 0x3480 then d.modObs ((off - 0x3400) / 16) fun o => { o with trapIdx := f 1024 o.trapIdx }
  else d

def Dev.hostIdxWrite (off : Nat) (v : Dword) (d : Dev) : Dev := d.modIdx off fun n x => x.hostWrite n v.toNat
/-- OVF is cleared by writing 1 to bit 0. -/
def Dev.ovfClear (off : Nat) (v : Dword) (d : Dev) : Dev :=
  d.modIdx off fun _ x => if v.getLsbD 0 then { x with ovf := false } else x

/-- Buffers are posted on receive ring r: their addresses stand in the descriptors from the old HOST_IDX up (R416). -/
def Dev.rxPost (r idx : Nat) (addrs : List Nat) (d : Dev) : Dev :=
  d.modRxRing r fun x =>
    { x with
      bufs := (List.range (min addrs.length x.entries)).foldl (fun m j => m.set 0 ((x.idx.host + j) % x.entries) (addrs.getD j 0)) x.bufs
      idx := x.idx.hostWrite x.entries idx }

/-! ### Vectors (R418) -/

/-- The message of a vector: the change it follows is covered, its pending bit cleared. A masked vector sets its pending bit; a vector
goes at most once per 2 us. -/
def Dev.msixSignal (v : Nat) (d : Dev) : Dev :=
  let m := d.host.msix
  if !m.enable || !m.due.get false v then d
  else if m.isMasked v then d.modHost fun h => { h with msix := { m with pba := m.pba.set false v true } }
  else
    let last := m.last.get 0 v
    if last = 0 || decide (last - 1 + 2 * Config.us ≤ d.now) then
      (d.modHost fun h => { h with msix := { m with due := m.due.set false v false, pba := m.pba.set false v false,
                                                    last := m.last.set 0 v (d.now + 1) } }).out (.msix v)
    else d

/-! ### Registers without a behaviour of their own (R8, R392, R398, R399, R418) -/

/-- One dword of the MSI-X table. -/
def MsixEntry.write (e : MsixEntry) (i : Nat) (v : Dword) : MsixEntry :=
  match i with
  | 0 => { e with addr := e.addr / 2 ^ 32 * 2 ^ 32 + v.toNat }
  | 1 => { e with addr := e.addr % 2 ^ 32 + v.toNat * 2 ^ 32 }
  | 2 => { e with data := v }
  | _ => { e with masked := v.getLsbD 0 }

/-- A host write: the value is stored, or ignored. bar 0 and 2 are the BARs of R398; 6 stands for the PCI command register and 7 for
the MSI-X message control of configuration space (log entry 37). -/
def Dev.regWrite (bar off : Nat) (v : Dword) (d : Dev) : Dev :=
  match bar with
  | 0 =>
    if off = 0x10 then d.modBoot fun b => { b with imgAddrLo := v }
    else if off = 0x14 then d.modBoot fun b => { b with imgAddrHi := v }
    else if off = 0x18 then d.modBoot fun b => { b with imgLen := v }
    else if 0x8000 ≤ off ∧ off < 0x10000 then
      d.modHost fun h => { h with msix := { h.msix with
        table := h.msix.table.upd {} ((off - 0x8000) / 16) fun e => e.write (off % 16 / 4) v } }
    else d
  | 2 =>
    if off < 0x40000 ∧ off % 0x4000 < 0x1000 then
      d.modMbox (off / 0x4000) fun m => { m with cmd := m.cmd.set 0 (off % 0x4000 / 4) v }
    else d
  | 6 => d.modHost fun h => { h with busMaster := v.getLsbD 2 }
  | 7 => d.modHost fun h => { h with msix := { h.msix with enable := v.getLsbD 15, fmask := v.getLsbD 14 } }
  | _ => d

/-- BOARD_IRQ: its latched bits are cleared by writing 1 (Table 14.17). -/
def Dev.boardIrqWrite (v : Dword) (d : Dev) : Dev :=
  d.modHost fun h => { h with irq := { vault := h.irq.vault && !v.getLsbD 7, tree := h.irq.tree && !v.getLsbD 5,
                                       mem := h.irq.mem && !v.getLsbD 4 } }

/-- MB_STATUS: DONE and DB_IGNORED are cleared by writing 1 (Table 14.8). -/
def Dev.mbStatusWrite (m : Nat) (v : Dword) (d : Dev) : Dev :=
  d.modMbox m fun x => { x with done := x.done && !v.getLsbD 18, dbIgnored := x.dbIgnored && !v.getLsbD 17 }

namespace Machine

def execEventQueueSet (t : Nat) (rq : Req) (s : State) : Host.Outcome State Fault Refusal := act t (runCmd 0x0E13 cmdEventQueueSet rq) s
def execRingSet (t : Nat) (rq : Req) (s : State) : Host.Outcome State Fault Refusal := act t (runCmd 0x0E14 cmdRingSet rq) s
def execRingStop (t : Nat) (rq : Req) (s : State) : Host.Outcome State Fault Refusal := act t (runCmd 0x0E15 cmdRingStop rq) s
def execEcho (t : Nat) (rq : Req) (s : State) : Host.Outcome State Fault Refusal := act t (runCmd 0x0E17 cmdEcho rq) s
def execRxBufferPost (t : Nat) (r : Fin 64) (idx : Nat) (addrs : List Nat) (s : State) : Host.Outcome State Fault Refusal :=
  act t (Dev.rxPost r.val idx addrs) s
def execTxRingDoorbell (t : Nat) (r : Fin 64) (idx : Nat) (s : State) : Host.Outcome State Fault Refusal :=
  act t (Dev.modTxRing r.val fun x => { x with idx := x.idx.hostWrite x.entries idx }) s
def execQueueHostIdxWrite (t : Nat) (off : Nat) (v : Dword) (s : State) : Host.Outcome State Fault Refusal :=
  act t (Dev.hostIdxWrite off v) s
def execQueueOvfClear (t : Nat) (off : Nat) (v : Dword) (s : State) : Host.Outcome State Fault Refusal := act t (Dev.ovfClear off v) s
def execRegisterWrite (t : Nat) (bar : Fin 8) (off : Nat) (v : Dword) (s : State) : Host.Outcome State Fault Refusal :=
  act t (Dev.regWrite bar.val off v) s
def execMsixSignal (t : Nat) (vec : Fin 2048) (s : State) : Host.Outcome State Fault Refusal := act t (Dev.msixSignal vec.val) s
def execBoardIrqWrite (t : Nat) (v : Dword) (s : State) : Host.Outcome State Fault Refusal := act t (Dev.boardIrqWrite v) s
def execMbStatusWrite (t : Nat) (m : Fin 16) (v : Dword) (s : State) : Host.Outcome State Fault Refusal :=
  act t (Dev.mbStatusWrite m.val v) s

end Machine
end Sys2Proof
end

