-- ==== Sys2Proof/Machine/Observe.lean ====
section
/-! DEFINITION. The commands of the counter area, the bandwidth windows, and the event log as it is read (16_observability.md). -/

namespace Sys2Proof

/-! ### The count directory (R446, R448) -/

/-- Every family, in the order of the directory. -/
def allCounts : List CN := List.flatten
  [[.pitchMaskIgnored, .pitchEmpty, .pitchWithheld, .lostDropped, .dfeEngaged, .dfeDisengaged, .chkSymbols, .errSymbols, .errBits, .lockLoss, .shortFound, .shortCleared, .openFound, .openCleared, .polInverted, .polNormal],
   [.shuffleFound, .loopFound, .loopCleared, .badType, .strayData, .laneLate, .listBad, .fcJump, .parHdr, .parRsvd, .parLen, .parNotsel],
   [.parUnacc, .parTrunc, .parFec, .parFcs, .entryBad, .entryUnknown, .pitchMalformed, .entryDup, .pitchShort, .pitchOverlap, .c0GapMax, .revUnknown],
   [.revStale, .revLate, .barFull, .burstsSent, .pitchSkipped, .displaced, .rewound, .poisonTx, .txCut, .parcelsCommitted, .bytesCommitted, .awnLong],
   [.noticeBad, .noticeUnknown, .noticeAuth, .noticeState, .assignTimeout, .kexTimeout, .ansStale, .removeDropped, .clsUnmatched, .popMiss, .rwShort, .actExcess],
   [.actBad, .lenOver, .padded, .csumSkip, .ip4BadIn, .ruleHits, .mfHits, .mfDrop, .steered, .lftBad, .lftInvalid, .lftDir],
   [.lftNoalloc, .lftNoqueue, .lfnFrames, .lfnBytes, .learnLost, .learnDedup, .moved, .moveHeld, .staticConflict, .aged, .shcSkip, .shcMore],
   [.poolRefused, .bufRefused, .freeInvalid, .freeDouble, .freeForeign, .admitRefused, .cellRefused, .qFull, .qBadtoken, .qReset, .qresetDrop, .poisonDrop],
   [.flushed, .sweeps, .cellsReclaimed, .bufsReclaimed, .mtrGreen, .mtrGreenBytes, .mtrYellow, .mtrYellowBytes, .mtrRed, .mtrRedBytes, .mtrSentGreen, .mtrSentYellow],
   [.meterInvalid, .meterBad, .framesCapped, .framesSuspended, .egNoq, .pauseRx, .pfcRx, .pausedUs, .lpiEntries, .lpiUs, .parNokey, .parReplay],
   [.parTag, .keyMissTx, .kswEarly, .epochsDs, .epochsUs, .keyCtxMismatch, .derivations, .cacheBad, .ce, .ue, .dieCorr, .poisonReads],
   [.rmw, .memReads, .memWrites, .memSlots, .neighbourRef, .throttles, .migrations, .shrinkages, .retiredBufs, .sramCe, .sramUe, .todBad],
   [.ptpCorrected, .ptpSkipped, .ppsAccepted, .ppsIgnored, .stepsMade, .pdRefused, .pdAborted, .ringFull, .badDesc, .macRx, .macTx, .treeRx],
   [.treeTx, .mothBusy]]

/-- Instances of a family for each owner. -/
def CN.subs : CN → Nat
  | .clsUnmatched | .popMiss | .rwShort | .actExcess | .actBad | .lenOver | .padded | .csumSkip | .ip4BadIn => 2
  | .ptpCorrected | .ptpSkipped | .mothBusy => 2
  | .ruleHits => 4096
  | .mfHits => 2560
  | .mfDrop | .steered => 40
  | .lfnFrames | .lfnBytes => 1048576
  | .poolRefused => 96
  | .bufRefused | .freeInvalid | .freeDouble | .freeForeign => 16
  | .admitRefused | .cellRefused | .qFull | .qBadtoken | .qReset | .qresetDrop | .poisonDrop | .flushed | .awnLong => 16384
  | .mtrGreen | .mtrGreenBytes | .mtrYellow | .mtrYellowBytes | .mtrRed | .mtrRedBytes | .mtrSentGreen | .mtrSentYellow => 65536
  | .pfcRx | .pausedUs => 8
  | .lostDropped | .displaced | .rewound | .poisonTx | .txCut | .parcelsCommitted | .bytesCommitted | .removeDropped => 32768
  | .keyMissTx | .kswEarly | .epochsDs | .epochsUs | .c0GapMax => 32768
  | .ce | .ue | .dieCorr | .poisonReads => 4
  | .rmw | .memReads | .memWrites | .memSlots => 7
  | .neighbourRef | .throttles => 4096
  | .pdRefused | .pdAborted => 32
  | .ringFull | .badDesc => 64
  | .macRx | .macTx => 26
  | .treeRx | .treeTx => 16
  | _ => 1

/-- Owners of each scope. -/
def Scope.owners : Scope → Nat
  | .device => 1 | .slice | .stack => 8 | .tree => 64 | .lane | .sysPort => 256 | .domain => 127

/-- The family lives in the count blocks of the slices: its instances are numbered within a slice (R446, R448). -/
def CN.inBlocks (c : CN) : Bool := blockCounts.contains c || aidCounts.contains c

def CN.instances (c : CN) : Nat := if c.inBlocks then c.subs else c.scope.owners * c.subs

/-- The functions of which one must be ready for an owner of a scope (R466). -/
def Scope.needs (x : Scope) (owner : Nat) : List Nat :=
  match x with
  | .device | .domain => [0]
  | .slice => needSlice owner
  | .tree => needPortOf owner
  | .lane => [fnPort (owner / 16)]
  | .sysPort => needSlice (owner / 32)
  | .stack => [fnMem owner]

/-- Clear instance i of a family. A block family's instance is cleared in every slice, since the command names none (log entry 38). -/
def Dev.clearInstance (c : CN) (i : Nat) (d : Dev) : Dev :=
  if aidCounts.contains c then d.forEach (List.range 8) fun n d =>
    let x := d.keyCtx n i
    if x.bound then d.clearCount c x.tree x.aid.toNat else d
  else if c.inBlocks then d.forEach (List.range 8) fun n d => d.clearCount c n i
  else if c.checker then d.clearChecker c i
  else d.clearCount c (i / c.subs) (i % c.subs)

/-! ### Commands (Table 16.12) -/

def obsChecks (rq : Req) (d : Dev) (n : Nat) : List Check :=
  [chkLen rq n, chkReady d [needSlice (rq.prm 0)], chkRange rq [(0, 0, 7)]]

/-- `count_window_set`: slice; base, 28 bits (R451). -/
def cmdCountWindowSet : Cmd := fun rq d =>
  withChecks (obsChecks rq d 3 ++ [chkRange rq [(1, 0, 255)], failIf (rq.prm 1 % 4 != 0) .range 1, chkRange rq [(2, 0, 0)]]) d <|
    okDone (d.modObs (rq.prm 0) fun o => { o with window := rq.wide2 1 })

/-- `count_clear`: directory index; first instance; count of instances (R443, R466). -/
def cmdCountClear : Cmd := fun rq d =>
  let i := rq.prm 0
  let known := decide (i < allCounts.length)
  let c := allCounts.getD i .pitchMaskIgnored
  let first := rq.prm 1
  let n := rq.prm 2
  let owners := (List.range c.scope.owners).filter fun o => decide (first < (o + 1) * c.subs ∧ o * c.subs < first + n)
  let needs := if c.inBlocks then [(List.range 8).flatMap needSlice] else owners.map c.scope.needs
  withChecks [chkLen rq 3, if known then chkReady d needs else none, failIf (!known) .range 0,
      failIf (decide (c.instances ≤ first)) .range 1, failIf (n == 0 || decide (c.instances < first + n)) .range 2] d <|
    okDone (d.forEach (List.range n) fun j d => d.clearInstance c (first + j))

/-- `bw_cfg_set`: slice; BW_CFG. It takes effect at the next whole second (R453). -/
def cmdBwCfgSet : Cmd := fun rq d =>
  withChecks (obsChecks rq d 2 ++ [chkRange rq [(1, 0, 1000000)]]) d <|
    okDone (d.modObs (rq.prm 0) fun o => { o with bwNext := some (rq.prm 1) })

/-- PERF_SEL of a native word (Table 16.6). -/
def perfOf (w : Nat) : Perf := { event := w / 2 ^ 15 % 32, dir := w / 2 ^ 13 % 4, param := w / 2 ^ 10 % 8 }
def Perf.badSel (p : Perf) : Bool :=
  decide (14 < p.event) || p.dir == 3 || (p.event == 10 && p.param == 7) || (p.event == 12 && decide (5 < p.param))

/-- `perf_cfg_set`: slice; 16 PERF_SEL words (R455). -/
def cmdPerfCfgSet : Cmd := fun rq d =>
  let sel := fun i => perfOf (rq.prm (1 + i))
  withChecks (obsChecks rq d 17 ++ [(List.range 16).findSome? fun i => failIf (sel i).badSel .range (1 + i)]) d <|
    okDone (d.modObs (rq.prm 0) fun o => { o with perf := (List.range 16).foldl (fun m i => m.set {} i (sel i)) [] })

/-- `perf_read`: slice; clear flag. The 16 counts, each with its WRAP bit (R456). -/
def cmdPerfRead : Cmd := fun rq d =>
  withChecks (obsChecks rq d 2 ++ [chkRange rq [(1, 0, 1)]]) d <|
    let ps := (List.range 16).map fun i => (d.slice (rq.prm 0)).obs.perf.get {} i
    let d := if rq.flag 1 then
        d.modObs (rq.prm 0) fun o => { o with perf := o.perf.mapV {} fun _ p => { p with wrap := false } }
      else d
    okWith d (ps.flatMap fun p => resWide 48 p.val ++ resWide 1 p.wrap.toNat)

/-- MOTH_CFG of two native words (Table 16.7). -/
def mothOf (a b : Nat) : Moth :=
  { anyPort := a.testBit 19, port := a / 2 ^ 14 % 32, mask := a / 2 ^ 6 % 256, rate := b }

/-- `moth_cfg_set`: slice; direction; MOTH_CFG; seed, 64 bits, of which 0 takes 64 random bits (R458). -/
def cmdMothCfgSet : Cmd := fun rq d =>
  let n := rq.prm 0
  let dir : Dir := if rq.flag 1 then .up else .down
  let seed := rq.wideN 4 4
  withChecks [chkLen rq 8, chkReady d [[if n < 8 then fnDir n dir else 99]], chkRange rq [(0, 0, 7), (1, 0, 1), (4, 0, 15)]] d <|
    let v := if seed = 0 then d.fresh.1 else BitVec.ofNat 64 seed
    okDone ((if seed = 0 then d.fresh.2 else d).modObs n fun o => o.setMoth dir { (mothOf (rq.prm 2) (rq.prm 3)) with lfsr := v })

/-- One entry of the event log (R463): the event record, the queue, the log sequence number. -/
def LogEntry.words (e : LogEntry) : List Nat :=
  let x : Event := { queue := e.queue, source := e.source, code := e.code, object := e.object, detail := e.detail, time := e.time }
  x.words e.seq ++ [e.queue % 256, e.logSeq / 2 ^ 20 % 2 ^ 20, e.logSeq % 2 ^ 20, 0]

/-- `event_log_read`: host address. LOG_NEXT, LOST, then the entries held, oldest first (log entry 38). -/
def cmdEventLogRead (g : EvLog) : Cmd := fun rq d =>
  withChecks [chkLen rq 2, chkDma rq d, chkReady d [[0]], failIf (rq.raw 0 % 4 != 0) .range 0] d <|
    okDone (d.hostWrite rq.mb.val (rq.addr 0)
      (resWide 40 g.next ++ [BitVec.ofNat 32 g.lost] ++ toDwords (g.entries.flatMap LogEntry.words)))

/-- A bandwidth window of slice n ends at its edge: every command that begins there or later closes it (R13, R454). -/
def Dev.bwWindowEnd (n : Nat) (d : Dev) : Dev := if d.timeOn then d.passBw n d.devNs else d

namespace Machine

def execCountWindowSet (t : Nat) (rq : Req) (s : State) : Host.Outcome State Fault Refusal := act t (runCmd 0x1010 cmdCountWindowSet rq) s
def execCountClear (t : Nat) (rq : Req) (s : State) : Host.Outcome State Fault Refusal := act t (runCmd 0x1011 cmdCountClear rq) s
def execBwCfgSet (t : Nat) (rq : Req) (s : State) : Host.Outcome State Fault Refusal := act t (runCmd 0x1012 cmdBwCfgSet rq) s
def execPerfCfgSet (t : Nat) (rq : Req) (s : State) : Host.Outcome State Fault Refusal := act t (runCmd 0x1013 cmdPerfCfgSet rq) s
def execPerfRead (t : Nat) (rq : Req) (s : State) : Host.Outcome State Fault Refusal := act t (runCmd 0x1014 cmdPerfRead rq) s
def execMothCfgSet (t : Nat) (rq : Req) (s : State) : Host.Outcome State Fault Refusal := act t (runCmd 0x1015 cmdMothCfgSet rq) s
def execEventLogRead (t : Nat) (rq : Req) (s : State) : Host.Outcome State Fault Refusal :=
  act t (runCmd 0x1016 (cmdEventLogRead s.log) rq) s
def execBwWindowEnd (t : Nat) (n : Fin 8) (s : State) : Host.Outcome State Fault Refusal := act t (Dev.bwWindowEnd n.val) s

end Machine
end Sys2Proof
end

