-- ==== Sys2Proof/Machine/Trees.lean ====
section
/-! DEFINITION. Configuring tree slots, protection pairs and system ports (R18, R19, R34, R37 to R39, R373, R410 to R412). -/

namespace Sys2Proof

def sizeOk (n : Nat) : Bool := n == 1 || n == 2 || n == 4 || n == 8 || n == 16

/-- The group overlaps that of another configured slot of the port (R19). -/
def Dev.groupOverlaps (d : Dev) (k first size : Nat) : Bool :=
  (treesOfPort (portOfTree k)).any fun j =>
    let c := (d.tree j).cfg
    j != k && c.configured && decide (c.first < first + size ∧ first < c.first + c.size)

/-- A pattern or near-end loopback runs on a lane of a four-lane block that the group touches (R410). -/
def Dev.testNear (d : Dev) (first size : Nat) : Bool :=
  (List.range 256).any fun l => decide (first / 4 ≤ l / 4 ∧ l / 4 ≤ (first + size - 1) / 4) && ((d.txLane l).pattern != 0 || (d.rxLane l).loopback)

/-- `tree_configure` (R19, R410): the slot enters Listening, its lanes leave power-down; the disable-transmit record stays, and so
does a burst that an earlier configuration has begun. -/
def cmdTreeConfigure : Cmd := fun rq d =>
  let k := rq.prm 0
  let first := rq.prm 1
  let size := rq.prm 2
  withChecks [chkLen rq 5, chkReady d [needPortOf k], chkRange rq [(0, 0, 63), (1, 0, 255)], failIf (!sizeOk size) .range 2,
      chkRange rq [(3, 0, 4095)], failIf (first % 16 % size != 0) .refused 1, failIf (d.groupOverlaps k first size) .refused 1,
      failIf (first / 16 != portOfTree k) .refused 1, failIf (d.tree k).cfg.configured .busy, failIf (d.testNear first size) .busy] d <|
    let x := d.tree k
    let ps := x.pitches.filter fun p => p.phase == 3
    let d := d.setTree k
      { cfg := { configured := true, first := first, size := size, expId := rq.wide2 3 }, dt := x.dt, pitches := ps,
        il := x.il.filter fun w => ps.any fun p => w.is p.frame p.pid }
    okDone ((d.lanesUp (d.groupLanes k)).raise (qTree k) 0x01 1 k [0, 0])

/-- R411: what unconfiguring does. -/
def Dev.unconfigure (k : Nat) (d : Dev) : Dev :=
  let ls := d.groupLanes k
  let d := (((d.commitDue k).undoTree k).dropCommitted k).discardTree k
  let d := d.resetTaps ls
  let d := d.modTree k fun x =>
    let ps := x.pitches.filter fun p => p.phase == 3
    { dt := x.dt, pitches := ps, il := x.il.filter fun w => ps.any fun p => w.is p.frame p.pid }
  let d := d.forEach ls fun l d => if (d.txLane l).drives then d else d.laneDown l
  (d.forEach ls fun l d => if (d.rxLane l).cdr then d else d.dropLocks l).endHolds

def cmdTreeUnconfigure : Cmd := fun rq d =>
  let k := rq.prm 0
  withChecks (treeChecks rq d 1 ++ [failIf (d.tree k).cfg.pair.isSome .busy]) d <| okDone (d.unconfigure k)

/-- The Pitches of a member that does not carry the traffic keep no assembly but those of reserved AIDs (R39). -/
def Dev.closeMember (k : Nat) (d : Dev) : Dev :=
  let ps := d.inOrder k ((d.tree k).pitches.filter fun p => p.phase == 0 && p.opened && !p.reserved)
  (d.undoAll k ps).modTree k fun x =>
    { x with pitches := x.pitches.map fun p => if p.phase == 0 && !p.reserved then { p with opened := false } else p }

/-- `tree_pair`: working and protect tree of one slice, on its two line ports (R37). The working member carries the traffic at first. -/
def cmdTreePair : Cmd := fun rq d =>
  let w := rq.prm 0
  let p := rq.prm 1
  withChecks [chkLen rq 2, chkReady d [needPortOf w, needPortOf p], chkRange rq [(0, 0, 63), (1, 0, 63)],
      failIf (!(d.tree w).cfg.configured) .unconfigured 0, failIf (!(d.tree p).cfg.configured) .unconfigured 1,
      failIf (sliceOfTree w != sliceOfTree p || portOfTree w == portOfTree p) .refused 1,
      failIf ((d.tree w).cfg.pair.isSome || (d.tree p).cfg.pair.isSome) .busy] d <|
    let d := d.modTree w fun x => { x with cfg := { x.cfg with pair := some p, working := true, selProtect := false, switching := none, differ := false } }
    let d := d.modTree p fun x => { x with cfg := { x.cfg with pair := some w, working := false } }
    okDone (((d.commitDue p).closeMember p).openAll (sliceOfTree w) |>.reselect w)

/-- `tree_unpair`: both trees run unpaired; the shared queues serve the former working tree (R411). -/
def cmdTreeUnpair : Cmd := fun rq d =>
  let w := rq.prm 0
  let o := ((d.tree w).cfg.pair).getD w
  let off := fun (c : TreeCfg) => { c with pair := none, working := false, selProtect := false, switching := none, differ := false }
  withChecks ([chkLen rq 1, chkReady d [needPortOf w, needPortOf o]] ++ (treeChecks rq d 1).drop 2 ++
      [failIf (!((d.tree w).cfg.pair.isSome && (d.tree w).cfg.working)) .notFound]) d <|
    let d := (((d.commitDue w).commitDue o).closeMember w).closeMember o
    let d := (d.modTree w fun x => { x with cfg := off x.cfg }).modTree o fun x => { x with cfg := off x.cfg }
    okDone (d.openAll (sliceOfTree w))

/-! ### System ports (R34, R412) -/

def Dev.sysOverlaps (d : Dev) (p width : Nat) : Bool :=
  (List.range 256).any fun q => let w := (d.sysPort q).width; q != p && w != 0 && decide (q < p + width ∧ p < q + w)

/-- `sys_port_set`: a disabled port's link is down; lanes leave power-down or return to it (R373, R412). -/
def cmdSysPortSet : Cmd := fun rq d =>
  let p := rq.prm 0
  let width := rq.prm 1
  let mode := rq.prm 2
  let x := d.sysPort p
  let need := fun (f : Nat → Nat) => [if p < 256 then f (p / 32) else 99]
  withChecks [chkLen rq 5, chkReady d [need fnDs, need fnUs], chkRange rq [(0, 0, 255)],
      failIf (!(width == 1 || width == 2 || width == 4 || width == 8)) .range 1, chkRange rq [(2, 0, 3), (3, 0, 1), (4, 0, 1)],
      failIf (x.enabled && (x.width != width || x.mode != mode)) .busy, failIf (p % 16 % width != 0 || decide (16 < p % 16 + width)) .refused 0,
      failIf (mode == 3 && width == 1) .refused 2, failIf (d.sysOverlaps p width) .refused 0] d <|
    let old := d.portLanes p
    let d := if rq.flag 4 then d else d.linkDown p
    let d := d.modSys p fun x => { x with width := width, mode := mode, training := rq.flag 3, enabled := rq.flag 4 }
    let d := d.forEach old fun l d => d.laneDown l
    okDone ((if (d.sysPort p).enabled then d.wakeFromOff (pdPipe (p / 32) .up) causeHost else d).lanesUp (d.portLanes p))

namespace Machine

def execTreeConfigure (t : Nat) (rq : Req) (s : State) : Host.Outcome State Fault Refusal := act t (runCmd 0x0110 cmdTreeConfigure rq) s
def execTreeUnconfigure (t : Nat) (rq : Req) (s : State) : Host.Outcome State Fault Refusal := act t (runCmd 0x0111 cmdTreeUnconfigure rq) s
def execTreePair (t : Nat) (rq : Req) (s : State) : Host.Outcome State Fault Refusal := act t (runCmd 0x0112 cmdTreePair rq) s
def execTreeUnpair (t : Nat) (rq : Req) (s : State) : Host.Outcome State Fault Refusal := act t (runCmd 0x0113 cmdTreeUnpair rq) s
def execSysPortSet (t : Nat) (rq : Req) (s : State) : Host.Outcome State Fault Refusal := act t (runCmd 0x0114 cmdSysPortSet rq) s

end Machine
end Sys2Proof
end

