-- ==== Sys2Proof/Machine/Control.lean ====
section
/-! DEFINITION. The mailboxes: the dispatch of opcodes, the doorbell, and indirect parameters (R399 to R405, R408). -/

namespace Sys2Proof

/-- The command of an opcode (R408): every opcode that a command table lists. g is the event log, which one command reads. -/
def commandOf (g : EvLog) : Nat → Option Cmd
  | 0x0110 => some cmdTreeConfigure
  | 0x0111 => some cmdTreeUnconfigure
  | 0x0112 => some cmdTreePair
  | 0x0113 => some cmdTreeUnpair
  | 0x0114 => some cmdSysPortSet
  | 0x0210 => some cmdLaneTxSet
  | 0x0211 => some cmdLaneRxSet
  | 0x0212 => some cmdLanePrbs
  | 0x0213 => some cmdLaneInject
  | 0x0214 => some cmdLaneEyeScan
  | 0x0215 => some cmdLaneEyeAbort
  | 0x0216 => some cmdLaneStatus
  | 0x0310 => some cmdAcceptRead
  | 0x0311 => some cmdAcceptRebuild
  | 0x0312 => some cmdSrFilterSet
  | 0x0313 => some cmdTreeSkewRead
  | 0x0410 => some cmdLinePortBurstSet
  | 0x0411 => some cmdBarrowAwningSet
  | 0x0412 => some cmdBarrowStatus
  | 0x0413 => some cmdPitchRead
  | 0x0414 => some cmdIlStatus
  | 0x0510 => some cmdJoinStatus
  | 0x0511 => some cmdDormantRequest
  | 0x0512 => some cmdJoinLogRead
  | 0x0610 => some cmdPortParseSet
  | 0x0611 => some cmdTpidSet
  | 0x0612 => some cmdMacFilterWrite
  | 0x0613 => some cmdProfileWrite
  | 0x0614 => some cmdRangeWrite
  | 0x0615 => some cmdActionWrite
  | 0x0616 => some cmdRuleWrite
  | 0x0617 => some cmdClsRead
  | 0x0710 => some cmdLftWrite
  | 0x0711 => some cmdAddrInsert
  | 0x0712 => some cmdAddrDelete
  | 0x0713 => some cmdAddrLookup
  | 0x0714 => some cmdAddrFlush
  | 0x0715 => some cmdLearnCfgSet
  | 0x0716 => some cmdShadowSet
  | 0x0717 => some cmdShadowStart
  | 0x0718 => some cmdShadowStop
  | 0x0719 => some cmdShadowRepair
  | 0x0810 => some (tablesCmd cmdBufCfgSet)
  | 0x0811 => some (tablesCmd cmdStallholderSet)
  | 0x0812 => some (tablesCmd cmdQueueSet)
  | 0x0813 => some (tablesCmd cmdQueueStatus)
  | 0x0814 => some (tablesCmd cmdQueueFlush)
  | 0x0815 => some (tablesCmd cmdPoolStatus)
  | 0x0816 => some (tablesCmd cmdStallholderStatus)
  | 0x0817 => some (tablesCmd cmdSweepStart)
  | 0x0910 => some (tablesCmd cmdMeterWrite)
  | 0x0911 => some (tablesCmd cmdMeterRead)
  | 0x0912 => some (tablesCmd cmdSchedSet)
  | 0x0913 => some (tablesCmd cmdPortEgressSet)
  | 0x0914 => some cmdEscaleStatus
  | 0x0915 => some cmdC0Report
  | 0x0A10 => some cmdKeyCtxSet
  | 0x0A11 => some cmdKeyCtxRead
  | 0x0A12 => some cmdKeyCtxFind
  | 0x0A13 => some cmdCipherStatus
  | 0x0B10 => some (memCmd cmdMemCfgSet)
  | 0x0B11 => some (memCmd cmdMemStatus)
  | 0x0B12 => some (memCmd cmdScrubStart)
  | 0x0B13 => some (memCmd cmdScrubAbort)
  | 0x0B14 => some (memCmd cmdRankMigrate)
  | 0x0B15 => some (memCmd cmdMemErrorLog)
  | 0x0C10 => some cmdTimeSourceSet
  | 0x0C11 => some cmdTimeRate
  | 0x0C12 => some cmdTimeStep
  | 0x0C13 => some cmdTimeStatus
  | 0x0C14 => some cmdPpsCfgSet
  | 0x0C15 => some cmdPtpTcSet
  | 0x0D10 => some cmdPowerPolicySet
  | 0x0D11 => some cmdPowerEnter
  | 0x0D12 => some cmdPowerStatus
  | 0x0D13 => some cmdRefusalRead
  | 0x0D14 => some cmdSeqCfgSet
  | 0x0D15 => some cmdBudgetCfgSet
  | 0x0D16 => some cmdBudgetStatus
  | 0x0E10 => some cmdFwStatus
  | 0x0E11 => some cmdFwLoad
  | 0x0E12 => some cmdFwUpdate
  | 0x0E13 => some cmdEventQueueSet
  | 0x0E14 => some cmdRingSet
  | 0x0E15 => some cmdRingStop
  | 0x0E16 => some cmdDmaRestart
  | 0x0E17 => some cmdEcho
  | 0x0F10 => some cmdTrustStatus
  | 0x0F11 => some cmdCertRead
  | 0x0F12 => some cmdSvnAdvance
  | 0x0F13 => some cmdVaultZeroise
  | 0x1010 => some cmdCountWindowSet
  | 0x1011 => some cmdCountClear
  | 0x1012 => some cmdBwCfgSet
  | 0x1013 => some cmdPerfCfgSet
  | 0x1014 => some cmdPerfRead
  | 0x1015 => some cmdMothCfgSet
  | 0x1016 => some (cmdEventLogRead g)
  | _ => none

/-- The opcode, the tag and the length of the command in a command area (Table 14.9). -/
def Mailbox.opcode (m : Mailbox) : Nat := (m.cmd.get 0 0).toNat % 2 ^ 16
def Mailbox.indirect (m : Mailbox) : Bool := (m.cmd.get 0 0).getLsbD 19
def Mailbox.tag (m : Mailbox) : Word := (m.cmd.get 0 1).setWidth 20
def Mailbox.length (m : Mailbox) : Nat := (m.cmd.get 0 2).toNat % 2 ^ 20
def Mailbox.param (m : Mailbox) (i : Nat) : Dword := m.cmd.get 0 (3 + i)

/-- Run a command whose parameters are at hand and answer it; an opcode that no table lists is answered UNKNOWN (R404). -/
def Dev.runOpcode (g : EvLog) (opcode : Nat) (rq : Req) (d : Dev) : Dev :=
  match commandOf g opcode with
  | none => d.answer rq opcode { code := .unknown }
  | some c =>
    let (r, d') := c rq d
    d'.answer rq opcode r

/-- An indirect command is checked, and its block is fetched on the mailbox's channel (R403, R404, R420). -/
def Dev.runIndirect (g : EvLog) (mb : Fin 16) (d : Dev) : Dev :=
  let m := d.mbox mb.val
  let rq : Req := { mb := mb, tag := m.tag }
  let len := (m.param 2).toNat % 2 ^ 20
  if (commandOf g m.opcode).isNone then d.answer rq m.opcode { code := .unknown }
  else if m.length != 4 || len == 0 || decide (65536 < len) then d.answer rq m.opcode { code := .length }
  else if d.dmaHalted mb.val then d.answer rq m.opcode { code := .dmaError, detail := mb.val }
  else if (m.param 0).toNat % 4 != 0 then d.answer rq m.opcode { code := .range }
  else
    let f : Fetching :=
      { opcode := m.opcode, tag := m.tag, addr := (m.param 0).toNat + (m.param 1).toNat * 2 ^ 32, len := len }
    d.hold mb.val f

/-- A doorbell (R399, R400): ignored while the mailbox is busy or function 0 is not ready; otherwise the command is copied and run. host
is what the host buffers that it names hold. The doorbell has no layout beyond "write 1": a write of any other dword is none (DESIGN CHOICE, log
entry 128). -/
def Dev.doorbell (g : EvLog) (mb : Fin 16) (v : Dword) (host : List (List Dword)) (d : Dev) : Dev :=
  let m := d.mbox mb.val
  if v != 1 then d
  else if !d.doorbellOk mb.val then d.ignoreDoorbell mb.val
  else if m.indirect then d.runIndirect g mb
  else if 1021 < m.length then d.answer { mb := mb, tag := m.tag } m.opcode
    { code := if (commandOf g m.opcode).isNone then .unknown else .length }
  else
    let ps := (List.range m.length).map m.param
    if !d.runsNow mb.val then d.hold mb.val { opcode := m.opcode, tag := m.tag, addr := 0, len := m.length, held := some (ps, host) }
    else d.runOpcode g m.opcode { mb := mb, tag := m.tag, params := ps, host := host }

/-- The held commands run in the order of their doorbells, as far as none before them still waits for its block (R407). -/
def Dev.runTurns (g : EvLog) : List Nat → Dev → Dev
  | [], d => d
  | m :: ms, d =>
    match (d.mbox m).fetching with
    | none => d.runTurns g ms
    | some f =>
      match f.held with
      | none => d
      | some (ps, host) => (d.runOpcode g f.opcode { mb := Fin.ofNat 16 m, tag := f.tag, params := ps, host := host }).runTurns g ms

/-- What f does, and then the held commands whose turn has come. -/
def Dev.thenTurns (g : EvLog) (f : Dev → Dev) (d : Dev) : Dev :=
  let d := f d
  d.runTurns g d.host.turns

/-- The block of an indirect command arrives and the command waits for its turn, or its fetch fails (R403). -/
def Dev.indirectFetch (mb : Fin 16) (ok : Bool) (params : List Dword) (host : List (List Dword)) (d : Dev) : Dev :=
  match (d.mbox mb.val).fetching with
  | none => d
  | some f =>
    if !ok || d.dmaHalted mb.val then d.answer { mb := mb, tag := f.tag } f.opcode { code := .dmaError, detail := mb.val }
    else if f.held.isSome then d
    else d.modMbox mb.val fun m => { m with fetching := some { f with held := some (params.take f.len, host) } }

namespace Machine

def execMbDoorbell (t : Nat) (m : Fin 16) (v : Dword) (host : List (List Dword)) (s : State) :
    Host.Outcome State Fault Refusal := act t (Dev.doorbell s.log m v host) s
def execIndirectParamFetch (t : Nat) (m : Fin 16) (ok : Bool) (params : List Dword) (host : List (List Dword)) (s : State) :
    Host.Outcome State Fault Refusal := act t (Dev.thenTurns s.log (Dev.indirectFetch m ok params host)) s
/-- The events that can end a fetch of an indirect block: the commands held behind it run (R407). -/
def execDmaHalt (t : Nat) (c : Fin 64) (cause : Fin 8) (s : State) : Host.Outcome State Fault Refusal :=
  act t (Dev.thenTurns s.log fun d => if d.causeHolds cause.val then d.dmaHalt c.val cause.val else d) s
def execFirmwareTrap (t : Nat) (core : Fin 8) (addr page : Nat) (sram : Option Bool) (task : Option (Fin 16)) (reloaded swapped : Bool) (s : State) :
    Host.Outcome State Fault Refusal :=
  act t (Dev.thenTurns s.log (Dev.firmwareTrap core.val addr page sram task reloaded swapped)) s
/-- The arbiter grants the read its slot, and it returns. -/
def execHbmReadComplete (t : Nat) (n : Fin 8) (addr : Nat) (w : WordRead) (use : ReadUse) (dieCorr : Bool) (slot : MemSlot) (s : State) :
    Host.Outcome State Fault Refusal :=
  act t (Dev.thenTurns s.log fun d => if d.readFits n.val addr use then
    d.arbitrate n.val (readAsked use addr) slot (Dev.hbmRead n.val addr w use dieCorr) else d) s

end Machine
end Sys2Proof
end

