-- ==== Sys2Proof/Machine/Frames.lean ====
section
/-! DEFINITION. The meanings of the commands and events of buffers, scheduling, tables and ingress, over the operations of Buffers, Sched, Address,
ClassCmd and Ingress. -/

namespace Sys2Proof

namespace Machine

/-! ### Buffers, cells and queues (08_buffers_queues.md) -/

def execBufCfgSet (t : Nat) (rq : Req) (s : State) : Host.Outcome State Fault Refusal := act t (runCmd 0x0810 (tablesCmd cmdBufCfgSet) rq) s
def execStallholderSet (t : Nat) (rq : Req) (s : State) : Host.Outcome State Fault Refusal := act t (runCmd 0x0811 (tablesCmd cmdStallholderSet) rq) s
def execQueueStatus (t : Nat) (rq : Req) (s : State) : Host.Outcome State Fault Refusal := act t (runCmd 0x0813 (tablesCmd cmdQueueStatus) rq) s
def execQueueFlush (t : Nat) (rq : Req) (s : State) : Host.Outcome State Fault Refusal := act t (runCmd 0x0814 (tablesCmd cmdQueueFlush) rq) s
def execPoolStatus (t : Nat) (rq : Req) (s : State) : Host.Outcome State Fault Refusal := act t (runCmd 0x0815 (tablesCmd cmdPoolStatus) rq) s
def execStallholderStatus (t : Nat) (rq : Req) (s : State) : Host.Outcome State Fault Refusal := act t (runCmd 0x0816 (tablesCmd cmdStallholderStatus) rq) s
def execSweepStart (t : Nat) (rq : Req) (s : State) : Host.Outcome State Fault Refusal := act t (runCmd 0x0817 (tablesCmd cmdSweepStart) rq) s
def execOrphanSweep (t : Nat) (n : Fin 8) (s : State) : Host.Outcome State Fault Refusal := act t (Dev.sweep n.val) s

/-- The arbiter grants the write its slot, and it is performed; a write of part of a word once its read has come (R322). -/
def execHbmWritePerformed (t : Nat) (n : Fin 8) (port : Fin 7) (addr : Nat) (slot : MemSlot) (s : State) : Host.Outcome State Fault Refusal :=
  act t (fun d =>
    let mig := port.val == 6 && (((d.stack n.val).mig.map fun g => g.word.isSome && g.addr == addr).getD false)
    d.arbitrate n.val (fun r => r.port == port.val && r.write && !r.part && r.mig == mig && r.addr == addr) slot
      (Dev.written n.val port.val addr)) s

/-! ### Meters and scheduling (09_scheduling.md) -/

def execMeterWrite (t : Nat) (rq : Req) (s : State) : Host.Outcome State Fault Refusal := act t (runCmd 0x0910 (tablesCmd cmdMeterWrite) rq) s
def execMeterRead (t : Nat) (rq : Req) (s : State) : Host.Outcome State Fault Refusal := act t (runCmd 0x0911 (tablesCmd cmdMeterRead) rq) s
def execSchedSet (t : Nat) (rq : Req) (s : State) : Host.Outcome State Fault Refusal := act t (runCmd 0x0912 (tablesCmd cmdSchedSet) rq) s
def execPortEgressSet (t : Nat) (rq : Req) (s : State) : Host.Outcome State Fault Refusal := act t (runCmd 0x0913 (tablesCmd cmdPortEgressSet) rq) s
def execEscaleStatusCmd (t : Nat) (rq : Req) (s : State) : Host.Outcome State Fault Refusal := act t (runCmd 0x0914 cmdEscaleStatus rq) s
def execC0Report (t : Nat) (rq : Req) (s : State) : Host.Outcome State Fault Refusal := act t (runCmd 0x0915 cmdC0Report rq) s
def execQueueSet (t : Nat) (rq : Req) (s : State) : Host.Outcome State Fault Refusal := act t (runCmd 0x0812 (tablesCmd cmdQueueSet) rq) s

/-! ### The flow and address tables (07_tables.md) -/

def execLftWrite (t : Nat) (rq : Req) (s : State) : Host.Outcome State Fault Refusal := act t (runCmd 0x0710 cmdLftWrite rq) s
def execAddrInsert (t : Nat) (rq : Req) (s : State) : Host.Outcome State Fault Refusal := act t (runCmd 0x0711 cmdAddrInsert rq) s
def execAddrDelete (t : Nat) (rq : Req) (s : State) : Host.Outcome State Fault Refusal := act t (runCmd 0x0712 cmdAddrDelete rq) s
def execAddrLookup (t : Nat) (rq : Req) (s : State) : Host.Outcome State Fault Refusal := act t (runCmd 0x0713 cmdAddrLookup rq) s
def execAddrFlush (t : Nat) (rq : Req) (s : State) : Host.Outcome State Fault Refusal := act t (runCmd 0x0714 cmdAddrFlush rq) s
def execLearnCfgSet (t : Nat) (rq : Req) (s : State) : Host.Outcome State Fault Refusal := act t (runCmd 0x0715 cmdLearnCfgSet rq) s
def execAgePassStart (t : Nat) (n : Fin 8) (s : State) : Host.Outcome State Fault Refusal := act t (Dev.agePass n.val) s
def execAgeScannerVisit (t : Nat) (n : Fin 8) (bad : Nat) (s : State) : Host.Outcome State Fault Refusal := act t (Dev.ageVisit n.val bad) s
def execLearnRecordExpiry (t : Nat) (n : Fin 8) (s : State) : Host.Outcome State Fault Refusal := act t (Dev.learnExpiry n.val) s

/-! ### Classification tables and the shadow compare (06, 07) -/

def execPortParseSet (t : Nat) (rq : Req) (s : State) : Host.Outcome State Fault Refusal := act t (runCmd 0x0610 cmdPortParseSet rq) s
def execTpidSet (t : Nat) (rq : Req) (s : State) : Host.Outcome State Fault Refusal := act t (runCmd 0x0611 cmdTpidSet rq) s
def execMacFilterWrite (t : Nat) (rq : Req) (s : State) : Host.Outcome State Fault Refusal := act t (runCmd 0x0612 cmdMacFilterWrite rq) s
def execProfileWrite (t : Nat) (rq : Req) (s : State) : Host.Outcome State Fault Refusal := act t (runCmd 0x0613 cmdProfileWrite rq) s
def execRangeWrite (t : Nat) (rq : Req) (s : State) : Host.Outcome State Fault Refusal := act t (runCmd 0x0614 cmdRangeWrite rq) s
def execActionWrite (t : Nat) (rq : Req) (s : State) : Host.Outcome State Fault Refusal := act t (runCmd 0x0615 cmdActionWrite rq) s
def execRuleWrite (t : Nat) (rq : Req) (s : State) : Host.Outcome State Fault Refusal := act t (runCmd 0x0616 cmdRuleWrite rq) s
def execClsRead (t : Nat) (rq : Req) (s : State) : Host.Outcome State Fault Refusal := act t (runCmd 0x0617 cmdClsRead rq) s
def execShadowSet (t : Nat) (rq : Req) (s : State) : Host.Outcome State Fault Refusal := act t (runCmd 0x0716 cmdShadowSet rq) s
def execShadowStart (t : Nat) (rq : Req) (s : State) : Host.Outcome State Fault Refusal := act t (runCmd 0x0717 cmdShadowStart rq) s
def execShadowStop (t : Nat) (rq : Req) (s : State) : Host.Outcome State Fault Refusal := act t (runCmd 0x0718 cmdShadowStop rq) s
def execShadowRepair (t : Nat) (rq : Req) (s : State) : Host.Outcome State Fault Refusal := act t (runCmd 0x0719 cmdShadowRepair rq) s
def execShadowFetch (t : Nat) (n : Fin 8) (status : Fin 8) (entry : List Dword) (raced : Bool) (s : State) : Host.Outcome State Fault Refusal :=
  act t (Dev.shadowFetch n.val status.val entry raced) s

/-! ### Frames on their way (06, 08, 14) -/

def execSysFrameReceived (t : Nat) (p : Fin 256) (frame : List Byte) (stamp : Nat) (ue : List (Nat × Nat)) (s : State) : Host.Outcome State Fault Refusal :=
  act t (Dev.sysFrame p.val frame stamp ue) s

/-- A frame that is a PAUSE frame arrives (R273); any other frame is no such event. -/
def execPauseReceived (t : Nat) (p : Fin 256) (frame : List Byte) (s : State) : Host.Outcome State Fault Refusal :=
  act t (fun d => if isPause frame then d.sysFrame p.val frame d.now [] else d) s
/-- A frame that is a PFC frame arrives (R273). -/
def execPfcReceived (t : Nat) (p : Fin 256) (frame : List Byte) (s : State) : Host.Outcome State Fault Refusal :=
  act t (fun d => if isPfc frame then d.sysFrame p.val frame d.now [] else d) s
def execPauseExpiry (t : Nat) (p : Fin 256) (s : State) : Host.Outcome State Fault Refusal := act t (Dev.pauseExpiry p.val) s
def execBufferSpillUp (t : Nat) (n : Fin 8) (s : State) : Host.Outcome State Fault Refusal := act t (Dev.spillUp n.val) s
def execFrameDispatch (t : Nat) (n : Fin 8) (dir : Dir) (ue : List (Nat × Nat)) (s : State) : Host.Outcome State Fault Refusal :=
  act t (Dev.dispatchFrame n.val dir ue) s
def execReorderRelease (t : Nat) (n : Fin 8) (dir : Dir) (port : Fin 32) (prio : Bool) (qf : QFault) (meterBad : Bool) (s : State) :
    Host.Outcome State Fault Refusal :=
  act t (Dev.releaseFrame n.val dir port.val prio qf meterBad) s
def execTxDescriptorRead (t : Nat) (r : Fin 64) (desc : List Dword) (bytes : List Byte) (s : State) : Host.Outcome State Fault Refusal :=
  act t (Dev.txRead r.val desc bytes) s
def execHostRingCopy (t : Nat) (n : Fin 8) (qf : QFault) (stageBad : Bool) (s : State) : Host.Outcome State Fault Refusal :=
  act t (Dev.ringCopy n.val qf stageBad) s

end Machine
end Sys2Proof
end

