-- ==== Sys2Proof/Machine/TimePower.lean ====
section
/-! DEFINITION. The meanings of the commands and events of time, power and memory, over the operations of Time, PowerCmd and Memory. -/

namespace Sys2Proof

namespace Machine

/-! ### Time (12_time.md) -/

def execTimeSourceSet (t : Nat) (rq : Req) (s : State) : Host.Outcome State Fault Refusal := act t (runCmd 0x0C10 cmdTimeSourceSet rq) s
def execTimeRate (t : Nat) (rq : Req) (s : State) : Host.Outcome State Fault Refusal := act t (runCmd 0x0C11 cmdTimeRate rq) s
def execTimeStep (t : Nat) (rq : Req) (s : State) : Host.Outcome State Fault Refusal := act t (runCmd 0x0C12 cmdTimeStep rq) s
def execTimeStatusCmd (t : Nat) (rq : Req) (s : State) : Host.Outcome State Fault Refusal := act t (runCmd 0x0C13 cmdTimeStatus rq) s
def execPpsCfgSet (t : Nat) (rq : Req) (s : State) : Host.Outcome State Fault Refusal := act t (runCmd 0x0C14 cmdPpsCfgSet rq) s
def execPtpTcSet (t : Nat) (rq : Req) (s : State) : Host.Outcome State Fault Refusal := act t (runCmd 0x0C15 cmdPtpTcSet rq) s

/-- A read of word 0 of TIME_SNAP latches both records at one edge (R343). -/
def execTimeSnapRead (t : Nat) (s : State) : Host.Outcome State Fault Refusal :=
  act t (fun d => d.modTime fun x => { x with snap := d.devLin.toNat, frcSnap := d.frcLin }) s

/-- PPS_GLITCH is cleared by writing 1 to it (R343). -/
def execTimeStatusWrite (t : Nat) (v : Dword) (s : State) : Host.Outcome State Fault Refusal :=
  act t (fun d => if v.getLsbD 6 then d.modTime fun x => { x with ppsGlitch := false } else d) s

def execTodOutSend (t : Nat) (s : State) : Host.Outcome State Fault Refusal := act t Dev.todSend s
def execPpsOutPulseEnd (t : Nat) (s : State) : Host.Outcome State Fault Refusal := act t Dev.ppsFall s
def execPpsInEdge (t frac : Nat) (s : State) : Host.Outcome State Fault Refusal := act t (Dev.ppsEdge frac) s
def execTimeSourceHoldover (t : Nat) (s : State) : Host.Outcome State Fault Refusal := act t Dev.sourceHoldover s
def execRefInputLost (t : Nat) (i : Fin 2) (s : State) : Host.Outcome State Fault Refusal := act t (Dev.refLost i.val) s
def execRefHoldoverUncertain (t : Nat) (s : State) : Host.Outcome State Fault Refusal := act t Dev.refUncertain s
def execRefInputRestored (t : Nat) (i : Fin 2) (s : State) : Host.Outcome State Fault Refusal := act t (Dev.refRestored i.val) s
/-- The crystal gives no edge for 1 us (R364). -/
def execAoFallbackSwitch (t : Nat) (s : State) : Host.Outcome State Fault Refusal :=
  act t (fun d => if d.ao.fallback then d else d.aoSwitch true) s
/-- The crystal has run within its limit for 10 ms (R364). -/
def execAoCrystalRestored (t : Nat) (s : State) : Host.Outcome State Fault Refusal :=
  act t (fun d => if d.ao.fallback then d.aoSwitch false else d) s

/-! ### Power (13_power.md) -/

def execPowerPolicySet (t : Nat) (rq : Req) (s : State) : Host.Outcome State Fault Refusal := act t (runCmd 0x0D10 cmdPowerPolicySet rq) s
def execPowerStatus (t : Nat) (rq : Req) (s : State) : Host.Outcome State Fault Refusal := act t (runCmd 0x0D12 cmdPowerStatus rq) s
def execRefusalRead (t : Nat) (rq : Req) (s : State) : Host.Outcome State Fault Refusal := act t (runCmd 0x0D13 cmdRefusalRead rq) s
def execSeqCfgSet (t : Nat) (rq : Req) (s : State) : Host.Outcome State Fault Refusal := act t (runCmd 0x0D14 cmdSeqCfgSet rq) s
def execBudgetCfgSet (t : Nat) (rq : Req) (s : State) : Host.Outcome State Fault Refusal := act t (runCmd 0x0D15 cmdBudgetCfgSet rq) s
def execBudgetStatus (t : Nat) (rq : Req) (s : State) : Host.Outcome State Fault Refusal := act t (runCmd 0x0D16 cmdBudgetStatus rq) s

/-- WOKE is cleared by writing 1 to it (R382). -/
def execPdStatusWrite (t : Nat) (pd : Fin 127) (v : Dword) (s : State) : Host.Outcome State Fault Refusal :=
  act t (fun d => if v.getLsbD 15 then d.modDom pd.val fun x => { x with woke := false } else d) s
def execLanePowerupComplete (t : Nat) (l : Fin 512) (s : State) : Host.Outcome State Fault Refusal :=
  act t (Dev.laneUp l.val) s
def execPcieLinkStateChange (t : Nat) (st : Fin 4) (s : State) : Host.Outcome State Fault Refusal :=
  act t (Dev.pcieLink st.val) s
def execBudgetControllerRun (t : Nat) (model : List (Nat × Nat)) (shared : Nat) (s : State) : Host.Outcome State Fault Refusal :=
  act t (Dev.budgetRun model shared) s
def execRailRead (t : Nat) (ch : Fin 32) (current millivolt : Nat) (s : State) : Host.Outcome State Fault Refusal :=
  act t (Dev.railRead ch.val current millivolt) s
def execRailReadTimeout (t : Nat) (ch : Fin 32) (s : State) : Host.Outcome State Fault Refusal :=
  act t (Dev.railTimeout ch.val) s
def execAvsAdjust (t : Nat) (east : Bool) (millivolt : Nat) (s : State) : Host.Outcome State Fault Refusal :=
  act t (Dev.avsAdjust east millivolt) s

/-! ### Stacked memory (11_memory.md) -/

def execMemCfgSet (t : Nat) (rq : Req) (s : State) : Host.Outcome State Fault Refusal := act t (runCmd 0x0B10 (memCmd cmdMemCfgSet) rq) s
def execMemStatusCmd (t : Nat) (rq : Req) (s : State) : Host.Outcome State Fault Refusal := act t (runCmd 0x0B11 (memCmd cmdMemStatus) rq) s
def execScrubStart (t : Nat) (rq : Req) (s : State) : Host.Outcome State Fault Refusal := act t (runCmd 0x0B12 (memCmd cmdScrubStart) rq) s
def execScrubAbort (t : Nat) (rq : Req) (s : State) : Host.Outcome State Fault Refusal := act t (runCmd 0x0B13 (memCmd cmdScrubAbort) rq) s
def execRankMigrate (t : Nat) (rq : Req) (s : State) : Host.Outcome State Fault Refusal := act t (runCmd 0x0B14 (memCmd cmdRankMigrate) rq) s
def execMemErrorLog (t : Nat) (rq : Req) (s : State) : Host.Outcome State Fault Refusal := act t (runCmd 0x0B15 (memCmd cmdMemErrorLog) rq) s

def execActivationWindowEnd (t : Nat) (n : Fin 8) (s : State) : Host.Outcome State Fault Refusal := act t (fun d => if d.timeOn then d.passActivation n.val else d) s
def execStackTempRead (t : Nat) (n : Fin 8) (temp : Nat) (s : State) : Host.Outcome State Fault Refusal :=
  act t (Dev.stackTemp n.val temp) s
/-- A pass that has read its whole range ends (R327). -/
def execScrubPassEnd (t : Nat) (n : Fin 8) (s : State) : Host.Outcome State Fault Refusal :=
  act t (fun d => if ((d.stack n.val).scrub.map fun x => Nat.ble x.len x.done).getD false then d.endScrub n.val 0 .ok else d) s
def execMigrationComplete (t : Nat) (n : Fin 8) (s : State) : Host.Outcome State Fault Refusal := act t (Dev.endMigration n.val) s
def execControlCopyRebuilt (t : Nat) (n : Fin 8) (s : State) : Host.Outcome State Fault Refusal := act t (Dev.copyRebuilt n.val) s
/-- A corrected SEC-DED word is written back (R334). -/
def execSramWriteback (t : Nat) (n : Fin 8) (s : State) : Host.Outcome State Fault Refusal := act t (Dev.bump .sramCe n.val 0) s

end Machine
end Sys2Proof
end

