-- ==== Sys2Proof/Machine/Dispatch.lean ====
section
/-! DEFINITION. One arm per command. -/

namespace Sys2Proof.Machine

def exec (i : Instr) (s : State) : Host.Outcome State Fault Refusal :=
  match i with
  | .aoColdStart t => Sys2Proof.Machine.execAoColdStart t s
  | .railExcursion t rail => Sys2Proof.Machine.execRailExcursion t rail s
  | .mainRailsRestored t => Sys2Proof.Machine.execMainRailsRestored t s
  | .perstRelease t => Sys2Proof.Machine.execPerstRelease t s
  | .bootAttempt t src => Sys2Proof.Machine.execBootAttempt t src s
  | .bootWaitExpiry t => Sys2Proof.Machine.execBootWaitExpiry t s
  | .firmwareRunning t => Sys2Proof.Machine.execFirmwareRunning t s
  | .firmwareStartTimeout t => Sys2Proof.Machine.execFirmwareStartTimeout t s
  | .functionReady t f ok => Sys2Proof.Machine.execFunctionReady t f ok s
  | .perstAssert t => Sys2Proof.Machine.execPerstAssert t s
  | .functionLevelReset t => Sys2Proof.Machine.execFunctionLevelReset t s
  | .pcieLinkStateChange t st => Sys2Proof.Machine.execPcieLinkStateChange t st s
  | .hostImgPost t v => Sys2Proof.Machine.execHostImgPost t v s
  | .mbDoorbell t m v host => Sys2Proof.Machine.execMbDoorbell t m v host s
  | .indirectParamFetch t m ok params host => Sys2Proof.Machine.execIndirectParamFetch t m ok params host s
  | .asyncCompletion t m tag ok image => Sys2Proof.Machine.execAsyncCompletion t m tag ok image s
  | .mbStatusWrite t m v => Sys2Proof.Machine.execMbStatusWrite t m v s
  | .laneRxStatusWrite t l v => Sys2Proof.Machine.execLaneRxStatusWrite t l v s
  | .laneTxStatusRead t l => Sys2Proof.Machine.execLaneTxStatusRead t l s
  | .laneTxStatusWrite t l v => Sys2Proof.Machine.execLaneTxStatusWrite t l v s
  | .ilStatusRead t p => Sys2Proof.Machine.execIlStatusRead t p s
  | .ilStatusWrite t p v => Sys2Proof.Machine.execIlStatusWrite t p v s
  | .timeSnapRead t => Sys2Proof.Machine.execTimeSnapRead t s
  | .timeStatusWrite t v => Sys2Proof.Machine.execTimeStatusWrite t v s
  | .pdStatusWrite t pd v => Sys2Proof.Machine.execPdStatusWrite t pd v s
  | .boardIrqWrite t v => Sys2Proof.Machine.execBoardIrqWrite t v s
  | .dmaStatusRead t c => Sys2Proof.Machine.execDmaStatusRead t c s
  | .rxBufferPost t r idx addrs => Sys2Proof.Machine.execRxBufferPost t r idx addrs s
  | .txRingDoorbell t r idx => Sys2Proof.Machine.execTxRingDoorbell t r idx s
  | .queueHostIdxWrite t off v => Sys2Proof.Machine.execQueueHostIdxWrite t off v s
  | .queueOvfClear t off v => Sys2Proof.Machine.execQueueOvfClear t off v s
  | .registerWrite t bar off v => Sys2Proof.Machine.execRegisterWrite t bar off v s
  | .msixSignal t vec => Sys2Proof.Machine.execMsixSignal t vec s
  | .treeConfigure t rq => Sys2Proof.Machine.execTreeConfigure t rq s
  | .treeUnconfigure t rq => Sys2Proof.Machine.execTreeUnconfigure t rq s
  | .treePair t rq => Sys2Proof.Machine.execTreePair t rq s
  | .treeUnpair t rq => Sys2Proof.Machine.execTreeUnpair t rq s
  | .sysPortSet t rq => Sys2Proof.Machine.execSysPortSet t rq s
  | .laneTxSet t rq => Sys2Proof.Machine.execLaneTxSet t rq s
  | .laneRxSet t rq => Sys2Proof.Machine.execLaneRxSet t rq s
  | .lanePrbs t rq => Sys2Proof.Machine.execLanePrbs t rq s
  | .laneInject t rq => Sys2Proof.Machine.execLaneInject t rq s
  | .laneEyeScan t rq => Sys2Proof.Machine.execLaneEyeScan t rq s
  | .laneEyeAbort t rq => Sys2Proof.Machine.execLaneEyeAbort t rq s
  | .laneStatus t rq => Sys2Proof.Machine.execLaneStatus t rq s
  | .acceptRead t rq => Sys2Proof.Machine.execAcceptRead t rq s
  | .acceptRebuild t rq => Sys2Proof.Machine.execAcceptRebuild t rq s
  | .srFilterSet t rq => Sys2Proof.Machine.execSrFilterSet t rq s
  | .treeSkewRead t rq => Sys2Proof.Machine.execTreeSkewRead t rq s
  | .linePortBurstSet t rq => Sys2Proof.Machine.execLinePortBurstSet t rq s
  | .barrowAwningSet t rq => Sys2Proof.Machine.execBarrowAwningSet t rq s
  | .barrowStatus t rq => Sys2Proof.Machine.execBarrowStatus t rq s
  | .pitchRead t rq => Sys2Proof.Machine.execPitchRead t rq s
  | .ilStatusCmd t rq => Sys2Proof.Machine.execIlStatusCmd t rq s
  | .joinStatusCmd t rq => Sys2Proof.Machine.execJoinStatusCmd t rq s
  | .dormantRequest t rq => Sys2Proof.Machine.execDormantRequest t rq s
  | .joinLogRead t rq => Sys2Proof.Machine.execJoinLogRead t rq s
  | .portParseSet t rq => Sys2Proof.Machine.execPortParseSet t rq s
  | .tpidSet t rq => Sys2Proof.Machine.execTpidSet t rq s
  | .macFilterWrite t rq => Sys2Proof.Machine.execMacFilterWrite t rq s
  | .profileWrite t rq => Sys2Proof.Machine.execProfileWrite t rq s
  | .rangeWrite t rq => Sys2Proof.Machine.execRangeWrite t rq s
  | .actionWrite t rq => Sys2Proof.Machine.execActionWrite t rq s
  | .ruleWrite t rq => Sys2Proof.Machine.execRuleWrite t rq s
  | .clsRead t rq => Sys2Proof.Machine.execClsRead t rq s
  | .lftWrite t rq => Sys2Proof.Machine.execLftWrite t rq s
  | .addrInsert t rq => Sys2Proof.Machine.execAddrInsert t rq s
  | .addrDelete t rq => Sys2Proof.Machine.execAddrDelete t rq s
  | .addrLookup t rq => Sys2Proof.Machine.execAddrLookup t rq s
  | .addrFlush t rq => Sys2Proof.Machine.execAddrFlush t rq s
  | .learnCfgSet t rq => Sys2Proof.Machine.execLearnCfgSet t rq s
  | .shadowSet t rq => Sys2Proof.Machine.execShadowSet t rq s
  | .shadowStart t rq => Sys2Proof.Machine.execShadowStart t rq s
  | .shadowStop t rq => Sys2Proof.Machine.execShadowStop t rq s
  | .shadowRepair t rq => Sys2Proof.Machine.execShadowRepair t rq s
  | .bufCfgSet t rq => Sys2Proof.Machine.execBufCfgSet t rq s
  | .stallholderSet t rq => Sys2Proof.Machine.execStallholderSet t rq s
  | .queueSet t rq => Sys2Proof.Machine.execQueueSet t rq s
  | .queueStatus t rq => Sys2Proof.Machine.execQueueStatus t rq s
  | .queueFlush t rq => Sys2Proof.Machine.execQueueFlush t rq s
  | .poolStatus t rq => Sys2Proof.Machine.execPoolStatus t rq s
  | .stallholderStatus t rq => Sys2Proof.Machine.execStallholderStatus t rq s
  | .sweepStart t rq => Sys2Proof.Machine.execSweepStart t rq s
  | .meterWrite t rq => Sys2Proof.Machine.execMeterWrite t rq s
  | .meterRead t rq => Sys2Proof.Machine.execMeterRead t rq s
  | .schedSet t rq => Sys2Proof.Machine.execSchedSet t rq s
  | .portEgressSet t rq => Sys2Proof.Machine.execPortEgressSet t rq s
  | .escaleStatusCmd t rq => Sys2Proof.Machine.execEscaleStatusCmd t rq s
  | .c0Report t rq => Sys2Proof.Machine.execC0Report t rq s
  | .keyCtxSet t rq => Sys2Proof.Machine.execKeyCtxSet t rq s
  | .keyCtxRead t rq => Sys2Proof.Machine.execKeyCtxRead t rq s
  | .keyCtxFind t rq => Sys2Proof.Machine.execKeyCtxFind t rq s
  | .cipherStatus t rq => Sys2Proof.Machine.execCipherStatus t rq s
  | .memCfgSet t rq => Sys2Proof.Machine.execMemCfgSet t rq s
  | .memStatusCmd t rq => Sys2Proof.Machine.execMemStatusCmd t rq s
  | .scrubStart t rq => Sys2Proof.Machine.execScrubStart t rq s
  | .scrubAbort t rq => Sys2Proof.Machine.execScrubAbort t rq s
  | .rankMigrate t rq => Sys2Proof.Machine.execRankMigrate t rq s
  | .memErrorLog t rq => Sys2Proof.Machine.execMemErrorLog t rq s
  | .timeSourceSet t rq => Sys2Proof.Machine.execTimeSourceSet t rq s
  | .timeRate t rq => Sys2Proof.Machine.execTimeRate t rq s
  | .timeStep t rq => Sys2Proof.Machine.execTimeStep t rq s
  | .timeStatusCmd t rq => Sys2Proof.Machine.execTimeStatusCmd t rq s
  | .ppsCfgSet t rq => Sys2Proof.Machine.execPpsCfgSet t rq s
  | .ptpTcSet t rq => Sys2Proof.Machine.execPtpTcSet t rq s
  | .powerPolicySet t rq => Sys2Proof.Machine.execPowerPolicySet t rq s
  | .powerEnter t rq => Sys2Proof.Machine.execPowerEnter t rq s
  | .powerStatus t rq => Sys2Proof.Machine.execPowerStatus t rq s
  | .refusalRead t rq => Sys2Proof.Machine.execRefusalRead t rq s
  | .seqCfgSet t rq => Sys2Proof.Machine.execSeqCfgSet t rq s
  | .budgetCfgSet t rq => Sys2Proof.Machine.execBudgetCfgSet t rq s
  | .budgetStatus t rq => Sys2Proof.Machine.execBudgetStatus t rq s
  | .fwStatus t rq => Sys2Proof.Machine.execFwStatus t rq s
  | .fwLoad t rq => Sys2Proof.Machine.execFwLoad t rq s
  | .fwUpdate t rq => Sys2Proof.Machine.execFwUpdate t rq s
  | .eventQueueSet t rq => Sys2Proof.Machine.execEventQueueSet t rq s
  | .ringSet t rq => Sys2Proof.Machine.execRingSet t rq s
  | .ringStop t rq => Sys2Proof.Machine.execRingStop t rq s
  | .dmaRestart t rq => Sys2Proof.Machine.execDmaRestart t rq s
  | .echo t rq => Sys2Proof.Machine.execEcho t rq s
  | .trustStatus t rq => Sys2Proof.Machine.execTrustStatus t rq s
  | .certRead t rq => Sys2Proof.Machine.execCertRead t rq s
  | .svnAdvance t rq => Sys2Proof.Machine.execSvnAdvance t rq s
  | .vaultZeroise t rq => Sys2Proof.Machine.execVaultZeroise t rq s
  | .countWindowSet t rq => Sys2Proof.Machine.execCountWindowSet t rq s
  | .countClear t rq => Sys2Proof.Machine.execCountClear t rq s
  | .bwCfgSet t rq => Sys2Proof.Machine.execBwCfgSet t rq s
  | .perfCfgSet t rq => Sys2Proof.Machine.execPerfCfgSet t rq s
  | .perfRead t rq => Sys2Proof.Machine.execPerfRead t rq s
  | .mothCfgSet t rq => Sys2Proof.Machine.execMothCfgSet t rq s
  | .eventLogRead t rq => Sys2Proof.Machine.execEventLogRead t rq s
  | .cdrLock t l => Sys2Proof.Machine.execCdrLock t l s
  | .lossOfSignal t l x => Sys2Proof.Machine.execLossOfSignal t l x s
  | .losAsserted t p => Sys2Proof.Machine.execLosAsserted t p s
  | .losCleared t p => Sys2Proof.Machine.execLosCleared t p s
  | .rxOpenDetected t l leg x => Sys2Proof.Machine.execRxOpenDetected t l leg x s
  | .rxOpenCleared t l leg => Sys2Proof.Machine.execRxOpenCleared t l leg s
  | .txShortDetected t l => Sys2Proof.Machine.execTxShortDetected t l s
  | .txShortProbe t l normal => Sys2Proof.Machine.execTxShortProbe t l normal s
  | .dfeEngage t l margin => Sys2Proof.Machine.execDfeEngage t l margin s
  | .eyeScanPointDone t l errors symbols => Sys2Proof.Machine.execEyeScanPointDone t l errors symbols s
  | .eyeScanLockTimeout t l => Sys2Proof.Machine.execEyeScanLockTimeout t l s
  | .blockLockGained t l tries => Sys2Proof.Machine.execBlockLockGained t l tries s
  | .blockLockLoss t l last x => Sys2Proof.Machine.execBlockLockLoss t l last x s
  | .frameStartDecision t l arrival pos cw x => Sys2Proof.Machine.execFrameStartDecision t l arrival pos cw x s
  | .frameLockLoss t l => Sys2Proof.Machine.execFrameLockLoss t l s
  | .laneIdentifierReceived t l blk => Sys2Proof.Machine.execLaneIdentifierReceived t l blk s
  | .treeFrameDecision t k draw => Sys2Proof.Machine.execTreeFrameDecision t k draw s
  | .entryToLost t k => Sys2Proof.Machine.execEntryToLost t k s
  | .listeningLockLoss t k => Sys2Proof.Machine.execListeningLockLoss t k s
  | .srValueAccepted t k => Sys2Proof.Machine.execSrValueAccepted t k s
  | .protectionSwitchComplete t k => Sys2Proof.Machine.execProtectionSwitchComplete t k s
  | .pitchListEntry t k hdr blk => Sys2Proof.Machine.execPitchListEntry t k hdr blk s
  | .pitchListComplete t k hdr => Sys2Proof.Machine.execPitchListComplete t k hdr s
  | .parcelReceived t k item keyBad ue => Sys2Proof.Machine.execParcelReceived t k item keyBad ue s
  | .epochOverlapEnd t k aid dir => Sys2Proof.Machine.execEpochOverlapEnd t k aid dir s
  | .noticeReceived t k n draw => Sys2Proof.Machine.execNoticeReceived t k n draw s
  | .nAssign t k => Sys2Proof.Machine.execNAssign t k s
  | .nRange t k => Sys2Proof.Machine.execNRange t k s
  | .nEqd t k => Sys2Proof.Machine.execNEqd t k s
  | .nTxset t k => Sys2Proof.Machine.execNTxset t k s
  | .nKexPhase0 t k certs => Sys2Proof.Machine.execNKexPhase0 t k certs s
  | .nKexPhase1 t k => Sys2Proof.Machine.execNKexPhase1 t k s
  | .nKexPhase2 t k => Sys2Proof.Machine.execNKexPhase2 t k s
  | .nAttest t k => Sys2Proof.Machine.execNAttest t k s
  | .nAllocAdd t k => Sys2Proof.Machine.execNAllocAdd t k s
  | .nAllocRemove t k => Sys2Proof.Machine.execNAllocRemove t k s
  | .nPitchRev t k n => Sys2Proof.Machine.execNPitchRev t k n s
  | .nTime t k => Sys2Proof.Machine.execNTime t k s
  | .nProtect t k => Sys2Proof.Machine.execNProtect t k s
  | .nDisableTxSet t k n => Sys2Proof.Machine.execNDisableTxSet t k n s
  | .nDisableTxLift t k n draw => Sys2Proof.Machine.execNDisableTxLift t k n draw s
  | .nDeregister t k draw => Sys2Proof.Machine.execNDeregister t k draw s
  | .nDormant t k => Sys2Proof.Machine.execNDormant t k s
  | .nLaneRemove t k => Sys2Proof.Machine.execNLaneRemove t k s
  | .nLaneReturn t k => Sys2Proof.Machine.execNLaneReturn t k s
  | .laneChangeEffect t k => Sys2Proof.Machine.execLaneChangeEffect t k s
  | .acceptBitBoundary t k => Sys2Proof.Machine.execAcceptBitBoundary t k s
  | .acceptWordRewrite t k word => Sys2Proof.Machine.execAcceptWordRewrite t k word s
  | .eqdTakesEffect t k => Sys2Proof.Machine.execEqdTakesEffect t k s
  | .spdmResponseReady t k nonce => Sys2Proof.Machine.execSpdmResponseReady t k nonce s
  | .kexShareReady t k eph nonce => Sys2Proof.Machine.execKexShareReady t k eph nonce s
  | .tAssignExpiry t k draw => Sys2Proof.Machine.execTAssignExpiry t k draw s
  | .tAnnouncedExpiry t k draw => Sys2Proof.Machine.execTAnnouncedExpiry t k draw s
  | .tRangedExpiry t k draw => Sys2Proof.Machine.execTRangedExpiry t k draw s
  | .tKexExpiry t k => Sys2Proof.Machine.execTKexExpiry t k s
  | .holdoffExpiry t k draw => Sys2Proof.Machine.execHoldoffExpiry t k draw s
  | .answerStale t k => Sys2Proof.Machine.execAnswerStale t k s
  | .sysLinkUp t p trained lanes => Sys2Proof.Machine.execSysLinkUp t p trained lanes s
  | .sysLinkDown t p => Sys2Proof.Machine.execSysLinkDown t p s
  | .sysFrameReceived t p frame stamp ue => Sys2Proof.Machine.execSysFrameReceived t p frame stamp ue s
  | .pauseReceived t p frame => Sys2Proof.Machine.execPauseReceived t p frame s
  | .pfcReceived t p frame => Sys2Proof.Machine.execPfcReceived t p frame s
  | .pauseExpiry t p => Sys2Proof.Machine.execPauseExpiry t p s
  | .bufferSpillUp t n => Sys2Proof.Machine.execBufferSpillUp t n s
  | .frameDispatch t n dir ue => Sys2Proof.Machine.execFrameDispatch t n dir ue s
  | .reorderRelease t n dir port prio qf meterBad => Sys2Proof.Machine.execReorderRelease t n dir port prio qf meterBad s
  | .class0BarrowArrival t n q qf => Sys2Proof.Machine.execClass0BarrowArrival t n q qf s
  | .barrowAssembly t k aid qf => Sys2Proof.Machine.execBarrowAssembly t k aid qf s
  | .pitchCommit t k frame pid keyBad flaws => Sys2Proof.Machine.execPitchCommit t k frame pid keyBad flaws s
  | .burstStart t k frame pid => Sys2Proof.Machine.execBurstStart t k frame pid s
  | .transmitReadDone t n party slice pool index stageBad => Sys2Proof.Machine.execTransmitReadDone t n party slice pool index stageBad s
  | .pitchClose t k frame pid => Sys2Proof.Machine.execPitchClose t k frame pid s
  | .interlockTrip t p seen outs => Sys2Proof.Machine.execInterlockTrip t p seen outs s
  | .ballMismatch t b => Sys2Proof.Machine.execBallMismatch t b s
  | .systemPortFrameStart t p qf => Sys2Proof.Machine.execSystemPortFrameStart t p qf s
  | .lpiEntry t p => Sys2Proof.Machine.execLpiEntry t p s
  | .lpiWakeEnd t p => Sys2Proof.Machine.execLpiWakeEnd t p s
  | .txDescriptorRead t r desc bytes => Sys2Proof.Machine.execTxDescriptorRead t r desc bytes s
  | .hostRingCopy t n qf stageBad => Sys2Proof.Machine.execHostRingCopy t n qf stageBad s
  | .orphanSweep t n => Sys2Proof.Machine.execOrphanSweep t n s
  | .budgetFrameBoundary t temps => Sys2Proof.Machine.execBudgetFrameBoundary t temps s
  | .budgetControllerRun t model shared => Sys2Proof.Machine.execBudgetControllerRun t model shared s
  | .railRead t ch current millivolt => Sys2Proof.Machine.execRailRead t ch current millivolt s
  | .railReadTimeout t ch => Sys2Proof.Machine.execRailReadTimeout t ch s
  | .thermalTrip t temps => Sys2Proof.Machine.execThermalTrip t temps s
  | .thermalTripClear t => Sys2Proof.Machine.execThermalTripClear t s
  | .wholeSecond t modelled tails => Sys2Proof.Machine.execWholeSecond t modelled tails s
  | .todOutSend t => Sys2Proof.Machine.execTodOutSend t s
  | .ppsInEdge t frac => Sys2Proof.Machine.execPpsInEdge t frac s
  | .timeSourceHoldover t => Sys2Proof.Machine.execTimeSourceHoldover t s
  | .refInputLost t inp => Sys2Proof.Machine.execRefInputLost t inp s
  | .refHoldoverUncertain t => Sys2Proof.Machine.execRefHoldoverUncertain t s
  | .refInputRestored t inp => Sys2Proof.Machine.execRefInputRestored t inp s
  | .aoFallbackSwitch t => Sys2Proof.Machine.execAoFallbackSwitch t s
  | .aoCrystalRestored t => Sys2Proof.Machine.execAoCrystalRestored t s
  | .bwWindowEnd t n => Sys2Proof.Machine.execBwWindowEnd t n s
  | .activationWindowEnd t n => Sys2Proof.Machine.execActivationWindowEnd t n s
  | .stackTempRead t n temp => Sys2Proof.Machine.execStackTempRead t n temp s
  | .agePassStart t n => Sys2Proof.Machine.execAgePassStart t n s
  | .ageScannerVisit t n bad => Sys2Proof.Machine.execAgeScannerVisit t n bad s
  | .learnRecordExpiry t n => Sys2Proof.Machine.execLearnRecordExpiry t n s
  | .shadowFetch t n status entry raced => Sys2Proof.Machine.execShadowFetch t n status entry raced s
  | .hbmReadComplete t n addr w use dieCorr slot => Sys2Proof.Machine.execHbmReadComplete t n addr w use dieCorr slot s
  | .scrubPassEnd t n => Sys2Proof.Machine.execScrubPassEnd t n s
  | .migrationComplete t n => Sys2Proof.Machine.execMigrationComplete t n s
  | .controlCopyRebuilt t n => Sys2Proof.Machine.execControlCopyRebuilt t n s
  | .countBlockUpdate t n name inst => Sys2Proof.Machine.execCountBlockUpdate t n name inst s
  | .sramWriteback t n => Sys2Proof.Machine.execSramWriteback t n s
  | .derivationComplete t n => Sys2Proof.Machine.execDerivationComplete t n s
  | .pdEntry t pd target => Sys2Proof.Machine.execPdEntry t pd target s
  | .pdEntryComplete t pd => Sys2Proof.Machine.execPdEntryComplete t pd s
  | .pdWakeComplete t pd selfTest => Sys2Proof.Machine.execPdWakeComplete t pd selfTest s
  | .pdScheduledExit t pd => Sys2Proof.Machine.execPdScheduledExit t pd s
  | .lanePowerupComplete t l => Sys2Proof.Machine.execLanePowerupComplete t l s
  | .persistentRecordWrite t => Sys2Proof.Machine.execPersistentRecordWrite t s
  | .firmwareTrap t core addr page sram task reloaded swapped => Sys2Proof.Machine.execFirmwareTrap t core addr page sram task reloaded swapped s
  | .fwHandover t => Sys2Proof.Machine.execFwHandover t s
  | .dmaHalt t c cause => Sys2Proof.Machine.execDmaHalt t c cause s
  | .dmaAutoRestart t c => Sys2Proof.Machine.execDmaAutoRestart t c s
  | .spdmDoeRequest t msg => Sys2Proof.Machine.execSpdmDoeRequest t msg s
  | .jtagUnlock t token => Sys2Proof.Machine.execJtagUnlock t token s
  | .checkerLock t l errs c => Sys2Proof.Machine.execCheckerLock t l errs c s
  | .checkerLockLoss t l errs c => Sys2Proof.Machine.execCheckerLockLoss t l errs c s
  | .burstEnd t k frame pid => Sys2Proof.Machine.execBurstEnd t k frame pid s
  | .ppsOutPulseEnd t => Sys2Proof.Machine.execPpsOutPulseEnd t s
  | .ballMismatchEnd t b => Sys2Proof.Machine.execBallMismatchEnd t b s
  | .hbmWritePerformed t n port addr slot => Sys2Proof.Machine.execHbmWritePerformed t n port addr slot s
  | .doeAbort t => Sys2Proof.Machine.execDoeAbort t s
  | .jtagInstruction t instr => Sys2Proof.Machine.execJtagInstruction t instr s
  | .avsAdjust t east millivolt => Sys2Proof.Machine.execAvsAdjust t east millivolt s

end Sys2Proof.Machine
end

