-- ==== Sys2Proof/Safety.lean ====
section
/-! DEFINITION. What claims about runs are stated with: the shape of the event log that a reader may rely on, and the state of the block
between two commands. -/

namespace Sys2Proof

/-- The event log as R463 describes it: at most 4,096 entries, the oldest first, with consecutive 40-bit sequence numbers that end just
below LOG_NEXT; entries are lost only from a full log, and LOST fits in 32 bits. -/
def EvLog.Consistent (g : EvLog) : Prop :=
  g.entries.length ≤ 4096 ∧ g.next < 2 ^ 40 ∧ g.lost ≤ 2 ^ 32 - 1 ∧ (0 < g.lost → g.entries.length = 4096) ∧
  ∀ (i : Nat) (e : LogEntry), g.entries[i]? = some e → (e.logSeq + (g.entries.length - i)) % 2 ^ 40 = g.next

/-- Between two commands every event that was raised has been written to the log and to its queue (R414, R463). -/
def Machine.State.Settled (s : Machine.State) : Prop := s.dev.evPend = []

/-- The invariant of the model. -/
def Machine.State.Inv (s : Machine.State) : Prop := s.log.Consistent ∧ s.Settled

/-- Command i, given to the block in state s, completes: exec answers a next state, in which the block is d with the events it
raised delivered and logged. -/
def Machine.Completes (i : Instr) (s : Machine.State) (d : Dev) : Prop := Machine.exec i s = .next (Machine.finish s d)

/-- A mailbox command of n parameter dwords whose doorbell is accepted and runs at once (R400, R404, R407) and which needs the functions fs. -/
abbrev Accepted (d : Dev) (rq : Req) (n : Nat) (fs : List Nat) : Prop :=
  d.runsNow rq.mb.val = true ∧ rq.len = n ∧ ∀ f ∈ fs, d.isReady f = true

/-- Dword i of the parameters lies between lo and hi, both included. -/
abbrev Req.within (rq : Req) (i lo hi : Nat) : Prop := lo ≤ rq.prm i ∧ rq.prm i ≤ hi

end Sys2Proof
end

