-- ==== Sys2Proof/Certificates/Slice0/Obligations.lean ====
section
/-! DEFINITION. The statements for the provers, one `def Obligations.<Name> : Prop` each. `Completes c s d` says that `exec c s` answers the next
state that ends the command with the block at `d`; `Accepted d rq n fs` that the mailbox of `rq` takes a command of `n` parameter dwords while the
functions `fs` are ready (both in Safety.lean). -/

open Sys2Proof Sys2Proof.Machine

/-- A step takes the command at the front of the queue and runs it on the state with the rest of the queue. -/
def Obligations.StepRunsTheWaitingCommand : Prop :=
  ∀ (s : State) (c : Instr) (rest : List Instr), step { s with pending := c :: rest } = exec c { s with pending := rest }

/-- Every command of the table, in every state, answers a next state that keeps the commands still waiting: none stops the block, and
the event log it leaves takes every event raised after those it held (the log is emptied only where a cold start of MGMT begins, R463). -/
def Obligations.EveryCommandAnswersANextState : Prop :=
  ∀ (c : Instr) (s : State), ∃ d : Dev,
    exec c s = .next (finish s d) ∨ ((∃ t, c = .aoColdStart t ∨ c = .mainRailsRestored t) ∧ exec c s = .next (finish { s with log := {} } d))

/-- What reset leaves, where the spec gives the value (R46, R50, R53, R103, R130, R186, R187, R217, R221, R260, R266, R287, R295, R309, R314, R329,
R336, R340, R355, R358, R374 to R376, R385, R386, R393, R418, R453, R457): no command waits and the log is empty. -/
def Obligations.ResetLeavesTheStatedValues : Prop :=
  let s := State.reset; let d := s.dev
  s.pending = [] ∧ s.log = {} ∧
  (d.time.frcNs = 0 ∧ d.time.rho = 0 ∧ d.time.theta = 0 ∧ d.time.uncertain = true ∧ d.time.armed = true ∧ d.time.errNs = none ∧
    d.time.pps.widthNs = 100000 ∧ d.ao.period = 40 * 2 ^ 32) ∧
  (∀ f < 43, d.isReady f = false ∧ (d.readyW f).reason = 1) ∧ d.host.perst = true ∧ (∀ v, (d.host.msix.table.get {} v).masked = true) ∧
  (∀ l, (d.txLane l).eq.main = 63 ∧ (d.txLane l).drives = false ∧ (d.align l).st = 0) ∧
  (∀ k, let x := d.tree k
    x.cfg.configured = false ∧ x.join.st = 0 ∧ x.join.leaf = none ∧ x.fr.tfl = false ∧ x.fr.srN = 3 ∧ x.allocs = [] ∧ x.pitches = [] ∧
    x.dt.held = false ∧ ∀ aid, x.acc.passes aid = false) ∧
  (∀ n, let x := d.slice n
    x.tab.tpidA = 0x8100 ∧ x.tab.tpidB = 0x88A8 ∧ (∀ p, (x.tab.cfg p).bits 0 3 11 = 7) ∧ x.tab.learn.ageTick = 1250 ∧
    x.tab.learn.ageLimit = 240 ∧ x.tab.learn.moveHold = 10 ∧ (∀ q, (d.queue n q).quantum = 16384 ∧ (d.queue n q).awning = 10240) ∧
    (∀ m, let r := x.sched.meters.get {} m
      r.valid = false ∧ r.mode = 0 ∧ r.cbs = 160 ∧ r.cir = 0 ∧ r.tokC = 160 * 64 * 2 ^ 16 ∧ r.tokE = 0) ∧
    (∀ c, let r := d.keyCtx n c
      r.bound = false ∧ r.keyed = false ∧ r.replayWin = 64 ∧ r.pnWarn = 48 ∧ r.overlap = 8) ∧ x.obs.bwUs = 1000) ∧
  (d.pwr.eCap = 64 ∧ d.pwr.suspended = false ∧ ∀ n, (d.pwr.escale.get {} n).eNum = 64)

/-- The invariant of the model holds at reset: the log is consistent (R463) and no event waits to be delivered. -/
def Obligations.InvariantHoldsAtReset : Prop := State.reset.Inv

/-- Every step keeps the invariant: the event log stays as R463 describes it (at most 4,096 entries, the oldest lost and counted only when the
log is full, consecutive 40-bit sequence numbers that end at LOG_NEXT), and no event raised by a command is left undelivered. -/
def Obligations.StepKeepsTheInvariant : Prop :=
  ∀ s s' : State, s.Inv → step s = .next s' → s'.Inv

/-- The end of a command changes nothing of the block but the event queues, the vectors that are due and the event records written to the
host on channels 48 to 50, one to each vacant place of a registered queue (R413, R414, R418, R420), and the event log (R463). -/
def Obligations.FinishFrame : Prop :=
  ∀ (s : State) (d : Dev), ∃ g evq due pba outs,
    finish s d = { s with
      log := g
      dev :=
        { d with
          evPend := [], outs := d.outs ++ outs
          host := { d.host with evq := evq, msix := { d.host.msix with due := due, pba := pba } } } } ∧
    outs.length ≤ d.evPend.length ∧ (∀ o ∈ outs, ∃ e ∈ d.evPend, ∃ a ws, o = .dma (48 + e.queue / 64) a ws) ∧
    (∀ q, (∀ e ∈ d.evPend, e.queue ≠ q) → evq.get {} q = d.host.evq.get {} q) ∧
    (∀ q, let a := d.host.evq.get {} q; let b := evq.get {} q
      b.reg = a.reg ∧ b.addr = a.addr ∧ b.entries = a.entries ∧ b.idx.host = a.idx.host)

/-- The rows that a mailbox runs, with their opcodes (Table 14.11 and the command tables). -/
def Sys2Proof.mailboxRows : List (Nat × (Nat → Req → Instr)) :=
  [ (0x0110, .treeConfigure), (0x0111, .treeUnconfigure), (0x0112, .treePair), (0x0113, .treeUnpair), (0x0114, .sysPortSet),
    (0x0210, .laneTxSet), (0x0211, .laneRxSet), (0x0212, .lanePrbs), (0x0213, .laneInject), (0x0214, .laneEyeScan),
    (0x0215, .laneEyeAbort), (0x0216, .laneStatus), (0x0310, .acceptRead), (0x0311, .acceptRebuild), (0x0312, .srFilterSet),
    (0x0313, .treeSkewRead), (0x0410, .linePortBurstSet), (0x0411, .barrowAwningSet), (0x0412, .barrowStatus),
    (0x0413, .pitchRead), (0x0414, .ilStatusCmd), (0x0510, .joinStatusCmd), (0x0511, .dormantRequest), (0x0512, .joinLogRead),
    (0x0610, .portParseSet), (0x0611, .tpidSet), (0x0612, .macFilterWrite), (0x0613, .profileWrite), (0x0614, .rangeWrite),
    (0x0615, .actionWrite), (0x0616, .ruleWrite), (0x0617, .clsRead), (0x0710, .lftWrite), (0x0711, .addrInsert),
    (0x0712, .addrDelete), (0x0713, .addrLookup), (0x0714, .addrFlush), (0x0715, .learnCfgSet), (0x0716, .shadowSet),
    (0x0717, .shadowStart), (0x0718, .shadowStop), (0x0719, .shadowRepair), (0x0810, .bufCfgSet), (0x0811, .stallholderSet),
    (0x0812, .queueSet), (0x0813, .queueStatus), (0x0814, .queueFlush), (0x0815, .poolStatus), (0x0816, .stallholderStatus),
    (0x0817, .sweepStart), (0x0910, .meterWrite), (0x0911, .meterRead), (0x0912, .schedSet), (0x0913, .portEgressSet),
    (0x0914, .escaleStatusCmd), (0x0915, .c0Report), (0x0A10, .keyCtxSet), (0x0A11, .keyCtxRead), (0x0A12, .keyCtxFind),
    (0x0A13, .cipherStatus), (0x0B10, .memCfgSet), (0x0B11, .memStatusCmd), (0x0B12, .scrubStart), (0x0B13, .scrubAbort),
    (0x0B14, .rankMigrate), (0x0B15, .memErrorLog), (0x0C10, .timeSourceSet), (0x0C11, .timeRate), (0x0C12, .timeStep),
    (0x0C13, .timeStatusCmd), (0x0C14, .ppsCfgSet), (0x0C15, .ptpTcSet), (0x0D10, .powerPolicySet), (0x0D11, .powerEnter),
    (0x0D12, .powerStatus), (0x0D13, .refusalRead), (0x0D14, .seqCfgSet), (0x0D15, .budgetCfgSet), (0x0D16, .budgetStatus),
    (0x0E10, .fwStatus), (0x0E11, .fwLoad), (0x0E12, .fwUpdate), (0x0E13, .eventQueueSet), (0x0E14, .ringSet),
    (0x0E15, .ringStop), (0x0E16, .dmaRestart), (0x0E17, .echo), (0x0F10, .trustStatus), (0x0F11, .certRead),
    (0x0F12, .svnAdvance), (0x0F13, .vaultZeroise), (0x1010, .countWindowSet), (0x1011, .countClear), (0x1012, .bwCfgSet),
    (0x1013, .perfCfgSet), (0x1014, .perfRead), (0x1015, .mothCfgSet), (0x1016, .eventLogRead) ]
/-- Each command of the mailboxes given as a command of its own acts as its opcode does through a doorbell (R400, R401, R405, R407, R408): it is
ignored, and DB_IGNORED set, while the mailbox is busy or function 0 is not ready; it is copied and waits, its mailbox busy, while a command whose
doorbell came before it is not yet executed; else it runs once and is answered under its opcode. That one order holds for all commands, whatever
they change, is the model's choice (log entry 135). -/
def Obligations.MailboxRowsRunTheirOpcodes : Prop :=
  ∀ row ∈ mailboxRows, ∀ (s : State) (t : Nat) (rq : Req), let d := s.dev.begin t
    let waits := fun m => (d.mbox m).fetching.isSome
    ((d.mbox rq.mb.val).busy = true ∨ d.isReady 0 = false →
      Completes (row.2 t rq) s (d.modMbox rq.mb.val fun m => { m with dbIgnored := true })) ∧
    ((d.mbox rq.mb.val).busy = false → d.isReady 0 = true →
      ((∃ m ∈ d.host.turns, waits m = true) →
        Completes (row.2 t rq) s ((d.modHost fun h => { h with turns := h.turns.filter waits ++ [rq.mb.val] }).modMbox rq.mb.val fun m =>
          { m with
            busy := true
            fetching := some
              { opcode := row.1, tag := rq.tag, addr := 0, len := rq.params.length, held := some (rq.params, rq.host) } })) ∧
      ((∀ m ∈ d.host.turns, waits m = false) → Completes (row.2 t rq) s (d.runOpcode s.log row.1 rq)))

/-- A command answered with any code other than OK or ASYNC changed nothing (R404, R405): of the block only its mailbox and its vector take
the response. Two opcodes are excepted, for the counts that the spec has them keep of their refusals: lane_tx_set (0x0210, R51) and power_enter
(0x0D11, R369). -/
def Obligations.RefusedCommandChangesNothing : Prop :=
  ∀ (g : EvLog) (op : Nat) (c : Cmd) (rq : Req) (d : Dev), commandOf g op = some c → op ≠ 0x0210 → op ≠ 0x0D11 →
    (c rq d).1.code ≠ .ok → (c rq d).1.code ≠ .async →
    (c rq d).2 = d ∧ d.runOpcode g op rq = d.answer rq op (c rq d).1

/-- Every opcode that no command table lists is answered with code 0x06 and changes nothing else; the low bytes 0x00 to 0x0F of every range are
reserved, and the high byte of every listed opcode is a chapter's, 0x01 to 0x10 (R408, Table 14.11). The listed opcodes are those of mailboxRows. -/
def Obligations.UnlistedOpcodesAreUnknown : Prop :=
  (∀ (g : EvLog) (op : Nat) (rq : Req) (d : Dev), op ∉ mailboxRows.map (·.1) →
    d.runOpcode g op rq = d.answer rq op { code := .unknown }) ∧
  Code.num .unknown = 0x06 ∧
  (∀ op ∈ mailboxRows.map (·.1), (∀ g, (commandOf g op).isSome = true) ∧ 0x10 ≤ op % 256 ∧ 0x01 ≤ op / 256 ∧ op / 256 ≤ 0x10)

/-- Buffer i of pool p lies in logical rank i mod 3, at the offset of pool p's share plus ⌊i ÷ 3⌋ times the pool's buffer size (R312; the
offsets of Table 11.1 and the sizes of Table 8.1); each pool so has 349,526 buffers in L0 and 349,525 in L1 and in L2; every byte of a
buffer's space is found to be that buffer's, so no two buffers share a byte. -/
def Obligations.BufferPlacement : Prop :=
  (∀ p < 6, ∀ i < 1048576,
    let size := [256, 640, 1280, 2560, 5120, 10240].getD p 0
    let share := [0x0, 0x5800000, 0x13000000, 0x2E000000, 0x63800000, 0xCE800000].getD p 0
    bufferAddr p i = i % 3 * 0x300000000 + (share + i / 3 * size) ∧
    ∀ a, bufferAddr p i ≤ a → a < bufferAddr p i + size → bufferAt a = some (p, i)) ∧
  ∀ l < 3, ((List.range 1048576).filter fun i => i % 3 == l).length = if l = 0 then 349526 else 349525

/-- While a tree has no leaf number it considers only the entries whose AID is 0xF_FFF0, whatever their LEAF, and it ignores every other entry
and counts none of them (R155): such an entry only moves the place in the list on, and an announcement window that is well formed and new in its list is kept. -/
def Obligations.NoLeafConsidersAnnouncementsOnly : Prop :=
  ∀ (s : State) (t : Nat) (k : Fin 64) (hdr blk : RxBlock) (n m : Nat), let d := s.dev.begin t; let x := d.tree k.val
    x.cfg.configured = true → x.fr.tfl = true → d.listHeader k.val hdr = some (n + 1, m) → x.fr.listSeen ≤ n → x.join.leaf = none →
    let c := d.modTree k.val fun x => { x with fr := { x.fr with listSeen := x.fr.listSeen + 1 } }
    (fld 20 108 blk.pl ≠ 0xFFFF0#20 → Completes (.pitchListEntry t k hdr blk) s c) ∧
    (fld 20 108 blk.pl = 0xFFFF0#20 → blk.unc = false → blk.ctl = false → blockChk blk.pl = fld 16 0 blk.pl →
      let p := pitchOf blk.pl (x.fr.fc + 2)
      p.malformed = false → x.fr.listIds.contains p.pid = false →
      let e := c.modTree k.val fun x => { x with fr := { x.fr with listIds := x.fr.listIds ++ [p.pid] } }
      Completes (.pitchListEntry t k hdr blk) s (e.modTree k.val fun x => { x with fr := { x.fr with listNew := x.fr.listNew ++ [p] } }))

/-- A function becomes ready only when every function it depends on is ready (Table 14.3, R396), and its own initialisation has completed;
function 0 only while the firmware runs; and after the readiness words have settled no function is ready while one that it depends on is not. -/
def Obligations.ReadyOnlyAfterItsDependencies : Prop :=
  ∀ (d : Dev), let e := d.settleReady
    (∀ f < 43, e.isReady f = true → (∀ g ∈ depsOf f, e.isReady g = true) ∧ (f = 0 → d.host.fw.running = true) ∧
      (d.isReady f = true ∨ d.host.initDone.get false f = true)) ∧
    (∀ f < 43, d.isReady f = true → (∀ g ∈ depsOf f, e.isReady g = true) → (f = 0 → d.host.fw.running = true) → e.isReady f = true) ∧
    (∀ f < 43, ∀ g ∈ depsOf f, g < f)

/-- Zeroisation erases every root key, exchange key and notice key of the vault and every derived key of the derivation units and the cell
caches, seeds the DRBG anew and latches BOARD_IRQ.VAULT (R438); the measurement registers, the fuses and the records of the flash stay. -/
def Obligations.ZeroisationErasesEverySecret : Prop :=
  ∀ d : Dev, let e := d.zeroise
    e.vault.roots = [] ∧ e.vault.kex = [] ∧ e.vault.noticeKeys = [] ∧ e.vault.reseeds = d.vault.reseeds + 1 ∧ e.host.irq.vault = true ∧
    (∀ n < 8, let x := (e.slice n).key
      x.derivs = [] ∧ ∀ c, let k := x.ctx.get {} c
        k.rx.key = none ∧ k.rxNext = none ∧ (∀ o, k.rxOld = some o → o.key = none) ∧
        (x.tx.get {} c).key = none ∧ (x.tx.get {} c).next = none ∧ (x.tx.get {} c).prev = none) ∧
    e.vault.mr0 = d.vault.mr0 ∧ e.vault.mr3 = d.vault.mr3 ∧ e.vault.fuses = d.vault.fuses ∧ e.flashA = d.flashA ∧ e.flashB = d.flashB

/-- The persistent records survive a loss of the AO rails (R395): the firmware's write puts the disable-transmit record of every tree slot and
the rank map of every stack into one copy of the flash and leaves the other alone, and the boot ROM, which takes the valid copy with the higher
generation, brings just those records back. The generation is 32 bits wide: it must not wrap. -/
def Obligations.PersistentRecordsComeBack : Prop :=
  ∀ d : Dev, d.recDirty = true → d.host.fw.running = true →
    (∀ x, d.flashA = some x → x.1 + 1 < 2 ^ 32) → (∀ x, d.flashB = some x → x.1 + 1 < 2 ^ 32) →
    let w := d.writeRecords
    w.recDirty = false ∧ (w.flashA = d.flashA ∨ w.flashB = d.flashB) ∧
    ∀ e : Dev, e.flashA = w.flashA → e.flashB = w.flashB →
      (∀ k < 64, ((e.loadRecords false).tree k).dt = (d.tree k).dt) ∧ (∀ n < 8, ((e.loadRecords false).stack n).map = (d.stack n).map) ∧
      e.loadRecords true = e

/-- Events raised in one command's instant enter the log, and their queues, in ascending SOURCE order, then in ascending CODE order, then in
ascending OBJECT order (R464): the end of a command takes each raised event once, in that order, into its queue and the log, and while the log
has room it appends exactly them. -/
def Obligations.EventsOfOneInstantEnterInOrder : Prop :=
  ∀ (s : State) (d : Dev), let es := sortEvents d.evPend
    (es.Perm d.evPend ∧
      es.Pairwise fun a b => a.source < b.source ∨ (a.source = b.source ∧ (a.code < b.code ∨ (a.code = b.code ∧ a.object ≤ b.object)))) ∧
    (let r := es.foldl (fun x e => (x.1.add e (x.2.host.evq.get {} e.queue).seq, x.2.deliver e)) (s.log, { d with evPend := [] })
     finish s d = { s with log := r.1, dev := r.2 }) ∧
    (s.log.entries.length + es.length ≤ 4096 →
      (finish s d).log.entries.map (fun x => (x.queue, x.source, x.code, x.object, x.detail, x.time)) =
        s.log.entries.map (fun x => (x.queue, x.source, x.code, x.object, x.detail, x.time)) ++
        es.map (fun x => (x.queue, x.source, x.code, x.object, x.detail, x.time)))

/-- The 64-bit packet number of a parcel is rebuilt from its 16-bit SEQ as the positive value nearest to TOP + 1 that ends in SEQ (R296): the
number its sender gave it, whenever that lies within 32,768 below and 32,767 above TOP + 1. -/
def Obligations.PacketNumberIsTheNearest : Prop :=
  ∀ top seq : Nat, seq < 65536 →
    1 ≤ rebuildPn top seq ∧ rebuildPn top seq % 65536 = seq ∧
    (∀ v : Nat, 1 ≤ v → v % 65536 = seq → ((rebuildPn top seq : Int) - (top + 1)).natAbs ≤ ((v : Int) - (top + 1)).natAbs) ∧
    (∀ pn : Nat, 1 ≤ pn → (top : Int) + 1 - 32768 ≤ pn → pn ≤ top + 1 + 32767 → rebuildPn top (pn % 65536) = pn)

/-- No replay in one epoch (R297, steps 2 and 3): however the packet numbers of verified parcels arrive, and whatever the replay window of 0 to
1,024 is, the numbers that pass the window test are all different, TOP is the highest of them, and with a window of 0 they rise strictly. -/
def Obligations.NoPacketNumberIsAcceptedTwice : Prop :=
  ∀ (win : Nat) (pns : List Nat), win ≤ 1024 →
    let r := pns.foldl (fun (x : RxEpoch × List Nat) pn => if x.1.fresh win pn then (x.1.accept pn, pn :: x.2) else x) ({}, [])
    r.2.Nodup ∧ r.2.foldl max 0 = r.1.top ∧ (win = 0 → r.2.Pairwise fun later earlier => earlier < later)

/-- No tagged notice of a tree is applied twice (R306): of the values v that arrive on notices whose tags pass, those found new are all
different, and each of them is above the highest accepted before it or 1 to 63 below it. -/
def Obligations.NoTaggedNoticeIsAppliedTwice : Prop :=
  ∀ (vs : List Nat),
    let r := vs.foldl (fun (x : Exchange × List Nat) v => if x.1.freshV v then (x.1.takeV v, v :: x.2) else x) ({}, [])
    r.2.Nodup ∧ (∀ h, r.1.vHigh = some h → h ∈ r.2 ∧ ∀ v ∈ r.2, v ≤ h) ∧
    ∀ v, r.1.freshV v = true ↔ v ∉ r.2 ∧ ∀ h, r.1.vHigh = some h → h < v ∨ (h - 63 ≤ v ∧ v ≤ h - 1)

/-- The target frame of a Pitch revision is the one frame among f - 1, f, f + 1 and f + 2 whose count has the low 2 bits of TARGET (R113). -/
def Obligations.RevisionTargetIsUnique : Prop :=
  ∀ f low : Nat, 1 ≤ f → low < 4 →
    f - 1 ≤ revTarget f low ∧ revTarget f low ≤ f + 2 ∧ revTarget f low % 4 = low ∧
    ∀ g, f - 1 ≤ g → g ≤ f + 2 → g % 4 = low → g = revTarget f low

/-- A write of the rate takes effect so that device time at that edge is the same under the old and the new values (R342), but for the one
unit of 2^-16 ns that the truncated products may differ by (log entry 27); and the offset changes by FRC × (old − new), truncated. -/
def Obligations.RateWriteKeepsDeviceTime : Prop :=
  ∀ (x : TimeSt) (frc : Nat) (r : Int), let y := x.setRho frc r
    y.rho = r ∧ y.theta = x.theta + ((frc : Int) * (x.rho - r)) / 2 ^ 48 ∧ y = { x with rho := r, theta := y.theta } ∧
    (y.devOf frc - x.devOf frc).natAbs ≤ 1

/-- A step adds its signed offset to device time, keeps the rate and the counter, and clears STEP_ARMED and UNCERTAIN (R344); of a tree it
changes nothing but the performance record that the step closes (R346), and of the vault, the ports and the drivers nothing. -/
def Obligations.StepShiftsDeviceTime : Prop :=
  ∀ (delta : Int) (d : Dev), let e := d.stepTime delta
    e.time.theta = d.time.theta + delta ∧ e.time.rho = d.time.rho ∧ e.time.frcNs = d.time.frcNs ∧ e.devLin = d.devLin + delta ∧
    e.time.armed = false ∧ e.time.uncertain = false ∧ e.now = d.now ∧ e.vault = d.vault ∧ e.ports = d.ports ∧ e.ltx = d.ltx ∧
    ∀ k, e.tree k = { d.tree k with fr := (e.tree k).fr }

/-- HEADROOM is 15 − ⌊15 × E⌋ for the slice's E-scale E, and 15 while classes 1 to 7 are suspended (R124), and the report blocks of every lane
of a burst carry it in bits [79:76] of report B (R123). The codes stand for the ranges of E_NUM of Table 4.8. -/
def Obligations.HeadroomFollowsTheEScale : Prop :=
  ∀ (d : Dev) (n : Nat), d.eNumOf n ≤ 64 → let E : ℚ := (d.eNumOf n : ℚ) / 64
    (d.pwr.suspended = true → d.headroom n = 15) ∧
    (d.pwr.suspended = false → (d.headroom n : ℤ) = 15 - ⌊15 * E⌋ ∧
      (d.headroom n = 0 ↔ d.eNumOf n = 64) ∧ (1 ≤ d.headroom n ∧ d.headroom n ≤ 7 ↔ 35 ≤ d.eNumOf n ∧ d.eNumOf n ≤ 63) ∧
      (8 ≤ d.headroom n ∧ d.headroom n ≤ 14 ↔ 5 ≤ d.eNumOf n ∧ d.eNumOf n ≤ 34) ∧ (d.headroom n = 15 ↔ d.eNumOf n ≤ 4)) ∧
    ∀ (k parcels : Nat) (p : Pitch), sliceOfTree k = n →
      ∃ a b : Block, fld 8 120 b = 0x84#8 ∧ fld 4 76 b = BitVec.ofNat 4 (d.headroom n) ∧
        ∀ i ∈ (d.tree k).namedLanes p, ∃ h id, [h, id, a, b] <:+: d.burstBlocks k p parcels

/-- A meter's tokens depend only on the time that has passed, not on how often the meter is used in between (R261): filling it at one instant
and then at a later one leaves what filling it at the later one alone leaves, in both modes, to the last 2^-16 byte; and neither bucket
exceeds its size. -/
def Obligations.MeterFillsByElapsedTime : Prop :=
  ∀ (m : Meter) (a b : Ticks), m.last ≤ a → a ≤ b → m.tokC ≤ m.cbs * 64 * 65536 → m.tokE ≤ m.ebs * 64 * 65536 →
    ((m.fill a).fill b = m.fill b) ∧ (m.fill b).tokC ≤ m.cbs * 64 * 65536 ∧ (m.fill b).tokE ≤ m.ebs * 64 * 65536 ∧
    m.tokC ≤ (m.fill b).tokC ∧ m.tokE ≤ (m.fill b).tokE

/-- A queue whose head deficit round robin takes is one of the eligible queues, its head fits its deficit (R268); the search changes no
queue but in its deficit and its turn; and it always ends with a queue, while one is eligible and every eligible queue has a quantum. -/
def Obligations.RoundRobinTakesAHeadThatFits : Prop :=
  ∀ (n ptr : Nat) (qs : List Nat) (d : Dev), let r := drrPick n qs ptr d
    (∀ q def_ p, r.1 = some (q, def_, p) →
      q ∈ qs ∧ (((d.queue n q).head.map (·.length)).getD 0 : Int) ≤ def_ ∧ (r.2.2.queue n q).deficit = def_ ∧ (r.2.2.queue n q).turn = true) ∧
    (∀ q, let a := d.queue n q; r.2.2.queue n q = { a with deficit := (r.2.2.queue n q).deficit, turn := (r.2.2.queue n q).turn }) ∧
    (∀ q, q ∉ qs → r.2.2.queue n q = d.queue n q) ∧
    (qs ≠ [] → (∀ q ∈ qs, 1 ≤ (d.queue n q).quantum) → r.1.isSome = true)

/-- The end-of-burst block (R125): type 0x8F in bits [127:120], the number of parcels of the whole burst in [119:100], zeros in [99:16], and in
[15:0] the CRC-16 with the parameters of R98 over bits [127:16]; every burst ends with one. -/
def Obligations.EndOfBurstBlockLayout : Prop :=
  (∀ parcels : Nat, let b := endBlock parcels
    fld 8 120 b = 0x8F#8 ∧ fld 20 100 b = BitVec.ofNat 20 parcels ∧ fld 84 16 b = 0#84 ∧ fld 16 0 b = crc16 (bitsMsb (fld 112 16 b))) ∧
  ∀ (d : Dev) (k parcels : Nat) (p : Pitch), (d.burstBlocks k p parcels).getLast? = some (endBlock parcels)

/-- Decoding the block of a Pitch gives the Pitch back (Table 4.2), every field at every value of its width, for the frame that the block is
read for: no bit of an entry is dropped and no field overlaps another; and the block's own check verifies (R109). -/
def Obligations.PitchBlockRoundTrip : Prop :=
  ∀ (frame leaf start length preamble flags pid rev : Nat) (aid : Word) (mask : BitVec 16),
    leaf < 2 ^ 10 → start < 2 ^ 13 → length < 2 ^ 13 → preamble < 2 ^ 4 → flags < 2 ^ 5 → pid < 2 ^ 12 → rev < 2 ^ 4 →
    let p : Pitch := { frame := frame, aid := aid, leaf := leaf, mask := mask, start := start, length := length, preamble := preamble,
                       flags := flags, pid := pid, rev := rev }
    pitchOf p.block frame = p ∧ fld 16 0 p.block = blockChk p.block

/-- Writing the five words of an address entry back gives the entry (Table 7.3), every field at every value of its width, with AGE at 0 and
the marks that no word holds cleared (R216). -/
def Obligations.AddressEntryRoundTrip : Prop :=
  ∀ e : AddrEntry, e.age < 2 ^ 8 → e.port < 2 ^ 5 → e.lfn < 2 ^ 20 →
    addrOf (fun i => (e.words.getD i 0).toNat) = { e with age := 0, bad := false, holdEnd := 0 } ∧
    (e.words.getD 3 0).toNat / 2 ^ 9 % 2 ^ 8 = e.age ∧ e.words.length = 5

/-- Precoding and Gray mapping are undone by the receiver (R44, Table 2.1): bits come back from their levels; symbols come back from the levels
precoded from the same starting state, all but the first from any other; and one wrong level corrupts exactly the symbol in its place and the next.
The descrambler gives back what the scrambler was given (R74, R119): from the first bit where both histories are the same, and from the 59th bit on
whatever history the descrambler started with. -/
def Obligations.LineCodingIsUndone : Prop :=
  (∀ bits : List Bool, bits.length % 2 = 0 → ofLevels (toLevels bits) = bits) ∧
  (∀ (y : Fin 4) (xs : List (Fin 4)), unprecode y (precode y xs) = xs) ∧
  (∀ (y z : Fin 4) (xs : List (Fin 4)), (unprecode z (precode y xs)).drop 1 = xs.drop 1) ∧
  (∀ (y e : Fin 4) (ls : List (Fin 4)) (n : Nat) (hn : n < ls.length), e ≠ 0 →
    ∀ j, j < ls.length → ((unprecode y (ls.set n (ls[n] + e)))[j]? ≠ (unprecode y ls)[j]? ↔ j = n ∨ j = n + 1)) ∧
  (∀ (h xs : List Bool), descramble h (scramble h xs) = xs) ∧
  ∀ (h g xs : List Bool), (descramble g (scramble h xs)).drop 58 = xs.drop 58

/-- A burst's lanes (R120, R122, R126): each of the m lanes has 40 C positions; its header blocks stand at positions 0 to 3, idle blocks at 4 to
39, the end-of-burst block at the last; and block j of the parcel region, of which there are m (40 C - 41), stands at position 40 + ⌊j ÷ m⌋ on lane
j mod m, each at a place of its own. -/
def Obligations.BurstBlocksStandInTheirPlaces : Prop :=
  ∀ (m c : Nat) (header : List Block) (region : List (Bool × Block)), 1 ≤ m → 2 ≤ c →
    let lane := fun i => burstLane m c i false header region
    (∀ i < m, (lane i).length = 40 * c ∧ (lane i)[40 * c - 1]? = some (true, header.getLastD idleBlock) ∧
      (∀ q < 4, (lane i)[q]? = some (true, header.getD (4 * i + q) idleBlock)) ∧ ∀ q, 4 ≤ q → q < 40 → (lane i)[q]? = some (true, idleBlock)) ∧
    (∀ j < m * (40 * c - 41), let at1 := stripePlace 40 m j
      at1 = (40 + j / m, j % m) ∧ at1.1 ≤ 40 * c - 2 ∧ at1.2 < m ∧ (lane at1.2)[at1.1]? = some (region.getD j (true, idleBlock))) ∧
    ∀ j1 j2, stripePlace 40 m j1 = stripePlace 40 m j2 → j1 = j2

/-- A parcel that is sealed opens to its frame under the same key, salt, packet number, header and tree ID (R286, R297, Table 10.1); and the bytes
that enter its key and its tag, and those that enter a notice's (R291, R305, Tables 10.1 and 10.3), say every value that they are made of: for
values within their widths, the key derivation's inputs, the IV and the additional data are the same exactly when those values are. -/
def Obligations.SealedParcelOpensAndTagSaysEveryInput : Prop :=
  (∀ (x : CellKey) (salt : BitVec 32) (pn : Nat) (hdr : Block) (treeId : Nat) (bytes : List Byte),
    openParcel x salt pn hdr treeId bytes.length (((sealedParcel x salt pn hdr treeId bytes).drop 1).map (·.2)) = some bytes) ∧
  (∀ (dir dir' : Dir) (tree tree' aid aid' serial serial' fc fc' : Nat), tree < 2 ^ 8 → tree' < 2 ^ 8 → aid < 2 ^ 24 → aid' < 2 ^ 24 →
    serial < 2 ^ 32 → serial' < 2 ^ 32 → fc < 2 ^ 64 → fc' < 2 ^ 64 →
    (parcelKdf dir tree aid serial fc = parcelKdf dir' tree' aid' serial' fc' ↔
      dir = dir' ∧ tree = tree' ∧ aid = aid' ∧ serial = serial' ∧ fc = fc') ∧
    (noticeKdf dir tree fc = noticeKdf dir' tree' fc' ↔ dir = dir' ∧ tree = tree' ∧ fc = fc')) ∧
  (∀ (salt salt' : BitVec 32) (pn pn' treeId treeId' : Nat) (hdr hdr' : Block), pn < 2 ^ 64 → pn' < 2 ^ 64 → treeId < 2 ^ 32 → treeId' < 2 ^ 32 →
    ((parcelIv salt pn, parcelAad hdr treeId) = (parcelIv salt' pn', parcelAad hdr' treeId') ↔
      salt = salt' ∧ pn = pn' ∧ hdr >>> 16 = hdr' >>> 16 ∧ treeId = treeId')) ∧
  ∀ (salt salt' high high' seq seq' treeId treeId' : Nat) (hdr hdr' : Block) (body body' : List Block), salt < 2 ^ 32 → salt' < 2 ^ 32 →
    high < 2 ^ 32 → high' < 2 ^ 32 → seq < 2 ^ 32 → seq' < 2 ^ 32 → treeId < 2 ^ 32 → treeId' < 2 ^ 32 →
    ((noticeIv salt high seq, noticeAad hdr body treeId) = (noticeIv salt' high' seq', noticeAad hdr' body' treeId') ↔
      salt = salt' ∧ high = high' ∧ seq = seq' ∧ hdr >>> 16 = hdr' >>> 16 ∧ body = body' ∧ treeId = treeId')

/-- Commands that only read change nothing of the block, whatever they answer: lane_status, tree_skew_read, barrow_status, il_status,
join_status, escale_status, c0_report, key_ctx_read, key_ctx_find, cipher_status, power_status, refusal_read, budget_status, fw_status and echo.
Those that write their result to the host do only that: accept_read, pitch_read, join_log_read and event_log_read. Those that need a domain of
their slice wake it, unless they are refused, and do no more (R381): queue_status, pool_status and mem_status; stallholder_status, meter_read and
mem_error_log write their result besides. -/
def Obligations.ReadingCommandsChangeNothing : Prop :=
  ∀ (g : EvLog) (op : Nat) (c : Cmd) (rq : Req) (d : Dev), commandOf g op = some c →
    (op ∈ [0x0216, 0x0313, 0x0412, 0x0414, 0x0510, 0x0914, 0x0915, 0x0A11, 0x0A12, 0x0A13, 0x0D12, 0x0D13, 0x0D16, 0x0E10, 0x0E17] →
      (c rq d).2 = d) ∧
    (op ∈ [0x0310, 0x0413, 0x0512, 0x1016] → (c rq d).2 = d ∨ ∃ a ws, (c rq d).2 = d.hostWrite rq.mb.val a ws) ∧
    (op ∈ [0x0813, 0x0815, 0x0B11] → let w := d.wake ((if op = 0x0B11 then 55 else 12 + 5 * rq.prm 0) + rq.prm 0) causeHost
      (c rq d).2 = if (c rq d).1.code = .ok ∨ (c rq d).1.code = .async then w else d) ∧
    (op ∈ [0x0816, 0x0911, 0x0B15] → let w := d.wake ((if op = 0x0B15 then 55 else 12 + 5 * rq.prm 0) + rq.prm 0) causeHost
      (c rq d).2 = d ∨ (c rq d).2 = w ∨ ∃ a ws, (c rq d).2 = w.hostWrite rq.mb.val a ws)

/-- A command that writes a table or a configuration of one slice leaves every other slice, every tree, every lane, port and memory stack's
rank map, the vault and device time as they were: tpid_set, profile_write, range_write, action_write, rule_write, lft_write, addr_insert,
addr_delete, addr_flush, learn_cfg_set, shadow_set, buf_cfg_set, stallholder_set, meter_write, sched_set, count_window_set, bw_cfg_set and
perf_cfg_set. (They may wake the TABLES domain of the slice, R381.) -/
def Obligations.SliceWritesStayInTheirSlice : Prop :=
  ∀ (g : EvLog) (op : Nat) (c : Cmd) (rq : Req) (d : Dev), commandOf g op = some c → rq.prm 0 ≤ 7 →
    op ∈ [0x0611, 0x0613, 0x0614, 0x0615, 0x0616, 0x0710, 0x0711, 0x0712, 0x0714, 0x0715, 0x0716, 0x0810, 0x0811, 0x0910, 0x0912, 0x1010,
          0x1012, 0x1013] →
    let e := (c rq d).2
    (∀ m, m ≠ rq.prm 0 → e.slice m = d.slice m) ∧ (∀ k, e.tree k = d.tree k) ∧ (∀ l, e.txLane l = d.txLane l ∧ e.rxLane l = d.rxLane l) ∧
    (∀ p, e.port p = d.port p) ∧ (∀ m, (e.stack m).map = (d.stack m).map) ∧ e.vault = d.vault ∧ e.time = d.time ∧ e.now = d.now

/-- Time commands (R342, R343, R349, R355, R358, R362, Table 12.10): with the time function ready and every field in range, each
command has its effect.
The parameter words of `pps_cfg_set`, `time_source_set` and `time_step` are the model's reading (log entries 14 and 30). -/
def Obligations.TimeCommandsComplete : Prop :=
  ∀ (s : State) (t : Nat) (rq : Req), let d := s.dev.begin t; let w := d.wake pdTime causeHost
    (Accepted d rq 4 [1] → rq.within 0 0 2 → rq.within 1 0 63 → rq.within 2 0 65535 → rq.within 3 0 3 →
      Completes (.timeSourceSet t rq) s ((w.modTime fun x =>
        { x with
          source := rq.prm 0, srcTree := rq.prm 1, holdover := x.holdover && rq.prm 0 == 1
          utcHost := if rq.prm 0 = 1 then x.utcHost else signedOf 16 (rq.prm 2)
          leapHost := if rq.prm 0 = 1 then x.leapHost else rq.prm 3 }).answer rq 0x0C10 {})) ∧
    (Accepted d rq 2 [1] → d.time.source = 0 →
      Completes (.timeRate t rq) s ((w.modTime fun x =>
        { x with
          rho := signedOf 40 (rq.prm 0 * 2 ^ 20 + rq.prm 1)
          theta := x.theta + ((w.time.frcNs * 65536 : Nat) : Int) * (x.rho - signedOf 40 (rq.prm 0 * 2 ^ 20 + rq.prm 1)) / 2 ^ 48
        }).answer rq 0x0C11 {})) ∧
    (Accepted d rq 5 [1] → rq.within 0 0 65535 → d.time.source ≠ 1 → d.time.armed = true →
      Completes (.timeStep t rq) s ((w.stepTime (signedOf 96 (rq.wideN 0 5))).answer rq 0x0C12 {})) ∧
    (Accepted d rq 0 [1] →
      Completes (.timeStatusCmd t rq) s (w.answer rq 0x0C13
        { results := resWords w.timeStatus ++ resWide 40 (unsignedOf 40 w.time.rho) ++ resWide 96 (unsignedOf 96 w.time.theta) ++
          resWide 96 (frcFields w.ao.saved.frcNs) ++ resWide 64 w.ao.saved.coarse ++ resWide 40 (unsignedOf 40 w.ao.saved.rho) ++
          resWide 96 (unsignedOf 96 w.ao.saved.theta) ++ resWide 1 w.ao.saved.armed.toNat ++
          resWide 1 w.ao.saved.uncertain.toNat ++ resWide 2 w.ao.saved.source ++
          resWide 6 (if w.ao.saved.source = 1 then w.ao.saved.srcTree else 0) ++ resWide 64 w.ao.lastSleep ++
          resWide 64 w.ao.lastFb })) ∧
    (Accepted d rq 3 [1] → rq.within 0 1 500000 → rq.within 1 0 1 → rq.within 2 0 2 →
      Completes (.ppsCfgSet t rq) s ((w.modTime fun x =>
        { x with ppsNext := some { widthNs := rq.prm 0 * 1000, suppress := rq.prm 1 == 1, rate := rq.prm 2 } }).answer rq 0x0C14 {})) ∧
    (Accepted d rq 2 [1] → rq.prm 0 ≤ 7 → (d.isReady (fnDs (rq.prm 0)) || d.isReady (fnUs (rq.prm 0))) = true →
      Completes (.ptpTcSet t rq) s ((d.modSlice (rq.prm 0) fun x =>
        { x with ptp :=
          { ds := (rq.prm 1).testBit 19, us := (rq.prm 1).testBit 18, l2 := (rq.prm 1).testBit 17,
            udp4 := (rq.prm 1).testBit 16, udp6 := (rq.prm 1).testBit 15, mask := rq.prm 1 / 2 ^ 11 % 16 } }).answer rq 0x0C15 {})) ∧
    Completes (.timeSnapRead t) s { d with time := { d.time with snap := d.devLin.toNat, frcSnap := d.time.frcNs * 65536 } } ∧
    (∀ v : Dword, Completes (.timeStatusWrite t v) s
      { d with time := { d.time with ppsGlitch := d.time.ppsGlitch && !v.getLsbD 6 } })

/-- Device time and the clock inputs (R338, R350, R358, R359, R360, R364, R365, Table 12.3): what each event of the timebase does when its
condition holds. -/
def Obligations.TimeEventsComplete : Prop :=
  ∀ (s : State) (t : Nat), let d := s.dev.begin t
    (∀ sec : Nat, d.timeOn = true → d.time.todSec = some sec → d.time.ppsAt + Config.ms ≤ d.now →
      Completes (.todOutSend t) s { d with time := { d.time with todSec := none }, outs := d.outs ++ [.tod (todRate d.time.pps.rate) (serial8N1 (d.todMessage sec))] }) ∧
    (d.time.ppsOut = true → d.time.ppsAt + d.time.pps.widthNs * Config.ns ≤ d.now →
      Completes (.ppsOutPulseEnd t) s { d with time := { d.time with ppsOut := false }, outs := d.outs ++ [.pps false] }) ∧
    (∀ frac : Nat, d.timeOn = true → let frc := d.frcLin + frac % 65536 / 512 * 512
      ((∃ l, d.time.ppsInLast = some l ∧ (frc : Int) - l < 100000000 * 65536) →
        Completes (.ppsInEdge t frac) s ((d.modTime fun x => { x with ppsGlitch := true }).bump .ppsIgnored 0 0)) ∧
      ((∀ l, d.time.ppsInLast = some l → 100000000 * 65536 ≤ (frc : Int) - l) →
        Completes (.ppsInEdge t frac) s ((d.modTime fun x =>
          let y := { x with
            ppsIn := x.ppsIn.set 0 (x.ppsInNext % 16) (x.devOf frc).toNat
            ppsInNext := (x.ppsInNext + 1) % 16
            ppsInLast := some frc }
          if x.source = 2 then y.noteOffset (ppsOffset (x.devOf frc).toNat) else y).bump .ppsAccepted 0 0))) ∧
    (d.time.source = 1 → (d.tree d.srcTree).time.lastValid + Config.sec ≤ d.now →
      Completes (.timeSourceHoldover t) s { d with time := { d.time with holdover := true } }) ∧
    (∀ i : Fin 2, d.refValid i.val = true → d.ao.refActive = i.val → d.ao.refHoldover = false → d.refValid (1 - i.val) = true →
      Completes (.refInputLost t i) s
        ({ d with ao := { d.ao.setRef i.val false with refActive := 1 - i.val } }.raise qPower 0x0D 2 i.val [1 - i.val, 0])) ∧
    (∀ i : Fin 2, d.refValid i.val = true → d.ao.refActive = i.val → d.ao.refHoldover = false → d.refValid (1 - i.val) = false →
      Completes (.refInputLost t i) s
        ({ d with ao := { d.ao.setRef i.val false with refHoldover := true, refLostAt := d.now, refUnc := false } }.raise
          qPower 0x0D 2 i.val [i.val, 1])) ∧
    (d.ao.refHoldover = true → d.ao.refUnc = false → d.ao.refLostAt + Config.ms ≤ d.now →
      Completes (.refHoldoverUncertain t) s
        ({ d with
            ao := { d.ao with
              refUnc := true
              saved := if d.timeOn then d.ao.saved else { d.ao.saved with uncertain := true, armed := true } }
            time := { d.time with
              uncertain := true, armed := true
              errNs := some (40 + cdiv ((d.now - d.ao.refLostAt) / Config.ns) 1000000) } }.raise qTime 0x0C 1 0 [])) ∧
    (∀ i : Fin 2, d.refValid i.val = false → d.ao.refHoldover = true → d.ao.refUnc = true →
      Completes (.refInputRestored t i) s
        ({ d with
            ao := { d.ao.setRef i.val true with refActive := i.val, refHoldover := false, refUnc := false }
            time := { d.time with errNs := some (40 + cdiv ((d.now - d.ao.refLostAt) / Config.ns) 1000000) } }.raise
          qPower 0x0D 2 i.val [i.val, 0])) ∧
    (d.ao.fallback = false →
      Completes (.aoFallbackSwitch t) s
        ({ d with ao := { d.ao with
            fallback := true
            saved := if d.timeOn then d.ao.saved else { d.ao.saved with switched := true } } }.raise qPower 0x0D 1 0 [1])) ∧
    (d.ao.fallback = true →
      Completes (.aoCrystalRestored t) s
        ({ d with ao := { d.ao with
            fallback := false
            saved := if d.timeOn then d.ao.saved else { d.ao.saved with switched := true } } }.raise qPower 0x0D 1 0 [0])) ∧
    (d.timeOn = true → d.time.pulse < d.time.second →
      Completes (.wholeSecond t 0 []) s (d.modTime fun x => { x with pulse := x.second }).servo.ppsRise)

/-- Power commands (R369, R380, R382, R388, Tables 13.7 to 13.10, 13.13): a command that no check refuses has its effect; of an entry, that it
begins and is answered once it ends, that an owner refuses it, or that a need of the same instant ends it. -/
def Obligations.PowerCommandsComplete : Prop :=
  ∀ (s : State) (t : Nat) (rq : Req), let d := s.dev.begin t
    (Accepted d rq 2 [0] → rq.prm 0 ≤ 126 → rq.prm 1 ≤ 2 →
      let e := d.modDom (rq.prm 0) fun x => { x with policy := rq.prm 1 }
      Completes (.powerPolicySet t rq) s
        ((if rq.prm 1 = 1 ∨ rq.prm 1 = 2 ∧ (d.dom (rq.prm 0)).st = 2 then e.wake (rq.prm 0) causeHost else e).answer rq 0x0D10 {})) ∧
    (Accepted d rq 2 [0] → rq.prm 0 ≤ 126 → rq.prm 1 = 0 →
      Completes (.powerEnter t rq) s ((d.wake (rq.prm 0) causeHost).answer rq 0x0D11 {})) ∧
    (Accepted d rq 2 [0] → rq.prm 0 ≤ 126 → rq.prm 1 = 1 ∨ rq.prm 1 = 2 → let p := rq.prm 0
      ((d.dom p).st = rq.prm 1 → Completes (.powerEnter t rq) s (d.answer rq 0x0D11 {})) ∧
      ((d.dom p).st = 3 → Completes (.powerEnter t rq) s (d.answer rq 0x0D11 { code := .busy })) ∧
      ((d.dom p).st ≠ rq.prm 1 → (d.dom p).st ≠ 3 →
        let e := if rq.prm 1 = 1 ∧ (d.dom p).st = 2 then d.wake p causeHost else d
        (d.neededNow p = true → Completes (.powerEnter t rq) s ((d.entryLost p).answer rq 0x0D11 { code := .aborted, detail := 0x10 })) ∧
        (d.neededNow p = false → e.refusers p (rq.prm 1) true = [] →
          Completes (.powerEnter t rq) s (((e.beginEntry p (rq.prm 1)).modDom p fun x => { x with asker := some (rq.mb.val, rq.tag) }).answer rq 0x0D11
            { later := true })) ∧
        (∀ r rs, d.neededNow p = false → e.refusers p (rq.prm 1) true = r :: rs →
          Completes (.powerEnter t rq) s ((e.refuse p (r :: rs)).answer rq 0x0D11 { code := .refused, detail := rs.foldl min r })))) ∧
    (Accepted d rq 0 [0] →
      Completes (.powerStatus t rq) s (d.answer rq 0x0D12
        { results :=
            resWords ((List.range 127).map fun p => (d.dom p).word) ++
            resWords ((List.range 49).flatMap fun g => (d.pwr.wakes.get {} g).words) })) ∧
    (Accepted d rq 1 [0] → rq.prm 0 ≤ 126 →
      Completes (.refusalRead t rq) s (d.answer rq 0x0D13
        { results :=
            (List.range 20).flatMap fun r =>
            resWide 48 (d.count .pdRefused (rq.prm 0) (r + 1)).val.toNat ++
            resWide 48 (d.count .pdAborted (rq.prm 0) (r + 1)).val.toNat })) ∧
    (Accepted d rq 3 [0] → rq.prm 0 ≤ 7 →
      Completes (.seqCfgSet t rq) s ((d.modPwr fun w =>
        { w with
          seqNext := w.seqNext.set none (rq.prm 0)
            (some { dsRatio := rq.prm 1 / 2 ^ 14 % 64, dsIdle := rq.prm 1 / 2 ^ 7 % 128, usIdle := rq.prm 1 % 128,
                    ltxGap := rq.prm 2 / 2 ^ 10 % 1024, ltxOff := (rq.prm 2).testBit 9 }) }).answer rq 0x0D14 {})) ∧
    (Accepted d rq (10 + 2 * rq.bits 9 6 0) [0] → 100 ≤ rq.bits 0 11 9 → rq.bits 0 11 9 ≤ 1600 → rq.bits 0 7 2 ≤ 64 →
      rq.bits 9 6 0 ≤ 32 →
      (∀ r, r < rq.bits 9 6 0 → rq.bits (10 + 2 * r) 5 0 ≠ 0 ∧ rq.bits (10 + 2 * r) 5 0 ≤ 20) →
      Completes (.budgetCfgSet t rq) s ((d.modPwr fun w =>
        { w with
          cfgNext := some
            ({ pLimit := rq.bits 0 11 9, eFallback := rq.bits 0 7 2, rails := rq.bits 9 6 0,
               weight := (List.range 8).foldl (fun m n => m.set 16 n (rq.bits (1 + n) 8 12)) [] },
             (List.range (rq.bits 9 6 0)).foldl (fun m r => m.upd {} r fun x =>
               { x with
                 addr := rq.bits (10 + 2 * r) 7 13, page := rq.bits (10 + 2 * r) 8 5, supply := rq.bits (10 + 2 * r) 5 0
                 iLimit := rq.prm (11 + 2 * r) }) d.pwr.railCh) }).answer rq 0x0D15 {})) ∧
    (Accepted d rq 0 [0] →
      Completes (.budgetStatus t rq) s (d.answer rq 0x0D16
        { results :=
            resWide 20 (d.pwr.last.getD 0 0) ++ resWide 20 d.pwr.cal ++
            ((List.range 8).flatMap fun n =>
              resWide 20 (d.pwr.last.getD (1 + 3 * n) 0) ++ resWide 20 (d.pwr.last.getD (2 + 3 * n) 0) ++
              resWide 20 (d.pwr.last.getD (3 + 3 * n) 0) ++ resWide 20 (d.pwr.escale.get {} n).eBudget) ++
            ((List.range d.pwr.cfg.rails).flatMap fun r =>
              resWide 20 (d.pwr.railCh.get {} r).iNow ++ resWide 20 (d.pwr.railCh.get {} r).mv) ++
            resWide 20 d.pwr.fallback.toNat })) ∧
    (∀ (p : Fin 127) (v : Dword), v.getLsbD 15 = true →
      Completes (.pdStatusWrite t p v) s (d.modDom p.val fun x => { x with woke := false })) ∧
    (∀ (p : Fin 127) (v : Dword), v.getLsbD 15 = false → Completes (.pdStatusWrite t p v) s d)

/-- Power domains and rails between commands (R367 to R369, R373 to R375, R480, Tables 13.3 to 13.6): an entry that nothing refuses, one that
is refused or lost to a need of the same instant, its end, an entry that a dependency aborts, a scheduled exit, a wake, a lane leaving power-down, the PCIe link and a core rail.
That a lane's driver is up when its power-up begins is the model's (log entry 31). -/
def Obligations.PowerEventsComplete : Prop :=
  ∀ (s : State) (t : Nat), let d := s.dev.begin t
    (∀ (p : Fin 127) (g : Fin 3), g.val ≠ 0 → stateAllowed p.val g.val = true → (d.dom p.val).st ≠ 3 → (d.dom p.val).st ≠ 2 →
      (d.dom p.val).st ≠ g.val → (g.val = 1 → ∀ n < 8, p.val = pdBarrow n → d.barrowBuilt n = true) →
      d.seqWants p.val g.val = true →
      (d.neededNow p.val = true → Completes (.pdEntry t p g) s
        ((d.modDom p.val fun x => { x with lastRef := 0x10 }).bump .pdAborted p.val 0x10)) ∧
      (d.neededNow p.val = false → d.refusers p.val g.val false = [] →
        let e := match (if g.val = 2 then tablesSlice p.val else none) with
          | some n => d.wake (55 + n) causeTraffic
          | none => d
        Completes (.pdEntry t p g) s (e.setDom p.val fun x =>
          { x.settle e.devNs with leftSt := (x.settle e.devNs).st, st := 3, target := g.val })) ∧
      (∀ r rs, d.neededNow p.val = false → d.refusers p.val g.val false = r :: rs →
        Completes (.pdEntry t p g) s (((r :: rs).foldl (fun d r => d.bump .pdRefused p.val r) d).modDom p.val fun x =>
          { x with lastRef := (r :: rs).foldl min 255 }))) ∧
    (∀ p : Fin 127, (d.dom p.val).st = 3 → (d.dom p.val).target = 1 → p.val ≠ 1 → d.refusers p.val 1 (d.dom p.val).asker.isSome = [] →
      Completes (.pdEntryComplete t p) s ((d.modDom p.val fun x =>
        { x.settle d.devNs with
          st := x.target, target := 0, stopAt := d.now, entries := min 1023 ((x.settle d.devNs).entries + 1) }).entryAnswer p.val {})) ∧
    (∀ p : Fin 127, (d.dom p.val).st = 3 → (d.dom p.val).target = 2 → d.refusers p.val 2 (d.dom p.val).asker.isSome = [] →
      Completes (.pdEntryComplete t p) s ((d.endEntry p.val).lostAtOff p.val)) ∧
    (∀ (p : Fin 127) (r : Nat) (rs : List Nat), (d.dom p.val).st = 3 → (d.dom p.val).target ≠ 0 →
      d.refusers p.val (d.dom p.val).target (d.dom p.val).asker.isSome = r :: rs →
      let e := (r :: rs).foldl (fun d r => d.bump .pdAborted p.val r) d
      Completes (.pdEntryComplete t p) s ((e.setDom p.val fun x =>
        { x.settle e.devNs with st := 0, target := 0, lastRef := (r :: rs).foldl min 255 }).entryAnswer p.val
          { code := .aborted, detail := (r :: rs).foldl min 255 })) ∧
    (∀ p : Fin 127, (d.dom p.val).st = 1 ∨ (d.dom p.val).st = 2 → d.exitDue p.val = true →
      let e := d.wakeOthers p.val causePitch
      Completes (.pdScheduledExit t p) s ((e.modDom p.val fun x =>
        { x.settle e.devNs with leftSt := x.st, st := 3, target := 0 }).wakeBegins p.val causePitch ((d.dom p.val).st == 2))) ∧
    (∀ p : Fin 127, (d.dom p.val).st = 3 → (d.dom p.val).target ≠ 0 → d.exitDue p.val = true →
      Completes (.pdScheduledExit t p) s (d.wakeNow p.val causePitch)) ∧
    (∀ p : Fin 127, (d.dom p.val).st = 3 → (d.dom p.val).target = 0 → p.val ≠ (d.wake p.val 0).idleHalf → p.val ≠ 5 →
      Completes (.pdWakeComplete t p true) s (d.wake p.val 0)) ∧
    (∀ l : Fin 512, d.laneNeeded l.val = true →
      Completes (.lanePowerupComplete t l) s (d.modTx l.val fun x => { x with powered := true })) ∧
    (∀ st : Fin 4, let e := fun l => ({ d with host := { d.host with linkL0 := l } } : Dev)
      (d.host.perst = false → st.val = 1 → Completes (.pcieLinkStateChange t st) s ((e 1).wake 4 causeHost)) ∧
      (d.host.perst = false → st.val = 2 → (d.dom 4).st ≠ 1 → Completes (.pcieLinkStateChange t st) s (((e 2).beginEntry 4 1).endEntry 4)) ∧
      (d.host.perst = true → (d.dom 4).st ≠ 2 → Completes (.pcieLinkStateChange t st) s (((e 0).beginEntry 4 2).endEntry 4))) ∧
    (∀ east : Bool, ∀ mv ch : Nat, d.isReady 0 = true → 650 ≤ mv → mv ≤ 750 →
      (let cur := if east then d.pwr.avsE else d.pwr.avsW
       mv ≤ cur + 5 ∧ cur ≤ mv + 5 ∧ (if east then d.pwr.avsAtE else d.pwr.avsAtW) + 3600 * Config.sec ≤ d.now) →
      d.coreChannel east = some ch →
      Completes (.avsAdjust t east mv) s ((d.modPwr fun w =>
        if east then { w with avsE := mv, avsAtE := d.now } else { w with avsW := mv, avsAtW := d.now }).out (.railSet ch mv)))

/-- The budget and heat (R140, R276, R277, R384 to R388): the controller's run, a rail's reading and its silence, the boundary of a budget
frame, the thermal trip and its end.
The instants at which a suspension begins and ends are the model's reading (log entry 84); the target of `power_enter` too (log entry 41). -/
def Obligations.BudgetEventsComplete : Prop :=
  ∀ (s : State) (t : Nat), let d := s.dev.begin t
    (∀ (model : List (Nat × Nat)) (shared : Nat), d.host.fw.running = true → d.host.fw.swapping = false →
      let cal : ℚ := d.pwr.cal / 4096
      let pool : ℚ := (List.range d.pwr.cfg.rails).foldl (fun (a : ℚ) r =>
        let c := d.pwr.railCh.get {} r
        if c.iLimit ≠ 0 ∧ c.iLimit < c.iNow then a * c.iLimit / c.iNow else a) (d.pwr.cfg.pLimit * 125 - cal * shared)
      let lo : Nat → ℚ := fun n => cal * (model.getD n (0, 0)).1
      let hi : Nat → ℚ := fun n => cal * (model.getD n (0, 0)).2
      let spare : ℚ := max 0 (pool - ((List.range 8).map lo).sum)
      let share : Nat → ℚ := fun n => spare * d.pwr.cfg.weight.get 16 n / ((List.range 8).map fun n => d.pwr.cfg.weight.get 16 n).sum
      let e := d.modPwr fun w => { w with last := ⌊pool⌋₊ :: (List.range 8).flatMap fun n => [⌊lo n⌋₊, ⌊hi n⌋₊, ⌊share n⌋₊] }
      Completes (.budgetControllerRun t model shared) s (if d.devNs % 125000 ≤ 115000 then e.modPwr fun w =>
        { w with escale := (List.range 8).foldl (fun m n => m.upd {} n fun x =>
            { x with newBudget := some (if hi n - lo n ≤ share n then 64 else ⌊64 * share n / (hi n - lo n)⌋₊) }) w.escale } else e)) ∧
    (∀ (ch : Fin 32) (cur mv : Nat), ch.val < d.pwr.cfg.rails →
      Completes (.railRead t ch cur mv) s (d.modPwr fun w =>
        { w with railCh := w.railCh.upd {} ch.val fun x =>
          { x with
            accE := x.accE + x.iNow * x.mv * (d.now - x.lastAt), lastAt := d.now, readAt := d.now, iNow := cur, mv := mv, late := false
            iMax := max x.iMax cur } })) ∧
    (∀ ch : Fin 32, ch.val < d.pwr.cfg.rails → (d.pwr.railCh.get {} ch.val).late = false →
      (d.pwr.railCh.get {} ch.val).readAt + 10 * Config.ms ≤ d.now →
      Completes (.railReadTimeout t ch) s ((d.modPwr fun w =>
        { w with railCh := w.railCh.upd {} ch.val fun x => { x with late := true } }).raise qPower 0x0D 4 ch.val [])) ∧
    (∀ temps : List Nat, d.timeOn = true → d.devNs / 125000 ≠ d.pwr.bFrame →
      let e := (((d.sense temps).hotTrip.budgetSettings).scale).suspension
      let f := e.forEach (List.range 8) fun n d =>
        let d := if d.pwr.eCap < 64 then d.bump .framesCapped n 0 else d
        let d := if d.pwr.suspended then d.bump .framesSuspended n 0 else d
        d.modBuf n fun b => { b with queues := b.queues.mapV {} fun _ q => q.refill (d.eNumOf n) }
      Completes (.budgetFrameBoundary t temps) s (f.modPwr fun w =>
        { w with bFrame := f.devNs / 125000 })) ∧
    (∀ temps : List Nat, (d.sense temps).pwr.trip = false → 120 ≤ (d.sense temps).maxTemp →
      Completes (.thermalTrip t temps) s (((d.sense temps).modPwr fun w => { w with trip := true }).forEach (List.range 64) fun k d =>
        if (d.tree k).pitches.any fun p => p.phase == 3 then (d.trip (portOfTree k) tripThermal).cutStarted k else d)) ∧
    (∀ temps : List Nat, (d.sense temps).maxTemp < 120 → Completes (.thermalTrip t temps) s (d.sense temps)) ∧
    (d.pwr.trip = true → heldFor d.pwr.below115 Config.sec d.now = true →
      Completes (.thermalTripClear t) s { d with pwr := { d.pwr with trip := false } })

/-- Supplies, the boot ROM and readiness (R340, R390 to R397, R439, R480, R484, R485): each start, each attempt and wait of the boot ROM, the firmware's
first report, a function's initialisation, and the host's resets.
What a start keeps, and which functions can fail, is the model's reading (log entries 43 and 82). -/
def Obligations.BootSequenceCompletes : Prop :=
  ∀ (s : State) (t : Nat), let d := s.dev.begin t
    (s.dev.pwr.aoDown = true ∨ s.dev.ao.cold = false →
      Completes (.aoColdStart t) { s with log := {} }
        { now := d.now, free := d.free, outs := d.outs, flashA := d.flashA, flashB := d.flashB
          host := { perst := d.host.perst, slots := d.host.slots }, vault := { fuses := d.vault.fuses }
          ao := { cold := true }, time := { uncertain := true, armed := true, errNs := none }
          mems := (List.range 8).foldl (fun m n => m.set {} n (Stack.start {} d.now)) []
          evPend := [{ queue := 112, source := 0x0C, code := 1, object := 0, detail := [], time := 0 }] } ∧
      exec (.aoColdStart t) s = exec (.aoColdStart t) { s with log := {} }) ∧
    (∀ rail : Fin 21, 0 < rail.val → rail.val < 19 → d.pwr.railsOk = true →
      Completes (.railExcursion t rail) s
        (if rail.val = 17 then d.railsLost.modPwr fun w => { w with vddio := false } else d.railsLost)) ∧
    (∀ rail : Fin 21, 19 ≤ rail.val → d.pwr.railsOk = true →
      Completes (.railExcursion t rail) s (d.railsLost.modPwr fun w => { w with aoDown := true })) ∧
    (s.dev.pwr.railsOk = false → s.dev.pwr.aoDown = false →
      exec (.mainRailsRestored t) s = .next (finish { s with log := {} } d.mainRestored)) ∧
    (d.host.perst = true → d.pwr.railsOk = true → d.host.boot.started = false →
      Completes (.perstRelease t) s (({ d with host := { d.host with perst := false } } : Dev).bootBegin false)) ∧
    (∀ x : FwImage, d.host.boot.started = true → d.pwr.railsOk = true → d.host.fw.running = false →
      d.host.boot.stage = 1 → d.host.boot.tried = 0 → x.image.length ≤ 25165824 → x.digest = (sha384 (x.image ++ x.blob)).toNat →
      x.signer = d.vault.fuses.vendorKey → x.signed = (x.digest, x.svn) → d.vault.fuses.minSvn ≤ x.svn →
      let mi := (sha384 x.image).toNat
      let mb := (sha384 x.blob).toNat
      Completes (.bootAttempt t (.found x)) s
        (({ d with
            host := { d.host with
              boot := { d.host.boot with attempts := min (2 ^ 20 - 1) (d.host.boot.attempts + 1) }
              slots := d.host.slots.set {} 0
                { present := true, digest := x.digest, image := mi, blob := mb, svn := x.svn, anchors := x.anchors } }
            vault := { d.vault with
              mr1 := some mi, mr2 := some mb, mr4 := d.vault.mr4 ++ [mi], runSvn := x.svn, anchors := x.anchors } } : Dev).bootStep
          fun b => { b with resSlot0 := 1, source := 0, stage := 5, posted := b.posted })) ∧
    (∀ src : ImageTry, d.host.boot.started = true → d.pwr.railsOk = true → d.host.fw.running = false →
      d.host.boot.stage = 3 → d.host.boot.tried = 2 → d.host.boot.posted = false →
      Completes (.bootAttempt t src) s (d.bootStep fun b =>
        { b with resHost := 2, stage := 4, tried := 0, waitS := Config.bootWait b.waits, waits := b.waits + 1 })) ∧
    (d.host.boot.stage = 4 → d.host.boot.stageAt + d.host.boot.waitS * Config.sec ≤ d.now →
      Completes (.bootWaitExpiry t) s (d.bootStep fun b => { b with stage := 1, waitS := 0, tried := 0 })) ∧
    (d.host.boot.stage = 5 → d.host.boot.recBad = false → d.now < d.host.boot.stageAt + 2 * Config.sec →
      Completes (.firmwareRunning t) s (((d.bootStep fun b => { b with stage := 6, waits := 0, recBad := false }).modFw fun f =>
        { f with running := true }).halfOff d.idleHalf)) ∧
    (d.host.boot.stage = 5 → d.host.boot.stageAt + 2 * Config.sec ≤ d.now →
      Completes (.firmwareStartTimeout t) s (d.bootStep fun b =>
        { ((b.setResult b.source 6).nextSource b.source) with source := 3 })) ∧
    (∀ f : Fin 43, f.val ≠ 0 → d.host.fw.running = true → d.isReady f.val = false → (d.readyW f.val).st ≠ 2 →
      (∃ n < 8, d.noRank n = true ∧ (f.val = fnDs n ∨ f.val = fnUs n)) →
      Completes (.functionReady t f true) s (d.setReady f.val { st := 2, reason := 5 })) ∧
    (∀ f : Fin 43, f.val ≠ 0 → d.host.fw.running = true → d.isReady f.val = false → (d.readyW f.val).st ≠ 2 →
      (∀ n < 8, f.val = fnDs n ∨ f.val = fnUs n → d.noRank n = false) →
      Completes (.functionReady t f true) s
        ({ d with host := { d.host with initDone := d.host.initDone.set false f.val true } } : Dev).settleReady) ∧
    (∀ f : Fin 43, 3 ≤ f.val → f.val < 11 → d.host.fw.running = true → d.isReady f.val = false → (d.readyW f.val).st ≠ 2 →
      Completes (.functionReady t f false) s (d.setReady f.val { st := 2, reason := 3 }).settleReady) ∧
    (d.host.fw.running = true → d.isReady 2 = false → (d.readyW 2).st ≠ 2 → Completes (.functionReady t 2 false) s d.vaultFailed) ∧
    (d.host.perst = false →
      Completes (.perstAssert t) s (({ d with host := { d.host with perst := true } } : Dev).pcieLink 0).hostReset) ∧
    (d.host.perst = false → Completes (.functionLevelReset t) s d.hostReset) ∧
    (d.host.fw.running = false →
      Completes (.hostImgPost t 1) s (d.modBoot fun b => { b with posted := true })) ∧
    (d.recDirty = true → d.host.fw.running = true → d.flashA = none →
      Completes (.persistentRecordWrite t) s { d with
        recDirty := false
        flashA := some ((((d.flashB.map (·.1)).getD 0) + 1) % 2 ^ 32, d.dtRecords, d.rankMaps) })

/-- Registration, the index page, vectors and registers (R8, R392, R398, R399, R402, R409, R413 to R420, Tables 14.8, 14.12, 14.14, 14.17). The layout of
`ring_set` and the reserved queues are the model's (log entry 36), so are the two bars of configuration space (log entry 37) and the counted
list of `echo` (log entry 26). -/
def Obligations.HostInterfaceCompletes : Prop :=
  ∀ (s : State) (t : Nat) (rq : Req), let d := s.dev.begin t
    (Accepted d rq 4 [0] → rq.prm 0 < 116 ∨ (128 ≤ rq.prm 0 ∧ rq.prm 0 < 144) → rq.raw 1 % 4 = 0 → isPow2 (rq.prm 3) 64 65536 = true →
      Completes (.eventQueueSet t rq) s ((d.modHost fun h => { h with evq := h.evq.upd {} (rq.prm 0) fun x =>
        { x with
          reg := true, addr := rq.raw 1 + rq.raw 2 * 2 ^ 32, entries := rq.prm 3
          idx := { x.idx with dev := 0, host := 0 } } }).answer rq 0x0E13 {})) ∧
    (Accepted d rq 4 [0] → rq.prm 0 < 116 ∨ (128 ≤ rq.prm 0 ∧ rq.prm 0 < 144) → rq.raw 1 % 4 = 0 → rq.prm 3 = 0 →
      Completes (.eventQueueSet t rq) s ((d.modHost fun h => { h with evq := h.evq.upd {} (rq.prm 0) fun x =>
        { x with reg := false, addr := 0, entries := 0 } }).answer rq 0x0E13 {})) ∧
    (Accepted d rq 7 [0] → rq.prm 0 = 0 → rq.prm 1 ≤ 63 → rq.raw 2 % 4096 = 0 → isPow2 (rq.prm 4) 64 4096 = true →
      256 ≤ rq.prm 5 → rq.prm 5 ≤ 10240 → rq.prm 5 % 64 = 0 → rq.prm 6 ≤ 255 → (d.rxRing (rq.prm 1)).reg = false →
      Completes (.ringSet t rq) s ((d.modRxRing (rq.prm 1) fun _ =>
        { reg := true, addr := rq.raw 2 + rq.raw 3 * 2 ^ 32, entries := rq.prm 4, bufSize := rq.prm 5, stallholder := rq.prm 6,
          idx := { (d.rxRing (rq.prm 1)).idx with dev := 0, host := 0 } }).answer rq 0x0E14 {})) ∧
    (Accepted d rq 8 [0] → rq.prm 7 ≤ 7 → (d.isReady (fnDs (rq.prm 7)) || d.isReady (fnUs (rq.prm 7))) = true →
      rq.prm 0 = 1 → rq.prm 1 ≤ 63 → rq.raw 2 % 4096 = 0 → isPow2 (rq.prm 4) 64 4096 = true →
      256 ≤ rq.prm 5 → rq.prm 5 ≤ 10240 → rq.prm 5 % 64 = 0 → rq.prm 6 ≤ 255 → (d.txRing (rq.prm 1)).reg = false →
      Completes (.ringSet t rq) s ((d.modTxRing (rq.prm 1) fun _ =>
        { reg := true, addr := rq.raw 2 + rq.raw 3 * 2 ^ 32, entries := rq.prm 4, bufSize := rq.prm 5, stallholder := rq.prm 6,
          slice := rq.prm 7, idx := { (d.txRing (rq.prm 1)).idx with dev := 0, host := 0 } }).answer rq 0x0E14 {})) ∧
    (Accepted d rq 2 [0] → rq.prm 0 ≤ 1 → rq.prm 1 ≤ 63 →
      Completes (.ringStop t rq) s
        ((if rq.prm 0 = 1 then d.modTxRing (rq.prm 1) fun x => { idx := x.idx } else d.modRxRing (rq.prm 1) fun x => { idx := x.idx }
          ).answer rq 0x0E15 {})) ∧
    (Accepted d rq (1 + rq.prm 0) [0] → rq.prm 0 ≤ 16 → Completes (.echo t rq) s (d.answer rq 0x0E17 { results := BitVec.ofNat 32 (rq.prm 0) :: rq.params.drop 1 })) ∧
    (Accepted d rq 1 [0] → rq.prm 0 ≤ 63 →
      Completes (.dmaRestart t rq) s ((d.modDma (rq.prm 0) fun x => { x with halted := false }).answer rq 0x0E16 {})) ∧
    (∀ (r : Fin 64) (idx : Nat) (addrs : List Nat), Completes (.rxBufferPost t r idx addrs) s (d.rxPost r.val idx addrs)) ∧
    (∀ (r : Fin 64) (idx : Nat),
      Completes (.txRingDoorbell t r idx) s (d.modTxRing r.val fun x =>
        { x with idx := { x.idx with host := if x.entries = 0 then idx % 2 ^ 32 else idx % (2 * x.entries) } })) ∧
    (∀ (q : Fin 256) (v : Dword),
      Completes (.queueHostIdxWrite t (0x800 + 16 * q.val) v) s (d.modHost fun h => { h with evq := h.evq.upd {} q.val fun x =>
        { x with idx := { x.idx with host := if x.entries = 0 then v.toNat % 2 ^ 32 else v.toNat % (2 * x.entries) } } })) ∧
    (∀ (q : Fin 256) (v : Dword), v.getLsbD 0 = true →
      Completes (.queueOvfClear t (0x800 + 16 * q.val) v) s (d.modHost fun h => { h with evq := h.evq.upd {} q.val fun x =>
        { x with idx := { x.idx with ovf := false } } })) ∧
    (∀ v : Dword, Completes (.registerWrite t 0 0x10 v) s (d.modBoot fun b => { b with imgAddrLo := v })) ∧
    (∀ (m : Fin 16) (i : Fin 1024) (v : Dword),
      Completes (.registerWrite t 2 (0x4000 * m.val + 4 * i.val) v) s (d.modMbox m.val fun x => { x with cmd := x.cmd.set 0 i.val v })) ∧
    (∀ v : Dword, Completes (.registerWrite t 7 0 v) s (d.modHost fun h =>
      { h with msix := { h.msix with enable := v.getLsbD 15, fmask := v.getLsbD 14 } })) ∧
    (∀ vec : Fin 2048, d.host.msix.enable = true → d.host.msix.due.get false vec.val = true → d.host.msix.isMasked vec.val = false →
      d.host.msix.last.get 0 vec.val = 0 ∨ d.host.msix.last.get 0 vec.val - 1 + 2 * Config.us ≤ d.now →
      Completes (.msixSignal t vec) s ((d.modHost fun h =>
        { h with
          msix := { h.msix with
            due := h.msix.due.set false vec.val false, pba := h.msix.pba.set false vec.val false
            last := h.msix.last.set 0 vec.val (d.now + 1) } }).out (.msix vec.val))) ∧
    (∀ v : Dword, Completes (.boardIrqWrite t v) s (d.modHost fun h =>
      { h with
        irq := { vault := h.irq.vault && !v.getLsbD 7, tree := h.irq.tree && !v.getLsbD 5, mem := h.irq.mem && !v.getLsbD 4 } })) ∧
    (∀ (m : Fin 16) (v : Dword), Completes (.mbStatusWrite t m v) s (d.modMbox m.val fun x =>
      { x with done := x.done && !v.getLsbD 18, dbIgnored := x.dbIgnored && !v.getLsbD 17 })) ∧
    (∀ (c : Fin 64) (cause : Fin 8), d.causeHolds cause.val = true → d.dmaHalted c.val = false →
      let e := (((d.modDma c.val fun x =>
        { halted := true, cause := cause.val, halts := min 65535 (x.halts + 1) }).due (729 + c.val)).raise qCtl 0x0E 3 c.val
          [cause.val]).haltUser c.val cause.val
      Completes (.dmaHalt t c cause) s (e.runTurns s.log e.host.turns)) ∧
    (∀ c : Fin 64, d.dmaHalted c.val = true → (d.host.dma.get {} c.val).cause = 6 → d.host.perst = false →
      Completes (.dmaAutoRestart t c) s (d.modDma c.val fun x => { x with halted := false })) ∧
    (∀ c : Fin 64, Completes (.dmaStatusRead t c) s (d.modDma c.val fun x => { x with halts := 0 }))

/-- The command path and the firmware (R399 to R408, R421 to R425, R434, Tables 14.2, 14.9, 14.10): a doorbell runs the command of its opcode, an
indirect command waits for its block, a command that rings behind one waits in its turn (R407; one order for all, log entry 135), and each
firmware command, load, handover and trap has its effect. The layout of `fw_status` is the model's (log entry 33). So are the codes of a failed
load (log entry 34), and the memory that a trap names (log entry 114). -/
def Obligations.CommandPathAndFirmwareComplete : Prop :=
  ∀ (s : State) (t : Nat) (rq : Req), let d := s.dev.begin t
    (∀ (m : Fin 16) (host : List (List Dword)) (c : Cmd), (d.mbox m.val).indirect = false → (d.mbox m.val).length ≤ 1021 →
      commandOf s.log (d.mbox m.val).opcode = some c →
      let params := (List.range (d.mbox m.val).length).map (d.mbox m.val).param
      let r : Req := { mb := m, tag := (d.mbox m.val).tag, params := params, host := host }
      (d.runsNow m.val = true →
        Completes (.mbDoorbell t m 1 host) s ((c r d).2.answer r (d.mbox m.val).opcode (c r d).1)) ∧
      (d.doorbellOk m.val = true → d.runsNow m.val = false →
        Completes (.mbDoorbell t m 1 host) s ((d.modHost fun h => { h with turns := h.turns.filter d.isHeld ++ [m.val] }).modMbox m.val fun x =>
          { x with
            busy := true
            fetching := some
              { opcode := (d.mbox m.val).opcode, tag := (d.mbox m.val).tag, addr := 0, len := (d.mbox m.val).length
                held := some (params, host) } }))) ∧
    (∀ (m : Fin 16) (host : List (List Dword)) (c : Cmd), d.doorbellOk m.val = true → (d.mbox m.val).indirect = true →
      (d.mbox m.val).length = 4 → commandOf s.log (d.mbox m.val).opcode = some c → d.dmaHalted m.val = false →
      let len := ((d.mbox m.val).param 2).toNat % 2 ^ 20
      1 ≤ len → len ≤ 65536 → ((d.mbox m.val).param 0).toNat % 4 = 0 →
      Completes (.mbDoorbell t m 1 host) s ((d.modHost fun h => { h with turns := h.turns.filter d.isHeld ++ [m.val] }).modMbox m.val fun x =>
        { x with
          busy := true
          fetching := some
            { opcode := (d.mbox m.val).opcode, tag := (d.mbox m.val).tag,
              addr := ((d.mbox m.val).param 0).toNat + ((d.mbox m.val).param 1).toNat * 2 ^ 32, len := len } })) ∧
    (∀ (m : Fin 16) (f : Fetching) (params : List Dword) (host : List (List Dword)) (c : Cmd), (d.mbox m.val).fetching = some f →
      f.held = none → d.dmaHalted m.val = false → commandOf s.log f.opcode = some c →
      let e := d.modMbox m.val fun x => { x with fetching := some { f with held := some (params.take f.len, host) } }
      let r : Req := { mb := m, tag := f.tag, params := params.take f.len, host := host }
      Completes (.indirectParamFetch t m true params host) s (e.runTurns s.log d.host.turns) ∧
      (∀ ms, d.host.turns = m.val :: ms →
        Completes (.indirectParamFetch t m true params host) s (((c r e).2.answer r f.opcode (c r e).1).runTurns s.log ms)) ∧
      (∀ n f' ms, d.host.turns = n :: ms → n ≠ m.val → (d.mbox n).fetching = some f' → f'.held = none →
        Completes (.indirectParamFetch t m true params host) s e)) ∧
    (Accepted d rq 0 [0] →
      Completes (.fwStatus t rq) s (d.answer rq 0x0E10
        { results :=
            resWords d.host.boot.words ++ resWide 2 d.host.boot.source ++
            ([0, 1].flatMap fun i => resWide 384 (d.host.slots.get {} i).digest) ++ resWide 1 d.host.fw.activeHalf ++
            resWide 3 d.host.fw.update ++ resWide 5 d.host.fw.faults.length ++
            (d.host.fw.faults.flatMap fun x => resWide 3 x.core ++ resWide 40 x.addr ++ resWide 64 x.devNs) })) ∧
    (Accepted d rq 5 [0] → rq.prm 0 ≤ 1 → rq.raw 1 % 4 = 0 → rq.prm 3 ≤ 63 → 1 ≤ rq.wide2 3 → rq.wide2 3 ≤ 33554432 →
      d.host.boot.source ≠ rq.prm 0 → d.host.fw.update = 0 → d.host.fw.loading = none →
      Completes (.fwLoad t rq) s (((d.modFw fun f => { f with loading := some (rq.prm 0) }).addJob rq 0x0E11).answer rq 0x0E11
        { code := .async })) ∧
    (Accepted d rq 1 [0] → d.isReady 2 = true → rq.prm 0 ≤ 1 → d.host.fw.update = 0 → d.host.fw.loading = none → d.anySecret = false →
      (d.wake 5 causeHost).isOn (d.wake 5 causeHost).idleHalf = true →
      Completes (.fwUpdate t rq) s ((((d.wake 5 causeHost).modFw fun f =>
        { f with update := 2, updSlot := rq.prm 0 }).addJob rq 0x0E12).answer rq 0x0E12 { code := .async })) ∧
    (∀ (j : Job) (k : Nat) (x : FwImage) (m : Fin 16) (tag : Word),
      (d.host.jobs.find? fun j => j.mb == m.val && j.tag == tag && (j.opcode == 0x0E11 || j.opcode == 0x0E12)) = some j →
      j.opcode = 0x0E11 → d.host.fw.loading = some k → d.dmaHalted 60 = false → x.verify d.vault.fuses = 1 →
      Completes (.asyncCompletion t m tag true (.found x)) s
        (((d.modHost fun h =>
          { h with
            slots := h.slots.set {} k
              { present := true, digest := x.digest, image := (sha384 x.image).toNat, blob := (sha384 x.blob).toNat,
                svn := x.svn, anchors := x.anchors } }).modFw fun f => { f with loading := none }).endJob j .ok)) ∧
    (∀ j : Job, d.devNs % 125000 = 0 → d.host.fw.swapping = false → d.host.fw.update = 2 →
      let x := d.snapSigned
      let e := (((x.vaultHandover (d.host.slots.get {} d.host.fw.updSlot)).swapHalves).modFw fun f => { f with update := 0 }).bootStep fun b =>
        { b with source := d.host.fw.updSlot }
      e.updateJob = some j → Completes (.fwHandover t) s (e.endJob j .ok)) ∧
    (∀ (core : Fin 8) (addr page : Nat) (sram : Option Bool), d.host.fw.running = true → d.host.fw.swapping = false →
      (∀ f ∈ d.host.fw.faults, f.page = page → f.time + Config.sec < d.now) →
      d.host.boot.source < 2 → (d.host.slots.get {} d.host.boot.source).present = true →
      let e := match sram with | some data => d.sramBad core.val (if data then 21 else 20) (addr / 32) | none => d
      let e := (e.modFw fun f =>
        { f with
          faults := lastN 16 (f.faults ++ [{ core := core.val, addr := addr, page := page, time := d.now, devNs := d.devNs }])
          memFault := f.memFault.set 0 core.val 0 }).raise qCtl 0x0E 4 core.val [addr / 2 ^ 20 % 2 ^ 20, addr % 2 ^ 20]
      Completes (.firmwareTrap t core addr page sram none true false) s (e.runTurns s.log e.host.turns))

/-- Counts, bandwidth windows, performance counters, the Moth and the event log (R443, R451, R453 to R456, R458, R463, R466, Tables 16.6, 16.7, 16.12).
That a `count_clear` of a block family clears the instance in every slice, and the layout that `event_log_read` writes, are the model's (log
entry 38). -/
def Obligations.ObserveCommandsComplete : Prop :=
  ∀ (s : State) (t : Nat) (rq : Req), let d := s.dev.begin t
    let up := rq.prm 0 ≤ 7 ∧ (d.isReady (fnDs (rq.prm 0)) || d.isReady (fnUs (rq.prm 0))) = true
    (Accepted d rq 3 [] → up → rq.prm 1 ≤ 255 → rq.prm 1 % 4 = 0 → rq.prm 2 = 0 →
      Completes (.countWindowSet t rq) s ((d.modObs (rq.prm 0) fun o => { o with window := rq.prm 1 * 2 ^ 20 }).answer rq 0x1010 {})) ∧
    (∀ c : CN, Accepted d rq 3 [0] → allCounts[rq.prm 0]? = some c → c.scope = .device → c.inBlocks = false →
      1 ≤ rq.prm 2 → rq.prm 1 + rq.prm 2 ≤ c.subs →
      Completes (.countClear t rq) s
        ((d.forEach (List.range (rq.prm 2)) fun j d => d.clearCount c ((rq.prm 1 + j) / c.subs) ((rq.prm 1 + j) % c.subs)).answer rq
          0x1011 {})) ∧
    (Accepted d rq 2 [] → up → rq.prm 1 ≤ 1000000 →
      Completes (.bwCfgSet t rq) s ((d.modObs (rq.prm 0) fun o => { o with bwNext := some (rq.prm 1) }).answer rq 0x1012 {})) ∧
    (Accepted d rq 17 [] → up → (∀ i < 16, (perfOf (rq.prm (1 + i))).badSel = false) →
      Completes (.perfCfgSet t rq) s ((d.modObs (rq.prm 0) fun o =>
        { o with
          perf := (List.range 16).foldl (fun m i => m.set {} i
            { event := rq.prm (1 + i) / 2 ^ 15 % 32, dir := rq.prm (1 + i) / 2 ^ 13 % 4, param := rq.prm (1 + i) / 2 ^ 10 % 8 }) []
        }).answer rq 0x1013 {})) ∧
    (Accepted d rq 2 [] → up → rq.prm 1 = 1 →
      Completes (.perfRead t rq) s ((d.modObs (rq.prm 0) fun o =>
        { o with perf := o.perf.mapV {} fun _ p => { p with wrap := false } }).answer rq 0x1014
        { results := (List.range 16).flatMap fun i =>
            resWide 48 ((d.slice (rq.prm 0)).obs.perf.get {} i).val ++
            resWide 1 ((d.slice (rq.prm 0)).obs.perf.get {} i).wrap.toNat })) ∧
    (Accepted d rq 8 [] → rq.prm 0 ≤ 7 → rq.prm 1 ≤ 1 → d.isReady (11 + 2 * rq.prm 0 + rq.prm 1) = true → rq.prm 4 ≤ 15 →
      rq.wideN 4 4 ≠ 0 →
      Completes (.mothCfgSet t rq) s ((d.modObs (rq.prm 0) fun o =>
        o.setMoth (if rq.flag 1 then .up else .down)
          { mothOf (rq.prm 2) (rq.prm 3) with lfsr := BitVec.ofNat 64 (rq.wideN 4 4) }).answer rq 0x1015 {})) ∧
    (Accepted d rq 2 [0] → d.dmaHalted rq.mb.val = false → rq.raw 0 % 4 = 0 →
      Completes (.eventLogRead t rq) s ((d.out (.dma rq.mb.val (rq.raw 0 + rq.raw 1 * 2 ^ 32)
        (resWide 40 s.log.next ++ [BitVec.ofNat 32 s.log.lost] ++ toDwords (s.log.entries.flatMap LogEntry.words)))).answer rq
        0x1016 {})) ∧
    (∀ n : Fin 8, Completes (.bwWindowEnd t n) s d ∧ (d.timeOn = true → d.devNs / d.bwNs n.val ≤ (d.slice n.val).obs.bwWin)) ∧
    (∀ (n : Fin 8) (e : Dev) (ns : Nat), let k := ns / e.bwNs n.val
      (k ≤ (e.slice n.val).obs.bwWin → e.passBw n.val ns = e) ∧
      ((e.slice n.val).obs.bwWin < k → e.passBw n.val ns = e.modObs n.val fun o => o.bwTo k))

/-- Tree slots, protection pairs and system ports (R19, R37, R39, R410 to R412): a configuration that no rule refuses takes effect.
The detail of the event is the model's (log entry 75). -/
def Obligations.TreeAndPortCommandsComplete : Prop :=
  ∀ (s : State) (t : Nat) (rq : Req), let d := s.dev.begin t
    (Accepted d rq 5 [27 + rq.prm 0 / 4] → rq.prm 0 ≤ 63 → rq.prm 1 ≤ 255 → rq.prm 2 ∈ [1, 2, 4, 8, 16] → rq.prm 3 ≤ 4095 →
      rq.prm 1 % 16 % rq.prm 2 = 0 → d.groupOverlaps (rq.prm 0) (rq.prm 1) (rq.prm 2) = false → rq.prm 1 / 16 = rq.prm 0 / 4 →
      (d.tree (rq.prm 0)).cfg.configured = false → d.testNear (rq.prm 1) (rq.prm 2) = false →
      let e := d.setTree (rq.prm 0)
        { cfg := { configured := true, first := rq.prm 1, size := rq.prm 2, expId := rq.prm 3 * 2 ^ 20 + rq.prm 4 },
          dt := (d.tree (rq.prm 0)).dt, pitches := (d.tree (rq.prm 0)).pitches.filter fun p => p.phase == 3
          il := (d.tree (rq.prm 0)).il.filter fun w =>
            (d.tree (rq.prm 0)).pitches.any fun p => p.phase == 3 && w.entry.frame == p.frame && w.entry.pid == p.pid }
      Completes (.treeConfigure t rq) s
        (((e.lanesUp (e.groupLanes (rq.prm 0))).raise (rq.prm 0) 0x01 1 (rq.prm 0) [0, 0]).answer rq 0x0110 {})) ∧
    (Accepted d rq 1 [27 + rq.prm 0 / 4] → rq.prm 0 ≤ 63 → (d.tree (rq.prm 0)).cfg.configured = true →
      (d.tree (rq.prm 0)).cfg.pair = none → Completes (.treeUnconfigure t rq) s ((d.unconfigure (rq.prm 0)).answer rq 0x0111 {})) ∧
    (Accepted d rq 2 [27 + rq.prm 0 / 4, 27 + rq.prm 1 / 4] → rq.prm 0 ≤ 63 → rq.prm 1 ≤ 63 →
      (d.tree (rq.prm 0)).cfg.configured = true → (d.tree (rq.prm 1)).cfg.configured = true →
      rq.prm 0 / 8 = rq.prm 1 / 8 → rq.prm 0 / 4 ≠ rq.prm 1 / 4 →
      (d.tree (rq.prm 0)).cfg.pair = none → (d.tree (rq.prm 1)).cfg.pair = none →
      Completes (.treePair t rq) s ((((((
        (d.modTree (rq.prm 0) fun x =>
          { x with
            cfg := { x.cfg with pair := some (rq.prm 1), working := true, selProtect := false, switching := none, differ := false } }
        ).modTree (rq.prm 1) fun x => { x with cfg := { x.cfg with pair := some (rq.prm 0), working := false } }
        ).commitDue (rq.prm 1)).closeMember (rq.prm 1)).openAll (rq.prm 0 / 8)).reselect (rq.prm 0)).answer rq 0x0112 {})) ∧
    (∀ o : Nat, Accepted d rq 1 [27 + rq.prm 0 / 4, 27 + o / 4] → rq.prm 0 ≤ 63 → o ≤ 63 → (d.tree (rq.prm 0)).cfg.configured = true →
      (d.tree (rq.prm 0)).cfg.pair = some o → (d.tree (rq.prm 0)).cfg.working = true →
      let off := fun x : Tree =>
        { x with cfg := { x.cfg with pair := none, working := false, selProtect := false, switching := none, differ := false } }
      Completes (.treeUnpair t rq) s
        ((((((((d.commitDue (rq.prm 0)).commitDue o).closeMember (rq.prm 0)).closeMember o).modTree (rq.prm 0) off).modTree o off).openAll (rq.prm 0 / 8)).answer rq
          0x0113 {})) ∧
    (Accepted d rq 5 [11 + 2 * (rq.prm 0 / 32), 12 + 2 * (rq.prm 0 / 32)] → rq.prm 0 ≤ 255 → rq.prm 1 ∈ [1, 2, 4, 8] → rq.prm 2 ≤ 3 →
      rq.prm 3 ≤ 1 → rq.prm 4 = 1 → (d.sysPort (rq.prm 0)).enabled = false → rq.prm 0 % 16 % rq.prm 1 = 0 →
      rq.prm 0 % 16 + rq.prm 1 ≤ 16 → ¬(rq.prm 2 = 3 ∧ rq.prm 1 = 1) → d.sysOverlaps (rq.prm 0) (rq.prm 1) = false →
      let e := (d.modSys (rq.prm 0) fun x =>
          { x with width := rq.prm 1, mode := rq.prm 2, training := rq.prm 3 == 1, enabled := true }).forEach
        (d.portLanes (rq.prm 0)) fun l d => d.laneDown l
      Completes (.sysPortSet t rq) s
        (((if (e.sysPort (rq.prm 0)).enabled then e.wakeFromOff (pdPipe (rq.prm 0 / 32) .up) causeHost else e).lanesUp
          (e.portLanes (rq.prm 0))).answer rq 0x0114 {}))

/-- Lane commands and the lane status page (R50, R52 to R66, R72, Tables 2.3, 2.9 to 2.13): the selector names the lane in bits 9 and 7 to 0 and the
transmitter in bit 8. That `lane_prbs` sets generator and checker together is the model's reading (log entry 74). -/
def Obligations.LaneCommandsComplete : Prop :=
  ∀ (s : State) (t : Nat) (rq : Req), let d := s.dev.begin t; let l := rq.prm 0 / 2 ^ 9 % 2 * 256 + rq.prm 0 % 256
    let rx := rq.prm 0 / 2 ^ 8 % 2 = 0
    let tx := rq.prm 0 / 2 ^ 8 % 2 = 1
    let w := d.wake ((laneDoms l).getD (if tx then 0 else 1) 0) causeHost
    (Accepted d rq 4 (laneNeed l true) → tx → rq.prm 2 ≤ 1 → rq.prm 3 ≤ 1 → 256 ≤ l → d.laneTrained l = false →
      let taps : Taps := { pre := rq.prm 1 / 2 ^ 15 % 2 ^ 5, main := rq.prm 1 / 2 ^ 9 % 2 ^ 6, post := rq.prm 1 / 2 ^ 3 % 2 ^ 6, source := 3 }
      (tapsOk taps.pre taps.main taps.post = true →
        Completes (.laneTxSet t rq) s (((w.modTx l fun x => { x with inv := rq.prm 3 == 1, precode := rq.prm 2 == 1, eq := taps }).changeTx l
          fun e => { e with inv := rq.prm 3 == 1 }).answer rq 0x0210 {})) ∧
      (tapsOk taps.pre taps.main taps.post = false →
        Completes (.laneTxSet t rq) s ((w.modTx l fun x => { x with eqRefused := min 1023 (x.eqRefused + 1) }).answer rq 0x0210
          { code := .refused, detail := 1 }))) ∧
    (Accepted d rq 4 (laneNeed l true) → tx → rq.prm 2 ≤ 1 → rq.prm 3 ≤ 1 → l < 256 ∨ d.laneTrained l = true →
      Completes (.laneTxSet t rq) s (((w.modTx l fun x => { x with inv := rq.prm 3 == 1 }).changeTx l
        fun e => { e with inv := rq.prm 3 == 1 }).answer rq 0x0210 {})) ∧
    (Accepted d rq 2 (laneNeed l false) → rx → rq.prm 1 / 2 ^ 12 % 4 ≠ 3 → rq.prm 1 / 2 ^ 10 % 4 ≠ 3 →
      let e := w.modRx l fun x =>
        { x with
          dfeMode := rq.prm 1 / 2 ^ 12 % 4, polMode := rq.prm 1 / 2 ^ 10 % 4, precode := rq.prm 1 / 2 ^ 9 % 2 == 1
          marginMin := max 1 (rq.prm 1 % 2 ^ 5)
          polInv := if rq.prm 1 / 2 ^ 10 % 4 = 1 then false else if rq.prm 1 / 2 ^ 10 % 4 = 2 then true else x.polInv }
      Completes (.laneRxSet t rq) s
        ((if rq.prm 1 / 2 ^ 12 % 4 = 1 then e.setDfe l true else if rq.prm 1 / 2 ^ 12 % 4 = 2 then e.setDfe l false else e).answer rq
          0x0211 {})) ∧
    (Accepted d rq 3 (laneNeed l (rq.prm 0 / 2 ^ 8 % 2 == 1)) → rq.prm 1 ≤ 9 → rq.prm 2 ≤ 1 → (7 ≤ rq.prm 1 → d.laneMode l ≠ 3) →
      (rq.prm 1 ≠ 0 → d.testable l = true) →
      let e := ((d.wakeAll (laneDoms l) causeHost).modTx l fun x => { x with pattern := rq.prm 1, cut := false }).modRx l fun x =>
        { x with
          pattern := rq.prm 1, loopback := rq.prm 2 == 1 && d.testable l, chkLock := false
          chkSymbols := 0, errSymbols := 0, errBits := 0, lockLoss := 0 }
      let f := match (if e.patternTest l ∧ 256 ≤ l then e.sysPortOfLane (l - 256) else none) with
        | some p => e.linkDown p
        | none => e
      let g := if rq.prm 1 = 0 then f else f.injectNow l
      Completes (.lanePrbs t rq) s ((if g.laneTest l then g.lanesUp [l] else g.laneDown l).answer rq 0x0212 {})) ∧
    (Accepted d rq 5 (laneNeed l true) → tx → rq.prm 1 ≤ 3 → (rq.prm 1 = 2 → rq.within 2 1 255) →
      (rq.prm 1 = 3 → 1 ≤ rq.prm 3 ∧ rq.prm 4 ≤ 15) →
      let e := w.modTx l fun x =>
        { x with
          inject := rq.prm 1, injLen := rq.prm 2, injN := rq.prm 3, injE := rq.prm 4, injCount := 0, injFrom := w.symbolNow l }
      Completes (.laneInject t rq) s ((if e.sending l then e.injectSet l else e).answer rq 0x0213 {})) ∧
    (Accepted d rq 9 (laneNeed l false) → rx → d.dmaHalted rq.mb.val = false → 1 ≤ rq.prm 1 →
      rq.prm 1 ≤ (if d.laneMode l = 3 then 1 else 7) → rq.prm 2 ≤ rq.prm 3 → rq.prm 3 ≤ 63 → rq.prm 4 ≤ rq.prm 5 → rq.prm 5 ≤ 127 →
      rq.prm 6 ≤ 5 → rq.raw 7 % 4 = 0 → d.scans.get none l = none →
      let j : Job := { mb := rq.mb.val, tag := rq.tag, opcode := 0x0214, params := rq.params.map (·.toNat), host := rq.host }
      let e : Dev := { d with
        scanQ := d.scanQ ++ [l], host := { d.host with jobs := d.host.jobs ++ [j] }
        scans := d.scans.set none l (some
          { mask := rq.prm 1, vLo := rq.prm 2, vHi := rq.prm 3, pLo := rq.prm 4, pHi := rq.prm 5, depth := rq.prm 6
            addr := rq.raw 7 + rq.raw 8 * 2 ^ 32, job := j }) }
      Completes (.laneEyeScan t rq) s ((e.lanesUp [l]).nextScan.answer rq 0x0214 { code := .async })) ∧
    (Accepted d rq 1 (laneNeed l false) → rx → d.scans.get none l ≠ none →
      Completes (.laneEyeAbort t rq) s ((d.endScan l 1 .aborted).answer rq 0x0215 {})) ∧
    (Accepted d rq 1 (laneNeed l (rq.prm 0 / 2 ^ 8 % 2 == 1)) →
      Completes (.laneStatus t rq) s (d.answer rq 0x0216
        { results :=
            toDwords [if tx then d.laneTxStatus l else d.laneRxStatus l, (d.txLane l).eq.word] ++ resWide 40 (d.rxLane l).chkSymbols ++
            resWide 40 (d.rxLane l).errSymbols ++ resWide 40 (d.rxLane l).errBits ++ resWide 20 (d.rxLane l).lockLoss })) ∧
    (∀ (l : Fin 512) (v : Dword), Completes (.laneRxStatusWrite t l v) s (d.modRx l.val fun x =>
      { x with openP := x.openP && !v.getLsbD 17, openN := x.openN && !v.getLsbD 16 })) ∧
    (∀ l : Fin 512, Completes (.laneTxStatusRead t l) s (d.modTx l.val fun x => { x with eqRefused := 0 })) ∧
    (∀ (l : Fin 512) (v : Dword), Completes (.laneTxStatusWrite t l v) s (d.modTx l.val fun x =>
      { x with shortSeen := x.shortSeen && !v.getLsbD 18 }))

/-- What happens to a lane (R45 to R47, R52 to R54, R58, R59, R63 to R70, R78, R79, R490, Tables 2.4, 2.8): recovery and loss of its clock and signal,
connection faults, the DFE, eye-scan points, block lock, the pattern checker and the link of a system port. The numbers of the faults in an
event's detail are the model's (log entry 22), and so is counting a checker's symbols at the loss of its lock (log entry 24). -/
def Obligations.LaneEventsComplete : Prop :=
  ∀ (s : State) (t : Nat), let d := s.dev.begin t
    (∀ l : Fin 512, (d.rxLane l.val).cdr = false → d.laneNeeded l.val = true → d.isOn ((laneDoms l.val).getD 1 0) = true →
      (d.rxLane l.val).openNow = 0 → (d.rxLane l.val).losNow = false →
      let e := d.modRx l.val fun x => { x with cdr := true, noSignal := false }
      Completes (.cdrLock t l) s
        { e with scans := e.scans.upd none l.val fun x => x.map fun x => { x with paused := false } }) ∧
    (∀ (l : Fin 512) (x : LaneTail), Completes (.lossOfSignal t l x) s
      (((if l.val < 256 ∧ (d.align l.val).st ≠ 0 then d.pmTail l.val x else d).noSignal l.val).losDeclare l.val)) ∧
    (∀ p : Fin 16, (d.port p.val).los = false →
      Completes (.losAsserted t p) s ((d.modPort p.val fun x => { x with los := true }).forEach (List.range 16) fun i d =>
        d.losDeclare (16 * p.val + i))) ∧
    (∀ p : Fin 16, (d.port p.val).los = true →
      Completes (.losCleared t p) s ((d.modPort p.val fun x => { x with los := false }).forEach (List.range 16) fun i d =>
        d.modRx (16 * p.val + i) fun x => if x.losNow then { x with losNow := false, noSignal := x.openNow != 0 } else x)) ∧
    (∀ (l : Fin 512) (leg : Fin 2) (x : LaneTail), (d.rxLane l.val).openNow.testBit leg.val = false →
      let e := ((d.lastTail l.val x).modRx l.val fun x =>
        { x with openNow := x.openNow + (leg.val + 1), openP := x.openP || leg.val == 0, openN := x.openN || leg.val == 1 }).noSignal l.val
      Completes (.rxOpenDetected t l leg x) s ((e.raise (e.laneQueue l.val) 0x02 3 l.val [1, leg.val]).bump .openFound l.val 0)) ∧
    (∀ (l : Fin 512) (leg : Fin 2), (d.rxLane l.val).openNow.testBit leg.val = true →
      Completes (.rxOpenCleared t l leg) s (((d.modRx l.val fun x =>
        { x with
          openNow := x.openNow - (leg.val + 1)
          noSignal := if x.openNow = leg.val + 1 && !x.losNow then false else x.noSignal }).raise
          (d.laneQueue l.val) 0x02 4 l.val [1, leg.val]).bump .openCleared l.val 0)) ∧
    (∀ l : Fin 512, (d.txLane l.val).short = false →
      Completes (.txShortDetected t l) s (((d.modTx l.val fun x => { x with short := true, shortSeen := true, shortOver := false }).raise
        (d.laneQueue l.val) 0x02 3 l.val [0]).bump .shortFound l.val 0)) ∧
    (∀ l : Fin 512, (d.txLane l.val).short = true →
      Completes (.txShortProbe t l true) s (((d.modTx l.val fun x => { x with short := false, shortOver := decide (l.val < 256) }).raise
        (d.laneQueue l.val) 0x02 4 l.val [0]).bump .shortCleared l.val 0)) ∧
    (∀ (l : Fin 512) (margin : Nat), l.val < 256 → (d.rxLane l.val).dfeMode = 0 → margin < (d.rxLane l.val).marginMin →
      (d.rxLane l.val).dfe = false →
      Completes (.dfeEngage t l margin) s ((((d.modRx l.val fun x => { x with margin := min margin 63 }).modRx l.val fun x =>
        { x with dfe := true }).raise (d.laneQueue l.val) 0x02 1 l.val []).bump .dfeEngaged l.val 0)) ∧
    (∀ (l : Fin 512) (x : EyeScan) (errors symbols : Nat), d.scans.get none l.val = some x → x.running = true → x.paused = false →
      (errors = 64 ∧ 64 ≤ symbols ∧ symbols ≤ 3 * 10 ^ (6 + x.depth) ∨ errors < 64 ∧ symbols = 3 * 10 ^ (6 + x.depth)) →
      x.clean.length + 1 < x.points →
      let e := d.out (.dma x.job.mb (x.addr + 12 * x.clean.length)
        (toDwords [errors, symbols / 2 ^ 20 % 2 ^ 20, symbols % 2 ^ 20]))
      Completes (.eyeScanPointDone t l errors symbols) s
        { e with scans := d.scans.set none l.val (some { x with clean := x.clean ++ [errors == 0] }) }) ∧
    (∀ (l : Fin 512) (x : EyeScan) (errors symbols : Nat), d.scans.get none l.val = some x → x.running = true → x.paused = false →
      (errors = 64 ∧ 64 ≤ symbols ∧ symbols ≤ 3 * 10 ^ (6 + x.depth) ∨ errors < 64 ∧ symbols = 3 * 10 ^ (6 + x.depth)) →
      x.clean.length + 1 = x.points →
      let e := d.out (.dma x.job.mb (x.addr + 12 * x.clean.length)
        (toDwords [errors, symbols / 2 ^ 20 % 2 ^ 20, symbols % 2 ^ 20]))
      Completes (.eyeScanPointDone t l errors symbols) s
        (Dev.endScan l.val 0 .ok
          { e with scans := d.scans.set none l.val (some { x with clean := x.clean ++ [errors == 0] }) })) ∧
    (∀ (l : Fin 512) (x : EyeScan), d.scans.get none l.val = some x → x.running = true → x.paused = true →
      x.lostAt + Config.sec ≤ d.now →
      Completes (.eyeScanLockTimeout t l) s (d.endScan l.val 1 .aborted)) ∧
    (∀ (l : Fin 256) (rejected : List (List (BitVec 2))) (headers : List (BitVec 2)), (d.rxLane l.val).cdr = true → (d.align l.val).st = 0 →
      (∀ r ∈ rejected, ∃ h ∈ r.take 1024, h = 0 ∨ h = 3) → 1024 ≤ headers.length → (∀ h ∈ headers.take 1024, h = 1 ∨ h = 2) →
      let n := (d.align l.val).cand + rejected.length
      let c := if (d.rxLane l.val).polMode = 1 then n % 2700 else if (d.rxLane l.val).polMode = 2 then 2700 + n % 2700 else n % 5400
      Completes (.blockLockGained t l (rejected ++ [headers])) s
        (((d.modAlign l.val fun a => { a with st := 1, cand := c, passes := 0, fails := 0 }).raise (d.laneQueue l.val) 0x03 1 l.val
          [1, 1]).setPol l.val (decide (2700 ≤ c)))) ∧
    (∀ (l : Fin 256) (last : List (BitVec 2)) (x : LaneTail), (d.align l.val).st ≠ 0 → last.length ≤ 1024 →
      16 ≤ (last.filter fun h => h == 0 || h == 3).length →
      Completes (.blockLockLoss t l last x) s (((d.pmTail l.val x).dropLocks l.val).losDeclare l.val)) ∧
    (∀ (l : Fin 512) (c : CheckTail), (d.rxLane l.val).pattern ≠ 0 → (d.rxLane l.val).chkLock = false →
      Completes (.checkerLock t l 0 c) s (d.modRx l.val fun x => { x with chkLock := true })) ∧
    (∀ (l : Fin 512) (errs : BitVec 64) (c : CheckTail), (d.rxLane l.val).chkLock = true →
      32 ≤ ((List.range 64).filter fun i => errs.getLsbD i).length →
      Completes (.checkerLockLoss t l errs c) s (d.modRx l.val fun x =>
        { x with
          chkLock := false
          chkSymbols := min (2 ^ 40 - 1) (x.chkSymbols + c.symbols), errSymbols := min (2 ^ 40 - 1) (x.errSymbols + c.errSyms)
          errBits := min (2 ^ 40 - 1) (x.errBits + c.errBits), lockLoss := min (2 ^ 20 - 1) (x.lockLoss + 1) })) ∧
    (∀ (p : Fin 256) (lanes : List LinkLane), (d.sysPort p.val).width ≠ 0 → (d.sysPort p.val).enabled = true →
      (d.sysPort p.val).up = false → (d.sysPort p.val).training = false → (d.portLanes p.val).any d.patternTest = false →
      (∀ e ∈ (d.portLanes p.val).zip (List.range 8), polAllows (d.rxLane e.1).polMode (lanes.getD e.2 {}).inv = true) →
      let e := ((d.modSys p.val fun x => { x with up := true, trained := false }).modEgress p.val fun e => { e with emptySince := d.now }).forEach
        ((d.portLanes p.val).zip (List.range 8)) fun (l, i) d =>
          ((d.cdrLock l).setPol l (lanes.getD i {}).inv).setShuffled l (lanes.getD i {}).moved
      Completes (.sysLinkUp t p false lanes) s (e.forEach (d.portLanes p.val) fun l d =>
        if (d.rxLane l).dfeMode = 0 then d.setDfe l true else d)) ∧
    (∀ p : Fin 256, (d.sysPort p.val).up = true →
      Completes (.sysLinkDown t p) s ((d.lpiWake p.val).modSys p.val fun x => { x with up := false }))

/-- Memory commands (R314, R326 to R331, R335, R337, R381, R404, Tables 11.2, 11.8, 11.9), on the block with the domain of the stack woken.
The sums of `mem_status` (log entry 15), the response of `scrub_start` (28) and the events of a retirement (29) are the model's reading. -/
def Obligations.MemoryCommandsComplete : Prop :=
  ∀ (s : State) (t : Nat) (rq : Req), let d := s.dev.begin t; let n := rq.prm 0; let w := d.wake (55 + n) causeHost
    n ≤ 7 → w.isReady (3 + n) = true →
    (Accepted d rq 4 [] →
      Completes (.memCfgSet t rq) s ((w.modStack n fun m =>
        { m with
          pri :=
            { pktWr := rq.prm 1 / 2 ^ 17 % 2 ^ 3, pktRd := rq.prm 1 / 2 ^ 14 % 2 ^ 3, spill := rq.prm 1 / 2 ^ 11 % 2 ^ 3,
              tables := rq.prm 1 / 2 ^ 8 % 2 ^ 3, hostDma := rq.prm 1 / 2 ^ 5 % 2 ^ 3, fw := rq.prm 1 / 2 ^ 2 % 2 ^ 3,
              scrub := rq.prm 2 / 2 ^ 17 % 2 ^ 3, ceLimit := max 1 (rq.prm 3) }
          priPast := m.priPast ++ [(w.now, m.pri)] }).answer rq 0x0B10 {})) ∧
    (Accepted d rq 1 [] →
      Completes (.memStatusCmd t rq) s (w.answer rq 0x0B11
        { results :=
            resWords (w.stack n).status ++
            ((List.range 4).flatMap fun r =>
              resWide 48 (w.count .ce n r).val.toNat ++ resWide 48 (w.count .ue n r).val.toNat ++
              resWide 48 (w.count .dieCorr n r).val.toNat ++ resWide 48 (w.count .poisonReads n r).val.toNat) ++
            ((List.range 7).flatMap fun p =>
              resWide 48 (w.count .rmw n p).val.toNat ++ resWide 48 (w.count .memReads n p).val.toNat ++
              resWide 48 (w.count .memWrites n p).val.toNat ++ resWide 48 (w.count .memSlots n p).val.toNat) ++
            resWide 48 ((List.range 4096).foldl (fun a i => a + (w.count .neighbourRef n i).val.toNat) 0 % 2 ^ 48) ++
            resWide 48 ((List.range 4096).foldl (fun a i => a + (w.count .throttles n i).val.toNat) 0 % 2 ^ 48) ++
            resWide 48 (w.count .migrations n 0).val.toNat ++ resWide 48 (w.count .shrinkages n 0).val.toNat ++
            resWide 48 (w.count .retiredBufs n 0).val.toNat ++ resWide 48 (w.count .sramCe n 0).val.toNat ++
            resWide 48 (w.count .sramUe n 0).val.toNat })) ∧
    (Accepted d rq 7 [] → rq.prm 1 ≤ 65535 → rq.wide2 1 % 32 = 0 → rq.prm 3 ≤ 65535 → rq.wide2 3 % 32 = 0 → 0 < rq.wide2 3 →
      rq.wide2 1 + rq.wide2 3 ≤ (if rq.prm 6 = 1 then rankBytes else 3 * rankBytes) → rq.prm 5 ≤ 1 → rq.prm 6 ≤ 1 →
      (rq.prm 6 = 1 → (w.stack n).map.spareValid = true) → (w.stack n).scrub = none →
      Completes (.scrubStart t rq) s (((w.modStack n fun m =>
        { m with
          scrub := some
            { start := rq.wide2 1, len := rq.wide2 3, wb := rq.prm 5 == 1, spare := rq.prm 6 == 1, mb := rq.mb.val,
              paused := (w.stack n).mig.isSome } }).addJob rq 0x0B12).answer rq 0x0B12 { code := .async })) ∧
    (∀ x : Scrub, Accepted d rq 1 [] → (w.stack n).scrub = some x →
      (x.back = none → Completes (.scrubAbort t rq) s ((w.endScrub n 1 .aborted).answer rq 0x0B13 { results := x.summary 1 })) ∧
      (∀ v, x.back = some v →
        Completes (.scrubAbort t rq) s ((w.modStack n fun m =>
          { m with scrub := m.scrub.map fun x => { x with stop := some (x.stop.getD 1), asker := some (rq.mb.val, rq.tag) } }).answer rq 0x0B13
            { later := true }))) ∧
    (Accepted d rq 2 [] → rq.prm 1 ≤ 2 → (w.stack n).map.inService (rq.prm 1) = true →
      (∀ g, (w.stack n).mig = some g → Completes (.rankMigrate t rq) s (d.answer rq 0x0B14 { code := .busy })) ∧
      ((w.stack n).mig = none → (w.stack n).map.spareValid = true →
        let e := (w.modStack n fun m =>
          { m with
            mig := some { logical := rq.prm 1, src := m.map.phys (rq.prm 1), dst := m.map.spare, ptr := 0 }
            scrub := m.scrub.map fun x => { x with paused := true, flying := m.scrubFlying } }).raise (72 + n) 0x0B 2 n [rq.prm 1]
        Completes (.rankMigrate t rq) s
          (({ e with host := { e.host with irq := { e.host.irq with mem := true } } } : Dev).answer rq 0x0B14 {}))) ∧
    (Accepted d rq 3 [] → w.dmaHalted rq.mb.val = false → rq.raw 1 % 4 = 0 →
      Completes (.memErrorLog t rq) s ((w.out (.dma rq.mb.val (rq.raw 1 + rq.raw 2 * 2 ^ 32)
        (resWide 7 (w.stack n).errLog.length ++ (w.stack n).errLog.flatMap fun e =>
          resWide 36 e.addr ++ resWide 2 e.phys ++ resWide 3 e.port ++ resWide 64 e.time))).answer rq 0x0B15 {}))

/-- What happens to a memory stack (R313, R319, R320, R322 to R327, R330, R334, R446, Table 11.5): its temperature, the end of an activation window, of a pass and of
a migration, the rebuilding of a control copy, SRAM and count-block writes, reads that the arbiter grants and what they show, and whom
the arbiter grants a slot (R314, R315, Tables 11.3, 11.4).
How copy B counts and what one control copy does is the model's reading (log entry 86). -/
def Obligations.MemoryEventsComplete : Prop :=
  ∀ (s : State) (t : Nat) (n : Fin 8), let d := s.dev.begin t; let m := d.stack n.val
    (Completes (.activationWindowEnd t n) s d ∧ (d.timeOn = true → d.devNs / 32000000 ≤ m.actWin)) ∧
    (∀ e : Dev, let k := e.devNs / 32000000
      (k ≤ (e.stack n.val).actWin → e.passActivation n.val = e) ∧
      ((e.stack n.val).actWin < k → e.passActivation n.val = e.modStack n.val fun m => { m with rows := [], throttled := [], actWin := k })) ∧
    (∀ temp : Nat, Completes (.stackTempRead t n temp) s (d.modStack n.val fun m =>
      { m with temp := temp % 256, refresh2x := if 85 ≤ temp then true else if temp < 80 then false else m.refresh2x })) ∧
    (∀ x : Scrub, m.scrub = some x → x.len ≤ x.done → Completes (.scrubPassEnd t n) s (d.endScrub n.val 0 .ok)) ∧
    (∀ g : Migration, m.mig = some g → rankBytes ≤ g.ptr →
      let e : Dev := { d.modStack n.val fun m =>
        { m with
          map := { m.map.setPhys g.logical g.dst with spareValid := false, retired := m.map.retired ||| 2 ^ g.src }
          mig := none, pend := m.pend.filter fun r => !r.mig
          scrub := m.scrub.map fun x => { x with paused := false } } with recDirty := true }
      Completes (.migrationComplete t n) s
        (((e.bump .migrations n.val 0).raise (72 + n.val) 0x0B 3 n.val [g.logical]).latchMemIrq.runPending n.val)) ∧
    (m.oneCopy = true → m.map.active = 7 → m.map.ctrlA = 0 →
      Completes (.controlCopyRebuilt t n) s (((d.copyControl n.val (m.map.phys 0) (m.map.phys 2)).modStack n.val fun m =>
        { m with oneCopy := false, map := { m.map with ctrlA := 0, ctrlB := 2 } }).raise (72 + n.val) 0x0B 5 n.val [2])) ∧
    Completes (.sramWriteback t n) s (d.bumpN .sramCe n.val 0 1) ∧
    (∀ name inst : Nat, (∃ c ∈ blockCounts ++ aidCounts, c.index = name) →
      ∀ l rest, m.map.copies = l :: rest → Completes (.countBlockUpdate t n name inst) s (d.memAsk n.val
        { port := 3, write := false, addr := l * rankBytes + (0x204000000 + 32 * ((name * 65536 + inst / 4) % 8388608)), prio := 0, upd := true })) ∧
    (∀ (w : WordRead) (held : Bool),
      (w.syn = 0xA5C33CA5 → w.result held = .poisoned) ∧
      (w.syn ≠ 0xA5C33CA5 → (held = true → w.wrong = 0 → w.result held = .poisoned) ∧ (held = false → w.wrong = 0 → w.result held = .ok) ∧
        (held = false → w.wrong = 1 → w.result held = .corrected) ∧ (held = false → w.wrong = 2 → w.result held = .uncorrectable))) ∧
    (∀ (addr : Nat) (use : ReadUse) (w : WordRead) (die : Bool) (slot : MemSlot) (r : MemRq),
      let e := d.forEach slot.arrived (Dev.memArrive n.val)
      d.readFits n.val addr use = true → (e.stack n.val).pend.find? (readAsked use addr) = some r →
      (e.stack n.val).grants (e.memStood n.val) slot.at_ r = true →
      let f := e.modStack n.val fun m => m.granted (e.memStood n.val) slot.at_ r
      let phys := (f.stack n.val).map.phys (addr / rankBytes)
      let res := w.result ((f.stack n.val).poisoned phys addr)
      let g := f.access n.val use.port phys addr false
      let g := if die then g.bump .dieCorr n.val phys else g
      let seen := fun e : Dev => match res with
        | .ok => e
        | .corrected => e.corrected n.val phys
        | .uncorrectable => e.badRead n.val use.port addr phys false
        | .poisoned => e.badRead n.val use.port addr phys true
      let last := fun e : Dev => (seen e).runTurns s.log (seen e).host.turns
      let bad := res = .uncorrectable ∨ res = .poisoned
      (∀ p i, use = .packetWrite p i →
        let h := (g.modStack n.val fun m => { m with pend := m.pend.replace r { r with part := false, poison := res.bad } }).bump .rmw n.val r.port
        (¬bad → Completes (.hbmReadComplete t n addr w use die slot) s (last h)) ∧
        (bad → Completes (.hbmReadComplete t n addr w use die slot) s (last (h.modFrame n.val p i fun f => { f with poison := true })))) ∧
      (∀ k frame pid item, use = .commit k frame pid item →
        (¬bad → Completes (.hbmReadComplete t n addr w use die slot) s (last (g.memDone n.val r))) ∧
        (bad → Completes (.hbmReadComplete t n addr w use die slot) s (last ((g.memDone n.val r).poisonItem k frame pid item)))) ∧
      (∀ code i, use = .table code i →
        let others := ((g.memDone n.val r).stack n.val).map.copies.filter fun l => l != addr / rankBytes
        (∀ l rest, bad → r.second = false → others = l :: rest →
          Completes (.hbmReadComplete t n addr w use die slot) s (last ((g.memDone n.val r).memAsk n.val
            { port := 3, write := false, addr := l * rankBytes + addr % rankBytes, prio := 0, second := true, upd := r.upd }))) ∧
        (bad → (r.second = true ∨ others = []) → r.upd = false →
          Completes (.hbmReadComplete t n addr w use die slot) s (last ((g.memDone n.val r).markBad n.val code i))))) ∧
    (∀ (stood at_ : Ticks) (r x : MemRq), m.grants stood at_ r = true →
      (m.granted stood at_ r).grants stood at_ x = true → channelOf x.addr ≠ channelOf r.addr) ∧
    (∀ (stood at_ : Ticks) (r : MemRq), m.grants stood at_ r = true →
      let c := m.candidates (channelOf r.addr) at_
      let slot := m.slotAt stood at_
      r ∈ c ∧ ((∃ x ∈ c, m.owns slot x = true) → m.owns slot r = true) ∧
      ((∀ x ∈ c, m.owns slot x = false) →
        ((∃ x ∈ c, m.rank x = 7 ∧ x.cls0 = true) → m.rank r = 7 ∧ r.cls0 = true) ∧
        ((∀ x ∈ c, ¬(m.rank x = 7 ∧ x.cls0 = true)) →
          ∀ x ∈ c, m.rank x ≤ m.rank r ∧ (m.rank x = m.rank r → m.turns (channelOf r.addr) r.port ≤ m.turns (channelOf r.addr) x.port))))

/-- Trust commands and the debug port (R430, R436 to R438, R441, Tables 15.1, 15.4): their effect, the wake of the vault included.
What the TAP does beyond R436 is the model's (log entry 81). -/
def Obligations.TrustCommandsComplete : Prop :=
  ∀ (s : State) (t : Nat) (rq : Req), let d := s.dev.begin t; let w := d.wake 5 causeHost
    (Accepted d rq 0 [2] →
      Completes (.trustStatus t rq) s (w.answer rq 0x0F10
        { results :=
            ([w.vault.mr0Bytes, w.vault.mr1Bytes, w.vault.mr2Bytes, w.vault.mr3Bytes, w.vault.mr4Bytes].flatMap fun m =>
              resWide 384 (natBE m)) ++
            resWide 32 w.vault.runSvn ++ resWide 32 w.vault.fuses.minSvn ++ resWide 1 w.vault.locked.toNat ++
            resWide 20 w.vault.fuses.unlocks ++
            ((List.range 64).flatMap fun k =>
              [BitVec.ofNat 32 (w.vault.roots.get {} k).held.toNat,
               BitVec.ofNat 32 ((w.vault.roots.get {} k).held && decide ((w.vault.roots.get {} k).tag = w.vault.sealTag)).toNat]) })) ∧
    (Accepted d rq 2 [2] → d.dmaHalted rq.mb.val = false → rq.raw 0 % 4 = 0 →
      Completes (.certRead t rq) s
        ((w.out (.dma rq.mb.val (rq.raw 0 + rq.raw 1 * 2 ^ 32) (dwordsLE (Config.certChain d.vault.fuses.serial
          (p384Public (Config.identityKey d.vault.fuses.secret identLabel)))))).answer rq 0x0F11 {})) ∧
    (Accepted d rq 0 [2] → d.vault.fuses.minSvn < d.vault.runSvn →
      (∀ i ∈ [0, 1], (d.host.slots.get {} i).present = true → d.vault.runSvn ≤ (d.host.slots.get {} i).svn) →
      Completes (.svnAdvance t rq) s
        ((w.modVault fun v => { v with fuses := { v.fuses with minSvn := v.runSvn } }).answer rq 0x0F12 {})) ∧
    (Accepted d rq 0 [2] →
      Completes (.vaultZeroise t rq) s (w.zeroise.answer rq 0x0F13
        { results := resWide 20 (((List.range 64).filter fun k => (d.tree k).join.st != 0).length) })) ∧
    (∀ (n : Fin 8) (x : Deriv), nextDeriv (d.slice n.val).key.derivs = some x →
      (d.vault.roots.get {} (d.keyCtx n.val x.ctx).tree).held = true →
      (d.vault.roots.get {} (d.keyCtx n.val x.ctx).tree).tag = d.vault.sealTag → Completes (.derivationComplete t n) s (d.derived n.val)) ∧
    (∀ (n : Fin 8) (x : Deriv), nextDeriv (d.slice n.val).key.derivs = some x →
      (d.vault.roots.get {} (d.keyCtx n.val x.ctx).tree).held = true →
      (d.vault.roots.get {} (d.keyCtx n.val x.ctx).tree).tag ≠ d.vault.sealTag →
      Completes (.derivationComplete t n) s (d.unsealFailed (d.keyCtx n.val x.ctx).tree)) ∧
    (∀ nonce : BitVec 256, d.vault.doeBusy = true → d.vault.sign.waiting 64 d.now = false →
      let req := d.vault.doeReq
      let r := spdmKindOf req
      let ch := d.vault.spdm.get {} 0
      let err := d.spdmError none ch.st r
      let resp := d.spdmResponse 64 none ch req nonce err
      Completes (.spdmResponseReady t 64 nonce) s ((d.modVault fun v =>
        { v with
          doeBusy := false, doeReq := [], spdm := v.spdm.set {} 0 (ch.next r req resp err)
          sign := v.sign.done 64 d.now, snap := v.snap.erase 64 }).out
        (.doe (doeObject 1 resp) (if err.isNone then d.reported 64 none r else [])))) ∧
    (∀ msg : List Byte, d.vault.doeBusy = false → msg.length ≤ 4096 → msg.take 2 = [1, 0] → msg.getD 2 0 = 1 →
      Completes (.spdmDoeRequest t msg) s
        ((w.modVault fun v => { v with doeBusy := true, doeReq := msg.drop 8 }).askSign 3 64 (spdmKindOf (msg.drop 8)))) ∧
    (∀ msg : List Byte, d.vault.doeBusy = false → msg.length ≤ 4096 → msg.take 2 = [1, 0] → msg.getD 2 0 = 0 →
      Completes (.spdmDoeRequest t msg) s (d.out (.doe (doeDiscovery (msg.getD 8 0).toNat) []))) ∧
    Completes (.doeAbort t) s { d with
      vault := { d.vault with doeBusy := false, doeReq := [], sign := d.vault.sign.drop 64, snap := d.vault.snap.erase 64 } } ∧
    (∀ token : UnlockToken, d.vault.locked = true → token.signer = d.vault.fuses.vendorKey → token.serial = d.vault.fuses.serial →
      token.nonce = d.vault.nonce →
      Completes (.jtagUnlock t token) s (w.modVault fun v =>
        { v with
          locked := false, noSign := true, mr3 := v.mr3 ++ [token.digest % 2 ^ 384 * 2 ^ 96 + w.devLin.toNat % 2 ^ 96]
          fuses := { v.fuses with unlocks := v.fuses.unlocks + 1 } }).zeroise) ∧
    (∀ c : Nat, d.vault.locked = true →
      Completes (.jtagInstruction t (.other c)) s { d with vault := { d.vault with tap := .bypass } }) ∧
    ((∀ p < 16, (d.dom (63 + p)).st = 2) →
      Completes (.jtagInstruction t .extest) s { d with vault := { d.vault with tap := .extest } }) ∧
    ((∃ p < 16, (d.dom (63 + p)).st ≠ 2) →
      Completes (.jtagInstruction t .extest) s { d with vault := { d.vault with tap := .bypass } })

/-- Key contexts (R288, R301, R308, Tables 10.2, 10.6): the first write sets KEYED and asks for the keys of each direction that the context has,
a later one may change only what it names, the reads, and the end of an overlap, which drops the old epoch. The layouts of `key_ctx_read` and
`cipher_status` beyond Table 10.2 are the model's (log entry 56). -/
def Obligations.KeyCommandsComplete : Prop :=
  ∀ (s : State) (t : Nat) (rq : Req), let d := s.dev.begin t; let n := rq.prm 0; let c := rq.prm 1; let x := d.keyCtx n c
    (d.isReady 2 = true → n ≤ 7 → (d.isReady (fnDs n) || d.isReady (fnUs n)) = true → c ≤ 32767 → x.bound = true →
      (Accepted d rq 10 [] → rq.prm 8 % 2 ^ 11 ≤ 1024 → 16 ≤ rq.prm 9 / 2 ^ 14 % 2 ^ 6 → 1 ≤ rq.prm 9 / 2 ^ 8 % 2 ^ 6 →
        let trim := fun e : RxEpoch => { e with seen := e.seen.filter fun v => decide (e.top - v < max (rq.prm 8 % 2 ^ 11) 1) }
        let e := d.modCtx n c fun x =>
          { x with
            keyed := true
            saltDs := BitVec.ofNat 32 (rq.prm 2 % 2 ^ 16 * 65536 + rq.prm 3 % 2 ^ 16)
            saltUs := BitVec.ofNat 32 (rq.prm 4 % 2 ^ 16 * 65536 + rq.prm 5 % 2 ^ 16)
            serialHi := rq.prm 6 * 1024 + rq.prm 7 / 2 ^ 10 % 2 ^ 10, replayWin := rq.prm 8 % 2 ^ 11
            pnWarn := rq.prm 9 / 2 ^ 14 % 2 ^ 6, overlap := rq.prm 9 / 2 ^ 8 % 2 ^ 6, rx := trim x.rx, rxOld := x.rxOld.map trim }
        let e1 := if x.ds then e.startDir n c .down causeHost else e
        (x.keyed = false →
          Completes (.keyCtxSet t rq) s ((if x.us then e1.startDir n c .up causeHost else e1).answer rq 0x0A10 {})) ∧
        (x.keyed = true → (∀ i ∈ [2, 3, 4, 5, 6, 7], (x.words.map (·.toNat)).getD i 0 = (keyWords rq).getD (i - 2) 0) →
          Completes (.keyCtxSet t rq) s (e.answer rq 0x0A10 {}))) ∧
      (Accepted d rq 2 [] →
        Completes (.keyCtxRead t rq) s (d.answer rq 0x0A11
          { results :=
              resWords x.words ++ resWide 32 x.rx.serial ++ resWide 32 x.txSerial ++ resWide 64 x.txPn ++ resWide 64 x.rx.top ++
              resWide 64 ((x.rxOld.map (·.top)).getD 0) ++
              [BitVec.ofNat 32 x.rxOld.isSome.toNat, BitVec.ofNat 32 (d.txEpoch n c).overlap.toNat,
               BitVec.ofNat 32 ((d.slice n).key.derivs.filter fun y => y.ctx == c && y.dir == .down).length,
               BitVec.ofNat 32 ((d.slice n).key.derivs.filter fun y => y.ctx == c && y.dir == .up).length] }))) ∧
    (d.isReady 2 = true → n ≤ 7 → (d.isReady (fnDs n) || d.isReady (fnUs n)) = true → Accepted d rq 1 [] →
        Completes (.cipherStatus t rq) s (d.answer rq 0x0A13
          { results :=
              ([1, 2, 3, 4].map fun l => BitVec.ofNat 32 ((d.slice n).key.derivs.filter fun y => y.level == l).length) ++
              ((treesOf n).map fun k => BitVec.ofNat 32 (12 * (d.groupLanes k).length)) ++
              resWide 48 (d.count .keyCtxMismatch n 0).val.toNat ++ resWide 48 (d.count .derivations n 0).val.toNat ++
              resWide 48 (d.count .cacheBad n 0).val.toNat })) ∧
    (∀ ctx : Nat, d.isReady 2 = true → rq.prm 0 ≤ 63 → (d.isReady (fnDs (rq.prm 0 / 8)) || d.isReady (fnUs (rq.prm 0 / 8))) = true →
      Accepted d rq 2 [] → d.ctxOf (rq.prm 0 / 8) (rq.prm 0) (rq.prm 1) = some ctx →
      Completes (.keyCtxFind t rq) s (d.answer rq 0x0A12 { results := resWide 20 ctx })) ∧
    (∀ (k : Fin 64) (aid : Word) (ctx : Nat), d.ctxOf (k.val / 8) k.val aid.toNat = some ctx →
      (d.keyCtx (k.val / 8) ctx).rxOld ≠ none → (d.keyCtx (k.val / 8) ctx).rxLeft = 0 → d.receivedAt k.val 200 ≤ d.now →
      Completes (.epochOverlapEnd t k aid .down) s
        ((d.modCtx (k.val / 8) ctx fun x => { x with rxOld := none }).derive (k.val / 8) 2 ctx .down 2 causeTree)) ∧
    (∀ (k : Fin 64) (aid : Word) (ctx : Nat), d.ctxOf (k.val / 8) k.val aid.toNat = some ctx →
      (d.txEpoch (k.val / 8) ctx).overlap = true → (d.txEpoch (k.val / 8) ctx).left = 0 → d.receivedAt k.val 200 ≤ d.now →
      Completes (.epochOverlapEnd t k aid .up) s
        ((d.modTxEpoch (k.val / 8) ctx fun x => { x with overlap := false, prev := none }).derive (k.val / 8) 2 ctx .up 2 causeTree))

/-- Buffers, stallholders and queues (R234, R236, R238, R239, R247, R248, R251, R254, R259, R269, R274, R317, R370, R377, Tables 8.3, 8.11): each command, with the wake of the slice's
TABLES domain (number 12 + 6 n), the sweep, and a write to which the arbiter gives its slot and which the memory controller performs; of a packet write, one word
of its buffer less is to be written (log entry 17).
What `queue_set` clears is the model's reading (log entry 42). -/
def Obligations.BufferCommandsComplete : Prop :=
  ∀ (s : State) (t : Nat) (rq : Req), let d := s.dev.begin t; let n := rq.prm 0; let w := d.wake (12 + 6 * n) causeHost
    (n ≤ 7 → (w.isReady (fnDs n) || w.isReady (fnUs n)) = true →
      (Accepted d rq 3 [] → rq.prm 2 % 2 ^ 17 ≤ 98304 →
        Completes (.bufCfgSet t rq) s ((w.modBuf n fun b =>
          { b with spillUp := rq.prm 1 % 2 ^ 5, stageReserve := rq.prm 2 % 2 ^ 17 }).answer rq 0x0810 {})) ∧
      (Accepted d rq 17 [] → rq.prm 1 ≤ 255 → (stallholderOf rq 2).yellowPct ≤ 100 →
        (∀ p < 6, (stallholderOf rq 2).bufMin.get 0 p ≤ (stallholderOf rq 2).bufMax.get 0 p) →
        (stallholderOf rq 2).cellMin ≤ (stallholderOf rq 2).cellMax →
        let hs := (w.slice n).buf.holders.set {} (rq.prm 1) (stallholderOf rq 2)
        (∀ p < 6, hs.foldl (fun a e => a + e.2.minBuf p) 0 ≤ 1048576) →
        (∀ priv, hs.foldl (fun a e => a + e.2.minCell priv) 0 ≤ bankSize priv) →
        Completes (.stallholderSet t rq) s ((w.modBuf n fun b => { b with holders := hs }).answer rq 0x0811 {})) ∧
      (Accepted d rq 6 [] → rq.prm 1 ≤ 16383 → (w.queue n (rq.prm 1)).descs = [] → rq.bit 2 19 = false →
        (w.queue n (rq.prm 1)).cfg.valid = false →
        Completes (.queueSet t rq) s
          ((((w.freeCells n (w.queue n (rq.prm 1)).cells).modQueue n (rq.prm 1) fun x =>
            { x with
              cfg :=
                { valid := false, kind := rq.bits 2 2 17, ctrl := rq.bit 2 16, cls := rq.bits 2 3 13,
                  target := rq.bits 2 6 7, aid := BitVec.ofNat 20 (rq.prm 3), stallholder := rq.bits 4 8 0,
                  descMax := rq.prm 5 }
              earned := 0, spent := 0, placed := 0, cells := [] }).forEach queueCounts fun c d => d.clearCount c n (rq.prm 1)).answer rq
                0x0812 {})) ∧
      (Accepted d rq 6 [] → rq.prm 1 ≤ 16383 → (w.queue n (rq.prm 1)).descs = [] → rq.bit 2 19 = true →
        rq.bits 2 2 17 = 1 → rq.bits 2 6 7 < 32 → rq.bits 2 3 13 = 0 →
        (w.queue n (rq.prm 1)).cfg.valid = false →
        Completes (.queueSet t rq) s
          ((((((w.freeCells n (w.queue n (rq.prm 1)).cells).modQueue n (rq.prm 1) fun x =>
            { x with
              cfg :=
                { valid := true, kind := 1, ctrl := rq.bit 2 16, cls := 0, target := rq.bits 2 6 7,
                  aid := BitVec.ofNat 20 (rq.prm 3), stallholder := rq.bits 4 8 0,
                  descMax := rq.prm 5 }
              earned := 0, spent := 0, placed := 0, cells := [] }).forEach queueCounts fun c d =>
                d.clearCount c n (rq.prm 1)).enforceReservation n causeHost).lpiWake (32 * n + rq.bits 2 6 7)).answer rq
                  0x0812 {})) ∧
      (Accepted d rq 2 [] → rq.prm 1 ≤ 16383 → let q := w.queue n (rq.prm 1)
        Completes (.queueStatus t rq) s (w.answer rq 0x0813
          { results :=
              q.position q.base ++ q.position q.readPos ++ q.position q.tailPos ++ resWide 21 q.descs.length ++ resWide 40 q.qBytes ++
              resWide 40 q.uBytes ++ resWide 20 q.gen ++ queueCounts.flatMap fun c => resWide 48 (w.count c n (rq.prm 1)).val.toNat })) ∧
      (Accepted d rq 2 [] → rq.prm 1 ≤ 16383 → (w.queue n (rq.prm 1)).fault = .ok → let q := w.queue n (rq.prm 1)
        let e := (w.forEach q.unread fun x d => d.dropBuffer n 12 x.pool x.index 5 (q.cfg.sysPort n)).freeCells n
          (q.cells.drop (q.readPos / 3 - q.base / 3 + 1))
        Completes (.queueFlush t rq) s (((e.setQueue n (rq.prm 1)
          { q with descs := q.descs.take q.readN, cells := q.cells.take (q.readPos / 3 - q.base / 3 + 1) }).bumpN .flushed n (rq.prm 1)
            q.unread.length).answer rq 0x0814 { results := resWide 21 q.unread.length })) ∧
      (Accepted d rq 1 [] → let b := (w.slice n).buf
        let live := fun p => ((b.bufs.filter fun e => e.1 / 2 ^ 20 == p).filter fun e =>
          (w.stack n).map.inService (e.1 % 2 ^ 20 % 3)).length
        Completes (.poolStatus t rq) s (w.answer rq 0x0815
          { results :=
              ((List.range 6).flatMap fun p =>
                resWide 21 (w.poolInService n - live p) ++ resWide 21 (w.sharedPart n p) ++ resWide 21 (b.sharedUse p) ++
                resWide 21 (1048576 - w.poolInService n)) ++
              resWide 20 (bankSize false - (b.cells.filter fun e => !cellIsPriv e.1).length) ++
              resWide 20 (bankSize true - (b.cells.filter fun e => cellIsPriv e.1).length) ++
              resWide 20 (Config.stageSegments - b.stageFree) })) ∧
      (Accepted d rq 5 [] → w.dmaHalted rq.mb.val = false → rq.prm 1 ≤ 255 → 1 ≤ rq.prm 2 → rq.prm 2 ≤ 256 - rq.prm 1 → rq.raw 3 % 4 = 0 →
        let b := (w.slice n).buf
        Completes (.stallholderStatus t rq) s ((w.out (.dma rq.mb.val (rq.raw 3 + rq.raw 4 * 2 ^ 32)
          ((List.range (rq.prm 2)).flatMap fun j =>
            ((List.range 6).flatMap fun p => resWide 20 (b.held (rq.prm 1 + j) p)) ++
            resWide 20 (b.heldCells (rq.prm 1 + j) false + b.heldCells (rq.prm 1 + j) true)))).answer rq 0x0816 {})) ∧
      (Accepted d rq 1 [] → Completes (.sweepStart t rq) s ((w.triggerSweep n).answer rq 0x0817 {}))) ∧
    (∀ n : Fin 8, (d.slice n.val).buf.sweeping = true →
      let b := (d.slice n.val).buf
      let cells := (b.cells.map (·.1)).filter fun c =>
        !(b.queues.flatMap fun e => if e.2.cfg.valid then e.2.cells else []).contains c && !d.ending.contains (.cell n.val c)
      let bufs := (b.bufs.filter fun e =>
        (e.2.tag == 3 || e.2.tag == 4) && !(d.reachedBufs n.val).contains e.1 && !d.freeWaits n.val e.1).map (·.1)
      let e := ((d.freeCells n.val cells).forEach bufs fun k d =>
        d.dropBuffer n.val 13 (k / 2 ^ 20) (k % 2 ^ 20) 5 none).modBuf n.val fun b =>
          { b with sweeping := b.sweepAgain, sweepAgain := false }
      Completes (.orphanSweep t n) s ((((e.bump .sweeps n.val 0).bumpN .cellsReclaimed n.val 0 cells.length).bumpN .bufsReclaimed n.val 0
        bufs.length).raise (64 + n.val) 0x08 4 n.val [cells.length, bufs.length / 2 ^ 20, bufs.length % 2 ^ 20])) ∧
    (∀ (n : Fin 8) (port : Fin 7) (addr : Nat) (slot : MemSlot) (r : MemRq), port.val ≠ 6 →
      let e := d.forEach slot.arrived (Dev.memArrive n.val)
      (e.stack n.val).pend.find? (fun r => r.port == port.val && r.write && !r.part && !r.mig && r.addr == addr) = some r →
      (e.stack n.val).grants (e.memStood n.val) slot.at_ r = true →
      let f := ((e.modStack n.val fun m => m.granted (e.memStood n.val) slot.at_ r).memDone n.val r)
      let g := f.forEach ((f.stack n.val).homes addr) fun phys d => (d.access n.val port.val phys addr true).poisonAt n.val phys addr r.poison
      (port.val ≠ 0 ∨ bufferAt addr = none → Completes (.hbmWritePerformed t n port addr slot) s g) ∧
      (∀ p i : Nat, port.val = 0 → bufferAt addr = some (p, i) → g.allocated n.val p i = true →
        (g.buffer n.val p i).left.testBit (bufferWord p addr) = true →
        (g.slice n.val).buf.direct.find? (fun x => x.1 == p && x.2.1 == i) = none →
        Completes (.hbmWritePerformed t n port addr slot) s
          (g.setBuffer n.val p i { g.buffer n.val p i with left := (g.buffer n.val p i).left - 2 ^ bufferWord p addr })))

/-- Meters, quanta, system port egress, low-power idle, the escale status and the class-0 report (R123, R124, R260, R261, R265, R268, R271,
R272, R274, R282, Tables 9.1, 9.4, 9.5, 9.10): each command and event with its operands in range, and what it leaves. -/
def Obligations.SchedulingCommandsComplete : Prop :=
  ∀ (s : State) (t : Nat) (rq : Req), let d := s.dev.begin t; let n := rq.prm 0
    let w := d.wake (12 + 6 * n) causeHost
    (n ≤ 7 → (w.isReady (fnDs n) || w.isReady (fnUs n)) = true →
      (Accepted d rq (3 + 7 * rq.prm 2) [] → 1 ≤ rq.prm 2 → rq.prm 2 ≤ 16 → rq.prm 1 ≤ 65536 - rq.prm 2 →
        let m := fun j => meterOfWords (fun i => rq.prm (3 + 7 * j + i)) (w.cycle * Config.slicePeriod)
        (∀ j < rq.prm 2, (m j).mode < 2 ∧ 160 ≤ (m j).cbs ∧ ((m j).mode = 1 → 160 ≤ (m j).ebs ∧ (m j).cir ≤ (m j).pir)) →
        Completes (.meterWrite t rq) s ((w.modSched n fun x =>
          { x with
            meters := (List.range (rq.prm 2)).foldl (fun ms j => ms.set {} (rq.prm 1 + j) (m j)) x.meters }).answer rq 0x0910 {})) ∧
      (Accepted d rq 5 [] → w.dmaHalted rq.mb.val = false → rq.prm 1 ≤ 65535 → 1 ≤ rq.prm 2 → rq.prm 2 ≤ 65536 - rq.prm 1 →
        rq.raw 3 % 4 = 0 →
        Completes (.meterRead t rq) s ((w.out (.dma rq.mb.val (rq.raw 3 + rq.raw 4 * 2 ^ 32)
          ((List.range (rq.prm 2)).flatMap fun j =>
            let m := ((w.slice n).sched.meters.get {} (rq.prm 1 + j)).fill (w.cycle * Config.slicePeriod)
            resWords m.words ++ resWide 40 (m.tokC / 65536) ++ resWide 40 (m.tokE / 65536) ++
              ([CN.mtrGreen, .mtrGreenBytes, .mtrYellow, .mtrYellowBytes, .mtrRed, .mtrRedBytes, .mtrSentGreen, .mtrSentYellow].flatMap
                fun c => resWide 48 (w.count c n (rq.prm 1 + j)).val.toNat)))).answer rq 0x0911 {})) ∧
      (Accepted d rq 3 [] → rq.prm 1 ≤ 16383 → 1 ≤ rq.prm 2 → rq.prm 2 < 2 ^ 20 →
        Completes (.schedSet t rq) s ((w.modQueue n (rq.prm 1) fun q => { q with quantum := rq.prm 2 }).answer rq 0x0912 {})) ∧
      (Accepted d rq 1 [] → (d.isReady (fnDs n) || d.isReady (fnUs n)) = true →
        let e := d.pwr.escale.get {} n
        let head := if d.pwr.suspended then 15 else 15 - 15 * e.eNum / 64
        Completes (.escaleStatusCmd t rq) s (d.answer rq 0x0914
          { results :=
              resWords [BitVec.ofNat 20 (e.eNum * 2 ^ 13 + d.pwr.eCap * 2 ^ 6 + d.pwr.suspended.toNat * 2 ^ 5 +
                (decide (d.pwr.eCap < 64)).toNat * 2 ^ 4 + head)] ++ resWide 20 e.eBudget ++ resWide 20 (d.pwr.sensors.foldl max 0) ++
              resWide 20 (d.pwr.sensors.findIdx fun x => x == d.pwr.sensors.foldl max 0) }))) ∧
    (n ≤ 7 → Accepted d rq 12 [] → w.isReady (fnDs n) = true → rq.prm 1 ≤ 31 → (w.sysPort (32 * n + rq.prm 1)).width ≠ 0 →
      (∀ c < 8, rq.bit (4 + c) 19 = true → let q := (w.queue n (rq.bits (4 + c) 14 0)).cfg
        q.kind = 1 ∧ q.target = rq.prm 1 ∧ q.cls = c) →
      Completes (.portEgressSet t rq) s ((w.modEgress (32 * n + rq.prm 1) fun x =>
        { x with
          pauseEn := rq.bit 2 19, pfcEn := rq.bit 2 18, lpiEn := rq.bit 2 17, lpiHold := max 1 (rq.bits 2 10 7)
          twTx := max 1 (rq.bits 3 16 0)
          cq := (List.range 8).foldl (fun m c => m.set none c (if rq.bit (4 + c) 19 then some (rq.bits (4 + c) 14 0) else none)) []
          emptySince := if rq.bit 2 17 && !x.lpiEn then w.now else x.emptySince }).answer rq 0x0913 {})) ∧
    (n ≤ 63 → Accepted d rq 2 [] → chkReady d [needPortOf n, needSlice (n / 8)] = none → (d.tree n).cfg.configured = true →
      ((d.tree n).allocs.find? fun e => e.1 == rq.prm 1).isSome = true →
      let a := (d.tree n).allocs.get {} (rq.prm 1)
      let recent := a.stdRegions.filter fun r => decide ((d.tree n).fr.fc ≤ r.1 + 64)
      let region := recent.foldl (fun m r => min m r.2.1) (2 ^ 20 - 1)
      let gap := (d.count .c0GapMax n (rq.prm 1)).val.toNat
      let ton := cdiv ((d.port (portOfTree n)).ton * 106272) 1000
      let c0 := d.queuesWhere (n / 8) fun _ q =>
        q.cfg.kind == 0 && q.cfg.target == d.workingTree n && q.cfg.cls == 0 && q.cfg.aid.toNat == rq.prm 1
      let word := fun (e : Entry) i => (e.words.getD i 0).toNat
      let named := (d.slice (n / 8)).tab.lft.filter fun e => Nat.ble (3 * 2 ^ 18) (word e.2 0) && c0.contains (word e.2 2 % 16384)
      let met := named.flatMap fun e => (d.slice (n / 8)).tab.c0Meters e.1
      let meters := (met.filterMap id).eraseDups.map fun i => (d.slice (n / 8)).sched.meters.get {} i
      let known := met.all (·.isSome) && meters.all (·.valid)
      let cir := meters.foldl (fun s m => s + m.cir) 0
      let cbs := meters.foldl (fun s m => s + m.cbs * 64) 0
      Completes (.c0Report t rq) s (d.answer rq 0x0915
        { results :=
            resWide 20 gap ++ resWide 20 region ++ resWide 40 cir ++ resWide 40 cbs ++ resWide 20 ton ++
            resWide 20 (recent.foldl (fun m r => max m r.2.2) 0) ++ resWide 1 known.toNat ++ resWide 1 (decide (gap ≠ 0)).toNat ++
            resWide 1 (decide (cdiv (1724 * (cir * gap * Config.cwt + cbs * Config.sec)) (16 * 1000 * Config.sec) ≤ region)).toNat ++
            resWide 40 (1800 + cdiv (gap * Config.cwt + ton * Config.ui) Config.ns) })) ∧
    (∀ (p : Fin 256) (qf : QFault), let e := d.egress p.val; let sp := d.sysPort p.val
      (d.lpiFree p.val = true → Completes (.lpiEntry t p) s
        ((d.modEgress p.val fun x => { x with lpi := true, lpiSince := d.now }).bump .lpiEntries p.val 0)) ∧
      (e.lpi = false → e.wakeEnd ≤ d.now → Completes (.lpiWakeEnd t p) s (d.modEgress p.val fun x => { x with wakeEnd := 0 })) ∧
      (sp.width ≠ 0 → sp.enabled = true → sp.up = true → (e.lpi = true ∨ d.now < e.busyEnd ∨ d.now < e.wakeEnd) →
        Completes (.systemPortFrameStart t p qf) s d) ∧
      (d.noRank (p.val / 32) = true → Completes (.systemPortFrameStart t p qf) s d) ∧
      (∀ c q x d', d.noRank (p.val / 32) = false → sp.width ≠ 0 → sp.enabled = true → sp.up = true → e.lpi = false → e.busyEnd ≤ d.now → e.wakeEnd ≤ d.now →
        d.nextClass p.val true = some c → d.takeEgress p.val c qf = (some (q, x), d') →
        (x.poison = false → (d'.buffer (p.val / 32) x.pool x.index).frame.poison = false →
          Completes (.systemPortFrameStart t p qf) s (d'.sendFrame p.val c q x)) ∧
        (x.poison = true ∨ (d'.buffer (p.val / 32) x.pool x.index).frame.poison = true →
          Completes (.systemPortFrameStart t p qf) s ((d'.bump .poisonDrop (p.val / 32) q).dropEgress p.val 4 x))) ∧
      (∀ c q x d', d.noRank (p.val / 32) = false → sp.width ≠ 0 → (sp.enabled && sp.up) = false → d.nextClass p.val false = some c →
        d.takeEgress p.val c qf = (some (q, x), d') →
        Completes (.systemPortFrameStart t p qf) s ((d'.bump .macTx p.val 16).dropEgress p.val 5 x)))

/-- The tables of classification and their shadow (R186, R187, R188, R190, R192, R196, R207, R225 to R228, R230, Tables 6.12 and 7.9): each
command with its operands in range, and what it leaves. That an ingress port is named device-wide is the model's reading (log entry 18). -/
def Obligations.ClassificationCommandsComplete : Prop :=
  ∀ (s : State) (t : Nat) (rq : Req), let d := s.dev.begin t; let n := rq.prm 0
    ((rq.prm 0 = 1 ∧ rq.prm 1 < 256 ∧ (d.sysPort (rq.prm 1)).width ≠ 0 ∧ d.isReady (fnUs (rq.prm 1 / 32)) = true ∨
      rq.prm 0 = 0 ∧ rq.prm 1 < 64 ∧ (d.tree (rq.prm 1)).cfg.configured = true ∧ d.isReady (fnDs (rq.prm 1 / 8)) = true) →
      let k := if rq.prm 0 = 1 then rq.prm 1 / 32 else rq.prm 1 / 8
      let p := if rq.prm 0 = 1 then rq.prm 1 % 32 else 32 + rq.prm 1 % 8
      let up := fun e : Dev => e.wake (12 + 6 * k) causeHost
      (Accepted d rq 4 [] → Completes (.portParseSet t rq) s (((up d).modTab k fun x =>
        { x with ingress := x.ingress.set ingressReset p (rq.entry 1 2 2) }).answer rq 0x0610 {})) ∧
      (Accepted d rq 8 [] → rq.prm 2 ≤ 63 → (rq.entry 2 3 5).bits 0 2 17 ≠ 3 →
        Completes (.macFilterWrite t rq) s (((up d).modTab k fun x =>
          { x with filters := x.filters.set {} (64 * p + rq.prm 2) (rq.entry 2 3 5) }).answer rq 0x0612 {}))) ∧
    (n ≤ 7 → (d.isReady (fnDs n) || d.isReady (fnUs n)) = true →
      let up := fun e : Dev => e.wake (12 + 6 * n) causeHost
      (Accepted d rq 3 [] → rq.prm 1 ≤ 65535 → rq.prm 2 ≤ 65535 →
        Completes (.tpidSet t rq) s (((up d).modTab n fun x =>
          { x with tpidA := BitVec.ofNat 16 (rq.prm 1), tpidB := BitVec.ofNat 16 (rq.prm 2) }).answer rq 0x0611 {})) ∧
      (Accepted d rq 19 [] → rq.prm 1 ≤ 63 → (rq.entry 4 2 17).bits 0 2 17 ≠ 3 →
        Completes (.profileWrite t rq) s (((up d).modTab n fun x =>
          { x with profiles := x.profiles.set {} (rq.prm 1) (rq.entry 4 2 17) }).answer rq 0x0613 {})) ∧
      (Accepted d rq 5 [] → rq.prm 1 ≤ 255 →
        Completes (.rangeWrite t rq) s (((up d).modTab n fun x =>
          { x with ranges := x.ranges.set {} (rq.prm 1) (rq.entry 5 2 3) }).answer rq 0x0614 {})) ∧
      (Accepted d rq 25 [] → rq.prm 1 ≤ 4095 → (∀ b ∈ [4, 2, 0], (rq.entry 7 2 23).bits 0 2 b ≠ 3) →
        Completes (.actionWrite t rq) s (((up d).modTab n fun x =>
          { x with actions := x.actions.set {} (rq.prm 1) (rq.entry 7 2 23) }).answer rq 0x0615 {})) ∧
      (∀ (m : Nat) (c a : Option Nat), (c = none → a = none) → rq.prm 1 = m → 1 ≤ m → m ≤ 16 →
        let atC := 2 + 71 * m
        let atA := match c with | none => atC | some c => atC + 1 + 4 * c
        Accepted d rq (match a with | none => atA | some a => atA + 1 + 24 * a) [] →
        (c.isSome = true → c = some (rq.prm atC)) → (a.isSome = true → a = some (rq.prm atA)) →
        (∀ j < m, rq.prm (2 + 71 * j) ≤ 4095) → (∀ j < c.getD 0, rq.prm (atC + 1 + 4 * j) ≤ 255) →
        (∀ j < a.getD 0, rq.prm (atA + 1 + 24 * j) ≤ 4095 ∧ ∀ b ∈ [4, 2, 0], (rq.entry 7 (atA + 2 + 24 * j) 23).bits 0 2 b ≠ 3) →
        Completes (.ruleWrite t rq) s (((up d).modTab n fun x =>
          { x with
            rules := (List.range m).foldl (fun r j => r.set {} (rq.prm (2 + 71 * j)) (rq.entry 6 (3 + 71 * j) 70)) x.rules
            ranges := (List.range (c.getD 0)).foldl (fun r j => r.set {} (rq.prm (atC + 1 + 4 * j)) (rq.entry 5 (atC + 2 + 4 * j) 3)) x.ranges
            actions := (List.range (a.getD 0)).foldl (fun r j => r.set {} (rq.prm (atA + 1 + 24 * j)) (rq.entry 7 (atA + 2 + 24 * j) 23))
              x.actions }).answer rq 0x0616 {})) ∧
      (Accepted d rq 6 [] → 1 ≤ rq.prm 1 → rq.prm 1 ≤ 12 → let size := d.tableSize n (rq.prm 1)
        rq.prm 2 ≤ size - 1 → 1 ≤ rq.prm 3 → rq.prm 3 ≤ size - rq.prm 2 → rq.raw 4 % 4 = 0 → d.dmaHalted rq.mb.val = false →
        Completes (.clsRead t rq) s (((up d).out (.dma rq.mb.val (rq.raw 4 + rq.raw 5 * 2 ^ 32)
          ((List.range (rq.prm 3)).flatMap fun j => (up d).tableDwords n (rq.prm 1) (rq.prm 2 + j)))).answer rq 0x0617 {})) ∧
      (Accepted d rq (if rq.prm 1 = 10 then 5 else rq.len) [] → rq.prm 1 = 10 ∨ rq.len = 4 ∨ rq.len = 5 → 1 ≤ rq.prm 1 → rq.prm 1 ≤ 11 →
        rq.raw 2 % 4 = 0 → (rq.prm 1 = 10 → rq.prm 4 ≤ 524288) →
        Completes (.shadowSet t rq) s ((d.modTab n fun x =>
          { x with
            shadow :=
              { x.shadow with
                addr := x.shadow.addr.set none (rq.prm 1) (some (rq.raw 2 + rq.raw 3 * 2 ^ 32))
                count := if rq.prm 1 = 10 then rq.prm 4 else x.shadow.count } }).answer rq 0x0716 {})) ∧
      (Accepted d rq 3 [] → 2 ≤ rq.prm 1 → rq.prm 1 < 4096 → rq.prm 1 % 2 = 0 → rq.prm 2 ≤ 1 →
        (d.slice n).tab.shadow.running = false → (∀ c ∈ maskCodes (rq.prm 1), ((d.slice n).tab.shadow.addr.get none c).isSome = true) →
        Completes (.shadowStart t rq) s (((up d).modTab n fun x =>
          { x with
            shadow :=
              { x.shadow with
                running := true, stopping := false, cont := rq.flag 2, mask := rq.prm 1, todo := maskCodes (rq.prm 1), index := 0
                compared := 0, mism := 0, skips := 0, keys := [] } }).answer rq 0x0717 {})) ∧
      (Accepted d rq 1 [] → Completes (.shadowStop t rq) s ((d.modTab n fun x =>
        { x with shadow := { x.shadow with stopping := x.shadow.running } }).answer rq 0x0718 {})) ∧
      (Accepted d rq 4 [] → 1 ≤ rq.prm 1 → rq.prm 1 ≤ 10 → d.dmaHalted (52 + n) = false →
        ((d.slice n).tab.shadow.addr.get none (rq.prm 1)).isSome = true →
        let count := (d.slice n).tab.shadow.count
        let size := if rq.prm 1 = 10 then count + (d.statics n).length else d.tableSize n (rq.prm 1)
        let dwords := fun j => ((rq.hostBuf 0).drop (entryWidth (rq.prm 1) * j)).take (entryWidth (rq.prm 1))
        rq.prm 2 ≤ size - 1 → 1 ≤ rq.prm 3 → rq.prm 3 ≤ size - rq.prm 2 →
        (rq.prm 1 ≠ 10 → let e := fun j => storedEntry (rq.prm 1) ((dwords j).map fun v => v.setWidth 20)
          (∀ j < rq.prm 3, (rq.prm 1 ≤ 2 → d.portFault n (rq.prm 1) (rq.prm 2 + j) = none) ∧ d.entryFault n (rq.prm 1) (e j) 2 = none) →
          Completes (.shadowRepair t rq) s (((up d).forEach (List.range (rq.prm 3)) fun j d =>
            d.writeEntry n (rq.prm 1) (rq.prm 2 + j) (e j)).answer rq 0x0719 {})) ∧
        (rq.prm 1 = 10 → let key := fun j => (dwords j).map fun v => v.toNat % 2 ^ 20
          d.staticFaults n (rq.prm 2) (rq.prm 3) count key (d.deviceOnly n (rq.hostBuf 1)) = none →
          Completes (.shadowRepair t rq) s (((up d).forEach (List.range (rq.prm 3)) fun j e =>
            e.repairStatic n (rq.prm 2 + j) count (key j) (d.deviceOnly n (rq.hostBuf 1))).answer rq 0x0719 {})))) ∧
    (∀ (n status : Fin 8) (entry : List Dword) (raced : Bool), let sh := (d.slice n.val).tab.shadow
      let run := Completes (.shadowFetch t n status entry raced) s
      let words := entry.map fun v => v.toNat % 2 ^ 20
      (sh.todo = [] ∨ sh.running = false → run d) ∧
      (∀ c rest, sh.todo = c :: rest → sh.running = true →
        (status.val ≠ 0 → run ((d.raise (qSlice n.val) 0x07 4 c [status.val]).shadowEnd n.val c)) ∧
        (status.val = 0 → d.shadowSize n.val c ≤ sh.index → run (d.shadowNext n.val c)) ∧
        (status.val = 0 → sh.index < d.shadowSize n.val c → c ≠ 10 →
          run (if raced then ((d.bump .shcSkip n.val 0).modShadow n.val fun x => { x with skips := x.skips + 1 }).shadowNext n.val c
            else ((d.modShadow n.val fun x => { x with compared := x.compared + 1 }).shadowEntry n.val c sh.index words).shadowNext n.val c)) ∧
        (status.val = 0 → sh.index < d.shadowSize n.val c → c = 10 →
          let key := (addrOf fun j => words.getD j 0).key
          let d' := d.modShadow n.val fun x => { x with keys := key :: x.keys }
          run (if (sh.keys.head?.map fun k => decide (key ≤ k)).getD false then (d'.raise (qSlice n.val) 0x07 4 10 [0]).shadowEnd n.val 10
            else if raced then ((d'.bump .shcSkip n.val 0).modShadow n.val fun x => { x with skips := x.skips + 1 }).shadowNext n.val 10
            else ((d'.modShadow n.val fun x => { x with compared := x.compared + 1 }).shadowStatic n.val sh.index words).shadowNext
              n.val 10))))

/-- The Local Flow Table, the address table, learning and aging (R212, R214 to R221, R230, R402, Tables 7.3, 7.4 and 7.9): each command
with its operands in range, and each event, with what it leaves. -/
def Obligations.AddressCommandsComplete : Prop :=
  ∀ (s : State) (t : Nat) (rq : Req), let d := s.dev.begin t; let n := rq.prm 0
    let up := fun e : Dev => e.wake (12 + 6 * n) causeHost
    (n ≤ 7 → (d.isReady (fnDs n) || d.isReady (fnUs n)) = true →
      (Accepted d rq (3 + 8 * rq.prm 2) [] → 1 ≤ rq.prm 2 → rq.prm 2 ≤ 16 → rq.prm 1 ≤ 2 ^ 20 - rq.prm 2 →
        (∀ j < rq.prm 2, let e := rq.entry 8 (3 + 8 * j) 8
          e.lftValid = true → e.bits 3 2 17 ≠ 3 ∧ (e.lftUp = true → e.lftTree / 8 = n ∧ Config.aidReserved (e.words.getD 1 0) = false ∧
            d.workingTree e.lftTree = e.lftTree)) →
        Completes (.lftWrite t rq) s (((up d).modTab n fun x =>
          { x with
            lft := (List.range (rq.prm 2)).foldl (fun m j => m.set {} (rq.prm 1 + j) (rq.entry 8 (3 + 8 * j) 8)) x.lft }).answer rq
              0x0710 {})) ∧
      (∀ a, let e := addrOf fun j => rq.prm (1 + j)
        Accepted d rq 7 [] → e.valid = true → rq.prm 6 ≤ 1 → ((d.addrFind n e.vlan e.mac).isSome = true → rq.prm 6 = 1) →
        d.addrPlace n e = some a → (e.kind = true → (d.lft n e.lfn).lftValid = true ∧ (d.lft n e.lfn).lftUp = true) →
        Completes (.addrInsert t rq) s ((((up d).setAddr n a e).forgetKey n e.vlan e.mac).answer rq 0x0711 {})) ∧
      (∀ a e, let v := BitVec.ofNat 12 (rq.prm 1)
        Accepted d rq 5 [] → rq.prm 1 ≤ 4095 → rq.prm 2 ≤ 255 → d.addrFind n v (rq.mac 2) = some (a, e) →
        Completes (.addrDelete t rq) s ((((up d).setAddr n a {}).forgetKey n v (rq.mac 2)).answer rq 0x0712 {}) ∧
        Completes (.addrLookup t rq) s ((up d).answer rq 0x0713
          { results := resWords e.words ++ resWide 17 (a / 4) ++ resWide 2 (a % 4) })) ∧
      (Accepted d rq 4 [] → rq.prm 1 ≤ 2 → rq.prm 2 ≤ (if rq.prm 1 = 1 then 31 else 2 ^ 20 - 1) → rq.prm 3 ≤ 1 →
        let gone := fun (x : Nat × AddrEntry) => x.2.valid && (!x.2.static || rq.flag 3) &&
          (rq.prm 1 == 0 || (rq.prm 1 == 1 && !x.2.kind && x.2.port == rq.prm 2) || (rq.prm 1 == 2 && x.2.kind && x.2.lfn == rq.prm 2))
        let hit := (d.slice n).tab.addr.filter gone
        Completes (.addrFlush t rq) s (((up d).forEach hit
          fun x d => (d.setAddr n x.1 {}).forgetKey n x.2.vlan x.2.mac).answer rq 0x0714 { results := resWide 20 hit.length })) ∧
      (Accepted d rq 5 [] → rq.bits 1 16 0 ≠ 0 → rq.bits 2 11 0 ≤ 1000 →
        Completes (.learnCfgSet t rq) s (((up d).modTab n fun x =>
          { x with
            learn :=
              { ageTick := rq.bits 1 16 0, ageLimit := max 1 (rq.bits 2 8 12), ageDst := rq.bit 2 11, moveHold := rq.bits 2 11 0
                sys := rq.prm 3 + rq.bits 4 12 0 * 2 ^ 20, tree := rq.bits 4 8 12 } }).answer rq 0x0715 {}))) ∧
    (∀ n : Fin 8, let x := (d.slice n.val).tab
      (x.agePass = true ∨ d.now < x.ageAt + x.ageTick * Config.ms → Completes (.agePassStart t n) s d) ∧
      (x.agePass = false → x.ageAt + x.ageTick * Config.ms ≤ d.now →
        Completes (.agePassStart t n) s ((d.wake (12 + 6 * n.val) causeTimer).modTab n.val fun y =>
          { y with
            agePass := true, ageNext := 0, ageLim := max 1 y.learn.ageLimit, ageTick := y.learn.ageTick
            ageAt := y.ageAt + (d.now - y.ageAt) / (x.ageTick * Config.ms) * (x.ageTick * Config.ms) })) ∧
      (∀ bad, (x.agePass = false → Completes (.ageScannerVisit t n bad) s d) ∧
        (x.agePass = true → Completes (.ageScannerVisit t n bad) s
          (({ d with ending := d.ending ++ [.visit n.val x.ageNext bad d.devNs] } : Dev).modTab n.val fun y =>
            { y with ageNext := (y.ageNext + 1) % 131072, agePass := decide (y.ageNext + 1 < 131072) })) ∧
        (∀ (i ns : Nat) (ue hit : Bool), let c := x.inCycle d.cycle; let e := d.addrSeen n.val i; let y := d.addrAt n.val i
          let e' := (d.ageWay n.val i ns ue hit).addrAt n.val i
          let old := min 255 (e.age + 1)
          (c.soft.contains i = true → e' = y) ∧
          (c.soft.contains i = false →
            (ue = true ∨ e.bad = true → e' = { y with valid := false, bad := false }) ∧
            (ue = false → e.bad = false →
              (e.valid = false ∨ e.static = true → e' = y) ∧
              (e.valid = true → e.static = false →
                (hit = true → e' = { y with age := 0 }) ∧
                (hit = false → x.ageLim ≤ old → e' = { y with valid := false }) ∧
                (hit = false → old < x.ageLim → (c.ups.any fun u => u.1 == i && u.2.2) = true → e' = y) ∧
                (hit = false → old < x.ageLim → (c.ups.any fun u => u.1 == i && u.2.2) = false → e' = { y with age := old })))))) ∧
      Completes (.learnRecordExpiry t n) s (d.modTab n.val fun y =>
        { y with filter := y.filter.filter fun r => decide (d.now < r.time + Config.sec) }))

/-- Assembly and the transmit interlock as the host and the wires act on them (R115, R116, R130, R134, R140, R142, R144, Tables 4.2, 4.12
and 4.14): burst settings, Awnings, status, held Pitches, class-0 arrival, which takes effect at the end of its SLICE cycle (R135), IL_STATUS. The queue number that names a slice's queue is the
model's reading of Table 4.14 (log entry 59). -/
def Obligations.AssemblyCommandsComplete : Prop :=
  ∀ (s : State) (t : Nat) (rq : Req), let d := s.dev.begin t; let n := rq.prm 0
    (Accepted d rq 3 [fnPort n] → n ≤ 15 → rq.prm 1 ≤ 1000 → rq.prm 2 ≤ 1000 →
      Completes (.linePortBurstSet t rq) s ((d.modPort n fun p => { p with ton := rq.prm 1, toff := rq.prm 2 }).answer rq 0x0410 {})) ∧
    (Accepted d rq 2 [fnUs (n / 16384)] → n ≤ 131071 → 64 ≤ rq.prm 1 → rq.prm 1 ≤ 10240 → let q := n % 16384; let sl := n / 16384
      Completes (.barrowAwningSet t rq) s (((d.forEach (treesOf sl) fun k e => e.modTree k fun x =>
        { x with
          pitches := x.pitches.map fun p =>
            if p.phase == 0 && p.opened && p.awnOld.get 0 q == 0 then { p with awnOld := p.awnOld.set 0 q ((d.queue sl q).awning + 1) }
            else p }).modQueue sl q fun x => { x with awning := rq.prm 1 }).answer rq 0x0411 {})) ∧
    (Accepted d rq 1 [fnUs n] → n ≤ 7 →
      Completes (.barrowStatus t rq) s (d.answer rq 0x0412
        { results :=
            resWide 20 (d.openPitches n).length ++
            resWide 21 ((d.openPitches n).foldl (fun a x => a + x.2.takes.length + x.2.answers.length) 0) ++
            resWide 48 ((treesOf n).foldl (fun a k => a + (d.count .barFull k 0).val.toNat) 0 % 2 ^ 48) })) ∧
    (Accepted d rq 3 [fnPort (portOfTree n), fnUs (n / 8)] → n ≤ 63 → d.dmaHalted rq.mb.val = false → (d.tree n).cfg.configured = true →
      rq.raw 1 % 4 = 0 → let f := (d.tree n).fr.fc
      Completes (.pitchRead t rq) s ((d.out (.dma rq.mb.val (rq.raw 1 + rq.raw 2 * 2 ^ 32)
        ((d.inOrder n ((d.tree n).pitches.filter fun p => p.frame == f + 1 || p.frame == f + 2)).flatMap fun p =>
          resWide 128 p.block.toNat ++ [BitVec.ofNat 32 p.phase]))).answer rq 0x0413 {})) ∧
    (Accepted d rq 1 [fnPort n] → n ≤ 15 → let ts := (d.port n).lastTrips
      Completes (.ilStatusCmd t rq) s (d.answer rq 0x0414
        { results := resWide 20 (d.ilStatus n) ++ resWide 20 ts.length ++ ts.flatMap fun e => resWide 64 e.time ++ resWide 20 e.cause })) ∧
    (∀ (p : Fin 16) (v : Dword),
      Completes (.ilStatusRead t p) s (d.modPort p.val fun x => { x with trips := 0 }) ∧
      Completes (.ilStatusWrite t p v) s (if v.getLsbD 10 then d.modPort p.val fun x => { x with tripSeen := false } else d)) ∧
    (∀ (n : Fin 8) (q : Nat) (qf : QFault), let e := d.damage n.val q qf
      Completes (.class0BarrowArrival t n q qf) s { e with ending := e.ending ++ [.arrive n.val q] }) ∧
    (∀ (n : Fin 8) (q : Nat) (e : Dev), e.ending = [.arrive n.val q] → let c := { e with ending := [] }; let Q := c.queue n.val q; let k := c.carrier Q.cfg.target
      Q.cfg.valid = true → Q.cfg.kind = 0 → Q.cfg.cls = 0 → Q.cfg.target / 8 = n.val → c.noRank n.val = false → c.dtApplies k = false →
      c.txKeyed k Q.cfg.aid.toNat = true → (c.tree k).removing Q.cfg.aid = false →
      e.endBarrow = (c.wake (pdBarrow n.val) causeTraffic).placeAllC0 k q Q.cfg.aid Q.unread.length)

/-- Assembly, commit, burst, close, transmit reads and the interlock (R23, R115, R127, R128, R130, R131, R136, R138, R139, R142, R144, R152,
R154, R158, R265, R494, Tables 4.9 to 4.11): on each branch that acts, what each event leaves.
The numbers of the trip causes and the phases of a Pitch are the model's (log entries 60 and 69). -/
def Obligations.BurstEventsComplete : Prop :=
  ∀ (s : State) (t : Nat), let d := s.dev.begin t
    (∀ (k : Fin 64) (aid : Word) (qf : QFault), Completes (.barrowAssembly t k aid qf) s { d with ending := d.ending ++ [.assemble k.val aid qf] }) ∧
    (∀ (k : Fin 64) (aid : Word) (qf : QFault) (e : Dev), e.ending = [.assemble k.val aid qf] → let c := { e with ending := [] }
      (c.dtApplies k.val = true → e.endBarrow = c) ∧
      (Config.aidReserved aid = false → c.dtApplies k.val = false → c.txKeyed k.val aid.toNat = true → (c.tree k.val).removing aid = false →
        c.noRank (sliceOfTree k.val) = false →
        c.placedCount (sliceOfTree k.val) < Config.maxPlacedParcels → qf ≠ .takeLog →
        (∀ p ∈ c.assemblies k.val aid, p.ranging = false) → (∀ p ∈ c.assemblies k.val aid, p.answering = false) →
        e.endBarrow = (c.wake (pdBarrow (sliceOfTree k.val)) causePitch).serveFirst k.val qf (c.assemblies k.val aid)) ∧
      (aid = Config.aidAnnounce → c.dtApplies k.val = false → (∀ p ∈ c.assemblies k.val Config.aidAnnounce, p.ranging = false) →
        e.endBarrow = c.placeSerial k.val) ∧
      (∀ p a rest, aid = Config.aidMgmt → c.dtApplies k.val = false → (∀ q ∈ c.assemblies k.val Config.aidMgmt, q.ranging = false) →
        (c.tree k.val).ex.answers = a :: rest → c.assemblies k.val Config.aidMgmt = [p] → p.rng = false →
        c.placedCount (sliceOfTree k.val) < Config.maxPlacedParcels → p.placed + a.blocks ≤ (c.tree k.val).region p →
        e.endBarrow = (c.modPitch k.val p.frame p.pid fun p => { p with answers := p.answers ++ [a] }).modTree k.val fun x =>
          { x with ex := { x.ex with answers := rest } })) ∧
    (∀ (k : Fin 64) (frame pid : Nat) (p : Pitch) (keyBad : Bool) (flaws : List (Nat × QFault)),
      let e := d.forEach flaws fun x d => d.damage (sliceOfTree k.val) x.1 x.2
      e.pitch k.val frame pid = some p → p.phase = 0 → e.pastCommit k.val p = true →
      (∀ q ∈ (e.tree k.val).pitches, q.phase = 0 → e.pastCommit k.val q = true → e.pitchBefore k.val q p = false) →
      let S := e.pitchS k.val p; let f := e.ilFreeze k.val frame pid
      (f.dtApplies k.val = false → (p.reserved = true ∨ f.selected k.val = true) →
        (f.tree k.val).fr.dup = false → p.std = false → p.aid ≠ Config.aidAnnounce → (f.tree k.val).newIgnored p = 0 →
        (f.tree k.val).namedLanes p ≠ [] → p.opened = true → p.skips = false →
        let g := f.bumpN .pitchMaskIgnored k.val 0 0
        Completes (.pitchCommit t k frame pid keyBad flaws) s
          (((if p.ksw && !p.answering then g.kswCommit k.val p.aid.toNat else g).commitBurst k.val p S keyBad).openAll (sliceOfTree k.val))) ∧
      (f.dtApplies k.val = true → p.std = false →
        Completes (.pitchCommit t k frame pid keyBad flaws) s
          ((((f.bump .pitchWithheld k.val 0).ilSet k.val p.frame p.pid none).modPitch k.val p.frame p.pid fun x =>
            { x with phase := 2, fixedS := some S }).openAll (sliceOfTree k.val)))) ∧
    (∀ (k : Fin 64) (frame pid : Nat) (p : Pitch), d.pitch k.val frame pid = some p →
      let S := p.fixedS.getD 0; let port := portOfTree k.val
      (p.phase = 1 → S ≤ d.now → d.heldOff k.val = none → d.now < d.pitchClose k.val p →
        let e := d.wake (pdLtx port) causePitch
        let errors := (p.names.getD []).map fun i => (((e.tree k.val).laneOf i).map fun l => [(e.txLane l).error]).getD []
        let f := e.forEach p.lanes fun l d => d.modTx l fun x => { x.intoBurst with driveAt := S + p.tonUi * Config.ui }
        Completes (.burstStart t k frame pid) s
          ((((f.setDrive p.lanes true).out (.burst k.val S p.hdr (p.sent.flatMap (f.itemBlocks k.val)))).bump
            .burstsSent k.val 0).modPitch k.val frame pid fun x => { x with phase := 3, tx := errors })) ∧
      (∀ c, p.phase = 1 → S ≤ d.now → d.heldOff k.val = some c →
        Completes (.burstStart t k frame pid) s ((d.trip port c).cutPitch k.val p)) ∧
      (p.phase = 1 → S ≤ d.now → d.heldOff k.val = none → d.pitchClose k.val p ≤ d.now →
        Completes (.burstStart t k frame pid) s ((d.trip port tripWindow).cutPitch k.val p)) ∧
      (p.phase = 3 → let cws := if p.answering then 1 else p.codewords
        S + (p.lead + 2700 * cws) * Config.ui ≤ d.now → Completes (.burstEnd t k frame pid) s
          (((d.forEach p.lanes fun l d => d.modTx l fun x => x.countSymbols (p.lead - p.tonUi + 2700 * cws)).laneEnd p.lanes).modPitch
            k.val frame pid fun x => { x with phase := 4 })) ∧
      (p.phase = 4 → d.pitchClose k.val p ≤ d.now → Completes (.pitchClose t k frame pid) s
        ((d.modTree k.val fun x =>
          { x with
            pitches := x.pitches.filter fun q => !q.is frame pid
            il := x.il.filter fun w => !w.is frame pid }).openAll (sliceOfTree k.val)))) ∧
    (∀ (n pool : Fin 8) (index : Word) (stageBad : Bool) (k : Nat) (p : Pitch), let b := d.buffer n.val pool.val index.toNat;
      ((treesOf n.val).findSome? fun k => ((d.tree k).pitches.find? fun p =>
        p.phase != 0 && p.takes.any fun e => e.desc.pool == pool.val && e.desc.index == index.toNat).map fun p => (k, p)) = some (k, p) →
      b.frame.ts = none →
      Completes (.transmitReadDone t n 10 n pool index stageBad) s
        (((d.modPitch k p.frame p.pid fun x =>
          { x with takes := x.takes.filter fun e => !(e.desc.pool == pool.val && e.desc.index == index.toNat) }).mothClose n.val
            b.frame.moth 0 b.frame.bytes.length).freeBuf n.val 10 pool.val index.toNat)) ∧
    (∀ (n pool : Fin 8) (index : Word) (stageBad : Bool) (k : Nat) (p : Pitch) (ring id : Nat) (x : Take), let b := d.buffer n.val pool.val index.toNat;
      let named := fun e : Take => e.desc.pool == pool.val && e.desc.index == index.toNat
      ((treesOf n.val).findSome? fun k => ((d.tree k).pitches.find? fun p => p.phase != 0 && p.takes.any named).map fun p => (k, p)) = some (k, p) →
      b.frame.ts = some (ring, id) → p.takes.find? named = some x → let m := ((d.tree k).namedLanes p).length
      let e := (d.waitStamp { ring := ring, id := id, stamp := b.frame.stamp, at_ := p.fixedS.getD 0 + p.blockUi m (x.pos + 1) * Config.ui,
                              done := p.itemEnd m x.pos x.blocks, tree := k, frame := p.frame, pid := p.pid }).passStamps
      Completes (.transmitReadDone t n 10 n pool index stageBad) s
        (((e.modPitch k p.frame p.pid fun x => { x with takes := x.takes.filter fun e => !named e }).mothClose n.val
            b.frame.moth 0 b.frame.bytes.length).freeBuf n.val 10 pool.val index.toNat)) ∧
    (∀ (n slice pool : Fin 8) (party : Fin 16) (index : Word) (stageBad : Bool),
      slice ≠ n ∨ (party.val ≠ 10 ∧ party.val ≠ 11) →
      Completes (.transmitReadDone t n party slice pool index stageBad) s
        (d.freeHandle n.val party.val slice.val pool.val index.toNat)) ∧
    (∀ (n pool : Fin 8) (index : Word) (stageBad : Bool),
      ((d.slice n.val).buf.reads.any fun r => r.desc.pool == pool.val && r.desc.index == index.toNat) = true →
      Completes (.transmitReadDone t n 11 n pool index stageBad) s (d.egressRead n.val pool.val index.toNat stageBad)) ∧
    (∀ (p : Fin 16) (seen : BitVec 16) (outs : BitVec 4),
      let bad := ((List.range 16).map fun i => 16 * p.val + i).filter fun l =>
        (seen.getLsbD (l % 16) && !d.laneMay l) || (outs.getLsbD (l / 4 % 4) && !d.outputAllowed (l / 4))
      (bad = [] → Completes (.interlockTrip t p seen outs) s d) ∧
      (bad ≠ [] → let e := d.trip p.val (((bad.filterMap d.treeOfLane).findSome? d.heldOff).getD tripWindow)
        let f := e.forEach (treesOfPort p.val) fun k d =>
          d.forEach ((d.tree k).pitches.filter fun p => p.phase == 3 && p.lanes.any bad.contains) fun p d => d.cutPitch k p
        Completes (.interlockTrip t p seen outs) s
          ((f.setDrive bad false).forEach bad fun l d => d.modTx l fun x => { x with cut := x.pattern != 0 }))) ∧
    (∀ b : Fin 64,
      (d.pwr.balls.get false b.val = true → Completes (.ballMismatch t b) s d) ∧
      (d.pwr.balls.get false b.val = false → Completes (.ballMismatch t b) s
        (((d.modPort (b.val / 4) fun x =>
          { x with
            trips := satInc 1023 x.trips, tripSeen := true
            lastTrips := lastN 16 (x.lastTrips ++ [{ time := d.devNs, cause := tripBall }]) }).raise (qPort (b.val / 4)) 0x04 1 (b.val / 4)
              [tripBall]).modPwr fun w => { w with balls := w.balls.set false b.val true })) ∧
      Completes (.ballMismatchEnd t b) s (d.modPwr fun w => { w with balls := w.balls.set false b.val false }))

/-- Ingress, dispatch, reorder, host rings and pauses (R45, R186, R204, R205, R234, R264, R273, R416, R417, R452): on each branch that acts,
what each event leaves; a frame on a port that is down changes nothing.
What a host transmit descriptor's PATH does is the model's reading (log entry 50). -/
def Obligations.IngressEventsComplete : Prop :=
  ∀ (s : State) (t : Nat), let d := s.dev.begin t
    (∀ (p : Fin 256) (f : List Byte) (stamp : Nat) (ue : List (Nat × Nat)), let sp := d.sysPort p.val
      let e := (d.bumpN .macRx p.val 22 f.length).bwAdd (p.val / 32) (2 * (p.val % 32)) f.length
      ((sp.width = 0 ∨ sp.enabled = false ∨ sp.up = false) → Completes (.sysFrameReceived t p f stamp ue) s d) ∧
      (sp.width ≠ 0 → sp.enabled = true → sp.up = true →
        (∀ c, macBad f = some c → Completes (.sysFrameReceived t p f stamp ue) s (e.bump .macRx p.val c)) ∧
        (macBad f = none → let g := e.macOk .macRx p.val ((e.slice (p.val / 32)).tab.tags f).tagged f
          (isPause f = false → isPfc f = false → Completes (.sysFrameReceived t p f stamp ue) s
            (g.ingress (p.val / 32) (ue.filter fun x => Nat.ble x.1 2)
              { bytes := f, dir := .up, port := p.val % 32, stamp := g.devAt stamp, arrFrc := g.time.frcNs })) ∧
          (isPause f = true → (g.egress p.val).pauseEn = true → Completes (.pauseReceived t p f) s
            ((((g.forEach (List.range 8) fun c d => d.pauseClass p.val c ((g.sysPort p.val).bitTicks (512 * be16 f 16))).bump .pauseRx
              p.val 0).bump .macRx p.val 21).lpiCheck p.val)) ∧
          (isPause f = false → isPfc f = true → (g.egress p.val).pfcEn = true → Completes (.pfcReceived t p f) s (g.pfcFrame p.val f)))) ∧
      (isPause f = false → Completes (.pauseReceived t p f) s d) ∧ (isPfc f = false → Completes (.pfcReceived t p f) s d) ∧
      Completes (.pauseExpiry t p) s (d.pauseExpiry p.val)) ∧
    (∀ n : Fin 8, let b := (d.slice n.val).buf
      (b.spills = [] → Completes (.bufferSpillUp t n) s d) ∧
      (∀ r rs, b.spills = r :: rs → Completes (.bufferSpillUp t n) s ((d.modBuf n.val fun x => { x with spills := rs }).request n.val r)) ∧
      (∀ dir ue, 4096 ≤ (d.disp n.val dir).reorder.length → Completes (.frameDispatch t n dir ue) s d) ∧
      (∀ dir ue w, let x := d.disp n.val dir
        let waits := fun ws : List Waiting => ws.filter fun w => !d.behind n.val dir w
        x.reorder.length < 4096 → nextHead (waits x.prio) x.ptrPrio = none → nextHead (waits x.normal) x.ptrNormal = some w →
        let e := d.modDisp n.val dir fun x =>
          { x with normal := x.normal.erase w, busyAt := d.now, pipe := (x.pipe + 1) % 4, ptrNormal := (w.port + 1) % portsOf dir }
        let f := (e.perf n.val 2 dir.num 0 1).mothStage n.val (e.buffer n.val w.pool w.index).frame.moth 3
        let r := (f.badWords n.val (ue.filter fun x => Nat.ble 4 x.1)).pipeline n.val x.pipe dir w { pool := w.pool, index := w.index, port := w.port, prio := false, pipe := x.pipe }
        Completes (.frameDispatch t n dir ue) s (r.2.modDisp n.val dir fun x => { x with reorder := x.reorder ++ [r.1] })) ∧
      (∀ dir (port : Fin 32) prio qf meterBad v, ((d.disp n.val dir).reorder.find? fun v => v.port == port.val && v.prio == prio) = some v →
        let e := d.modDisp n.val dir fun x => { x with reorder := x.reorder.erase v, busyAt := d.now }
        let b := d.buffer n.val v.pool v.index
        (v.drop = true → Completes (.reorderRelease t n dir port prio qf meterBad) s e) ∧
        (v.drop = false → b.left ≠ 0 → Completes (.reorderRelease t n dir port prio qf meterBad) s d) ∧
        (v.drop = false → b.left = 0 → let f := e.mothStage n.val b.frame.moth 4
          Completes (.reorderRelease t n dir port prio qf meterBad) s
            { f with ending := f.ending ++ [EndOp.meter n.val dir v qf meterBad] })) ∧
      (∀ qf stageBad c cs, d.noRank n.val = false → b.copies = c :: cs →
        Completes (.hostRingCopy t n qf stageBad) s
          (((d.modBuf n.val fun b => { b with copies := cs }).readStaging n.val c.pool c.index stageBad).toRing n.val c 8 false true))) ∧
    (∀ (r : Fin 64) (ws : List Dword) (bytes : List Byte), let x := d.txRing r.val
      x.reg = true → x.idx.avail x.entries ≠ 0 → d.dmaHalted (32 + r.val / 4) = false →
      let e := (d.modTxRing r.val fun x => { x with idx := x.idx.push x.entries }).due (336 + r.val)
      let c := txDescOf ws
      let body := (bytes ++ List.replicate (c.len - bytes.length) 0).take c.len
      (c.bad = true → Completes (.txDescriptorRead t r ws bytes) s (e.bump .badDesc 0 r.val)) ∧
      (c.bad = false →
        let f : Frame :=
          { bytes := withFcs body, dir := if c.path = 2 then .down else .up, port := c.port, cls := c.cls
            soft := if c.path = 0 then none else some c.cls, stamp := e.devLin.toNat, arrFrc := e.time.frcNs, lastBit := e.now
            ing := (e.slice x.slice).tab.cfg (ingressNo (if c.path = 2 then .down else .up) c.port)
            ts := if c.ts then some (r, c.id) else none, ring := some r }
        (c.path ≠ 0 → f.ing.bad = true → Completes (.txDescriptorRead t r ws bytes) s
          ((e.bump .actBad x.slice f.dir.num).tsNotSent f none)) ∧
        (c.path = 0 ∨ f.ing.bad = false → Completes (.txDescriptorRead t r ws bytes) s
          (e.request x.slice
            { pool := firstPool (withFcs body).length, party := 8, holder := x.stallholder, frame := f
              path := if c.path = 0 then 1 else 0, arg := c.cls }))))

/-- The downstream commands (R20, R86, R90, R100, R101, R103, Table 3.13): reading and rebuilding accept bits, the switching-request filter,
the skew of a tree's lanes (the coding of its rows is the model's, log entry 21). -/
def Obligations.DownstreamCommandsComplete : Prop :=
  ∀ (s : State) (t : Nat) (rq : Req), let d := s.dev.begin t; let k := rq.prm 0
    (Accepted d rq 5 [fnPort (portOfTree k)] → k ≤ 63 → d.dmaHalted rq.mb.val = false → rq.prm 1 % 32 = 0 → rq.prm 2 % 32 = 0 →
      rq.prm 1 + rq.prm 2 ≤ 2 ^ 20 → rq.raw 3 % 4 = 0 → (d.tree k).cfg.configured = true → let a := (d.tree k).acc
      Completes (.acceptRead t rq) s ((d.out (.dma rq.mb.val (rq.raw 3 + rq.raw 4 * 2 ^ 32) ((List.range (rq.prm 2 / 32)).map fun w =>
        if a.badWords.contains (rq.prm 1 / 32 + w) then 0
        else BitVec.ofNat 32 ((List.range 32).foldl (fun v b =>
          v + (a.bits.get false (32 * (rq.prm 1 / 32 + w) + b)).toNat * 2 ^ b) 0)))).answer rq 0x0310 {})) ∧
    (Accepted d rq 1 [fnPort (portOfTree k)] → k ≤ 63 → (d.tree k).cfg.configured = true →
      let a := (d.tree k).acc
      let words := ((a.bits.map (·.1) ++ a.view.map (·.1)).map (· / 32)).eraseDups
      let r := words.foldl (fun (r : Nat × Accept) w => (r.1 + (r.2.rewrite w).1, (r.2.rewrite w).2)) (0, a)
      Completes (.acceptRebuild t rq) s ((d.modTree k fun x => { x with acc := { r.2 with badWords := [] } }).answer rq 0x0311
        { results := resWide 20 r.1 })) ∧
    (Accepted d rq 2 [fnPort (portOfTree k)] → k ≤ 63 → 2 ≤ rq.prm 1 → rq.prm 1 ≤ 8 → (d.tree k).cfg.configured = true →
      Completes (.srFilterSet t rq) s ((d.modTree k fun x => { x with fr := { x.fr with srN := rq.prm 1 } }).answer rq 0x0312 {})) ∧
    (Accepted d rq 1 [fnPort (portOfTree k)] → k ≤ 63 → (d.tree k).cfg.configured = true → let x := d.tree k
      Completes (.treeSkewRead t rq) s (d.answer rq 0x0313
        { results :=
            toDwords ((List.range 16).flatMap fun m =>
              let p : Nat × Nat := match x.laneOf m, d.claims k m with
                | some l, _ => (l, if x.cfg.removed.contains m then 1 else if x.stripe.contains m then 0 else 3)
                | none, some l => (l, 2)
                | none, none => (0, 3)
              let w := if p.2 = 3 then 0 else (d.align p.1).skew
              [p.1, if skewLimit < w then 0xFFFFF else w, p.2]) }))

/-- The locks of a lane and a tree's frames (R20, R31, R41, R51, R75, R80, R82 to R91, R103, R105, R136, R139, R347): a lane gains, follows
and loses frame lock; a tree decides a frame, and loses its lock. -/
def Obligations.LockEventsComplete : Prop :=
  ∀ (s : State) (t : Nat), let d := s.dev.begin t
    (∀ (l : Fin 256) (arrival pos : Nat) (cw : List RxBlock) (x : LaneTail),
      let a := d.align l.val
      let f := frameStartOf cw
      let run := Completes (.frameStartDecision t l arrival pos cw x) s
      let e := d.pmAdd l.val fun p => { p with corr := p.corr + x.corr, uncorr := p.uncorr + x.uncorr, inv := p.inv + x.inv }
      (a.st = 0 → run d) ∧
      (a.st = 1 → f.passed = false → run (e.modAlign l.val fun a => { a with passes := 0, passed := false })) ∧
      (a.st = 1 → f.passed = true → run (e.seekFrame l.val arrival pos f)) ∧
      (a.st = 2 → pos ≠ 196800 → run e) ∧
      (a.st = 2 → pos = 196800 →
        let g := (e.countTypes l.val (wrongTypes cw)).modAlign l.val fun b =>
          { b with arrival := arrival, interval := arrival - b.arrival, fresh := true }
        let late := g.timeOn && Nat.blt (arrival + Config.cwt) (g.instantOf (g.time.second * 1000000000))
        (f.passed = true → run ((g.modAlign l.val fun b =>
          { b with
            fc := f.fc, passed := true, fails := 0, sr := f.sr, tod := f.tod
            ident := match f.ident with | some i => some i | none => b.ident }).remapLane l.val)) ∧
        (f.passed = false → run (g.modAlign l.val fun b =>
          let b := { b with fc := b.fc + 1, passed := false, fails := b.fails + 1 }
          if late then { b with pmRec := { b.pmRec with pm := { b.pmRec.pm with fs := b.pmRec.pm.fs + 1 } } }
          else { b with pm := { b.pm with fs := b.pm.fs + 1 } })))) ∧
    (∀ (l : Fin 256) (blk : Block), let a := d.align l.val
      (a.st = 2 → a.fails < 8 → Completes (.frameLockLoss t l) s d) ∧
      (a.st = 2 → 8 ≤ a.fails → Completes (.frameLockLoss t l) s
        (((d.raise (d.laneQueue l.val) 0x03 1 l.val [2, 0]).modAlign l.val fun a =>
          { a with st := 1, passes := 0, fails := 0, passed := false, fresh := false, prevSkew := 0, pm := { a.pm with lol := 1 } }).remapLane
            l.val)) ∧
      (fld 8 120 blk = 0x2D → (a.st = 1 ∨ a.st = 2 ∧ a.passed = true) →
        Completes (.laneIdentifierReceived t l blk) s ((d.modAlign l.val fun a =>
          { a with
            ident :=
              some { treeId := (fld 32 88 blk).toNat, logical := (fld 4 84 blk).toNat, laneCount := (fld 5 79 blk).toNat
                     serial := (fld 64 0 blk).toNat } }).remapLane l.val))) ∧
    (∀ (k : Fin 64) (draw l : Nat),
      let run := Completes (.treeFrameDecision t k draw) s
      let d1 := (d.remap k.val).noteCount k.val
      let x := d1.tree k.val
      let need := x.needed (x.fr.fc + 1)
      let ls := need.filterMap x.laneOf
      let d2 := ((d1.noteStream k.val d1.now).modPwr fun w => { w with streamCw := w.streamCw.set 0 k.val 0 }).measure k.val need
      let a := d2.align l
      ((d.tree k.val).cfg.configured = false → run d) ∧
      ((d.tree k.val).cfg.configured = true → d1.frameDue k.val ls = false → run d1) ∧
      ((d.tree k.val).cfg.configured = true → d1.frameDue k.val ls = true → x.fr.tfl = true → d2.frameOk x need = true → x.refLane = some l →
        a.st = 2 → a.fresh = true → a.passed = true →
        let d3 := ((d2.countFrame k.val (some a.fc)).forEach ls fun l d => d.modAlign l fun a => { a with fresh := false }).modTree k.val fun y =>
          { y with
            fr :=
              { y.fr with
                refArr := (d1.refArrival k.val).1, refInt := (d1.refArrival k.val).2, refPast := (x.fr.refArr :: x.fr.refPast).take 16
                fails := 0, listBad := false, listSeen := 0, listIds := [], listNew := [] } }
        (d3.tree k.val).fr.tfl = true →
        let d4 := ((d3.modTree k.val fun y => { y with fr := y.fr.run a.sr }).overlapFrame k.val).treeTime k.val a.tod
        run ((d4.reselect k.val).tryDraw k.val draw))) ∧
    (∀ k : Fin 64, let x := d.tree k.val
      (x.fr.tfl = true → 8 ≤ x.fr.fails →
        (x.join.st ≠ 0 →
          let lost := (((((d.commitDue k.val).undoTree k.val).raise (qTree k.val) 0x01 5 k.val []).loseTree k.val).dropCommitted k.val).modTree
            k.val fun x => { x with pitches := [], il := [], cfg := { x.cfg with removed := [], changes := [] } }
          Completes (.entryToLost t k) s ((lost.discardTree k.val).resetTaps (lost.groupLanes k.val))) ∧
        (x.join.st = 0 → Completes (.listeningLockLoss t k) s ((d.commitDue k.val).loseTree k.val))))

/-- Switching requests, the Pitch list, parcels, lane changes, accept bits and EqD (R39, R75, R92, R93, R95 to R101, R103, R109, R110, R129,
R131, R497, Table 3.9): on each branch that acts, what each event of a tree in tree frame lock leaves.
A word of accept bits holds 32 AIDs in the model (log entry 72). -/
def Obligations.StreamEventsComplete : Prop :=
  ∀ (s : State) (t : Nat), let d := s.dev.begin t
    (∀ k : Fin 64, let x := d.tree k.val
      (x.fr.tfl = true → x.fr.srN ≤ x.fr.srRun → x.fr.sr ≠ some x.fr.srVal →
        Completes (.srValueAccepted t k) s
          ((d.modTree k.val fun x => { x with fr := { x.fr with sr := some x.fr.srVal } }).reselect k.val)) ∧
      (∀ o v, let w := d.pairKey k.val
        (d.tree w).cfg.pair = some o → (d.tree w).cfg.switching = some v →
        let off := if v then w else o
        let c := (d.commitDue w).commitDue o
        let e := c.modTree w fun x => { x with cfg := { x.cfg with selProtect := v, switching := none } }
        let ps := e.inOrder off ((e.tree off).pitches.filter fun p => p.phase == 0 && p.opened && !p.reserved)
        Completes (.protectionSwitchComplete t k) s
          (((e.undoAll off ps).modTree off fun x =>
            { x with
              pitches := x.pitches.map fun p => if p.phase == 0 && !p.reserved then { p with opened := false } else p }).openAll
                (sliceOfTree w))) ∧
      (∀ hdr blk n m, let p := pitchOf blk.pl (x.fr.fc + 2)
        x.cfg.configured = true → x.fr.tfl = true → d.listHeader k.val hdr = some (n, m) → x.fr.listSeen < n → blk.unc = false → blk.ctl = false →
        blockChk blk.pl = fld 16 0 blk.pl → x.join.leaf = some p.leaf → p.reserved = false →
        let e := (d.modTree k.val fun x => { x with fr := { x.fr with listSeen := x.fr.listSeen + 1 } }).modTree k.val fun x =>
          { x with fr := { x.fr with listIds := x.fr.listIds ++ [p.pid] } }
        (x.upAlloc p.aid = false → Completes (.pitchListEntry t k hdr blk) s (e.bump .entryUnknown k.val 0)) ∧
        (x.upAlloc p.aid = true → p.malformed = true → Completes (.pitchListEntry t k hdr blk) s (e.bump .pitchMalformed k.val 0)) ∧
        (x.upAlloc p.aid = true → p.malformed = false → x.fr.listIds.contains p.pid = true →
          Completes (.pitchListEntry t k hdr blk) s (e.bump .entryDup k.val 0)) ∧
        (x.upAlloc p.aid = true → p.malformed = false → x.fr.listIds.contains p.pid = false →
          Completes (.pitchListEntry t k hdr blk) s
            (e.modTree k.val fun x => { x with fr := { x.fr with listNew := x.fr.listNew ++ [p] } }))) ∧
      (∀ hdr nm, x.cfg.configured = true → x.fr.tfl = true → d.listHeader k.val hdr = some nm → nm.1 ≤ x.fr.listSeen →
        let name := fun (xs : List (Nat × Option Nat)) => xs.map fun e => if e.2.isNone then (e.1, some (x.fr.fc + 2)) else e
        let e := d.modTree k.val fun x =>
          { x with
            fr := { x.fr with listNew := [], listDone := ((d.now, x.fr.fc) :: x.fr.listDone).take 64 }
            eqd := { x.eqd with next := name x.eqd.next, rangeNext := name x.eqd.rangeNext, roundNext := name x.eqd.roundNext } }
        let off := if x.fr.listNew.isEmpty then [] else (e.pairLtx k.val).filter fun q => (e.dom q).st == 2
        Completes (.pitchListComplete t k hdr) s
          ((e.wakeAll (pdBarrow (sliceOfTree k.val) :: off) causePitch).useList k.val x.fr.listNew)) ∧
      (x.cfg.configured = false ∨ x.fr.tfl = false → ∀ item keyBad ue, Completes (.parcelReceived t k item keyBad ue) s d) ∧
      (x.cfg.configured = true → x.fr.tfl = true → ∀ keyBad ue, let low := ue.filter fun e => Nat.ble e.1 2
        (∀ n, Completes (.parcelReceived t k (.stray n) keyBad ue) s (if x.fr.resync then d else d.bumpN .strayData k.val 0 n)) ∧
        (∀ typ, Completes (.parcelReceived t k (.overhead typ) keyBad ue) s (if typ == 0x1E then d else d.bump .badType k.val 0)) ∧
        (∀ rest stampAt tagAt, let run := Completes (.parcelReceived t k (.body rest stampAt tagAt) keyBad ue) s
          (x.fr.recv = none → run d) ∧
          (∀ r, x.fr.recv = some r → let data := parcelData r.hdr rest; let e := d.modTree k.val fun y => { y with fr := { y.fr with recv := none } }
            let short := !noticeParcelOk r.hdr || decide (data.length < hdrLength r.hdr / 16 + 1)
            let last := fun f : Dev => f.bumpN .strayData k.val 0 (strayAfter r.hdr rest)
            (r.kept = 1 → run (last (e.parcelBody k.val r data keyBad low stampAt tagAt))) ∧
            (r.kept = 2 → run (last (if short then e.bump .noticeBad k.val 0 else e))) ∧ (r.kept ≠ 1 → r.kept ≠ 2 → run (last e)))) ∧
        (∀ b accBad, let run := Completes (.parcelReceived t k (.control b accBad) keyBad ue) s; let e := d.parcelOver k.val [] d.now d.now false []
          (x.fr.resync = true → (b.ctl = false ∨ b.unc = true) → run d) ∧
          (x.fr.resync = false → b.ctl = false → run (e.bump .strayData k.val 0)) ∧
          (b.ctl = true → (x.fr.resync = false ∨ b.unc = false) →
            let f := e.modTree k.val fun x => { x with fr := { x.fr with resync := false } }
            let h := b.pl; let len := hdrLength h
            let e' := e.modTree k.val fun x => { x with fr := { x.fr with resync := false, recv := some { hdr := h } } }
            (fld 8 120 h ≠ 0x78 → run (if fld 8 120 h == 0x1E then f else f.bump .badType k.val 0)) ∧
            (fld 8 120 h = 0x78 → (b.unc = true ∨ blockChk h ≠ fld 16 0 h) →
              run ((e.modTree k.val fun x => { x with fr := { x.fr with resync := true } }).bump .parHdr k.val 0)) ∧
            (fld 8 120 h = 0x78 → b.unc = false → blockChk h = fld 16 0 h →
              (hdrAid h = Config.aidNotice.toNat →
                run (e'.modTree k.val fun x => { x with fr := { x.fr with recv := some { hdr := h, kept := 2 } } })) ∧
              (hdrAid h ≠ Config.aidNotice.toNat → Config.aidReserved (fld 20 100 h) = true → run (e'.bump .parRsvd k.val 0)) ∧
              (hdrAid h ≠ Config.aidNotice.toNat → Config.aidReserved (fld 20 100 h) = false →
                ((len < 64 ∨ 10240 < len) → run (e'.bump .parLen k.val 0)) ∧
                (64 ≤ len → len ≤ 10240 →
                  (e'.selected k.val = false → run (e'.bump .parNotsel k.val 0)) ∧
                  (e'.selected k.val = true → let g := e'.acceptBoundary k.val; let word := hdrAid h / 32
                    let g' := (g.sramBad (sliceOfTree k.val) 11 word).modTree k.val fun x =>
                      { x with acc := { x.acc with badWords := word :: x.acc.badWords.filter fun w => w != word } }
                    let g := if accBad then g' else g
                    ((g.tree k.val).acc.passes (hdrAid h) = false → run (g.bump .parUnacc k.val 0)) ∧
                    ((g.tree k.val).acc.passes (hdrAid h) = true → run (g.parcelBegin k.val h low))))))))) ∧
      (let due := x.cfg.changes.filter fun c => d.reached k.val c.frame 40;
        Completes (.laneChangeEffect t k) s (d.regroup k.val fun d => d.modTree k.val fun x =>
          { x with
            cfg :=
              { x.cfg with
                removed :=
                  due.foldl (fun r c => if c.back then r.filter (fun m => m != c.lane) else if r.contains c.lane then r else r ++ [c.lane])
                    x.cfg.removed
                changes := x.cfg.changes.filter fun c => !due.contains c } })) ∧
      (let held := fun c : BitChange => c.val && d.keysComing k.val c.aid
       let due := x.acc.waiting.filter fun c => d.reached k.val c.frame 200 && !held c
       let next := if d.reached k.val x.fr.fc 200 then x.fr.fc + 1 else x.fr.fc
       let e := d.modTree k.val fun x =>
         { x with
           acc :=
             { x.acc with
               waiting := x.acc.waiting.map fun c => if d.reached k.val c.frame 200 && held c then { c with frame := next } else c } }
       (due = [] → Completes (.acceptBitBoundary t k) s e) ∧
       (due ≠ [] → Completes (.acceptBitBoundary t k) s ((e.wake (pdTables (sliceOfTree k.val)) causeTree).modTree k.val fun x =>
         { x with
           acc :=
             due.foldl (fun a c => { a with bits := a.bits.set false c.aid c.val, view := a.view.set false c.aid c.val })
               { x.acc with waiting := x.acc.waiting.filter fun c => !due.contains c } }))) ∧
      (∀ word < 32768, x.cfg.configured = true → Completes (.acceptWordRewrite t k word) s
        ((d.modTree k.val fun x => { x with acc := (x.acc.rewrite word).2 }).raise (qTree k.val) 0x03 5 k.val [word])) ∧
      Completes (.eqdTakesEffect t k) s (d.modTree k.val fun x =>
        let due := fun (e : Nat × Option Nat) => (e.2.map fun n => decide (n ≤ x.fr.fc)).getD false
        { x with
          eqd :=
            { cur := eqdOf x.eqd.cur x.eqd.next x.fr.fc, next := x.eqd.next.filter fun e => !due e
              rangeCur := if x.eqd.rangeNext.any due then some (eqdOf (x.eqd.rangeCur.getD 0) x.eqd.rangeNext x.fr.fc) else x.eqd.rangeCur
              rangeNext := x.eqd.rangeNext.filter fun e => !due e
              roundCur := eqdOf x.eqd.roundCur x.eqd.roundNext x.fr.fc, roundNext := x.eqd.roundNext.filter fun e => !due e } }))

/-- The join commands and the timers of a leaf (R153, R157, R158, R166, R168, R174, R177, R184, R402, Tables 5.17 and 5.18): status, the
dormant request, the join log; what each timer does once its instant has come. -/
def Obligations.JoinCommandsComplete : Prop :=
  ∀ (s : State) (t : Nat) (rq : Req), let d := s.dev.begin t; let k := rq.prm 0
    (k ≤ 63 → (d.tree k).cfg.configured = true →
      (Accepted d rq 1 [fnPort (portOfTree k)] →
        Completes (.joinStatusCmd t rq) s (d.answer rq 0x0510
          { results :=
              resWords (d.joinStatus k) ++ (joinCounts.flatMap fun c => resWide 48 (d.count c k 0).val.toNat) ++
              resWide 48 (d.tree k).join.attempts ++ [BitVec.ofNat 32 (d.tree k).dt.held.toNat] ++ resWide 32 (d.tree k).dt.treeId })) ∧
      (Accepted d rq (2 + 2 * rq.prm 1) [fnPort (portOfTree k), fnUs (k / 8)] → 1 ≤ rq.prm 1 → rq.prm 1 ≤ 4 →
        (∀ j < rq.prm 1, 1 ≤ rq.prm (3 + 2 * j) ∧ rq.prm (3 + 2 * j) ≤ 2 ∧ ((d.tree k).allocs.get {} (rq.prm (2 + 2 * j))).us = true) →
        Completes (.dormantRequest t rq) s ((d.queueAnswer k
          { atype := 0x47, tagged := true, param := 1
            body :=
              [(List.range (rq.prm 1)).foldl (fun b j => b ||| (put 128 (108 - 32 * j) (BitVec.ofNat 20 (rq.prm (2 + 2 * j))) |||
                put 128 (106 - 32 * j) (BitVec.ofNat 2 (rq.prm (3 + 2 * j))))) 0] }).answer rq 0x0511 {})) ∧
      (Accepted d rq 3 [fnPort (portOfTree k)] → d.dmaHalted rq.mb.val = false → rq.raw 1 % 4 = 0 →
        Completes (.joinLogRead t rq) s ((d.out (.dma rq.mb.val (rq.raw 1 + rq.raw 2 * 2 ^ 32) ((d.tree k).ex.log.flatMap fun e =>
          resWide 20 e.typ ++ resWide 32 e.nseq ++ resWide 20 e.result ++ resWide 64 e.time))).answer rq 0x0512 {}))) ∧
    (∀ (k : Fin 64) (draw : Nat), let x := d.tree k.val
      let past := fun e : Option Ticks => ∃ b, e = some b ∧ b ≤ d.now
      (x.join.st = 0 → past x.join.tAssign → Completes (.tAssignExpiry t k draw) s
        (((d.modTree k.val fun x => { x with join := { x.join with tAssign := none, k := min (x.join.k + 1) 10 } }).bump .assignTimeout
          k.val 0).tryDraw k.val draw)) ∧
      (x.join.st = 1 → past x.join.tAnnounced → Completes (.tAnnouncedExpiry t k draw) s (((d.commitDue k.val).deregister k.val 0 d.now).tryDraw k.val draw)) ∧
      (x.join.st = 2 → past x.join.tRanged → Completes (.tRangedExpiry t k draw) s (((d.commitDue k.val).deregister k.val 0 d.now).tryDraw k.val draw)) ∧
      (past x.join.tKex → Completes (.tKexExpiry t k) s
        (((d.modVault fun v => { v with kex := v.kex.erase k.val }).modTree k.val fun x =>
          { x with join := { x.join with tKex := none } }).bump .kexTimeout k.val 0)) ∧
      (past x.join.holdoff → Completes (.holdoffExpiry t k draw) s
        ((d.modTree k.val fun x => { x with join := { x.join with holdoff := none } }).tryDraw k.val draw)) ∧
      (∀ eph nonce,
        (x.ex.kexShare = none ∨ x.join.st ≠ 2 ∨ d.vault.sign.waiting k.val d.now = true → Completes (.kexShareReady t k eph nonce) s d) ∧
        (∀ q, x.ex.kexShare = some q → x.join.st = 2 → d.vault.sign.waiting k.val d.now = false →
          let share := d.kexShare k.val q eph nonce
          Completes (.kexShareReady t k eph nonce) s
            (((d.modVault fun v =>
              { v with kex := v.kex.set {} k.val { active := true, cand := share.2 }, sign := v.sign.done k.val d.now }).modTree k.val fun x =>
              { x with ex := { x.ex with kexShare := none } }).reply k.val q
                { atype := 0x44, nseq := q.nseq, ntype := 0x05, body := blocksOfBytes share.1, param := 1 }))) ∧
      (let e := d.commitDue k.val
        let y := e.tree k.val
        let old := fun (a : Answer) => decide (a.ready + Config.sec ≤ e.now)
        let placed := (y.pitches.filter fun p => p.phase == 0).flatMap (·.answers)
        Completes (.answerStale t k) s
          ((e.bumpN .ansStale k.val 0 ((placed ++ y.ex.answers ++ y.ex.ranges ++ y.join.pass.toList).filter old).length).modTree k.val fun x =>
            { x with
              pitches := x.pitches.map fun p => if p.phase == 0 then { p with answers := p.answers.filter fun a => !old a } else p
              join := { x.join with pass := x.join.pass.filter fun a => !old a }
              ex :=
                { x.ex with
                  answers := x.ex.answers.filter (fun a => !old a), ranges := x.ex.ranges.filter (fun a => !old a)
                  respKind := if (y.ex.answers ++ placed).any fun a => old a && a.atype == 0x45 then 0 else x.ex.respKind } })))

/-- Notices (R41, R93, R113, R145 to R150, R161 to R178, R304 to R306, Tables 5.1 to 5.3, 5.12, 5.13): the verdict on a received notice, and what
the notice of each type at the head of its queue leaves when it is no repetition.
The results in the join log are the model's (log entry 63), and so is the reading of when a notice's effect begins (log entry 64). -/
def Obligations.NoticesComplete : Prop :=
  ∀ (s : State) (t : Nat) (k : Fin 64), let d := s.dev.begin t; let x := d.tree k.val
    (∀ (n : NoticeIn) (draw : Nat), let h := n.hdr.pl; let v := x.fr.fc / 2 ^ 32 * 2 ^ 32 + nSeq h
      let run := Completes (.noticeReceived t k n draw) s
      (x.cfg.configured = false ∨ x.fr.tfl = false ∨ d.noticeStream k.val n = none → run d) ∧
      (∀ parcel key blocks, x.cfg.configured = true → x.fr.tfl = true → d.noticeStream k.val n = some (parcel, key, blocks) →
        let at_ := fun next => d.modTree k.val fun x =>
          let c : NoticeCur := { key := key, next := next }
          { x with ex := if parcel then { x.ex with curParcel := some c } else { x.ex with curList := some c } }
        (x.ex.nextBlock parcel key ≠ some n.off ∨ blocks ≤ n.off → run d) ∧
        (x.ex.nextBlock parcel key = some n.off → n.off < blocks →
          ((n.hdr.ok = false ∨ blockChk h ≠ fld 16 0 h) → run ((at_ blocks).noticeFails k.val 1 .noticeBad h)) ∧
          (n.hdr.ok = true → blockChk h = fld 16 0 h →
            (parcel = true → nType h = 0 → run (at_ blocks)) ∧
            (parcel = false ∨ nType h ≠ 0 →
              (blocks < n.off + 2 + nBody h → run ((at_ blocks).noticeFails k.val 1 .noticeBad h)) ∧
              (n.off + 2 + nBody h ≤ blocks → n.trailer = none → run d) ∧
              (∀ tr, n.off + 2 + nBody h ≤ blocks → n.trailer = some tr → let f := at_ (n.off + 2 + nBody h)
                ((nType h = 0 ∨ 15 < nType h) → run (f.noticeFails k.val 2 .noticeUnknown h)) ∧
                (1 ≤ nType h → nType h ≤ 15 → f.addressed k.val h n.body = false → run f) ∧
                (1 ≤ nType h → nType h ≤ 15 → f.addressed k.val h n.body = true →
                  let good := bodyOk (nType h) (nAddr h) ((nParam h).toNat % 4) (nBody h) = true ∧ (∀ b ∈ n.body, b.ok = true) ∧ tr.ok = true
                  let sum := crc32Blocks (h :: n.body.map (·.pl)) = fld 32 0 tr.pl
                  (¬ good → run (f.noticeFails k.val 4 .noticeBad h)) ∧
                  (good → nAuth h = false → ¬ sum → run (f.noticeFails k.val 4 .noticeBad h)) ∧
                  (good → nAuth h = false → sum → stateAllows (nType h) (nAddr h) false x.join.st = false →
                    run (f.noticeFails k.val 5 .noticeState h)) ∧
                  (good → nAuth h = true → let c := f.checkTag k.val v n tr.pl
                    (c.1 = .fail → run (c.2.noticeFails k.val 4 .noticeAuth h)) ∧
                    (c.1 = .again → run ((((x.ex.last.get none (nType h)).map fun l => l.answers).getD []).foldl
                      (fun d a => d.queueAnswer k.val a) (c.2.noticeFails k.val 4 .noticeAuth h))) ∧
                    (c.1 = .notNow → run (c.2.noticeFails k.val 5 .noticeState h)) ∧
                    (c.1 = .ok → (nType h = 1 → x.fr.dup = false) → (nType h = 5 → (nParam h).toNat % 4 = 2) →
                      (stateAllows (nType h) (nAddr h) true x.join.st = false → run (c.2.noticeFails k.val 5 .noticeState h)) ∧
                      (stateAllows (nType h) (nAddr h) true x.join.st = true →
                        run ((if 3 ≤ x.join.st ∨ nType h = 5 then c.2.modTree k.val fun x => { x with ex := x.ex.takeV v } else c.2).acceptNotice
                          k.val v draw n)))) ∧
                  (good → nAuth h = false → sum → nType h ≠ 5 → (nType h = 1 → x.fr.dup = false) →
                    stateAllows (nType h) (nAddr h) false x.join.st = true →
                    let rep := ((x.ex.last.get none (nType h)).map fun l => l.nseq == nSeq h).getD false
                    let q : NoticeQ :=
                      { ntype := nType h, param := nParam h, nseq := nSeq h, auth := false, body := n.body.map (·.pl), at_ := d.now
                        frame := x.fr.fc, dup := rep }
                    let g := (if rep then f else f.modTree k.val fun x =>
                      { x with ex := { x.ex with last := x.ex.last.set none (nType h) (some { nseq := nSeq h, v := v }) } }).joinLog k.val
                        (nType h) (nSeq h) 0
                    (nType h ≠ 0x09 → nType h ≠ 0x0C → run (g.enterNotice k.val q)) ∧
                    (nType h = 0x09 →
                      Completes (.nPitchRev t k n) s (if rep then g else g.revise k.val x.fr.fc ((nParam h).toNat % 4) (b0 q))) ∧
                    (nType h = 0x0C → (nParam h).getLsbD 0 = true →
                      (rep = true → Completes (.nDisableTxSet t k n) s g) ∧
                      (rep = false → let c := g.commitDue k.val
                        let c1 := ({ c.modTree k.val fun x => { x with dt := { held := true, treeId := x.fr.heldId } } with recDirty := true } : Dev)
                        let c2 := (c1.undoTree k.val).modTree k.val fun x =>
                          { x with pitches := x.pitches.map fun p => if p.phase == 0 then { p with opened := false } else p }
                        Completes (.nDisableTxSet t k n) s (if (c2.tree k.val).pitches.any fun p => p.phase == 3 then
                          (c2.trip (portOfTree k.val) tripDisable).cutStarted k.val else c2))) ∧
                    (nType h = 0x0C → (nParam h).getLsbD 0 = false → let y := g.tree k.val
                      (rep = true → Completes (.nDisableTxLift t k n draw) s (g.replay k.val q)) ∧
                      (rep = false → y.dt.held = true → y.fr.heldId = y.dt.treeId →
                        let c := ({ (g.commitDue k.val).modTree k.val fun x => { x with dt := {} } with recDirty := true } : Dev)
                        Completes (.nDisableTxLift t k n draw) s (((c.ack k.val q 0).openAll (sliceOfTree k.val)).tryDraw k.val draw)) ∧
                      (rep = false → (y.dt.held = false ∨ y.fr.heldId ≠ y.dt.treeId) →
                        Completes (.nDisableTxLift t k n draw) s ((g.logResult k.val q 21).bump .noticeState k.val 0))))))))))) ∧
    (∀ q rest, x.ex.queue = q :: rest → q.dup = false → x.ex.busy = false →
      let e := d.modTree k.val fun x => { x with ex := { x.ex with queue := rest } }
      (q.ntype = 0x01 → Completes (.nAssign t k) s (e.nAssign k.val q)) ∧
      (q.ntype = 0x02 → Completes (.nRange t k) s (e.modTree k.val fun x =>
        { x with
          eqd :=
            { x.eqd with
              rangeNext := x.eqd.rangeNext ++ [x.eqdEntry q (fld 27 0 q.param).toNat]
              roundNext := x.eqd.roundNext ++ [x.eqdEntry q (fld 4 27 q.param).toNat] } })) ∧
      (q.ntype = 0x03 → Completes (.nEqd t k) s (e.nEqd k.val q)) ∧
      (q.ntype = 0x04 → Completes (.nTxset t k) s (e.nTxset k.val q)) ∧
      (q.ntype = 0x05 → q.param.toNat % 4 = 0 → ∀ certs, Completes (.nKexPhase0 t k certs) s (e.kexChain k.val certs q)) ∧
      (q.ntype = 0x05 → q.param.toNat % 4 = 1 → Completes (.nKexPhase1 t k) s (e.kexShareIn k.val q)) ∧
      (q.ntype = 0x05 → q.param.toNat % 4 = 2 → Completes (.nKexPhase2 t k) s (e.kexDone k.val q)) ∧
      (q.ntype = 0x06 → Completes (.nAttest t k) s (e.nAttest k.val q)) ∧
      (q.ntype = 0x07 → Completes (.nAllocAdd t k) s (e.nAllocAdd k.val q)) ∧
      (q.ntype = 0x08 → Completes (.nAllocRemove t k) s (e.nAllocRemove k.val q)) ∧
      (q.ntype = 0x0A → Completes (.nTime t k) s (e.modTree k.val fun x =>
        { x with
          time :=
            { x.time with
              utc := (fld 16 112 (b0 q)).toInt, leap := (fld 2 110 (b0 q)).toNat, asym := (fld 32 78 (b0 q)).toInt } })) ∧
      (q.ntype = 0x0B → Completes (.nProtect t k) s (e.nProtect k.val q)) ∧
      (q.ntype = 0x0D → ∀ draw, Completes (.nDeregister t k draw) s (e.nDeregister k.val draw q)) ∧
      (q.ntype = 0x0E → Completes (.nDormant t k) s (e.nDormant k.val q)) ∧
      (q.ntype = 0x0F → (b0 q).getLsbD 91 = false → Completes (.nLaneRemove t k) s (e.nLane k.val q)) ∧
      (q.ntype = 0x0F → (b0 q).getLsbD 91 = true → Completes (.nLaneReturn t k) s (e.nLane k.val q)))
end

