-- ==== Sys2Proof/Laws/Tab.lean ====
section
/-! SUPPORT. What the operations of a sparse table do: reading after a write, and that every operation keeps the canonical form. -/

namespace Sys2Proof

variable {α : Type}

theorem Tab.get_erase_same (d : α) (m : Tab α) (i : Nat) : Tab.get d (Tab.erase m i) i = d := by
  induction m with
  | nil => rfl
  | cons e m ih =>
    obtain ⟨k, w⟩ := e
    unfold Tab.erase
    split
    · exact ih
    · simp_all [Tab.get]

theorem Tab.get_erase_other (d : α) (m : Tab α) {i j : Nat} (h : i ≠ j) : Tab.get d (Tab.erase m i) j = Tab.get d m j := by
  induction m with
  | nil => rfl
  | cons e m ih =>
    obtain ⟨k, w⟩ := e
    unfold Tab.erase
    split
    · subst k; simpa [Tab.get, h] using ih
    · simp [Tab.get, ih]

theorem Tab.get_ins_other (d : α) (m : Tab α) {i j : Nat} (v : α) (h : i ≠ j) : Tab.get d (Tab.ins m i v) j = Tab.get d m j := by
  induction m with
  | nil => simp [Tab.ins, Tab.get, h]
  | cons e m ih =>
    obtain ⟨k, w⟩ := e
    unfold Tab.ins
    split <;> simp [Tab.get, h, ih]

/-- No entry of index i. -/
theorem Tab.mem_erase {m : Tab α} {i : Nat} {e : Nat × α} (h : e ∈ Tab.erase m i) : e ∈ m ∧ e.1 ≠ i := by
  induction m with
  | nil => simp [Tab.erase] at h
  | cons x m ih =>
    obtain ⟨k, w⟩ := x
    unfold Tab.erase at h
    split at h
    · have := ih h; exact ⟨List.mem_cons_of_mem _ this.1, this.2⟩
    · rcases List.mem_cons.1 h with rfl | h
      · exact ⟨List.mem_cons_self .., ‹_›⟩
      · have := ih h; exact ⟨List.mem_cons_of_mem _ this.1, this.2⟩

theorem Tab.get_ins_new (d : α) {m : Tab α} {i : Nat} (v : α) (h : ∀ e ∈ m, e.1 ≠ i) : Tab.get d (Tab.ins m i v) i = v := by
  induction m with
  | nil => simp [Tab.ins, Tab.get]
  | cons e m ih =>
    obtain ⟨k, w⟩ := e
    unfold Tab.ins
    split
    · simp [Tab.get]
    · have hk : k ≠ i := h (k, w) (List.mem_cons_self ..)
      simpa [Tab.get, hk] using ih fun e he => h e (List.mem_cons_of_mem _ he)

/-- A write is read back. -/
@[simp] theorem Tab.get_set_same [DecidableEq α] (d : α) (m : Tab α) (i : Nat) (v : α) : Tab.get d (Tab.set d m i v) i = v := by
  unfold Tab.set
  split
  · rw [Tab.get_erase_same]; exact Eq.symm ‹_›
  · exact Tab.get_ins_new d v fun e he => (Tab.mem_erase he).2

/-- A write leaves every other index alone. -/
theorem Tab.get_set_other [DecidableEq α] (d : α) (m : Tab α) {i j : Nat} (v : α) (h : i ≠ j) :
    Tab.get d (Tab.set d m i v) j = Tab.get d m j := by
  unfold Tab.set
  split
  · exact Tab.get_erase_other d m h
  · rw [Tab.get_ins_other d _ v h, Tab.get_erase_other d m h]

@[simp] theorem Tab.get_upd_same [DecidableEq α] (d : α) (m : Tab α) (i : Nat) (f : α → α) :
    Tab.get d (Tab.upd d m i f) i = f (Tab.get d m i) := Tab.get_set_same ..

theorem Tab.get_upd_other [DecidableEq α] (d : α) (m : Tab α) {i j : Nat} (f : α → α) (h : i ≠ j) :
    Tab.get d (Tab.upd d m i f) j = Tab.get d m j := Tab.get_set_other d m _ h

/-! ### Two writes of one index -/

theorem Tab.erase_of_ne {m : Tab α} {i : Nat} (h : ∀ e ∈ m, e.1 ≠ i) : Tab.erase m i = m := by
  induction m with
  | nil => rfl
  | cons e m ih =>
    obtain ⟨k, w⟩ := e
    have hk : k ≠ i := h (k, w) (List.mem_cons_self ..)
    simp [Tab.erase, hk, ih fun e he => h e (List.mem_cons_of_mem _ he)]

theorem Tab.erase_ins {m : Tab α} {i : Nat} (v : α) (h : ∀ e ∈ m, e.1 ≠ i) : Tab.erase (Tab.ins m i v) i = m := by
  induction m with
  | nil => simp [Tab.ins, Tab.erase]
  | cons e m ih =>
    obtain ⟨k, w⟩ := e
    have hk : k ≠ i := h (k, w) (List.mem_cons_self ..)
    have hm := fun e he => h e (List.mem_cons_of_mem _ he)
    unfold Tab.ins
    split
    · simp [Tab.erase, hk, Tab.erase_of_ne hm]
    · simp [Tab.erase, hk, ih hm]

/-- Of two writes of one index, the second stands. -/
@[simp] theorem Tab.set_set [DecidableEq α] (d : α) (m : Tab α) (i : Nat) (v w : α) : Tab.set d (Tab.set d m i v) i w = Tab.set d m i w := by
  have he : Tab.erase (Tab.set d m i v) i = Tab.erase m i := by
    unfold Tab.set
    split
    · exact Tab.erase_of_ne fun e he => (Tab.mem_erase he).2
    · exact Tab.erase_ins v fun e he => (Tab.mem_erase he).2
  unfold Tab.set at he ⊢
  rw [he]

/-! ### The canonical form is kept -/

theorem Tab.risingFrom_mono {lo lo' : Nat} {m : Tab α} (h : lo' ≤ lo) (hr : Tab.risingFrom lo m = true) : Tab.risingFrom lo' m = true := by
  cases m with
  | nil => rfl
  | cons e m => obtain ⟨k, w⟩ := e; simp [Tab.risingFrom] at *; exact ⟨by omega, hr.2⟩

theorem Tab.risingFrom_erase {m : Tab α} (i : Nat) : ∀ {lo : Nat}, Tab.risingFrom lo m = true → Tab.risingFrom lo (Tab.erase m i) = true := by
  induction m with
  | nil => simp [Tab.erase]
  | cons e m ih =>
    obtain ⟨k, w⟩ := e
    intro lo h
    simp only [Tab.risingFrom, Bool.and_eq_true, decide_eq_true_eq] at h
    unfold Tab.erase
    split
    · exact Tab.risingFrom_mono (by omega) (ih h.2)
    · simp [Tab.risingFrom, h.1, ih h.2]

theorem Tab.risingFrom_ins {m : Tab α} (i : Nat) (v : α) :
    ∀ {lo : Nat}, lo ≤ i → Tab.risingFrom lo m = true → (∀ e ∈ m, e.1 ≠ i) → Tab.risingFrom lo (Tab.ins m i v) = true := by
  induction m with
  | nil => intro lo h; simp [Tab.ins, Tab.risingFrom, h]
  | cons e m ih =>
    obtain ⟨k, w⟩ := e
    intro lo hlo h hne
    simp only [Tab.risingFrom, Bool.and_eq_true, decide_eq_true_eq] at h
    have hk : k ≠ i := hne (k, w) (List.mem_cons_self ..)
    unfold Tab.ins
    split
    · simp [Tab.risingFrom, hlo, h.2]; omega
    · simp [Tab.risingFrom, h.1]
      exact ih (by omega) h.2 fun e he => hne e (List.mem_cons_of_mem _ he)

theorem Tab.all_erase {m : Tab α} (i : Nat) {p : Nat × α → Bool} (h : m.all p = true) : (Tab.erase m i).all p = true := by
  rw [List.all_eq_true] at *
  exact fun e he => h e (Tab.mem_erase he).1

theorem Tab.all_ins {m : Tab α} (i : Nat) (v : α) {p : Nat × α → Bool} (hv : p (i, v) = true) (h : m.all p = true) :
    (Tab.ins m i v).all p = true := by
  induction m with
  | nil => simp [Tab.ins, hv]
  | cons e m ih =>
    obtain ⟨k, w⟩ := e
    simp only [List.all_cons, Bool.and_eq_true] at h
    unfold Tab.ins
    split
    · simp [hv, h.1, h.2]
    · simp [h.1, ih h.2]

theorem Tab.wf_erase [DecidableEq α] {d : α} {m : Tab α} (i : Nat) (h : Tab.wf d m = true) : Tab.wf d (Tab.erase m i) = true := by
  simp only [Tab.wf, Bool.and_eq_true] at *
  exact ⟨Tab.risingFrom_erase i h.1, Tab.all_erase i h.2⟩

/-- Every write keeps the canonical form. -/
theorem Tab.wf_set [DecidableEq α] {d : α} {m : Tab α} (i : Nat) (v : α) (h : Tab.wf d m = true) : Tab.wf d (Tab.set d m i v) = true := by
  unfold Tab.set
  split
  · exact Tab.wf_erase i h
  · have he := Tab.wf_erase i h
    simp only [Tab.wf, Bool.and_eq_true] at *
    exact ⟨Tab.risingFrom_ins i v (Nat.zero_le _) he.1 fun e h => (Tab.mem_erase h).2, Tab.all_ins i v (by simpa using ‹_›) he.2⟩

theorem Tab.wf_upd [DecidableEq α] {d : α} {m : Tab α} (i : Nat) (f : α → α) (h : Tab.wf d m = true) :
    Tab.wf d (Tab.upd d m i f) = true := Tab.wf_set i _ h

theorem Tab.wf_setMany [DecidableEq α] {d : α} (vs : List α) : ∀ {m : Tab α} (i : Nat), Tab.wf d m = true → Tab.wf d (Tab.setMany d m i vs) = true := by
  induction vs with
  | nil => intro m i h; exact h
  | cons v vs ih => intro m i h; exact ih (i + 1) (Tab.wf_set i v h)

theorem Tab.risingFrom_mapV [DecidableEq α] (d : α) (f : Nat → α → α) (m : Tab α) :
    ∀ {lo : Nat}, Tab.risingFrom lo m = true → Tab.risingFrom lo (Tab.mapV d m f) = true := by
  induction m with
  | nil => simp [Tab.mapV, Tab.risingFrom]
  | cons e m ih =>
    obtain ⟨k, w⟩ := e
    intro lo h
    simp only [Tab.risingFrom, Bool.and_eq_true, decide_eq_true_eq] at h
    have ih' := ih h.2
    unfold Tab.mapV at ih' ⊢
    rw [List.map_cons, List.filter_cons]
    split
    · simpa [Tab.risingFrom, h.1] using ih'
    · exact Tab.risingFrom_mono (by omega) ih'

theorem Tab.wf_mapV [DecidableEq α] {d : α} {m : Tab α} (f : Nat → α → α) (h : Tab.wf d m = true) : Tab.wf d (Tab.mapV d m f) = true := by
  simp only [Tab.wf, Bool.and_eq_true] at *
  refine ⟨Tab.risingFrom_mapV d f m h.1, ?_⟩
  simp [Tab.mapV]

end Sys2Proof
end

