-- ==== Sys2Proof/Laws/State.lean ====
section
/-! SUPPORT. One lemma per field and update of the block: an update changes its own part and nothing else. -/

namespace Sys2Proof

variable (d : Dev)

@[simp] theorem Dev.setTree_now (k : Nat) (x : Tree) : (d.setTree k x).now = d.now := rfl
@[simp] theorem Dev.setTree_evPend (k : Nat) (x : Tree) : (d.setTree k x).evPend = d.evPend := rfl
@[simp] theorem Dev.setTree_free (k : Nat) (x : Tree) : (d.setTree k x).free = d.free := rfl
@[simp] theorem Dev.setTree_outs (k : Nat) (x : Tree) : (d.setTree k x).outs = d.outs := rfl
@[simp] theorem Dev.setTree_host (k : Nat) (x : Tree) : (d.setTree k x).host = d.host := rfl
@[simp] theorem Dev.setTree_counts (k : Nat) (x : Tree) : (d.setTree k x).counts = d.counts := rfl
@[simp] theorem Dev.setTree_time (k : Nat) (x : Tree) : (d.setTree k x).time = d.time := rfl
@[simp] theorem Dev.setTree_ao (k : Nat) (x : Tree) : (d.setTree k x).ao = d.ao := rfl
@[simp] theorem Dev.setTree_pwr (k : Nat) (x : Tree) : (d.setTree k x).pwr = d.pwr := rfl
@[simp] theorem Dev.setTree_vault (k : Nat) (x : Tree) : (d.setTree k x).vault = d.vault := rfl
@[simp] theorem Dev.setTree_lrx (k : Nat) (x : Tree) : (d.setTree k x).lrx = d.lrx := rfl
@[simp] theorem Dev.setTree_ltx (k : Nat) (x : Tree) : (d.setTree k x).ltx = d.ltx := rfl
@[simp] theorem Dev.setTree_al (k : Nat) (x : Tree) : (d.setTree k x).al = d.al := rfl
@[simp] theorem Dev.setTree_scans (k : Nat) (x : Tree) : (d.setTree k x).scans = d.scans := rfl
@[simp] theorem Dev.setTree_scanQ (k : Nat) (x : Tree) : (d.setTree k x).scanQ = d.scanQ := rfl
@[simp] theorem Dev.setTree_ports (k : Nat) (x : Tree) : (d.setTree k x).ports = d.ports := rfl
@[simp] theorem Dev.setTree_sysPorts (k : Nat) (x : Tree) : (d.setTree k x).sysPorts = d.sysPorts := rfl
@[simp] theorem Dev.setTree_slices (k : Nat) (x : Tree) : (d.setTree k x).slices = d.slices := rfl
@[simp] theorem Dev.setTree_mems (k : Nat) (x : Tree) : (d.setTree k x).mems = d.mems := rfl
@[simp] theorem Dev.setTree_flashA (k : Nat) (x : Tree) : (d.setTree k x).flashA = d.flashA := rfl
@[simp] theorem Dev.setTree_flashB (k : Nat) (x : Tree) : (d.setTree k x).flashB = d.flashB := rfl
@[simp] theorem Dev.setTree_recDirty (k : Nat) (x : Tree) : (d.setTree k x).recDirty = d.recDirty := rfl
@[simp] theorem Dev.setTree_ending (k : Nat) (x : Tree) : (d.setTree k x).ending = d.ending := rfl

@[simp] theorem Dev.modTree_now (k : Nat) (f : Tree → Tree) : (d.modTree k f).now = d.now := rfl
@[simp] theorem Dev.modTree_evPend (k : Nat) (f : Tree → Tree) : (d.modTree k f).evPend = d.evPend := rfl
@[simp] theorem Dev.modTree_free (k : Nat) (f : Tree → Tree) : (d.modTree k f).free = d.free := rfl
@[simp] theorem Dev.modTree_outs (k : Nat) (f : Tree → Tree) : (d.modTree k f).outs = d.outs := rfl
@[simp] theorem Dev.modTree_host (k : Nat) (f : Tree → Tree) : (d.modTree k f).host = d.host := rfl
@[simp] theorem Dev.modTree_counts (k : Nat) (f : Tree → Tree) : (d.modTree k f).counts = d.counts := rfl
@[simp] theorem Dev.modTree_time (k : Nat) (f : Tree → Tree) : (d.modTree k f).time = d.time := rfl
@[simp] theorem Dev.modTree_ao (k : Nat) (f : Tree → Tree) : (d.modTree k f).ao = d.ao := rfl
@[simp] theorem Dev.modTree_pwr (k : Nat) (f : Tree → Tree) : (d.modTree k f).pwr = d.pwr := rfl
@[simp] theorem Dev.modTree_vault (k : Nat) (f : Tree → Tree) : (d.modTree k f).vault = d.vault := rfl
@[simp] theorem Dev.modTree_lrx (k : Nat) (f : Tree → Tree) : (d.modTree k f).lrx = d.lrx := rfl
@[simp] theorem Dev.modTree_ltx (k : Nat) (f : Tree → Tree) : (d.modTree k f).ltx = d.ltx := rfl
@[simp] theorem Dev.modTree_al (k : Nat) (f : Tree → Tree) : (d.modTree k f).al = d.al := rfl
@[simp] theorem Dev.modTree_scans (k : Nat) (f : Tree → Tree) : (d.modTree k f).scans = d.scans := rfl
@[simp] theorem Dev.modTree_scanQ (k : Nat) (f : Tree → Tree) : (d.modTree k f).scanQ = d.scanQ := rfl
@[simp] theorem Dev.modTree_ports (k : Nat) (f : Tree → Tree) : (d.modTree k f).ports = d.ports := rfl
@[simp] theorem Dev.modTree_sysPorts (k : Nat) (f : Tree → Tree) : (d.modTree k f).sysPorts = d.sysPorts := rfl
@[simp] theorem Dev.modTree_slices (k : Nat) (f : Tree → Tree) : (d.modTree k f).slices = d.slices := rfl
@[simp] theorem Dev.modTree_mems (k : Nat) (f : Tree → Tree) : (d.modTree k f).mems = d.mems := rfl
@[simp] theorem Dev.modTree_flashA (k : Nat) (f : Tree → Tree) : (d.modTree k f).flashA = d.flashA := rfl
@[simp] theorem Dev.modTree_flashB (k : Nat) (f : Tree → Tree) : (d.modTree k f).flashB = d.flashB := rfl
@[simp] theorem Dev.modTree_recDirty (k : Nat) (f : Tree → Tree) : (d.modTree k f).recDirty = d.recDirty := rfl
@[simp] theorem Dev.modTree_ending (k : Nat) (f : Tree → Tree) : (d.modTree k f).ending = d.ending := rfl

@[simp] theorem Dev.setSlice_now (n : Nat) (x : Slice) : (d.setSlice n x).now = d.now := rfl
@[simp] theorem Dev.setSlice_evPend (n : Nat) (x : Slice) : (d.setSlice n x).evPend = d.evPend := rfl
@[simp] theorem Dev.setSlice_free (n : Nat) (x : Slice) : (d.setSlice n x).free = d.free := rfl
@[simp] theorem Dev.setSlice_outs (n : Nat) (x : Slice) : (d.setSlice n x).outs = d.outs := rfl
@[simp] theorem Dev.setSlice_host (n : Nat) (x : Slice) : (d.setSlice n x).host = d.host := rfl
@[simp] theorem Dev.setSlice_counts (n : Nat) (x : Slice) : (d.setSlice n x).counts = d.counts := rfl
@[simp] theorem Dev.setSlice_time (n : Nat) (x : Slice) : (d.setSlice n x).time = d.time := rfl
@[simp] theorem Dev.setSlice_ao (n : Nat) (x : Slice) : (d.setSlice n x).ao = d.ao := rfl
@[simp] theorem Dev.setSlice_pwr (n : Nat) (x : Slice) : (d.setSlice n x).pwr = d.pwr := rfl
@[simp] theorem Dev.setSlice_vault (n : Nat) (x : Slice) : (d.setSlice n x).vault = d.vault := rfl
@[simp] theorem Dev.setSlice_lrx (n : Nat) (x : Slice) : (d.setSlice n x).lrx = d.lrx := rfl
@[simp] theorem Dev.setSlice_ltx (n : Nat) (x : Slice) : (d.setSlice n x).ltx = d.ltx := rfl
@[simp] theorem Dev.setSlice_al (n : Nat) (x : Slice) : (d.setSlice n x).al = d.al := rfl
@[simp] theorem Dev.setSlice_scans (n : Nat) (x : Slice) : (d.setSlice n x).scans = d.scans := rfl
@[simp] theorem Dev.setSlice_scanQ (n : Nat) (x : Slice) : (d.setSlice n x).scanQ = d.scanQ := rfl
@[simp] theorem Dev.setSlice_ports (n : Nat) (x : Slice) : (d.setSlice n x).ports = d.ports := rfl
@[simp] theorem Dev.setSlice_sysPorts (n : Nat) (x : Slice) : (d.setSlice n x).sysPorts = d.sysPorts := rfl
@[simp] theorem Dev.setSlice_trees (n : Nat) (x : Slice) : (d.setSlice n x).trees = d.trees := rfl
@[simp] theorem Dev.setSlice_mems (n : Nat) (x : Slice) : (d.setSlice n x).mems = d.mems := rfl
@[simp] theorem Dev.setSlice_flashA (n : Nat) (x : Slice) : (d.setSlice n x).flashA = d.flashA := rfl
@[simp] theorem Dev.setSlice_flashB (n : Nat) (x : Slice) : (d.setSlice n x).flashB = d.flashB := rfl
@[simp] theorem Dev.setSlice_recDirty (n : Nat) (x : Slice) : (d.setSlice n x).recDirty = d.recDirty := rfl
@[simp] theorem Dev.setSlice_ending (n : Nat) (x : Slice) : (d.setSlice n x).ending = d.ending := rfl

@[simp] theorem Dev.modSlice_now (n : Nat) (f : Slice → Slice) : (d.modSlice n f).now = d.now := rfl
@[simp] theorem Dev.modSlice_evPend (n : Nat) (f : Slice → Slice) : (d.modSlice n f).evPend = d.evPend := rfl
@[simp] theorem Dev.modSlice_free (n : Nat) (f : Slice → Slice) : (d.modSlice n f).free = d.free := rfl
@[simp] theorem Dev.modSlice_outs (n : Nat) (f : Slice → Slice) : (d.modSlice n f).outs = d.outs := rfl
@[simp] theorem Dev.modSlice_host (n : Nat) (f : Slice → Slice) : (d.modSlice n f).host = d.host := rfl
@[simp] theorem Dev.modSlice_counts (n : Nat) (f : Slice → Slice) : (d.modSlice n f).counts = d.counts := rfl
@[simp] theorem Dev.modSlice_time (n : Nat) (f : Slice → Slice) : (d.modSlice n f).time = d.time := rfl
@[simp] theorem Dev.modSlice_ao (n : Nat) (f : Slice → Slice) : (d.modSlice n f).ao = d.ao := rfl
@[simp] theorem Dev.modSlice_pwr (n : Nat) (f : Slice → Slice) : (d.modSlice n f).pwr = d.pwr := rfl
@[simp] theorem Dev.modSlice_vault (n : Nat) (f : Slice → Slice) : (d.modSlice n f).vault = d.vault := rfl
@[simp] theorem Dev.modSlice_lrx (n : Nat) (f : Slice → Slice) : (d.modSlice n f).lrx = d.lrx := rfl
@[simp] theorem Dev.modSlice_ltx (n : Nat) (f : Slice → Slice) : (d.modSlice n f).ltx = d.ltx := rfl
@[simp] theorem Dev.modSlice_al (n : Nat) (f : Slice → Slice) : (d.modSlice n f).al = d.al := rfl
@[simp] theorem Dev.modSlice_scans (n : Nat) (f : Slice → Slice) : (d.modSlice n f).scans = d.scans := rfl
@[simp] theorem Dev.modSlice_scanQ (n : Nat) (f : Slice → Slice) : (d.modSlice n f).scanQ = d.scanQ := rfl
@[simp] theorem Dev.modSlice_ports (n : Nat) (f : Slice → Slice) : (d.modSlice n f).ports = d.ports := rfl
@[simp] theorem Dev.modSlice_sysPorts (n : Nat) (f : Slice → Slice) : (d.modSlice n f).sysPorts = d.sysPorts := rfl
@[simp] theorem Dev.modSlice_trees (n : Nat) (f : Slice → Slice) : (d.modSlice n f).trees = d.trees := rfl
@[simp] theorem Dev.modSlice_mems (n : Nat) (f : Slice → Slice) : (d.modSlice n f).mems = d.mems := rfl
@[simp] theorem Dev.modSlice_flashA (n : Nat) (f : Slice → Slice) : (d.modSlice n f).flashA = d.flashA := rfl
@[simp] theorem Dev.modSlice_flashB (n : Nat) (f : Slice → Slice) : (d.modSlice n f).flashB = d.flashB := rfl
@[simp] theorem Dev.modSlice_recDirty (n : Nat) (f : Slice → Slice) : (d.modSlice n f).recDirty = d.recDirty := rfl
@[simp] theorem Dev.modSlice_ending (n : Nat) (f : Slice → Slice) : (d.modSlice n f).ending = d.ending := rfl

@[simp] theorem Dev.modTab_now (n : Nat) (f : Tables → Tables) : (d.modTab n f).now = d.now := rfl
@[simp] theorem Dev.modTab_evPend (n : Nat) (f : Tables → Tables) : (d.modTab n f).evPend = d.evPend := rfl
@[simp] theorem Dev.modTab_free (n : Nat) (f : Tables → Tables) : (d.modTab n f).free = d.free := rfl
@[simp] theorem Dev.modTab_outs (n : Nat) (f : Tables → Tables) : (d.modTab n f).outs = d.outs := rfl
@[simp] theorem Dev.modTab_host (n : Nat) (f : Tables → Tables) : (d.modTab n f).host = d.host := rfl
@[simp] theorem Dev.modTab_counts (n : Nat) (f : Tables → Tables) : (d.modTab n f).counts = d.counts := rfl
@[simp] theorem Dev.modTab_time (n : Nat) (f : Tables → Tables) : (d.modTab n f).time = d.time := rfl
@[simp] theorem Dev.modTab_ao (n : Nat) (f : Tables → Tables) : (d.modTab n f).ao = d.ao := rfl
@[simp] theorem Dev.modTab_pwr (n : Nat) (f : Tables → Tables) : (d.modTab n f).pwr = d.pwr := rfl
@[simp] theorem Dev.modTab_vault (n : Nat) (f : Tables → Tables) : (d.modTab n f).vault = d.vault := rfl
@[simp] theorem Dev.modTab_lrx (n : Nat) (f : Tables → Tables) : (d.modTab n f).lrx = d.lrx := rfl
@[simp] theorem Dev.modTab_ltx (n : Nat) (f : Tables → Tables) : (d.modTab n f).ltx = d.ltx := rfl
@[simp] theorem Dev.modTab_al (n : Nat) (f : Tables → Tables) : (d.modTab n f).al = d.al := rfl
@[simp] theorem Dev.modTab_scans (n : Nat) (f : Tables → Tables) : (d.modTab n f).scans = d.scans := rfl
@[simp] theorem Dev.modTab_scanQ (n : Nat) (f : Tables → Tables) : (d.modTab n f).scanQ = d.scanQ := rfl
@[simp] theorem Dev.modTab_ports (n : Nat) (f : Tables → Tables) : (d.modTab n f).ports = d.ports := rfl
@[simp] theorem Dev.modTab_sysPorts (n : Nat) (f : Tables → Tables) : (d.modTab n f).sysPorts = d.sysPorts := rfl
@[simp] theorem Dev.modTab_trees (n : Nat) (f : Tables → Tables) : (d.modTab n f).trees = d.trees := rfl
@[simp] theorem Dev.modTab_mems (n : Nat) (f : Tables → Tables) : (d.modTab n f).mems = d.mems := rfl
@[simp] theorem Dev.modTab_flashA (n : Nat) (f : Tables → Tables) : (d.modTab n f).flashA = d.flashA := rfl
@[simp] theorem Dev.modTab_flashB (n : Nat) (f : Tables → Tables) : (d.modTab n f).flashB = d.flashB := rfl
@[simp] theorem Dev.modTab_recDirty (n : Nat) (f : Tables → Tables) : (d.modTab n f).recDirty = d.recDirty := rfl
@[simp] theorem Dev.modTab_ending (n : Nat) (f : Tables → Tables) : (d.modTab n f).ending = d.ending := rfl

@[simp] theorem Dev.modBuf_now (n : Nat) (f : BufSt → BufSt) : (d.modBuf n f).now = d.now := rfl
@[simp] theorem Dev.modBuf_evPend (n : Nat) (f : BufSt → BufSt) : (d.modBuf n f).evPend = d.evPend := rfl
@[simp] theorem Dev.modBuf_free (n : Nat) (f : BufSt → BufSt) : (d.modBuf n f).free = d.free := rfl
@[simp] theorem Dev.modBuf_outs (n : Nat) (f : BufSt → BufSt) : (d.modBuf n f).outs = d.outs := rfl
@[simp] theorem Dev.modBuf_host (n : Nat) (f : BufSt → BufSt) : (d.modBuf n f).host = d.host := rfl
@[simp] theorem Dev.modBuf_counts (n : Nat) (f : BufSt → BufSt) : (d.modBuf n f).counts = d.counts := rfl
@[simp] theorem Dev.modBuf_time (n : Nat) (f : BufSt → BufSt) : (d.modBuf n f).time = d.time := rfl
@[simp] theorem Dev.modBuf_ao (n : Nat) (f : BufSt → BufSt) : (d.modBuf n f).ao = d.ao := rfl
@[simp] theorem Dev.modBuf_pwr (n : Nat) (f : BufSt → BufSt) : (d.modBuf n f).pwr = d.pwr := rfl
@[simp] theorem Dev.modBuf_vault (n : Nat) (f : BufSt → BufSt) : (d.modBuf n f).vault = d.vault := rfl
@[simp] theorem Dev.modBuf_lrx (n : Nat) (f : BufSt → BufSt) : (d.modBuf n f).lrx = d.lrx := rfl
@[simp] theorem Dev.modBuf_ltx (n : Nat) (f : BufSt → BufSt) : (d.modBuf n f).ltx = d.ltx := rfl
@[simp] theorem Dev.modBuf_al (n : Nat) (f : BufSt → BufSt) : (d.modBuf n f).al = d.al := rfl
@[simp] theorem Dev.modBuf_scans (n : Nat) (f : BufSt → BufSt) : (d.modBuf n f).scans = d.scans := rfl
@[simp] theorem Dev.modBuf_scanQ (n : Nat) (f : BufSt → BufSt) : (d.modBuf n f).scanQ = d.scanQ := rfl
@[simp] theorem Dev.modBuf_ports (n : Nat) (f : BufSt → BufSt) : (d.modBuf n f).ports = d.ports := rfl
@[simp] theorem Dev.modBuf_sysPorts (n : Nat) (f : BufSt → BufSt) : (d.modBuf n f).sysPorts = d.sysPorts := rfl
@[simp] theorem Dev.modBuf_trees (n : Nat) (f : BufSt → BufSt) : (d.modBuf n f).trees = d.trees := rfl
@[simp] theorem Dev.modBuf_mems (n : Nat) (f : BufSt → BufSt) : (d.modBuf n f).mems = d.mems := rfl
@[simp] theorem Dev.modBuf_flashA (n : Nat) (f : BufSt → BufSt) : (d.modBuf n f).flashA = d.flashA := rfl
@[simp] theorem Dev.modBuf_flashB (n : Nat) (f : BufSt → BufSt) : (d.modBuf n f).flashB = d.flashB := rfl
@[simp] theorem Dev.modBuf_recDirty (n : Nat) (f : BufSt → BufSt) : (d.modBuf n f).recDirty = d.recDirty := rfl
@[simp] theorem Dev.modBuf_ending (n : Nat) (f : BufSt → BufSt) : (d.modBuf n f).ending = d.ending := rfl

@[simp] theorem Dev.modSched_now (n : Nat) (f : SchedSt → SchedSt) : (d.modSched n f).now = d.now := rfl
@[simp] theorem Dev.modSched_evPend (n : Nat) (f : SchedSt → SchedSt) : (d.modSched n f).evPend = d.evPend := rfl
@[simp] theorem Dev.modSched_free (n : Nat) (f : SchedSt → SchedSt) : (d.modSched n f).free = d.free := rfl
@[simp] theorem Dev.modSched_outs (n : Nat) (f : SchedSt → SchedSt) : (d.modSched n f).outs = d.outs := rfl
@[simp] theorem Dev.modSched_host (n : Nat) (f : SchedSt → SchedSt) : (d.modSched n f).host = d.host := rfl
@[simp] theorem Dev.modSched_counts (n : Nat) (f : SchedSt → SchedSt) : (d.modSched n f).counts = d.counts := rfl
@[simp] theorem Dev.modSched_time (n : Nat) (f : SchedSt → SchedSt) : (d.modSched n f).time = d.time := rfl
@[simp] theorem Dev.modSched_ao (n : Nat) (f : SchedSt → SchedSt) : (d.modSched n f).ao = d.ao := rfl
@[simp] theorem Dev.modSched_pwr (n : Nat) (f : SchedSt → SchedSt) : (d.modSched n f).pwr = d.pwr := rfl
@[simp] theorem Dev.modSched_vault (n : Nat) (f : SchedSt → SchedSt) : (d.modSched n f).vault = d.vault := rfl
@[simp] theorem Dev.modSched_lrx (n : Nat) (f : SchedSt → SchedSt) : (d.modSched n f).lrx = d.lrx := rfl
@[simp] theorem Dev.modSched_ltx (n : Nat) (f : SchedSt → SchedSt) : (d.modSched n f).ltx = d.ltx := rfl
@[simp] theorem Dev.modSched_al (n : Nat) (f : SchedSt → SchedSt) : (d.modSched n f).al = d.al := rfl
@[simp] theorem Dev.modSched_scans (n : Nat) (f : SchedSt → SchedSt) : (d.modSched n f).scans = d.scans := rfl
@[simp] theorem Dev.modSched_scanQ (n : Nat) (f : SchedSt → SchedSt) : (d.modSched n f).scanQ = d.scanQ := rfl
@[simp] theorem Dev.modSched_ports (n : Nat) (f : SchedSt → SchedSt) : (d.modSched n f).ports = d.ports := rfl
@[simp] theorem Dev.modSched_sysPorts (n : Nat) (f : SchedSt → SchedSt) : (d.modSched n f).sysPorts = d.sysPorts := rfl
@[simp] theorem Dev.modSched_trees (n : Nat) (f : SchedSt → SchedSt) : (d.modSched n f).trees = d.trees := rfl
@[simp] theorem Dev.modSched_mems (n : Nat) (f : SchedSt → SchedSt) : (d.modSched n f).mems = d.mems := rfl
@[simp] theorem Dev.modSched_flashA (n : Nat) (f : SchedSt → SchedSt) : (d.modSched n f).flashA = d.flashA := rfl
@[simp] theorem Dev.modSched_flashB (n : Nat) (f : SchedSt → SchedSt) : (d.modSched n f).flashB = d.flashB := rfl
@[simp] theorem Dev.modSched_recDirty (n : Nat) (f : SchedSt → SchedSt) : (d.modSched n f).recDirty = d.recDirty := rfl
@[simp] theorem Dev.modSched_ending (n : Nat) (f : SchedSt → SchedSt) : (d.modSched n f).ending = d.ending := rfl

@[simp] theorem Dev.modKey_now (n : Nat) (f : KeySt → KeySt) : (d.modKey n f).now = d.now := rfl
@[simp] theorem Dev.modKey_evPend (n : Nat) (f : KeySt → KeySt) : (d.modKey n f).evPend = d.evPend := rfl
@[simp] theorem Dev.modKey_free (n : Nat) (f : KeySt → KeySt) : (d.modKey n f).free = d.free := rfl
@[simp] theorem Dev.modKey_outs (n : Nat) (f : KeySt → KeySt) : (d.modKey n f).outs = d.outs := rfl
@[simp] theorem Dev.modKey_host (n : Nat) (f : KeySt → KeySt) : (d.modKey n f).host = d.host := rfl
@[simp] theorem Dev.modKey_counts (n : Nat) (f : KeySt → KeySt) : (d.modKey n f).counts = d.counts := rfl
@[simp] theorem Dev.modKey_time (n : Nat) (f : KeySt → KeySt) : (d.modKey n f).time = d.time := rfl
@[simp] theorem Dev.modKey_ao (n : Nat) (f : KeySt → KeySt) : (d.modKey n f).ao = d.ao := rfl
@[simp] theorem Dev.modKey_pwr (n : Nat) (f : KeySt → KeySt) : (d.modKey n f).pwr = d.pwr := rfl
@[simp] theorem Dev.modKey_vault (n : Nat) (f : KeySt → KeySt) : (d.modKey n f).vault = d.vault := rfl
@[simp] theorem Dev.modKey_lrx (n : Nat) (f : KeySt → KeySt) : (d.modKey n f).lrx = d.lrx := rfl
@[simp] theorem Dev.modKey_ltx (n : Nat) (f : KeySt → KeySt) : (d.modKey n f).ltx = d.ltx := rfl
@[simp] theorem Dev.modKey_al (n : Nat) (f : KeySt → KeySt) : (d.modKey n f).al = d.al := rfl
@[simp] theorem Dev.modKey_scans (n : Nat) (f : KeySt → KeySt) : (d.modKey n f).scans = d.scans := rfl
@[simp] theorem Dev.modKey_scanQ (n : Nat) (f : KeySt → KeySt) : (d.modKey n f).scanQ = d.scanQ := rfl
@[simp] theorem Dev.modKey_ports (n : Nat) (f : KeySt → KeySt) : (d.modKey n f).ports = d.ports := rfl
@[simp] theorem Dev.modKey_sysPorts (n : Nat) (f : KeySt → KeySt) : (d.modKey n f).sysPorts = d.sysPorts := rfl
@[simp] theorem Dev.modKey_trees (n : Nat) (f : KeySt → KeySt) : (d.modKey n f).trees = d.trees := rfl
@[simp] theorem Dev.modKey_mems (n : Nat) (f : KeySt → KeySt) : (d.modKey n f).mems = d.mems := rfl
@[simp] theorem Dev.modKey_flashA (n : Nat) (f : KeySt → KeySt) : (d.modKey n f).flashA = d.flashA := rfl
@[simp] theorem Dev.modKey_flashB (n : Nat) (f : KeySt → KeySt) : (d.modKey n f).flashB = d.flashB := rfl
@[simp] theorem Dev.modKey_recDirty (n : Nat) (f : KeySt → KeySt) : (d.modKey n f).recDirty = d.recDirty := rfl
@[simp] theorem Dev.modKey_ending (n : Nat) (f : KeySt → KeySt) : (d.modKey n f).ending = d.ending := rfl

@[simp] theorem Dev.modObs_now (n : Nat) (f : Observe → Observe) : (d.modObs n f).now = d.now := rfl
@[simp] theorem Dev.modObs_evPend (n : Nat) (f : Observe → Observe) : (d.modObs n f).evPend = d.evPend := rfl
@[simp] theorem Dev.modObs_free (n : Nat) (f : Observe → Observe) : (d.modObs n f).free = d.free := rfl
@[simp] theorem Dev.modObs_outs (n : Nat) (f : Observe → Observe) : (d.modObs n f).outs = d.outs := rfl
@[simp] theorem Dev.modObs_host (n : Nat) (f : Observe → Observe) : (d.modObs n f).host = d.host := rfl
@[simp] theorem Dev.modObs_counts (n : Nat) (f : Observe → Observe) : (d.modObs n f).counts = d.counts := rfl
@[simp] theorem Dev.modObs_time (n : Nat) (f : Observe → Observe) : (d.modObs n f).time = d.time := rfl
@[simp] theorem Dev.modObs_ao (n : Nat) (f : Observe → Observe) : (d.modObs n f).ao = d.ao := rfl
@[simp] theorem Dev.modObs_pwr (n : Nat) (f : Observe → Observe) : (d.modObs n f).pwr = d.pwr := rfl
@[simp] theorem Dev.modObs_vault (n : Nat) (f : Observe → Observe) : (d.modObs n f).vault = d.vault := rfl
@[simp] theorem Dev.modObs_lrx (n : Nat) (f : Observe → Observe) : (d.modObs n f).lrx = d.lrx := rfl
@[simp] theorem Dev.modObs_ltx (n : Nat) (f : Observe → Observe) : (d.modObs n f).ltx = d.ltx := rfl
@[simp] theorem Dev.modObs_al (n : Nat) (f : Observe → Observe) : (d.modObs n f).al = d.al := rfl
@[simp] theorem Dev.modObs_scans (n : Nat) (f : Observe → Observe) : (d.modObs n f).scans = d.scans := rfl
@[simp] theorem Dev.modObs_scanQ (n : Nat) (f : Observe → Observe) : (d.modObs n f).scanQ = d.scanQ := rfl
@[simp] theorem Dev.modObs_ports (n : Nat) (f : Observe → Observe) : (d.modObs n f).ports = d.ports := rfl
@[simp] theorem Dev.modObs_sysPorts (n : Nat) (f : Observe → Observe) : (d.modObs n f).sysPorts = d.sysPorts := rfl
@[simp] theorem Dev.modObs_trees (n : Nat) (f : Observe → Observe) : (d.modObs n f).trees = d.trees := rfl
@[simp] theorem Dev.modObs_mems (n : Nat) (f : Observe → Observe) : (d.modObs n f).mems = d.mems := rfl
@[simp] theorem Dev.modObs_flashA (n : Nat) (f : Observe → Observe) : (d.modObs n f).flashA = d.flashA := rfl
@[simp] theorem Dev.modObs_flashB (n : Nat) (f : Observe → Observe) : (d.modObs n f).flashB = d.flashB := rfl
@[simp] theorem Dev.modObs_recDirty (n : Nat) (f : Observe → Observe) : (d.modObs n f).recDirty = d.recDirty := rfl
@[simp] theorem Dev.modObs_ending (n : Nat) (f : Observe → Observe) : (d.modObs n f).ending = d.ending := rfl

@[simp] theorem Dev.modRx_now (l : Nat) (f : LaneRx → LaneRx) : (d.modRx l f).now = d.now := rfl
@[simp] theorem Dev.modRx_evPend (l : Nat) (f : LaneRx → LaneRx) : (d.modRx l f).evPend = d.evPend := rfl
@[simp] theorem Dev.modRx_free (l : Nat) (f : LaneRx → LaneRx) : (d.modRx l f).free = d.free := rfl
@[simp] theorem Dev.modRx_outs (l : Nat) (f : LaneRx → LaneRx) : (d.modRx l f).outs = d.outs := rfl
@[simp] theorem Dev.modRx_host (l : Nat) (f : LaneRx → LaneRx) : (d.modRx l f).host = d.host := rfl
@[simp] theorem Dev.modRx_counts (l : Nat) (f : LaneRx → LaneRx) : (d.modRx l f).counts = d.counts := rfl
@[simp] theorem Dev.modRx_time (l : Nat) (f : LaneRx → LaneRx) : (d.modRx l f).time = d.time := rfl
@[simp] theorem Dev.modRx_ao (l : Nat) (f : LaneRx → LaneRx) : (d.modRx l f).ao = d.ao := rfl
@[simp] theorem Dev.modRx_pwr (l : Nat) (f : LaneRx → LaneRx) : (d.modRx l f).pwr = d.pwr := rfl
@[simp] theorem Dev.modRx_vault (l : Nat) (f : LaneRx → LaneRx) : (d.modRx l f).vault = d.vault := rfl
@[simp] theorem Dev.modRx_ltx (l : Nat) (f : LaneRx → LaneRx) : (d.modRx l f).ltx = d.ltx := rfl
@[simp] theorem Dev.modRx_al (l : Nat) (f : LaneRx → LaneRx) : (d.modRx l f).al = d.al := rfl
@[simp] theorem Dev.modRx_scans (l : Nat) (f : LaneRx → LaneRx) : (d.modRx l f).scans = d.scans := rfl
@[simp] theorem Dev.modRx_scanQ (l : Nat) (f : LaneRx → LaneRx) : (d.modRx l f).scanQ = d.scanQ := rfl
@[simp] theorem Dev.modRx_ports (l : Nat) (f : LaneRx → LaneRx) : (d.modRx l f).ports = d.ports := rfl
@[simp] theorem Dev.modRx_sysPorts (l : Nat) (f : LaneRx → LaneRx) : (d.modRx l f).sysPorts = d.sysPorts := rfl
@[simp] theorem Dev.modRx_trees (l : Nat) (f : LaneRx → LaneRx) : (d.modRx l f).trees = d.trees := rfl
@[simp] theorem Dev.modRx_slices (l : Nat) (f : LaneRx → LaneRx) : (d.modRx l f).slices = d.slices := rfl
@[simp] theorem Dev.modRx_mems (l : Nat) (f : LaneRx → LaneRx) : (d.modRx l f).mems = d.mems := rfl
@[simp] theorem Dev.modRx_flashA (l : Nat) (f : LaneRx → LaneRx) : (d.modRx l f).flashA = d.flashA := rfl
@[simp] theorem Dev.modRx_flashB (l : Nat) (f : LaneRx → LaneRx) : (d.modRx l f).flashB = d.flashB := rfl
@[simp] theorem Dev.modRx_recDirty (l : Nat) (f : LaneRx → LaneRx) : (d.modRx l f).recDirty = d.recDirty := rfl
@[simp] theorem Dev.modRx_ending (l : Nat) (f : LaneRx → LaneRx) : (d.modRx l f).ending = d.ending := rfl

@[simp] theorem Dev.modTx_now (l : Nat) (f : LaneTx → LaneTx) : (d.modTx l f).now = d.now := rfl
@[simp] theorem Dev.modTx_evPend (l : Nat) (f : LaneTx → LaneTx) : (d.modTx l f).evPend = d.evPend := rfl
@[simp] theorem Dev.modTx_free (l : Nat) (f : LaneTx → LaneTx) : (d.modTx l f).free = d.free := rfl
@[simp] theorem Dev.modTx_outs (l : Nat) (f : LaneTx → LaneTx) : (d.modTx l f).outs = d.outs := rfl
@[simp] theorem Dev.modTx_host (l : Nat) (f : LaneTx → LaneTx) : (d.modTx l f).host = d.host := rfl
@[simp] theorem Dev.modTx_counts (l : Nat) (f : LaneTx → LaneTx) : (d.modTx l f).counts = d.counts := rfl
@[simp] theorem Dev.modTx_time (l : Nat) (f : LaneTx → LaneTx) : (d.modTx l f).time = d.time := rfl
@[simp] theorem Dev.modTx_ao (l : Nat) (f : LaneTx → LaneTx) : (d.modTx l f).ao = d.ao := rfl
@[simp] theorem Dev.modTx_pwr (l : Nat) (f : LaneTx → LaneTx) : (d.modTx l f).pwr = d.pwr := rfl
@[simp] theorem Dev.modTx_vault (l : Nat) (f : LaneTx → LaneTx) : (d.modTx l f).vault = d.vault := rfl
@[simp] theorem Dev.modTx_lrx (l : Nat) (f : LaneTx → LaneTx) : (d.modTx l f).lrx = d.lrx := rfl
@[simp] theorem Dev.modTx_al (l : Nat) (f : LaneTx → LaneTx) : (d.modTx l f).al = d.al := rfl
@[simp] theorem Dev.modTx_scans (l : Nat) (f : LaneTx → LaneTx) : (d.modTx l f).scans = d.scans := rfl
@[simp] theorem Dev.modTx_scanQ (l : Nat) (f : LaneTx → LaneTx) : (d.modTx l f).scanQ = d.scanQ := rfl
@[simp] theorem Dev.modTx_ports (l : Nat) (f : LaneTx → LaneTx) : (d.modTx l f).ports = d.ports := rfl
@[simp] theorem Dev.modTx_sysPorts (l : Nat) (f : LaneTx → LaneTx) : (d.modTx l f).sysPorts = d.sysPorts := rfl
@[simp] theorem Dev.modTx_trees (l : Nat) (f : LaneTx → LaneTx) : (d.modTx l f).trees = d.trees := rfl
@[simp] theorem Dev.modTx_slices (l : Nat) (f : LaneTx → LaneTx) : (d.modTx l f).slices = d.slices := rfl
@[simp] theorem Dev.modTx_mems (l : Nat) (f : LaneTx → LaneTx) : (d.modTx l f).mems = d.mems := rfl
@[simp] theorem Dev.modTx_flashA (l : Nat) (f : LaneTx → LaneTx) : (d.modTx l f).flashA = d.flashA := rfl
@[simp] theorem Dev.modTx_flashB (l : Nat) (f : LaneTx → LaneTx) : (d.modTx l f).flashB = d.flashB := rfl
@[simp] theorem Dev.modTx_recDirty (l : Nat) (f : LaneTx → LaneTx) : (d.modTx l f).recDirty = d.recDirty := rfl
@[simp] theorem Dev.modTx_ending (l : Nat) (f : LaneTx → LaneTx) : (d.modTx l f).ending = d.ending := rfl

@[simp] theorem Dev.modAlign_now (l : Nat) (f : Align → Align) : (d.modAlign l f).now = d.now := rfl
@[simp] theorem Dev.modAlign_evPend (l : Nat) (f : Align → Align) : (d.modAlign l f).evPend = d.evPend := rfl
@[simp] theorem Dev.modAlign_free (l : Nat) (f : Align → Align) : (d.modAlign l f).free = d.free := rfl
@[simp] theorem Dev.modAlign_outs (l : Nat) (f : Align → Align) : (d.modAlign l f).outs = d.outs := rfl
@[simp] theorem Dev.modAlign_host (l : Nat) (f : Align → Align) : (d.modAlign l f).host = d.host := rfl
@[simp] theorem Dev.modAlign_counts (l : Nat) (f : Align → Align) : (d.modAlign l f).counts = d.counts := rfl
@[simp] theorem Dev.modAlign_time (l : Nat) (f : Align → Align) : (d.modAlign l f).time = d.time := rfl
@[simp] theorem Dev.modAlign_ao (l : Nat) (f : Align → Align) : (d.modAlign l f).ao = d.ao := rfl
@[simp] theorem Dev.modAlign_pwr (l : Nat) (f : Align → Align) : (d.modAlign l f).pwr = d.pwr := rfl
@[simp] theorem Dev.modAlign_vault (l : Nat) (f : Align → Align) : (d.modAlign l f).vault = d.vault := rfl
@[simp] theorem Dev.modAlign_lrx (l : Nat) (f : Align → Align) : (d.modAlign l f).lrx = d.lrx := rfl
@[simp] theorem Dev.modAlign_ltx (l : Nat) (f : Align → Align) : (d.modAlign l f).ltx = d.ltx := rfl
@[simp] theorem Dev.modAlign_scans (l : Nat) (f : Align → Align) : (d.modAlign l f).scans = d.scans := rfl
@[simp] theorem Dev.modAlign_scanQ (l : Nat) (f : Align → Align) : (d.modAlign l f).scanQ = d.scanQ := rfl
@[simp] theorem Dev.modAlign_ports (l : Nat) (f : Align → Align) : (d.modAlign l f).ports = d.ports := rfl
@[simp] theorem Dev.modAlign_sysPorts (l : Nat) (f : Align → Align) : (d.modAlign l f).sysPorts = d.sysPorts := rfl
@[simp] theorem Dev.modAlign_trees (l : Nat) (f : Align → Align) : (d.modAlign l f).trees = d.trees := rfl
@[simp] theorem Dev.modAlign_slices (l : Nat) (f : Align → Align) : (d.modAlign l f).slices = d.slices := rfl
@[simp] theorem Dev.modAlign_mems (l : Nat) (f : Align → Align) : (d.modAlign l f).mems = d.mems := rfl
@[simp] theorem Dev.modAlign_flashA (l : Nat) (f : Align → Align) : (d.modAlign l f).flashA = d.flashA := rfl
@[simp] theorem Dev.modAlign_flashB (l : Nat) (f : Align → Align) : (d.modAlign l f).flashB = d.flashB := rfl
@[simp] theorem Dev.modAlign_recDirty (l : Nat) (f : Align → Align) : (d.modAlign l f).recDirty = d.recDirty := rfl
@[simp] theorem Dev.modAlign_ending (l : Nat) (f : Align → Align) : (d.modAlign l f).ending = d.ending := rfl

@[simp] theorem Dev.modPort_now (p : Nat) (f : LinePort → LinePort) : (d.modPort p f).now = d.now := rfl
@[simp] theorem Dev.modPort_evPend (p : Nat) (f : LinePort → LinePort) : (d.modPort p f).evPend = d.evPend := rfl
@[simp] theorem Dev.modPort_free (p : Nat) (f : LinePort → LinePort) : (d.modPort p f).free = d.free := rfl
@[simp] theorem Dev.modPort_outs (p : Nat) (f : LinePort → LinePort) : (d.modPort p f).outs = d.outs := rfl
@[simp] theorem Dev.modPort_host (p : Nat) (f : LinePort → LinePort) : (d.modPort p f).host = d.host := rfl
@[simp] theorem Dev.modPort_counts (p : Nat) (f : LinePort → LinePort) : (d.modPort p f).counts = d.counts := rfl
@[simp] theorem Dev.modPort_time (p : Nat) (f : LinePort → LinePort) : (d.modPort p f).time = d.time := rfl
@[simp] theorem Dev.modPort_ao (p : Nat) (f : LinePort → LinePort) : (d.modPort p f).ao = d.ao := rfl
@[simp] theorem Dev.modPort_pwr (p : Nat) (f : LinePort → LinePort) : (d.modPort p f).pwr = d.pwr := rfl
@[simp] theorem Dev.modPort_vault (p : Nat) (f : LinePort → LinePort) : (d.modPort p f).vault = d.vault := rfl
@[simp] theorem Dev.modPort_lrx (p : Nat) (f : LinePort → LinePort) : (d.modPort p f).lrx = d.lrx := rfl
@[simp] theorem Dev.modPort_ltx (p : Nat) (f : LinePort → LinePort) : (d.modPort p f).ltx = d.ltx := rfl
@[simp] theorem Dev.modPort_al (p : Nat) (f : LinePort → LinePort) : (d.modPort p f).al = d.al := rfl
@[simp] theorem Dev.modPort_scans (p : Nat) (f : LinePort → LinePort) : (d.modPort p f).scans = d.scans := rfl
@[simp] theorem Dev.modPort_scanQ (p : Nat) (f : LinePort → LinePort) : (d.modPort p f).scanQ = d.scanQ := rfl
@[simp] theorem Dev.modPort_sysPorts (p : Nat) (f : LinePort → LinePort) : (d.modPort p f).sysPorts = d.sysPorts := rfl
@[simp] theorem Dev.modPort_trees (p : Nat) (f : LinePort → LinePort) : (d.modPort p f).trees = d.trees := rfl
@[simp] theorem Dev.modPort_slices (p : Nat) (f : LinePort → LinePort) : (d.modPort p f).slices = d.slices := rfl
@[simp] theorem Dev.modPort_mems (p : Nat) (f : LinePort → LinePort) : (d.modPort p f).mems = d.mems := rfl
@[simp] theorem Dev.modPort_flashA (p : Nat) (f : LinePort → LinePort) : (d.modPort p f).flashA = d.flashA := rfl
@[simp] theorem Dev.modPort_flashB (p : Nat) (f : LinePort → LinePort) : (d.modPort p f).flashB = d.flashB := rfl
@[simp] theorem Dev.modPort_recDirty (p : Nat) (f : LinePort → LinePort) : (d.modPort p f).recDirty = d.recDirty := rfl
@[simp] theorem Dev.modPort_ending (p : Nat) (f : LinePort → LinePort) : (d.modPort p f).ending = d.ending := rfl

@[simp] theorem Dev.modSys_now (p : Nat) (f : SysPort → SysPort) : (d.modSys p f).now = d.now := rfl
@[simp] theorem Dev.modSys_evPend (p : Nat) (f : SysPort → SysPort) : (d.modSys p f).evPend = d.evPend := rfl
@[simp] theorem Dev.modSys_free (p : Nat) (f : SysPort → SysPort) : (d.modSys p f).free = d.free := rfl
@[simp] theorem Dev.modSys_outs (p : Nat) (f : SysPort → SysPort) : (d.modSys p f).outs = d.outs := rfl
@[simp] theorem Dev.modSys_host (p : Nat) (f : SysPort → SysPort) : (d.modSys p f).host = d.host := rfl
@[simp] theorem Dev.modSys_counts (p : Nat) (f : SysPort → SysPort) : (d.modSys p f).counts = d.counts := rfl
@[simp] theorem Dev.modSys_time (p : Nat) (f : SysPort → SysPort) : (d.modSys p f).time = d.time := rfl
@[simp] theorem Dev.modSys_ao (p : Nat) (f : SysPort → SysPort) : (d.modSys p f).ao = d.ao := rfl
@[simp] theorem Dev.modSys_pwr (p : Nat) (f : SysPort → SysPort) : (d.modSys p f).pwr = d.pwr := rfl
@[simp] theorem Dev.modSys_vault (p : Nat) (f : SysPort → SysPort) : (d.modSys p f).vault = d.vault := rfl
@[simp] theorem Dev.modSys_lrx (p : Nat) (f : SysPort → SysPort) : (d.modSys p f).lrx = d.lrx := rfl
@[simp] theorem Dev.modSys_ltx (p : Nat) (f : SysPort → SysPort) : (d.modSys p f).ltx = d.ltx := rfl
@[simp] theorem Dev.modSys_al (p : Nat) (f : SysPort → SysPort) : (d.modSys p f).al = d.al := rfl
@[simp] theorem Dev.modSys_scans (p : Nat) (f : SysPort → SysPort) : (d.modSys p f).scans = d.scans := rfl
@[simp] theorem Dev.modSys_scanQ (p : Nat) (f : SysPort → SysPort) : (d.modSys p f).scanQ = d.scanQ := rfl
@[simp] theorem Dev.modSys_ports (p : Nat) (f : SysPort → SysPort) : (d.modSys p f).ports = d.ports := rfl
@[simp] theorem Dev.modSys_trees (p : Nat) (f : SysPort → SysPort) : (d.modSys p f).trees = d.trees := rfl
@[simp] theorem Dev.modSys_slices (p : Nat) (f : SysPort → SysPort) : (d.modSys p f).slices = d.slices := rfl
@[simp] theorem Dev.modSys_mems (p : Nat) (f : SysPort → SysPort) : (d.modSys p f).mems = d.mems := rfl
@[simp] theorem Dev.modSys_flashA (p : Nat) (f : SysPort → SysPort) : (d.modSys p f).flashA = d.flashA := rfl
@[simp] theorem Dev.modSys_flashB (p : Nat) (f : SysPort → SysPort) : (d.modSys p f).flashB = d.flashB := rfl
@[simp] theorem Dev.modSys_recDirty (p : Nat) (f : SysPort → SysPort) : (d.modSys p f).recDirty = d.recDirty := rfl
@[simp] theorem Dev.modSys_ending (p : Nat) (f : SysPort → SysPort) : (d.modSys p f).ending = d.ending := rfl

@[simp] theorem Dev.modStack_now (n : Nat) (f : Stack → Stack) : (d.modStack n f).now = d.now := rfl
@[simp] theorem Dev.modStack_evPend (n : Nat) (f : Stack → Stack) : (d.modStack n f).evPend = d.evPend := rfl
@[simp] theorem Dev.modStack_free (n : Nat) (f : Stack → Stack) : (d.modStack n f).free = d.free := rfl
@[simp] theorem Dev.modStack_outs (n : Nat) (f : Stack → Stack) : (d.modStack n f).outs = d.outs := rfl
@[simp] theorem Dev.modStack_host (n : Nat) (f : Stack → Stack) : (d.modStack n f).host = d.host := rfl
@[simp] theorem Dev.modStack_counts (n : Nat) (f : Stack → Stack) : (d.modStack n f).counts = d.counts := rfl
@[simp] theorem Dev.modStack_time (n : Nat) (f : Stack → Stack) : (d.modStack n f).time = d.time := rfl
@[simp] theorem Dev.modStack_ao (n : Nat) (f : Stack → Stack) : (d.modStack n f).ao = d.ao := rfl
@[simp] theorem Dev.modStack_pwr (n : Nat) (f : Stack → Stack) : (d.modStack n f).pwr = d.pwr := rfl
@[simp] theorem Dev.modStack_vault (n : Nat) (f : Stack → Stack) : (d.modStack n f).vault = d.vault := rfl
@[simp] theorem Dev.modStack_lrx (n : Nat) (f : Stack → Stack) : (d.modStack n f).lrx = d.lrx := rfl
@[simp] theorem Dev.modStack_ltx (n : Nat) (f : Stack → Stack) : (d.modStack n f).ltx = d.ltx := rfl
@[simp] theorem Dev.modStack_al (n : Nat) (f : Stack → Stack) : (d.modStack n f).al = d.al := rfl
@[simp] theorem Dev.modStack_scans (n : Nat) (f : Stack → Stack) : (d.modStack n f).scans = d.scans := rfl
@[simp] theorem Dev.modStack_scanQ (n : Nat) (f : Stack → Stack) : (d.modStack n f).scanQ = d.scanQ := rfl
@[simp] theorem Dev.modStack_ports (n : Nat) (f : Stack → Stack) : (d.modStack n f).ports = d.ports := rfl
@[simp] theorem Dev.modStack_sysPorts (n : Nat) (f : Stack → Stack) : (d.modStack n f).sysPorts = d.sysPorts := rfl
@[simp] theorem Dev.modStack_trees (n : Nat) (f : Stack → Stack) : (d.modStack n f).trees = d.trees := rfl
@[simp] theorem Dev.modStack_slices (n : Nat) (f : Stack → Stack) : (d.modStack n f).slices = d.slices := rfl
@[simp] theorem Dev.modStack_flashA (n : Nat) (f : Stack → Stack) : (d.modStack n f).flashA = d.flashA := rfl
@[simp] theorem Dev.modStack_flashB (n : Nat) (f : Stack → Stack) : (d.modStack n f).flashB = d.flashB := rfl
@[simp] theorem Dev.modStack_recDirty (n : Nat) (f : Stack → Stack) : (d.modStack n f).recDirty = d.recDirty := rfl
@[simp] theorem Dev.modStack_ending (n : Nat) (f : Stack → Stack) : (d.modStack n f).ending = d.ending := rfl

@[simp] theorem Dev.modPwr_now (f : PowerSt → PowerSt) : (d.modPwr f).now = d.now := rfl
@[simp] theorem Dev.modPwr_evPend (f : PowerSt → PowerSt) : (d.modPwr f).evPend = d.evPend := rfl
@[simp] theorem Dev.modPwr_free (f : PowerSt → PowerSt) : (d.modPwr f).free = d.free := rfl
@[simp] theorem Dev.modPwr_outs (f : PowerSt → PowerSt) : (d.modPwr f).outs = d.outs := rfl
@[simp] theorem Dev.modPwr_host (f : PowerSt → PowerSt) : (d.modPwr f).host = d.host := rfl
@[simp] theorem Dev.modPwr_counts (f : PowerSt → PowerSt) : (d.modPwr f).counts = d.counts := rfl
@[simp] theorem Dev.modPwr_time (f : PowerSt → PowerSt) : (d.modPwr f).time = d.time := rfl
@[simp] theorem Dev.modPwr_ao (f : PowerSt → PowerSt) : (d.modPwr f).ao = d.ao := rfl
@[simp] theorem Dev.modPwr_vault (f : PowerSt → PowerSt) : (d.modPwr f).vault = d.vault := rfl
@[simp] theorem Dev.modPwr_lrx (f : PowerSt → PowerSt) : (d.modPwr f).lrx = d.lrx := rfl
@[simp] theorem Dev.modPwr_ltx (f : PowerSt → PowerSt) : (d.modPwr f).ltx = d.ltx := rfl
@[simp] theorem Dev.modPwr_al (f : PowerSt → PowerSt) : (d.modPwr f).al = d.al := rfl
@[simp] theorem Dev.modPwr_scans (f : PowerSt → PowerSt) : (d.modPwr f).scans = d.scans := rfl
@[simp] theorem Dev.modPwr_scanQ (f : PowerSt → PowerSt) : (d.modPwr f).scanQ = d.scanQ := rfl
@[simp] theorem Dev.modPwr_ports (f : PowerSt → PowerSt) : (d.modPwr f).ports = d.ports := rfl
@[simp] theorem Dev.modPwr_sysPorts (f : PowerSt → PowerSt) : (d.modPwr f).sysPorts = d.sysPorts := rfl
@[simp] theorem Dev.modPwr_trees (f : PowerSt → PowerSt) : (d.modPwr f).trees = d.trees := rfl
@[simp] theorem Dev.modPwr_slices (f : PowerSt → PowerSt) : (d.modPwr f).slices = d.slices := rfl
@[simp] theorem Dev.modPwr_mems (f : PowerSt → PowerSt) : (d.modPwr f).mems = d.mems := rfl
@[simp] theorem Dev.modPwr_flashA (f : PowerSt → PowerSt) : (d.modPwr f).flashA = d.flashA := rfl
@[simp] theorem Dev.modPwr_flashB (f : PowerSt → PowerSt) : (d.modPwr f).flashB = d.flashB := rfl
@[simp] theorem Dev.modPwr_recDirty (f : PowerSt → PowerSt) : (d.modPwr f).recDirty = d.recDirty := rfl
@[simp] theorem Dev.modPwr_ending (f : PowerSt → PowerSt) : (d.modPwr f).ending = d.ending := rfl

@[simp] theorem Dev.modDom_now (p : Nat) (f : PDom → PDom) : (d.modDom p f).now = d.now := rfl
@[simp] theorem Dev.modDom_evPend (p : Nat) (f : PDom → PDom) : (d.modDom p f).evPend = d.evPend := rfl
@[simp] theorem Dev.modDom_free (p : Nat) (f : PDom → PDom) : (d.modDom p f).free = d.free := rfl
@[simp] theorem Dev.modDom_outs (p : Nat) (f : PDom → PDom) : (d.modDom p f).outs = d.outs := rfl
@[simp] theorem Dev.modDom_host (p : Nat) (f : PDom → PDom) : (d.modDom p f).host = d.host := rfl
@[simp] theorem Dev.modDom_counts (p : Nat) (f : PDom → PDom) : (d.modDom p f).counts = d.counts := rfl
@[simp] theorem Dev.modDom_time (p : Nat) (f : PDom → PDom) : (d.modDom p f).time = d.time := rfl
@[simp] theorem Dev.modDom_ao (p : Nat) (f : PDom → PDom) : (d.modDom p f).ao = d.ao := rfl
@[simp] theorem Dev.modDom_vault (p : Nat) (f : PDom → PDom) : (d.modDom p f).vault = d.vault := rfl
@[simp] theorem Dev.modDom_lrx (p : Nat) (f : PDom → PDom) : (d.modDom p f).lrx = d.lrx := rfl
@[simp] theorem Dev.modDom_ltx (p : Nat) (f : PDom → PDom) : (d.modDom p f).ltx = d.ltx := rfl
@[simp] theorem Dev.modDom_al (p : Nat) (f : PDom → PDom) : (d.modDom p f).al = d.al := rfl
@[simp] theorem Dev.modDom_scans (p : Nat) (f : PDom → PDom) : (d.modDom p f).scans = d.scans := rfl
@[simp] theorem Dev.modDom_scanQ (p : Nat) (f : PDom → PDom) : (d.modDom p f).scanQ = d.scanQ := rfl
@[simp] theorem Dev.modDom_ports (p : Nat) (f : PDom → PDom) : (d.modDom p f).ports = d.ports := rfl
@[simp] theorem Dev.modDom_sysPorts (p : Nat) (f : PDom → PDom) : (d.modDom p f).sysPorts = d.sysPorts := rfl
@[simp] theorem Dev.modDom_trees (p : Nat) (f : PDom → PDom) : (d.modDom p f).trees = d.trees := rfl
@[simp] theorem Dev.modDom_slices (p : Nat) (f : PDom → PDom) : (d.modDom p f).slices = d.slices := rfl
@[simp] theorem Dev.modDom_mems (p : Nat) (f : PDom → PDom) : (d.modDom p f).mems = d.mems := rfl
@[simp] theorem Dev.modDom_flashA (p : Nat) (f : PDom → PDom) : (d.modDom p f).flashA = d.flashA := rfl
@[simp] theorem Dev.modDom_flashB (p : Nat) (f : PDom → PDom) : (d.modDom p f).flashB = d.flashB := rfl
@[simp] theorem Dev.modDom_recDirty (p : Nat) (f : PDom → PDom) : (d.modDom p f).recDirty = d.recDirty := rfl
@[simp] theorem Dev.modDom_ending (p : Nat) (f : PDom → PDom) : (d.modDom p f).ending = d.ending := rfl

@[simp] theorem Dev.modHost_now (f : Host14 → Host14) : (d.modHost f).now = d.now := rfl
@[simp] theorem Dev.modHost_evPend (f : Host14 → Host14) : (d.modHost f).evPend = d.evPend := rfl
@[simp] theorem Dev.modHost_free (f : Host14 → Host14) : (d.modHost f).free = d.free := rfl
@[simp] theorem Dev.modHost_outs (f : Host14 → Host14) : (d.modHost f).outs = d.outs := rfl
@[simp] theorem Dev.modHost_counts (f : Host14 → Host14) : (d.modHost f).counts = d.counts := rfl
@[simp] theorem Dev.modHost_time (f : Host14 → Host14) : (d.modHost f).time = d.time := rfl
@[simp] theorem Dev.modHost_ao (f : Host14 → Host14) : (d.modHost f).ao = d.ao := rfl
@[simp] theorem Dev.modHost_pwr (f : Host14 → Host14) : (d.modHost f).pwr = d.pwr := rfl
@[simp] theorem Dev.modHost_vault (f : Host14 → Host14) : (d.modHost f).vault = d.vault := rfl
@[simp] theorem Dev.modHost_lrx (f : Host14 → Host14) : (d.modHost f).lrx = d.lrx := rfl
@[simp] theorem Dev.modHost_ltx (f : Host14 → Host14) : (d.modHost f).ltx = d.ltx := rfl
@[simp] theorem Dev.modHost_al (f : Host14 → Host14) : (d.modHost f).al = d.al := rfl
@[simp] theorem Dev.modHost_scans (f : Host14 → Host14) : (d.modHost f).scans = d.scans := rfl
@[simp] theorem Dev.modHost_scanQ (f : Host14 → Host14) : (d.modHost f).scanQ = d.scanQ := rfl
@[simp] theorem Dev.modHost_ports (f : Host14 → Host14) : (d.modHost f).ports = d.ports := rfl
@[simp] theorem Dev.modHost_sysPorts (f : Host14 → Host14) : (d.modHost f).sysPorts = d.sysPorts := rfl
@[simp] theorem Dev.modHost_trees (f : Host14 → Host14) : (d.modHost f).trees = d.trees := rfl
@[simp] theorem Dev.modHost_slices (f : Host14 → Host14) : (d.modHost f).slices = d.slices := rfl
@[simp] theorem Dev.modHost_mems (f : Host14 → Host14) : (d.modHost f).mems = d.mems := rfl
@[simp] theorem Dev.modHost_flashA (f : Host14 → Host14) : (d.modHost f).flashA = d.flashA := rfl
@[simp] theorem Dev.modHost_flashB (f : Host14 → Host14) : (d.modHost f).flashB = d.flashB := rfl
@[simp] theorem Dev.modHost_recDirty (f : Host14 → Host14) : (d.modHost f).recDirty = d.recDirty := rfl
@[simp] theorem Dev.modHost_ending (f : Host14 → Host14) : (d.modHost f).ending = d.ending := rfl

@[simp] theorem Dev.modBoot_now (f : Boot → Boot) : (d.modBoot f).now = d.now := rfl
@[simp] theorem Dev.modBoot_evPend (f : Boot → Boot) : (d.modBoot f).evPend = d.evPend := rfl
@[simp] theorem Dev.modBoot_free (f : Boot → Boot) : (d.modBoot f).free = d.free := rfl
@[simp] theorem Dev.modBoot_outs (f : Boot → Boot) : (d.modBoot f).outs = d.outs := rfl
@[simp] theorem Dev.modBoot_counts (f : Boot → Boot) : (d.modBoot f).counts = d.counts := rfl
@[simp] theorem Dev.modBoot_time (f : Boot → Boot) : (d.modBoot f).time = d.time := rfl
@[simp] theorem Dev.modBoot_ao (f : Boot → Boot) : (d.modBoot f).ao = d.ao := rfl
@[simp] theorem Dev.modBoot_pwr (f : Boot → Boot) : (d.modBoot f).pwr = d.pwr := rfl
@[simp] theorem Dev.modBoot_vault (f : Boot → Boot) : (d.modBoot f).vault = d.vault := rfl
@[simp] theorem Dev.modBoot_lrx (f : Boot → Boot) : (d.modBoot f).lrx = d.lrx := rfl
@[simp] theorem Dev.modBoot_ltx (f : Boot → Boot) : (d.modBoot f).ltx = d.ltx := rfl
@[simp] theorem Dev.modBoot_al (f : Boot → Boot) : (d.modBoot f).al = d.al := rfl
@[simp] theorem Dev.modBoot_scans (f : Boot → Boot) : (d.modBoot f).scans = d.scans := rfl
@[simp] theorem Dev.modBoot_scanQ (f : Boot → Boot) : (d.modBoot f).scanQ = d.scanQ := rfl
@[simp] theorem Dev.modBoot_ports (f : Boot → Boot) : (d.modBoot f).ports = d.ports := rfl
@[simp] theorem Dev.modBoot_sysPorts (f : Boot → Boot) : (d.modBoot f).sysPorts = d.sysPorts := rfl
@[simp] theorem Dev.modBoot_trees (f : Boot → Boot) : (d.modBoot f).trees = d.trees := rfl
@[simp] theorem Dev.modBoot_slices (f : Boot → Boot) : (d.modBoot f).slices = d.slices := rfl
@[simp] theorem Dev.modBoot_mems (f : Boot → Boot) : (d.modBoot f).mems = d.mems := rfl
@[simp] theorem Dev.modBoot_flashA (f : Boot → Boot) : (d.modBoot f).flashA = d.flashA := rfl
@[simp] theorem Dev.modBoot_flashB (f : Boot → Boot) : (d.modBoot f).flashB = d.flashB := rfl
@[simp] theorem Dev.modBoot_recDirty (f : Boot → Boot) : (d.modBoot f).recDirty = d.recDirty := rfl
@[simp] theorem Dev.modBoot_ending (f : Boot → Boot) : (d.modBoot f).ending = d.ending := rfl

@[simp] theorem Dev.modFw_now (f : Firmware → Firmware) : (d.modFw f).now = d.now := rfl
@[simp] theorem Dev.modFw_evPend (f : Firmware → Firmware) : (d.modFw f).evPend = d.evPend := rfl
@[simp] theorem Dev.modFw_free (f : Firmware → Firmware) : (d.modFw f).free = d.free := rfl
@[simp] theorem Dev.modFw_outs (f : Firmware → Firmware) : (d.modFw f).outs = d.outs := rfl
@[simp] theorem Dev.modFw_counts (f : Firmware → Firmware) : (d.modFw f).counts = d.counts := rfl
@[simp] theorem Dev.modFw_time (f : Firmware → Firmware) : (d.modFw f).time = d.time := rfl
@[simp] theorem Dev.modFw_ao (f : Firmware → Firmware) : (d.modFw f).ao = d.ao := rfl
@[simp] theorem Dev.modFw_pwr (f : Firmware → Firmware) : (d.modFw f).pwr = d.pwr := rfl
@[simp] theorem Dev.modFw_vault (f : Firmware → Firmware) : (d.modFw f).vault = d.vault := rfl
@[simp] theorem Dev.modFw_lrx (f : Firmware → Firmware) : (d.modFw f).lrx = d.lrx := rfl
@[simp] theorem Dev.modFw_ltx (f : Firmware → Firmware) : (d.modFw f).ltx = d.ltx := rfl
@[simp] theorem Dev.modFw_al (f : Firmware → Firmware) : (d.modFw f).al = d.al := rfl
@[simp] theorem Dev.modFw_scans (f : Firmware → Firmware) : (d.modFw f).scans = d.scans := rfl
@[simp] theorem Dev.modFw_scanQ (f : Firmware → Firmware) : (d.modFw f).scanQ = d.scanQ := rfl
@[simp] theorem Dev.modFw_ports (f : Firmware → Firmware) : (d.modFw f).ports = d.ports := rfl
@[simp] theorem Dev.modFw_sysPorts (f : Firmware → Firmware) : (d.modFw f).sysPorts = d.sysPorts := rfl
@[simp] theorem Dev.modFw_trees (f : Firmware → Firmware) : (d.modFw f).trees = d.trees := rfl
@[simp] theorem Dev.modFw_slices (f : Firmware → Firmware) : (d.modFw f).slices = d.slices := rfl
@[simp] theorem Dev.modFw_mems (f : Firmware → Firmware) : (d.modFw f).mems = d.mems := rfl
@[simp] theorem Dev.modFw_flashA (f : Firmware → Firmware) : (d.modFw f).flashA = d.flashA := rfl
@[simp] theorem Dev.modFw_flashB (f : Firmware → Firmware) : (d.modFw f).flashB = d.flashB := rfl
@[simp] theorem Dev.modFw_recDirty (f : Firmware → Firmware) : (d.modFw f).recDirty = d.recDirty := rfl
@[simp] theorem Dev.modFw_ending (f : Firmware → Firmware) : (d.modFw f).ending = d.ending := rfl

@[simp] theorem Dev.modMbox_now (m : Nat) (f : Mailbox → Mailbox) : (d.modMbox m f).now = d.now := rfl
@[simp] theorem Dev.modMbox_evPend (m : Nat) (f : Mailbox → Mailbox) : (d.modMbox m f).evPend = d.evPend := rfl
@[simp] theorem Dev.modMbox_free (m : Nat) (f : Mailbox → Mailbox) : (d.modMbox m f).free = d.free := rfl
@[simp] theorem Dev.modMbox_outs (m : Nat) (f : Mailbox → Mailbox) : (d.modMbox m f).outs = d.outs := rfl
@[simp] theorem Dev.modMbox_counts (m : Nat) (f : Mailbox → Mailbox) : (d.modMbox m f).counts = d.counts := rfl
@[simp] theorem Dev.modMbox_time (m : Nat) (f : Mailbox → Mailbox) : (d.modMbox m f).time = d.time := rfl
@[simp] theorem Dev.modMbox_ao (m : Nat) (f : Mailbox → Mailbox) : (d.modMbox m f).ao = d.ao := rfl
@[simp] theorem Dev.modMbox_pwr (m : Nat) (f : Mailbox → Mailbox) : (d.modMbox m f).pwr = d.pwr := rfl
@[simp] theorem Dev.modMbox_vault (m : Nat) (f : Mailbox → Mailbox) : (d.modMbox m f).vault = d.vault := rfl
@[simp] theorem Dev.modMbox_lrx (m : Nat) (f : Mailbox → Mailbox) : (d.modMbox m f).lrx = d.lrx := rfl
@[simp] theorem Dev.modMbox_ltx (m : Nat) (f : Mailbox → Mailbox) : (d.modMbox m f).ltx = d.ltx := rfl
@[simp] theorem Dev.modMbox_al (m : Nat) (f : Mailbox → Mailbox) : (d.modMbox m f).al = d.al := rfl
@[simp] theorem Dev.modMbox_scans (m : Nat) (f : Mailbox → Mailbox) : (d.modMbox m f).scans = d.scans := rfl
@[simp] theorem Dev.modMbox_scanQ (m : Nat) (f : Mailbox → Mailbox) : (d.modMbox m f).scanQ = d.scanQ := rfl
@[simp] theorem Dev.modMbox_ports (m : Nat) (f : Mailbox → Mailbox) : (d.modMbox m f).ports = d.ports := rfl
@[simp] theorem Dev.modMbox_sysPorts (m : Nat) (f : Mailbox → Mailbox) : (d.modMbox m f).sysPorts = d.sysPorts := rfl
@[simp] theorem Dev.modMbox_trees (m : Nat) (f : Mailbox → Mailbox) : (d.modMbox m f).trees = d.trees := rfl
@[simp] theorem Dev.modMbox_slices (m : Nat) (f : Mailbox → Mailbox) : (d.modMbox m f).slices = d.slices := rfl
@[simp] theorem Dev.modMbox_mems (m : Nat) (f : Mailbox → Mailbox) : (d.modMbox m f).mems = d.mems := rfl
@[simp] theorem Dev.modMbox_flashA (m : Nat) (f : Mailbox → Mailbox) : (d.modMbox m f).flashA = d.flashA := rfl
@[simp] theorem Dev.modMbox_flashB (m : Nat) (f : Mailbox → Mailbox) : (d.modMbox m f).flashB = d.flashB := rfl
@[simp] theorem Dev.modMbox_recDirty (m : Nat) (f : Mailbox → Mailbox) : (d.modMbox m f).recDirty = d.recDirty := rfl
@[simp] theorem Dev.modMbox_ending (m : Nat) (f : Mailbox → Mailbox) : (d.modMbox m f).ending = d.ending := rfl

@[simp] theorem Dev.due_now (v : Nat) : (d.due v).now = d.now := rfl
@[simp] theorem Dev.due_evPend (v : Nat) : (d.due v).evPend = d.evPend := rfl
@[simp] theorem Dev.due_free (v : Nat) : (d.due v).free = d.free := rfl
@[simp] theorem Dev.due_outs (v : Nat) : (d.due v).outs = d.outs := rfl
@[simp] theorem Dev.due_counts (v : Nat) : (d.due v).counts = d.counts := rfl
@[simp] theorem Dev.due_time (v : Nat) : (d.due v).time = d.time := rfl
@[simp] theorem Dev.due_ao (v : Nat) : (d.due v).ao = d.ao := rfl
@[simp] theorem Dev.due_pwr (v : Nat) : (d.due v).pwr = d.pwr := rfl
@[simp] theorem Dev.due_vault (v : Nat) : (d.due v).vault = d.vault := rfl
@[simp] theorem Dev.due_lrx (v : Nat) : (d.due v).lrx = d.lrx := rfl
@[simp] theorem Dev.due_ltx (v : Nat) : (d.due v).ltx = d.ltx := rfl
@[simp] theorem Dev.due_al (v : Nat) : (d.due v).al = d.al := rfl
@[simp] theorem Dev.due_scans (v : Nat) : (d.due v).scans = d.scans := rfl
@[simp] theorem Dev.due_scanQ (v : Nat) : (d.due v).scanQ = d.scanQ := rfl
@[simp] theorem Dev.due_ports (v : Nat) : (d.due v).ports = d.ports := rfl
@[simp] theorem Dev.due_sysPorts (v : Nat) : (d.due v).sysPorts = d.sysPorts := rfl
@[simp] theorem Dev.due_trees (v : Nat) : (d.due v).trees = d.trees := rfl
@[simp] theorem Dev.due_slices (v : Nat) : (d.due v).slices = d.slices := rfl
@[simp] theorem Dev.due_mems (v : Nat) : (d.due v).mems = d.mems := rfl
@[simp] theorem Dev.due_flashA (v : Nat) : (d.due v).flashA = d.flashA := rfl
@[simp] theorem Dev.due_flashB (v : Nat) : (d.due v).flashB = d.flashB := rfl
@[simp] theorem Dev.due_recDirty (v : Nat) : (d.due v).recDirty = d.recDirty := rfl
@[simp] theorem Dev.due_ending (v : Nat) : (d.due v).ending = d.ending := rfl

@[simp] theorem Dev.modVault_now (f : Vault → Vault) : (d.modVault f).now = d.now := rfl
@[simp] theorem Dev.modVault_evPend (f : Vault → Vault) : (d.modVault f).evPend = d.evPend := rfl
@[simp] theorem Dev.modVault_free (f : Vault → Vault) : (d.modVault f).free = d.free := rfl
@[simp] theorem Dev.modVault_outs (f : Vault → Vault) : (d.modVault f).outs = d.outs := rfl
@[simp] theorem Dev.modVault_host (f : Vault → Vault) : (d.modVault f).host = d.host := rfl
@[simp] theorem Dev.modVault_counts (f : Vault → Vault) : (d.modVault f).counts = d.counts := rfl
@[simp] theorem Dev.modVault_time (f : Vault → Vault) : (d.modVault f).time = d.time := rfl
@[simp] theorem Dev.modVault_ao (f : Vault → Vault) : (d.modVault f).ao = d.ao := rfl
@[simp] theorem Dev.modVault_pwr (f : Vault → Vault) : (d.modVault f).pwr = d.pwr := rfl
@[simp] theorem Dev.modVault_lrx (f : Vault → Vault) : (d.modVault f).lrx = d.lrx := rfl
@[simp] theorem Dev.modVault_ltx (f : Vault → Vault) : (d.modVault f).ltx = d.ltx := rfl
@[simp] theorem Dev.modVault_al (f : Vault → Vault) : (d.modVault f).al = d.al := rfl
@[simp] theorem Dev.modVault_scans (f : Vault → Vault) : (d.modVault f).scans = d.scans := rfl
@[simp] theorem Dev.modVault_scanQ (f : Vault → Vault) : (d.modVault f).scanQ = d.scanQ := rfl
@[simp] theorem Dev.modVault_ports (f : Vault → Vault) : (d.modVault f).ports = d.ports := rfl
@[simp] theorem Dev.modVault_sysPorts (f : Vault → Vault) : (d.modVault f).sysPorts = d.sysPorts := rfl
@[simp] theorem Dev.modVault_trees (f : Vault → Vault) : (d.modVault f).trees = d.trees := rfl
@[simp] theorem Dev.modVault_slices (f : Vault → Vault) : (d.modVault f).slices = d.slices := rfl
@[simp] theorem Dev.modVault_mems (f : Vault → Vault) : (d.modVault f).mems = d.mems := rfl
@[simp] theorem Dev.modVault_flashA (f : Vault → Vault) : (d.modVault f).flashA = d.flashA := rfl
@[simp] theorem Dev.modVault_flashB (f : Vault → Vault) : (d.modVault f).flashB = d.flashB := rfl
@[simp] theorem Dev.modVault_recDirty (f : Vault → Vault) : (d.modVault f).recDirty = d.recDirty := rfl
@[simp] theorem Dev.modVault_ending (f : Vault → Vault) : (d.modVault f).ending = d.ending := rfl

@[simp] theorem Dev.modTime_now (f : TimeSt → TimeSt) : (d.modTime f).now = d.now := rfl
@[simp] theorem Dev.modTime_evPend (f : TimeSt → TimeSt) : (d.modTime f).evPend = d.evPend := rfl
@[simp] theorem Dev.modTime_free (f : TimeSt → TimeSt) : (d.modTime f).free = d.free := rfl
@[simp] theorem Dev.modTime_outs (f : TimeSt → TimeSt) : (d.modTime f).outs = d.outs := rfl
@[simp] theorem Dev.modTime_host (f : TimeSt → TimeSt) : (d.modTime f).host = d.host := rfl
@[simp] theorem Dev.modTime_counts (f : TimeSt → TimeSt) : (d.modTime f).counts = d.counts := rfl
@[simp] theorem Dev.modTime_ao (f : TimeSt → TimeSt) : (d.modTime f).ao = d.ao := rfl
@[simp] theorem Dev.modTime_pwr (f : TimeSt → TimeSt) : (d.modTime f).pwr = d.pwr := rfl
@[simp] theorem Dev.modTime_vault (f : TimeSt → TimeSt) : (d.modTime f).vault = d.vault := rfl
@[simp] theorem Dev.modTime_lrx (f : TimeSt → TimeSt) : (d.modTime f).lrx = d.lrx := rfl
@[simp] theorem Dev.modTime_ltx (f : TimeSt → TimeSt) : (d.modTime f).ltx = d.ltx := rfl
@[simp] theorem Dev.modTime_al (f : TimeSt → TimeSt) : (d.modTime f).al = d.al := rfl
@[simp] theorem Dev.modTime_scans (f : TimeSt → TimeSt) : (d.modTime f).scans = d.scans := rfl
@[simp] theorem Dev.modTime_scanQ (f : TimeSt → TimeSt) : (d.modTime f).scanQ = d.scanQ := rfl
@[simp] theorem Dev.modTime_ports (f : TimeSt → TimeSt) : (d.modTime f).ports = d.ports := rfl
@[simp] theorem Dev.modTime_sysPorts (f : TimeSt → TimeSt) : (d.modTime f).sysPorts = d.sysPorts := rfl
@[simp] theorem Dev.modTime_trees (f : TimeSt → TimeSt) : (d.modTime f).trees = d.trees := rfl
@[simp] theorem Dev.modTime_slices (f : TimeSt → TimeSt) : (d.modTime f).slices = d.slices := rfl
@[simp] theorem Dev.modTime_mems (f : TimeSt → TimeSt) : (d.modTime f).mems = d.mems := rfl
@[simp] theorem Dev.modTime_flashA (f : TimeSt → TimeSt) : (d.modTime f).flashA = d.flashA := rfl
@[simp] theorem Dev.modTime_flashB (f : TimeSt → TimeSt) : (d.modTime f).flashB = d.flashB := rfl
@[simp] theorem Dev.modTime_recDirty (f : TimeSt → TimeSt) : (d.modTime f).recDirty = d.recDirty := rfl
@[simp] theorem Dev.modTime_ending (f : TimeSt → TimeSt) : (d.modTime f).ending = d.ending := rfl

@[simp] theorem Dev.modAo_now (f : TimeAo → TimeAo) : (d.modAo f).now = d.now := rfl
@[simp] theorem Dev.modAo_evPend (f : TimeAo → TimeAo) : (d.modAo f).evPend = d.evPend := rfl
@[simp] theorem Dev.modAo_free (f : TimeAo → TimeAo) : (d.modAo f).free = d.free := rfl
@[simp] theorem Dev.modAo_outs (f : TimeAo → TimeAo) : (d.modAo f).outs = d.outs := rfl
@[simp] theorem Dev.modAo_host (f : TimeAo → TimeAo) : (d.modAo f).host = d.host := rfl
@[simp] theorem Dev.modAo_counts (f : TimeAo → TimeAo) : (d.modAo f).counts = d.counts := rfl
@[simp] theorem Dev.modAo_time (f : TimeAo → TimeAo) : (d.modAo f).time = d.time := rfl
@[simp] theorem Dev.modAo_pwr (f : TimeAo → TimeAo) : (d.modAo f).pwr = d.pwr := rfl
@[simp] theorem Dev.modAo_vault (f : TimeAo → TimeAo) : (d.modAo f).vault = d.vault := rfl
@[simp] theorem Dev.modAo_lrx (f : TimeAo → TimeAo) : (d.modAo f).lrx = d.lrx := rfl
@[simp] theorem Dev.modAo_ltx (f : TimeAo → TimeAo) : (d.modAo f).ltx = d.ltx := rfl
@[simp] theorem Dev.modAo_al (f : TimeAo → TimeAo) : (d.modAo f).al = d.al := rfl
@[simp] theorem Dev.modAo_scans (f : TimeAo → TimeAo) : (d.modAo f).scans = d.scans := rfl
@[simp] theorem Dev.modAo_scanQ (f : TimeAo → TimeAo) : (d.modAo f).scanQ = d.scanQ := rfl
@[simp] theorem Dev.modAo_ports (f : TimeAo → TimeAo) : (d.modAo f).ports = d.ports := rfl
@[simp] theorem Dev.modAo_sysPorts (f : TimeAo → TimeAo) : (d.modAo f).sysPorts = d.sysPorts := rfl
@[simp] theorem Dev.modAo_trees (f : TimeAo → TimeAo) : (d.modAo f).trees = d.trees := rfl
@[simp] theorem Dev.modAo_slices (f : TimeAo → TimeAo) : (d.modAo f).slices = d.slices := rfl
@[simp] theorem Dev.modAo_mems (f : TimeAo → TimeAo) : (d.modAo f).mems = d.mems := rfl
@[simp] theorem Dev.modAo_flashA (f : TimeAo → TimeAo) : (d.modAo f).flashA = d.flashA := rfl
@[simp] theorem Dev.modAo_flashB (f : TimeAo → TimeAo) : (d.modAo f).flashB = d.flashB := rfl
@[simp] theorem Dev.modAo_recDirty (f : TimeAo → TimeAo) : (d.modAo f).recDirty = d.recDirty := rfl
@[simp] theorem Dev.modAo_ending (f : TimeAo → TimeAo) : (d.modAo f).ending = d.ending := rfl

@[simp] theorem Dev.out_now (o : Output) : (d.out o).now = d.now := rfl
@[simp] theorem Dev.out_evPend (o : Output) : (d.out o).evPend = d.evPend := rfl
@[simp] theorem Dev.out_free (o : Output) : (d.out o).free = d.free := rfl
@[simp] theorem Dev.out_host (o : Output) : (d.out o).host = d.host := rfl
@[simp] theorem Dev.out_counts (o : Output) : (d.out o).counts = d.counts := rfl
@[simp] theorem Dev.out_time (o : Output) : (d.out o).time = d.time := rfl
@[simp] theorem Dev.out_ao (o : Output) : (d.out o).ao = d.ao := rfl
@[simp] theorem Dev.out_pwr (o : Output) : (d.out o).pwr = d.pwr := rfl
@[simp] theorem Dev.out_vault (o : Output) : (d.out o).vault = d.vault := rfl
@[simp] theorem Dev.out_lrx (o : Output) : (d.out o).lrx = d.lrx := rfl
@[simp] theorem Dev.out_ltx (o : Output) : (d.out o).ltx = d.ltx := rfl
@[simp] theorem Dev.out_al (o : Output) : (d.out o).al = d.al := rfl
@[simp] theorem Dev.out_scans (o : Output) : (d.out o).scans = d.scans := rfl
@[simp] theorem Dev.out_scanQ (o : Output) : (d.out o).scanQ = d.scanQ := rfl
@[simp] theorem Dev.out_ports (o : Output) : (d.out o).ports = d.ports := rfl
@[simp] theorem Dev.out_sysPorts (o : Output) : (d.out o).sysPorts = d.sysPorts := rfl
@[simp] theorem Dev.out_trees (o : Output) : (d.out o).trees = d.trees := rfl
@[simp] theorem Dev.out_slices (o : Output) : (d.out o).slices = d.slices := rfl
@[simp] theorem Dev.out_mems (o : Output) : (d.out o).mems = d.mems := rfl
@[simp] theorem Dev.out_flashA (o : Output) : (d.out o).flashA = d.flashA := rfl
@[simp] theorem Dev.out_flashB (o : Output) : (d.out o).flashB = d.flashB := rfl
@[simp] theorem Dev.out_recDirty (o : Output) : (d.out o).recDirty = d.recDirty := rfl
@[simp] theorem Dev.out_ending (o : Output) : (d.out o).ending = d.ending := rfl

@[simp] theorem Dev.raise_now (q s c o : Nat) (l : List Nat) : (d.raise q s c o l).now = d.now := rfl
@[simp] theorem Dev.raise_free (q s c o : Nat) (l : List Nat) : (d.raise q s c o l).free = d.free := rfl
@[simp] theorem Dev.raise_outs (q s c o : Nat) (l : List Nat) : (d.raise q s c o l).outs = d.outs := rfl
@[simp] theorem Dev.raise_host (q s c o : Nat) (l : List Nat) : (d.raise q s c o l).host = d.host := rfl
@[simp] theorem Dev.raise_counts (q s c o : Nat) (l : List Nat) : (d.raise q s c o l).counts = d.counts := rfl
@[simp] theorem Dev.raise_time (q s c o : Nat) (l : List Nat) : (d.raise q s c o l).time = d.time := rfl
@[simp] theorem Dev.raise_ao (q s c o : Nat) (l : List Nat) : (d.raise q s c o l).ao = d.ao := rfl
@[simp] theorem Dev.raise_pwr (q s c o : Nat) (l : List Nat) : (d.raise q s c o l).pwr = d.pwr := rfl
@[simp] theorem Dev.raise_vault (q s c o : Nat) (l : List Nat) : (d.raise q s c o l).vault = d.vault := rfl
@[simp] theorem Dev.raise_lrx (q s c o : Nat) (l : List Nat) : (d.raise q s c o l).lrx = d.lrx := rfl
@[simp] theorem Dev.raise_ltx (q s c o : Nat) (l : List Nat) : (d.raise q s c o l).ltx = d.ltx := rfl
@[simp] theorem Dev.raise_al (q s c o : Nat) (l : List Nat) : (d.raise q s c o l).al = d.al := rfl
@[simp] theorem Dev.raise_scans (q s c o : Nat) (l : List Nat) : (d.raise q s c o l).scans = d.scans := rfl
@[simp] theorem Dev.raise_scanQ (q s c o : Nat) (l : List Nat) : (d.raise q s c o l).scanQ = d.scanQ := rfl
@[simp] theorem Dev.raise_ports (q s c o : Nat) (l : List Nat) : (d.raise q s c o l).ports = d.ports := rfl
@[simp] theorem Dev.raise_sysPorts (q s c o : Nat) (l : List Nat) : (d.raise q s c o l).sysPorts = d.sysPorts := rfl
@[simp] theorem Dev.raise_trees (q s c o : Nat) (l : List Nat) : (d.raise q s c o l).trees = d.trees := rfl
@[simp] theorem Dev.raise_slices (q s c o : Nat) (l : List Nat) : (d.raise q s c o l).slices = d.slices := rfl
@[simp] theorem Dev.raise_mems (q s c o : Nat) (l : List Nat) : (d.raise q s c o l).mems = d.mems := rfl
@[simp] theorem Dev.raise_flashA (q s c o : Nat) (l : List Nat) : (d.raise q s c o l).flashA = d.flashA := rfl
@[simp] theorem Dev.raise_flashB (q s c o : Nat) (l : List Nat) : (d.raise q s c o l).flashB = d.flashB := rfl
@[simp] theorem Dev.raise_recDirty (q s c o : Nat) (l : List Nat) : (d.raise q s c o l).recDirty = d.recDirty := rfl
@[simp] theorem Dev.raise_ending (q s c o : Nat) (l : List Nat) : (d.raise q s c o l).ending = d.ending := rfl

@[simp] theorem Dev.clearCount_now (c : CN) (i j : Nat) : (d.clearCount c i j).now = d.now := rfl
@[simp] theorem Dev.clearCount_evPend (c : CN) (i j : Nat) : (d.clearCount c i j).evPend = d.evPend := rfl
@[simp] theorem Dev.clearCount_free (c : CN) (i j : Nat) : (d.clearCount c i j).free = d.free := rfl
@[simp] theorem Dev.clearCount_outs (c : CN) (i j : Nat) : (d.clearCount c i j).outs = d.outs := rfl
@[simp] theorem Dev.clearCount_host (c : CN) (i j : Nat) : (d.clearCount c i j).host = d.host := rfl
@[simp] theorem Dev.clearCount_time (c : CN) (i j : Nat) : (d.clearCount c i j).time = d.time := rfl
@[simp] theorem Dev.clearCount_ao (c : CN) (i j : Nat) : (d.clearCount c i j).ao = d.ao := rfl
@[simp] theorem Dev.clearCount_pwr (c : CN) (i j : Nat) : (d.clearCount c i j).pwr = d.pwr := rfl
@[simp] theorem Dev.clearCount_vault (c : CN) (i j : Nat) : (d.clearCount c i j).vault = d.vault := rfl
@[simp] theorem Dev.clearCount_lrx (c : CN) (i j : Nat) : (d.clearCount c i j).lrx = d.lrx := rfl
@[simp] theorem Dev.clearCount_ltx (c : CN) (i j : Nat) : (d.clearCount c i j).ltx = d.ltx := rfl
@[simp] theorem Dev.clearCount_al (c : CN) (i j : Nat) : (d.clearCount c i j).al = d.al := rfl
@[simp] theorem Dev.clearCount_scans (c : CN) (i j : Nat) : (d.clearCount c i j).scans = d.scans := rfl
@[simp] theorem Dev.clearCount_scanQ (c : CN) (i j : Nat) : (d.clearCount c i j).scanQ = d.scanQ := rfl
@[simp] theorem Dev.clearCount_ports (c : CN) (i j : Nat) : (d.clearCount c i j).ports = d.ports := rfl
@[simp] theorem Dev.clearCount_sysPorts (c : CN) (i j : Nat) : (d.clearCount c i j).sysPorts = d.sysPorts := rfl
@[simp] theorem Dev.clearCount_trees (c : CN) (i j : Nat) : (d.clearCount c i j).trees = d.trees := rfl
@[simp] theorem Dev.clearCount_slices (c : CN) (i j : Nat) : (d.clearCount c i j).slices = d.slices := rfl
@[simp] theorem Dev.clearCount_mems (c : CN) (i j : Nat) : (d.clearCount c i j).mems = d.mems := rfl
@[simp] theorem Dev.clearCount_flashA (c : CN) (i j : Nat) : (d.clearCount c i j).flashA = d.flashA := rfl
@[simp] theorem Dev.clearCount_flashB (c : CN) (i j : Nat) : (d.clearCount c i j).flashB = d.flashB := rfl
@[simp] theorem Dev.clearCount_recDirty (c : CN) (i j : Nat) : (d.clearCount c i j).recDirty = d.recDirty := rfl
@[simp] theorem Dev.clearCount_ending (c : CN) (i j : Nat) : (d.clearCount c i j).ending = d.ending := rfl

/-! ### Reading a part after its own update -/

@[simp] theorem Dev.tree_setTree (k : Nat) (x : Tree) : (d.setTree k x).tree k = x := Tab.get_set_same ..
@[simp] theorem Dev.slice_setSlice (n : Nat) (x : Slice) : (d.setSlice n x).slice n = x := Tab.get_set_same ..
theorem Dev.tree_setTree_other {j k : Nat} (x : Tree) (h : k ≠ j) : (d.setTree k x).tree j = d.tree j := Tab.get_set_other _ _ _ h
theorem Dev.slice_setSlice_other {m n : Nat} (x : Slice) (h : n ≠ m) : (d.setSlice n x).slice m = d.slice m := Tab.get_set_other _ _ _ h
@[simp] theorem Dev.tree_modTree (k : Nat) (f : Tree → Tree) : (d.modTree k f).tree k = f (d.tree k) := Tab.get_set_same ..
theorem Dev.tree_modTree_other {i k : Nat} (f : Tree → Tree) (h : k ≠ i) : (d.modTree k f).tree i = d.tree i := Tab.get_set_other _ _ _ h
@[simp] theorem Dev.slice_modSlice (n : Nat) (f : Slice → Slice) : (d.modSlice n f).slice n = f (d.slice n) := Tab.get_set_same ..
theorem Dev.slice_modSlice_other {i n : Nat} (f : Slice → Slice) (h : n ≠ i) : (d.modSlice n f).slice i = d.slice i := Tab.get_set_other _ _ _ h
@[simp] theorem Dev.rxLane_modRx (l : Nat) (f : LaneRx → LaneRx) : (d.modRx l f).rxLane l = f (d.rxLane l) := Tab.get_set_same ..
theorem Dev.rxLane_modRx_other {i l : Nat} (f : LaneRx → LaneRx) (h : l ≠ i) : (d.modRx l f).rxLane i = d.rxLane i := Tab.get_set_other _ _ _ h
@[simp] theorem Dev.txLane_modTx (l : Nat) (f : LaneTx → LaneTx) : (d.modTx l f).txLane l = f (d.txLane l) := Tab.get_set_same ..
theorem Dev.txLane_modTx_other {i l : Nat} (f : LaneTx → LaneTx) (h : l ≠ i) : (d.modTx l f).txLane i = d.txLane i := Tab.get_set_other _ _ _ h
@[simp] theorem Dev.align_modAlign (l : Nat) (f : Align → Align) : (d.modAlign l f).align l = f (d.align l) := Tab.get_set_same ..
theorem Dev.align_modAlign_other {i l : Nat} (f : Align → Align) (h : l ≠ i) : (d.modAlign l f).align i = d.align i := Tab.get_set_other _ _ _ h
@[simp] theorem Dev.port_modPort (p : Nat) (f : LinePort → LinePort) : (d.modPort p f).port p = f (d.port p) := Tab.get_set_same ..
theorem Dev.port_modPort_other {i p : Nat} (f : LinePort → LinePort) (h : p ≠ i) : (d.modPort p f).port i = d.port i := Tab.get_set_other _ _ _ h
@[simp] theorem Dev.sysPort_modSys (p : Nat) (f : SysPort → SysPort) : (d.modSys p f).sysPort p = f (d.sysPort p) := Tab.get_set_same ..
theorem Dev.sysPort_modSys_other {i p : Nat} (f : SysPort → SysPort) (h : p ≠ i) : (d.modSys p f).sysPort i = d.sysPort i := Tab.get_set_other _ _ _ h
@[simp] theorem Dev.stack_modStack (n : Nat) (f : Stack → Stack) : (d.modStack n f).stack n = f (d.stack n) := Tab.get_set_same ..
theorem Dev.stack_modStack_other {i n : Nat} (f : Stack → Stack) (h : n ≠ i) : (d.modStack n f).stack i = d.stack i := Tab.get_set_other _ _ _ h
@[simp] theorem Dev.dom_modDom (p : Nat) (f : PDom → PDom) : (d.modDom p f).dom p = f (d.dom p) := Tab.get_set_same ..
theorem Dev.dom_modDom_other {i p : Nat} (f : PDom → PDom) (h : p ≠ i) : (d.modDom p f).dom i = d.dom i := Tab.get_set_other _ _ _ h
@[simp] theorem Dev.mbox_modMbox (m : Nat) (f : Mailbox → Mailbox) : (d.modMbox m f).mbox m = f (d.mbox m) := Tab.get_set_same ..
theorem Dev.mbox_modMbox_other {i m : Nat} (f : Mailbox → Mailbox) (h : m ≠ i) : (d.modMbox m f).mbox i = d.mbox i := Tab.get_set_other _ _ _ h
@[simp] theorem Dev.slice_modTab (n : Nat) (f : Tables → Tables) : (d.modTab n f).slice n = { d.slice n with tab := f (d.slice n).tab } := Tab.get_set_same ..
theorem Dev.slice_modTab_other {m n : Nat} (f : Tables → Tables) (h : n ≠ m) : (d.modTab n f).slice m = d.slice m := Tab.get_set_other _ _ _ h
@[simp] theorem Dev.slice_modBuf (n : Nat) (f : BufSt → BufSt) : (d.modBuf n f).slice n = { d.slice n with buf := f (d.slice n).buf } := Tab.get_set_same ..
theorem Dev.slice_modBuf_other {m n : Nat} (f : BufSt → BufSt) (h : n ≠ m) : (d.modBuf n f).slice m = d.slice m := Tab.get_set_other _ _ _ h
@[simp] theorem Dev.slice_modSched (n : Nat) (f : SchedSt → SchedSt) : (d.modSched n f).slice n = { d.slice n with sched := f (d.slice n).sched } := Tab.get_set_same ..
theorem Dev.slice_modSched_other {m n : Nat} (f : SchedSt → SchedSt) (h : n ≠ m) : (d.modSched n f).slice m = d.slice m := Tab.get_set_other _ _ _ h
@[simp] theorem Dev.slice_modKey (n : Nat) (f : KeySt → KeySt) : (d.modKey n f).slice n = { d.slice n with key := f (d.slice n).key } := Tab.get_set_same ..
theorem Dev.slice_modKey_other {m n : Nat} (f : KeySt → KeySt) (h : n ≠ m) : (d.modKey n f).slice m = d.slice m := Tab.get_set_other _ _ _ h
@[simp] theorem Dev.slice_modObs (n : Nat) (f : Observe → Observe) : (d.modObs n f).slice n = { d.slice n with obs := f (d.slice n).obs } := Tab.get_set_same ..
theorem Dev.slice_modObs_other {m n : Nat} (f : Observe → Observe) (h : n ≠ m) : (d.modObs n f).slice m = d.slice m := Tab.get_set_other _ _ _ h
@[simp] theorem Dev.modHost_host (f : Host14 → Host14) : (d.modHost f).host = f d.host := rfl
@[simp] theorem Dev.modVault_vault (f : Vault → Vault) : (d.modVault f).vault = f d.vault := rfl
@[simp] theorem Dev.modTime_time (f : TimeSt → TimeSt) : (d.modTime f).time = f d.time := rfl
@[simp] theorem Dev.modAo_ao (f : TimeAo → TimeAo) : (d.modAo f).ao = f d.ao := rfl
@[simp] theorem Dev.modPwr_pwr (f : PowerSt → PowerSt) : (d.modPwr f).pwr = f d.pwr := rfl
@[simp] theorem Dev.out_outs (o : Output) : (d.out o).outs = d.outs ++ [o] := rfl

/-! ### The parts that another update leaves alone -/

@[simp] theorem Dev.tree_of_setSlice (i : Nat) (x : Slice) (z : Nat) : (d.setSlice i x).tree z = d.tree z := rfl
@[simp] theorem Dev.tree_of_modSlice (i : Nat) (f : Slice → Slice) (z : Nat) : (d.modSlice i f).tree z = d.tree z := rfl
@[simp] theorem Dev.tree_of_modTab (i : Nat) (f : Tables → Tables) (z : Nat) : (d.modTab i f).tree z = d.tree z := rfl
@[simp] theorem Dev.tree_of_modBuf (i : Nat) (f : BufSt → BufSt) (z : Nat) : (d.modBuf i f).tree z = d.tree z := rfl
@[simp] theorem Dev.tree_of_modSched (i : Nat) (f : SchedSt → SchedSt) (z : Nat) : (d.modSched i f).tree z = d.tree z := rfl
@[simp] theorem Dev.tree_of_modKey (i : Nat) (f : KeySt → KeySt) (z : Nat) : (d.modKey i f).tree z = d.tree z := rfl
@[simp] theorem Dev.tree_of_modObs (i : Nat) (f : Observe → Observe) (z : Nat) : (d.modObs i f).tree z = d.tree z := rfl
@[simp] theorem Dev.tree_of_modRx (i : Nat) (f : LaneRx → LaneRx) (z : Nat) : (d.modRx i f).tree z = d.tree z := rfl
@[simp] theorem Dev.tree_of_modTx (i : Nat) (f : LaneTx → LaneTx) (z : Nat) : (d.modTx i f).tree z = d.tree z := rfl
@[simp] theorem Dev.tree_of_modAlign (i : Nat) (f : Align → Align) (z : Nat) : (d.modAlign i f).tree z = d.tree z := rfl
@[simp] theorem Dev.tree_of_modPort (i : Nat) (f : LinePort → LinePort) (z : Nat) : (d.modPort i f).tree z = d.tree z := rfl
@[simp] theorem Dev.tree_of_modSys (i : Nat) (f : SysPort → SysPort) (z : Nat) : (d.modSys i f).tree z = d.tree z := rfl
@[simp] theorem Dev.tree_of_modStack (i : Nat) (f : Stack → Stack) (z : Nat) : (d.modStack i f).tree z = d.tree z := rfl
@[simp] theorem Dev.tree_of_modPwr (f : PowerSt → PowerSt) (z : Nat) : (d.modPwr f).tree z = d.tree z := rfl
@[simp] theorem Dev.tree_of_modDom (i : Nat) (f : PDom → PDom) (z : Nat) : (d.modDom i f).tree z = d.tree z := rfl
@[simp] theorem Dev.tree_of_modHost (f : Host14 → Host14) (z : Nat) : (d.modHost f).tree z = d.tree z := rfl
@[simp] theorem Dev.tree_of_modBoot (f : Boot → Boot) (z : Nat) : (d.modBoot f).tree z = d.tree z := rfl
@[simp] theorem Dev.tree_of_modFw (f : Firmware → Firmware) (z : Nat) : (d.modFw f).tree z = d.tree z := rfl
@[simp] theorem Dev.tree_of_modMbox (i : Nat) (f : Mailbox → Mailbox) (z : Nat) : (d.modMbox i f).tree z = d.tree z := rfl
@[simp] theorem Dev.tree_of_due (v : Nat) (z : Nat) : (d.due v).tree z = d.tree z := rfl
@[simp] theorem Dev.tree_of_modVault (f : Vault → Vault) (z : Nat) : (d.modVault f).tree z = d.tree z := rfl
@[simp] theorem Dev.tree_of_modTime (f : TimeSt → TimeSt) (z : Nat) : (d.modTime f).tree z = d.tree z := rfl
@[simp] theorem Dev.tree_of_modAo (f : TimeAo → TimeAo) (z : Nat) : (d.modAo f).tree z = d.tree z := rfl
@[simp] theorem Dev.tree_of_out (o : Output) (z : Nat) : (d.out o).tree z = d.tree z := rfl
@[simp] theorem Dev.tree_of_raise (q s c o : Nat) (l : List Nat) (z : Nat) : (d.raise q s c o l).tree z = d.tree z := rfl
@[simp] theorem Dev.tree_of_clearCount (c : CN) (i j : Nat) (z : Nat) : (d.clearCount c i j).tree z = d.tree z := rfl

@[simp] theorem Dev.slice_of_setTree (i : Nat) (x : Tree) (z : Nat) : (d.setTree i x).slice z = d.slice z := rfl
@[simp] theorem Dev.slice_of_modTree (i : Nat) (f : Tree → Tree) (z : Nat) : (d.modTree i f).slice z = d.slice z := rfl
@[simp] theorem Dev.slice_of_modRx (i : Nat) (f : LaneRx → LaneRx) (z : Nat) : (d.modRx i f).slice z = d.slice z := rfl
@[simp] theorem Dev.slice_of_modTx (i : Nat) (f : LaneTx → LaneTx) (z : Nat) : (d.modTx i f).slice z = d.slice z := rfl
@[simp] theorem Dev.slice_of_modAlign (i : Nat) (f : Align → Align) (z : Nat) : (d.modAlign i f).slice z = d.slice z := rfl
@[simp] theorem Dev.slice_of_modPort (i : Nat) (f : LinePort → LinePort) (z : Nat) : (d.modPort i f).slice z = d.slice z := rfl
@[simp] theorem Dev.slice_of_modSys (i : Nat) (f : SysPort → SysPort) (z : Nat) : (d.modSys i f).slice z = d.slice z := rfl
@[simp] theorem Dev.slice_of_modStack (i : Nat) (f : Stack → Stack) (z : Nat) : (d.modStack i f).slice z = d.slice z := rfl
@[simp] theorem Dev.slice_of_modPwr (f : PowerSt → PowerSt) (z : Nat) : (d.modPwr f).slice z = d.slice z := rfl
@[simp] theorem Dev.slice_of_modDom (i : Nat) (f : PDom → PDom) (z : Nat) : (d.modDom i f).slice z = d.slice z := rfl
@[simp] theorem Dev.slice_of_modHost (f : Host14 → Host14) (z : Nat) : (d.modHost f).slice z = d.slice z := rfl
@[simp] theorem Dev.slice_of_modBoot (f : Boot → Boot) (z : Nat) : (d.modBoot f).slice z = d.slice z := rfl
@[simp] theorem Dev.slice_of_modFw (f : Firmware → Firmware) (z : Nat) : (d.modFw f).slice z = d.slice z := rfl
@[simp] theorem Dev.slice_of_modMbox (i : Nat) (f : Mailbox → Mailbox) (z : Nat) : (d.modMbox i f).slice z = d.slice z := rfl
@[simp] theorem Dev.slice_of_due (v : Nat) (z : Nat) : (d.due v).slice z = d.slice z := rfl
@[simp] theorem Dev.slice_of_modVault (f : Vault → Vault) (z : Nat) : (d.modVault f).slice z = d.slice z := rfl
@[simp] theorem Dev.slice_of_modTime (f : TimeSt → TimeSt) (z : Nat) : (d.modTime f).slice z = d.slice z := rfl
@[simp] theorem Dev.slice_of_modAo (f : TimeAo → TimeAo) (z : Nat) : (d.modAo f).slice z = d.slice z := rfl
@[simp] theorem Dev.slice_of_out (o : Output) (z : Nat) : (d.out o).slice z = d.slice z := rfl
@[simp] theorem Dev.slice_of_raise (q s c o : Nat) (l : List Nat) (z : Nat) : (d.raise q s c o l).slice z = d.slice z := rfl
@[simp] theorem Dev.slice_of_clearCount (c : CN) (i j : Nat) (z : Nat) : (d.clearCount c i j).slice z = d.slice z := rfl

@[simp] theorem Dev.rxLane_of_setTree (i : Nat) (x : Tree) (z : Nat) : (d.setTree i x).rxLane z = d.rxLane z := rfl
@[simp] theorem Dev.rxLane_of_modTree (i : Nat) (f : Tree → Tree) (z : Nat) : (d.modTree i f).rxLane z = d.rxLane z := rfl
@[simp] theorem Dev.rxLane_of_setSlice (i : Nat) (x : Slice) (z : Nat) : (d.setSlice i x).rxLane z = d.rxLane z := rfl
@[simp] theorem Dev.rxLane_of_modSlice (i : Nat) (f : Slice → Slice) (z : Nat) : (d.modSlice i f).rxLane z = d.rxLane z := rfl
@[simp] theorem Dev.rxLane_of_modTab (i : Nat) (f : Tables → Tables) (z : Nat) : (d.modTab i f).rxLane z = d.rxLane z := rfl
@[simp] theorem Dev.rxLane_of_modBuf (i : Nat) (f : BufSt → BufSt) (z : Nat) : (d.modBuf i f).rxLane z = d.rxLane z := rfl
@[simp] theorem Dev.rxLane_of_modSched (i : Nat) (f : SchedSt → SchedSt) (z : Nat) : (d.modSched i f).rxLane z = d.rxLane z := rfl
@[simp] theorem Dev.rxLane_of_modKey (i : Nat) (f : KeySt → KeySt) (z : Nat) : (d.modKey i f).rxLane z = d.rxLane z := rfl
@[simp] theorem Dev.rxLane_of_modObs (i : Nat) (f : Observe → Observe) (z : Nat) : (d.modObs i f).rxLane z = d.rxLane z := rfl
@[simp] theorem Dev.rxLane_of_modTx (i : Nat) (f : LaneTx → LaneTx) (z : Nat) : (d.modTx i f).rxLane z = d.rxLane z := rfl
@[simp] theorem Dev.rxLane_of_modAlign (i : Nat) (f : Align → Align) (z : Nat) : (d.modAlign i f).rxLane z = d.rxLane z := rfl
@[simp] theorem Dev.rxLane_of_modPort (i : Nat) (f : LinePort → LinePort) (z : Nat) : (d.modPort i f).rxLane z = d.rxLane z := rfl
@[simp] theorem Dev.rxLane_of_modSys (i : Nat) (f : SysPort → SysPort) (z : Nat) : (d.modSys i f).rxLane z = d.rxLane z := rfl
@[simp] theorem Dev.rxLane_of_modStack (i : Nat) (f : Stack → Stack) (z : Nat) : (d.modStack i f).rxLane z = d.rxLane z := rfl
@[simp] theorem Dev.rxLane_of_modPwr (f : PowerSt → PowerSt) (z : Nat) : (d.modPwr f).rxLane z = d.rxLane z := rfl
@[simp] theorem Dev.rxLane_of_modDom (i : Nat) (f : PDom → PDom) (z : Nat) : (d.modDom i f).rxLane z = d.rxLane z := rfl
@[simp] theorem Dev.rxLane_of_modHost (f : Host14 → Host14) (z : Nat) : (d.modHost f).rxLane z = d.rxLane z := rfl
@[simp] theorem Dev.rxLane_of_modBoot (f : Boot → Boot) (z : Nat) : (d.modBoot f).rxLane z = d.rxLane z := rfl
@[simp] theorem Dev.rxLane_of_modFw (f : Firmware → Firmware) (z : Nat) : (d.modFw f).rxLane z = d.rxLane z := rfl
@[simp] theorem Dev.rxLane_of_modMbox (i : Nat) (f : Mailbox → Mailbox) (z : Nat) : (d.modMbox i f).rxLane z = d.rxLane z := rfl
@[simp] theorem Dev.rxLane_of_due (v : Nat) (z : Nat) : (d.due v).rxLane z = d.rxLane z := rfl
@[simp] theorem Dev.rxLane_of_modVault (f : Vault → Vault) (z : Nat) : (d.modVault f).rxLane z = d.rxLane z := rfl
@[simp] theorem Dev.rxLane_of_modTime (f : TimeSt → TimeSt) (z : Nat) : (d.modTime f).rxLane z = d.rxLane z := rfl
@[simp] theorem Dev.rxLane_of_modAo (f : TimeAo → TimeAo) (z : Nat) : (d.modAo f).rxLane z = d.rxLane z := rfl
@[simp] theorem Dev.rxLane_of_out (o : Output) (z : Nat) : (d.out o).rxLane z = d.rxLane z := rfl
@[simp] theorem Dev.rxLane_of_raise (q s c o : Nat) (l : List Nat) (z : Nat) : (d.raise q s c o l).rxLane z = d.rxLane z := rfl
@[simp] theorem Dev.rxLane_of_clearCount (c : CN) (i j : Nat) (z : Nat) : (d.clearCount c i j).rxLane z = d.rxLane z := rfl

@[simp] theorem Dev.txLane_of_setTree (i : Nat) (x : Tree) (z : Nat) : (d.setTree i x).txLane z = d.txLane z := rfl
@[simp] theorem Dev.txLane_of_modTree (i : Nat) (f : Tree → Tree) (z : Nat) : (d.modTree i f).txLane z = d.txLane z := rfl
@[simp] theorem Dev.txLane_of_setSlice (i : Nat) (x : Slice) (z : Nat) : (d.setSlice i x).txLane z = d.txLane z := rfl
@[simp] theorem Dev.txLane_of_modSlice (i : Nat) (f : Slice → Slice) (z : Nat) : (d.modSlice i f).txLane z = d.txLane z := rfl
@[simp] theorem Dev.txLane_of_modTab (i : Nat) (f : Tables → Tables) (z : Nat) : (d.modTab i f).txLane z = d.txLane z := rfl
@[simp] theorem Dev.txLane_of_modBuf (i : Nat) (f : BufSt → BufSt) (z : Nat) : (d.modBuf i f).txLane z = d.txLane z := rfl
@[simp] theorem Dev.txLane_of_modSched (i : Nat) (f : SchedSt → SchedSt) (z : Nat) : (d.modSched i f).txLane z = d.txLane z := rfl
@[simp] theorem Dev.txLane_of_modKey (i : Nat) (f : KeySt → KeySt) (z : Nat) : (d.modKey i f).txLane z = d.txLane z := rfl
@[simp] theorem Dev.txLane_of_modObs (i : Nat) (f : Observe → Observe) (z : Nat) : (d.modObs i f).txLane z = d.txLane z := rfl
@[simp] theorem Dev.txLane_of_modRx (i : Nat) (f : LaneRx → LaneRx) (z : Nat) : (d.modRx i f).txLane z = d.txLane z := rfl
@[simp] theorem Dev.txLane_of_modAlign (i : Nat) (f : Align → Align) (z : Nat) : (d.modAlign i f).txLane z = d.txLane z := rfl
@[simp] theorem Dev.txLane_of_modPort (i : Nat) (f : LinePort → LinePort) (z : Nat) : (d.modPort i f).txLane z = d.txLane z := rfl
@[simp] theorem Dev.txLane_of_modSys (i : Nat) (f : SysPort → SysPort) (z : Nat) : (d.modSys i f).txLane z = d.txLane z := rfl
@[simp] theorem Dev.txLane_of_modStack (i : Nat) (f : Stack → Stack) (z : Nat) : (d.modStack i f).txLane z = d.txLane z := rfl
@[simp] theorem Dev.txLane_of_modPwr (f : PowerSt → PowerSt) (z : Nat) : (d.modPwr f).txLane z = d.txLane z := rfl
@[simp] theorem Dev.txLane_of_modDom (i : Nat) (f : PDom → PDom) (z : Nat) : (d.modDom i f).txLane z = d.txLane z := rfl
@[simp] theorem Dev.txLane_of_modHost (f : Host14 → Host14) (z : Nat) : (d.modHost f).txLane z = d.txLane z := rfl
@[simp] theorem Dev.txLane_of_modBoot (f : Boot → Boot) (z : Nat) : (d.modBoot f).txLane z = d.txLane z := rfl
@[simp] theorem Dev.txLane_of_modFw (f : Firmware → Firmware) (z : Nat) : (d.modFw f).txLane z = d.txLane z := rfl
@[simp] theorem Dev.txLane_of_modMbox (i : Nat) (f : Mailbox → Mailbox) (z : Nat) : (d.modMbox i f).txLane z = d.txLane z := rfl
@[simp] theorem Dev.txLane_of_due (v : Nat) (z : Nat) : (d.due v).txLane z = d.txLane z := rfl
@[simp] theorem Dev.txLane_of_modVault (f : Vault → Vault) (z : Nat) : (d.modVault f).txLane z = d.txLane z := rfl
@[simp] theorem Dev.txLane_of_modTime (f : TimeSt → TimeSt) (z : Nat) : (d.modTime f).txLane z = d.txLane z := rfl
@[simp] theorem Dev.txLane_of_modAo (f : TimeAo → TimeAo) (z : Nat) : (d.modAo f).txLane z = d.txLane z := rfl
@[simp] theorem Dev.txLane_of_out (o : Output) (z : Nat) : (d.out o).txLane z = d.txLane z := rfl
@[simp] theorem Dev.txLane_of_raise (q s c o : Nat) (l : List Nat) (z : Nat) : (d.raise q s c o l).txLane z = d.txLane z := rfl
@[simp] theorem Dev.txLane_of_clearCount (c : CN) (i j : Nat) (z : Nat) : (d.clearCount c i j).txLane z = d.txLane z := rfl

@[simp] theorem Dev.align_of_setTree (i : Nat) (x : Tree) (z : Nat) : (d.setTree i x).align z = d.align z := rfl
@[simp] theorem Dev.align_of_modTree (i : Nat) (f : Tree → Tree) (z : Nat) : (d.modTree i f).align z = d.align z := rfl
@[simp] theorem Dev.align_of_setSlice (i : Nat) (x : Slice) (z : Nat) : (d.setSlice i x).align z = d.align z := rfl
@[simp] theorem Dev.align_of_modSlice (i : Nat) (f : Slice → Slice) (z : Nat) : (d.modSlice i f).align z = d.align z := rfl
@[simp] theorem Dev.align_of_modTab (i : Nat) (f : Tables → Tables) (z : Nat) : (d.modTab i f).align z = d.align z := rfl
@[simp] theorem Dev.align_of_modBuf (i : Nat) (f : BufSt → BufSt) (z : Nat) : (d.modBuf i f).align z = d.align z := rfl
@[simp] theorem Dev.align_of_modSched (i : Nat) (f : SchedSt → SchedSt) (z : Nat) : (d.modSched i f).align z = d.align z := rfl
@[simp] theorem Dev.align_of_modKey (i : Nat) (f : KeySt → KeySt) (z : Nat) : (d.modKey i f).align z = d.align z := rfl
@[simp] theorem Dev.align_of_modObs (i : Nat) (f : Observe → Observe) (z : Nat) : (d.modObs i f).align z = d.align z := rfl
@[simp] theorem Dev.align_of_modRx (i : Nat) (f : LaneRx → LaneRx) (z : Nat) : (d.modRx i f).align z = d.align z := rfl
@[simp] theorem Dev.align_of_modTx (i : Nat) (f : LaneTx → LaneTx) (z : Nat) : (d.modTx i f).align z = d.align z := rfl
@[simp] theorem Dev.align_of_modPort (i : Nat) (f : LinePort → LinePort) (z : Nat) : (d.modPort i f).align z = d.align z := rfl
@[simp] theorem Dev.align_of_modSys (i : Nat) (f : SysPort → SysPort) (z : Nat) : (d.modSys i f).align z = d.align z := rfl
@[simp] theorem Dev.align_of_modStack (i : Nat) (f : Stack → Stack) (z : Nat) : (d.modStack i f).align z = d.align z := rfl
@[simp] theorem Dev.align_of_modPwr (f : PowerSt → PowerSt) (z : Nat) : (d.modPwr f).align z = d.align z := rfl
@[simp] theorem Dev.align_of_modDom (i : Nat) (f : PDom → PDom) (z : Nat) : (d.modDom i f).align z = d.align z := rfl
@[simp] theorem Dev.align_of_modHost (f : Host14 → Host14) (z : Nat) : (d.modHost f).align z = d.align z := rfl
@[simp] theorem Dev.align_of_modBoot (f : Boot → Boot) (z : Nat) : (d.modBoot f).align z = d.align z := rfl
@[simp] theorem Dev.align_of_modFw (f : Firmware → Firmware) (z : Nat) : (d.modFw f).align z = d.align z := rfl
@[simp] theorem Dev.align_of_modMbox (i : Nat) (f : Mailbox → Mailbox) (z : Nat) : (d.modMbox i f).align z = d.align z := rfl
@[simp] theorem Dev.align_of_due (v : Nat) (z : Nat) : (d.due v).align z = d.align z := rfl
@[simp] theorem Dev.align_of_modVault (f : Vault → Vault) (z : Nat) : (d.modVault f).align z = d.align z := rfl
@[simp] theorem Dev.align_of_modTime (f : TimeSt → TimeSt) (z : Nat) : (d.modTime f).align z = d.align z := rfl
@[simp] theorem Dev.align_of_modAo (f : TimeAo → TimeAo) (z : Nat) : (d.modAo f).align z = d.align z := rfl
@[simp] theorem Dev.align_of_out (o : Output) (z : Nat) : (d.out o).align z = d.align z := rfl
@[simp] theorem Dev.align_of_raise (q s c o : Nat) (l : List Nat) (z : Nat) : (d.raise q s c o l).align z = d.align z := rfl
@[simp] theorem Dev.align_of_clearCount (c : CN) (i j : Nat) (z : Nat) : (d.clearCount c i j).align z = d.align z := rfl

@[simp] theorem Dev.port_of_setTree (i : Nat) (x : Tree) (z : Nat) : (d.setTree i x).port z = d.port z := rfl
@[simp] theorem Dev.port_of_modTree (i : Nat) (f : Tree → Tree) (z : Nat) : (d.modTree i f).port z = d.port z := rfl
@[simp] theorem Dev.port_of_setSlice (i : Nat) (x : Slice) (z : Nat) : (d.setSlice i x).port z = d.port z := rfl
@[simp] theorem Dev.port_of_modSlice (i : Nat) (f : Slice → Slice) (z : Nat) : (d.modSlice i f).port z = d.port z := rfl
@[simp] theorem Dev.port_of_modTab (i : Nat) (f : Tables → Tables) (z : Nat) : (d.modTab i f).port z = d.port z := rfl
@[simp] theorem Dev.port_of_modBuf (i : Nat) (f : BufSt → BufSt) (z : Nat) : (d.modBuf i f).port z = d.port z := rfl
@[simp] theorem Dev.port_of_modSched (i : Nat) (f : SchedSt → SchedSt) (z : Nat) : (d.modSched i f).port z = d.port z := rfl
@[simp] theorem Dev.port_of_modKey (i : Nat) (f : KeySt → KeySt) (z : Nat) : (d.modKey i f).port z = d.port z := rfl
@[simp] theorem Dev.port_of_modObs (i : Nat) (f : Observe → Observe) (z : Nat) : (d.modObs i f).port z = d.port z := rfl
@[simp] theorem Dev.port_of_modRx (i : Nat) (f : LaneRx → LaneRx) (z : Nat) : (d.modRx i f).port z = d.port z := rfl
@[simp] theorem Dev.port_of_modTx (i : Nat) (f : LaneTx → LaneTx) (z : Nat) : (d.modTx i f).port z = d.port z := rfl
@[simp] theorem Dev.port_of_modAlign (i : Nat) (f : Align → Align) (z : Nat) : (d.modAlign i f).port z = d.port z := rfl
@[simp] theorem Dev.port_of_modSys (i : Nat) (f : SysPort → SysPort) (z : Nat) : (d.modSys i f).port z = d.port z := rfl
@[simp] theorem Dev.port_of_modStack (i : Nat) (f : Stack → Stack) (z : Nat) : (d.modStack i f).port z = d.port z := rfl
@[simp] theorem Dev.port_of_modPwr (f : PowerSt → PowerSt) (z : Nat) : (d.modPwr f).port z = d.port z := rfl
@[simp] theorem Dev.port_of_modDom (i : Nat) (f : PDom → PDom) (z : Nat) : (d.modDom i f).port z = d.port z := rfl
@[simp] theorem Dev.port_of_modHost (f : Host14 → Host14) (z : Nat) : (d.modHost f).port z = d.port z := rfl
@[simp] theorem Dev.port_of_modBoot (f : Boot → Boot) (z : Nat) : (d.modBoot f).port z = d.port z := rfl
@[simp] theorem Dev.port_of_modFw (f : Firmware → Firmware) (z : Nat) : (d.modFw f).port z = d.port z := rfl
@[simp] theorem Dev.port_of_modMbox (i : Nat) (f : Mailbox → Mailbox) (z : Nat) : (d.modMbox i f).port z = d.port z := rfl
@[simp] theorem Dev.port_of_due (v : Nat) (z : Nat) : (d.due v).port z = d.port z := rfl
@[simp] theorem Dev.port_of_modVault (f : Vault → Vault) (z : Nat) : (d.modVault f).port z = d.port z := rfl
@[simp] theorem Dev.port_of_modTime (f : TimeSt → TimeSt) (z : Nat) : (d.modTime f).port z = d.port z := rfl
@[simp] theorem Dev.port_of_modAo (f : TimeAo → TimeAo) (z : Nat) : (d.modAo f).port z = d.port z := rfl
@[simp] theorem Dev.port_of_out (o : Output) (z : Nat) : (d.out o).port z = d.port z := rfl
@[simp] theorem Dev.port_of_raise (q s c o : Nat) (l : List Nat) (z : Nat) : (d.raise q s c o l).port z = d.port z := rfl
@[simp] theorem Dev.port_of_clearCount (c : CN) (i j : Nat) (z : Nat) : (d.clearCount c i j).port z = d.port z := rfl

@[simp] theorem Dev.sysPort_of_setTree (i : Nat) (x : Tree) (z : Nat) : (d.setTree i x).sysPort z = d.sysPort z := rfl
@[simp] theorem Dev.sysPort_of_modTree (i : Nat) (f : Tree → Tree) (z : Nat) : (d.modTree i f).sysPort z = d.sysPort z := rfl
@[simp] theorem Dev.sysPort_of_setSlice (i : Nat) (x : Slice) (z : Nat) : (d.setSlice i x).sysPort z = d.sysPort z := rfl
@[simp] theorem Dev.sysPort_of_modSlice (i : Nat) (f : Slice → Slice) (z : Nat) : (d.modSlice i f).sysPort z = d.sysPort z := rfl
@[simp] theorem Dev.sysPort_of_modTab (i : Nat) (f : Tables → Tables) (z : Nat) : (d.modTab i f).sysPort z = d.sysPort z := rfl
@[simp] theorem Dev.sysPort_of_modBuf (i : Nat) (f : BufSt → BufSt) (z : Nat) : (d.modBuf i f).sysPort z = d.sysPort z := rfl
@[simp] theorem Dev.sysPort_of_modSched (i : Nat) (f : SchedSt → SchedSt) (z : Nat) : (d.modSched i f).sysPort z = d.sysPort z := rfl
@[simp] theorem Dev.sysPort_of_modKey (i : Nat) (f : KeySt → KeySt) (z : Nat) : (d.modKey i f).sysPort z = d.sysPort z := rfl
@[simp] theorem Dev.sysPort_of_modObs (i : Nat) (f : Observe → Observe) (z : Nat) : (d.modObs i f).sysPort z = d.sysPort z := rfl
@[simp] theorem Dev.sysPort_of_modRx (i : Nat) (f : LaneRx → LaneRx) (z : Nat) : (d.modRx i f).sysPort z = d.sysPort z := rfl
@[simp] theorem Dev.sysPort_of_modTx (i : Nat) (f : LaneTx → LaneTx) (z : Nat) : (d.modTx i f).sysPort z = d.sysPort z := rfl
@[simp] theorem Dev.sysPort_of_modAlign (i : Nat) (f : Align → Align) (z : Nat) : (d.modAlign i f).sysPort z = d.sysPort z := rfl
@[simp] theorem Dev.sysPort_of_modPort (i : Nat) (f : LinePort → LinePort) (z : Nat) : (d.modPort i f).sysPort z = d.sysPort z := rfl
@[simp] theorem Dev.sysPort_of_modStack (i : Nat) (f : Stack → Stack) (z : Nat) : (d.modStack i f).sysPort z = d.sysPort z := rfl
@[simp] theorem Dev.sysPort_of_modPwr (f : PowerSt → PowerSt) (z : Nat) : (d.modPwr f).sysPort z = d.sysPort z := rfl
@[simp] theorem Dev.sysPort_of_modDom (i : Nat) (f : PDom → PDom) (z : Nat) : (d.modDom i f).sysPort z = d.sysPort z := rfl
@[simp] theorem Dev.sysPort_of_modHost (f : Host14 → Host14) (z : Nat) : (d.modHost f).sysPort z = d.sysPort z := rfl
@[simp] theorem Dev.sysPort_of_modBoot (f : Boot → Boot) (z : Nat) : (d.modBoot f).sysPort z = d.sysPort z := rfl
@[simp] theorem Dev.sysPort_of_modFw (f : Firmware → Firmware) (z : Nat) : (d.modFw f).sysPort z = d.sysPort z := rfl
@[simp] theorem Dev.sysPort_of_modMbox (i : Nat) (f : Mailbox → Mailbox) (z : Nat) : (d.modMbox i f).sysPort z = d.sysPort z := rfl
@[simp] theorem Dev.sysPort_of_due (v : Nat) (z : Nat) : (d.due v).sysPort z = d.sysPort z := rfl
@[simp] theorem Dev.sysPort_of_modVault (f : Vault → Vault) (z : Nat) : (d.modVault f).sysPort z = d.sysPort z := rfl
@[simp] theorem Dev.sysPort_of_modTime (f : TimeSt → TimeSt) (z : Nat) : (d.modTime f).sysPort z = d.sysPort z := rfl
@[simp] theorem Dev.sysPort_of_modAo (f : TimeAo → TimeAo) (z : Nat) : (d.modAo f).sysPort z = d.sysPort z := rfl
@[simp] theorem Dev.sysPort_of_out (o : Output) (z : Nat) : (d.out o).sysPort z = d.sysPort z := rfl
@[simp] theorem Dev.sysPort_of_raise (q s c o : Nat) (l : List Nat) (z : Nat) : (d.raise q s c o l).sysPort z = d.sysPort z := rfl
@[simp] theorem Dev.sysPort_of_clearCount (c : CN) (i j : Nat) (z : Nat) : (d.clearCount c i j).sysPort z = d.sysPort z := rfl

@[simp] theorem Dev.stack_of_setTree (i : Nat) (x : Tree) (z : Nat) : (d.setTree i x).stack z = d.stack z := rfl
@[simp] theorem Dev.stack_of_modTree (i : Nat) (f : Tree → Tree) (z : Nat) : (d.modTree i f).stack z = d.stack z := rfl
@[simp] theorem Dev.stack_of_setSlice (i : Nat) (x : Slice) (z : Nat) : (d.setSlice i x).stack z = d.stack z := rfl
@[simp] theorem Dev.stack_of_modSlice (i : Nat) (f : Slice → Slice) (z : Nat) : (d.modSlice i f).stack z = d.stack z := rfl
@[simp] theorem Dev.stack_of_modTab (i : Nat) (f : Tables → Tables) (z : Nat) : (d.modTab i f).stack z = d.stack z := rfl
@[simp] theorem Dev.stack_of_modBuf (i : Nat) (f : BufSt → BufSt) (z : Nat) : (d.modBuf i f).stack z = d.stack z := rfl
@[simp] theorem Dev.stack_of_modSched (i : Nat) (f : SchedSt → SchedSt) (z : Nat) : (d.modSched i f).stack z = d.stack z := rfl
@[simp] theorem Dev.stack_of_modKey (i : Nat) (f : KeySt → KeySt) (z : Nat) : (d.modKey i f).stack z = d.stack z := rfl
@[simp] theorem Dev.stack_of_modObs (i : Nat) (f : Observe → Observe) (z : Nat) : (d.modObs i f).stack z = d.stack z := rfl
@[simp] theorem Dev.stack_of_modRx (i : Nat) (f : LaneRx → LaneRx) (z : Nat) : (d.modRx i f).stack z = d.stack z := rfl
@[simp] theorem Dev.stack_of_modTx (i : Nat) (f : LaneTx → LaneTx) (z : Nat) : (d.modTx i f).stack z = d.stack z := rfl
@[simp] theorem Dev.stack_of_modAlign (i : Nat) (f : Align → Align) (z : Nat) : (d.modAlign i f).stack z = d.stack z := rfl
@[simp] theorem Dev.stack_of_modPort (i : Nat) (f : LinePort → LinePort) (z : Nat) : (d.modPort i f).stack z = d.stack z := rfl
@[simp] theorem Dev.stack_of_modSys (i : Nat) (f : SysPort → SysPort) (z : Nat) : (d.modSys i f).stack z = d.stack z := rfl
@[simp] theorem Dev.stack_of_modPwr (f : PowerSt → PowerSt) (z : Nat) : (d.modPwr f).stack z = d.stack z := rfl
@[simp] theorem Dev.stack_of_modDom (i : Nat) (f : PDom → PDom) (z : Nat) : (d.modDom i f).stack z = d.stack z := rfl
@[simp] theorem Dev.stack_of_modHost (f : Host14 → Host14) (z : Nat) : (d.modHost f).stack z = d.stack z := rfl
@[simp] theorem Dev.stack_of_modBoot (f : Boot → Boot) (z : Nat) : (d.modBoot f).stack z = d.stack z := rfl
@[simp] theorem Dev.stack_of_modFw (f : Firmware → Firmware) (z : Nat) : (d.modFw f).stack z = d.stack z := rfl
@[simp] theorem Dev.stack_of_modMbox (i : Nat) (f : Mailbox → Mailbox) (z : Nat) : (d.modMbox i f).stack z = d.stack z := rfl
@[simp] theorem Dev.stack_of_due (v : Nat) (z : Nat) : (d.due v).stack z = d.stack z := rfl
@[simp] theorem Dev.stack_of_modVault (f : Vault → Vault) (z : Nat) : (d.modVault f).stack z = d.stack z := rfl
@[simp] theorem Dev.stack_of_modTime (f : TimeSt → TimeSt) (z : Nat) : (d.modTime f).stack z = d.stack z := rfl
@[simp] theorem Dev.stack_of_modAo (f : TimeAo → TimeAo) (z : Nat) : (d.modAo f).stack z = d.stack z := rfl
@[simp] theorem Dev.stack_of_out (o : Output) (z : Nat) : (d.out o).stack z = d.stack z := rfl
@[simp] theorem Dev.stack_of_raise (q s c o : Nat) (l : List Nat) (z : Nat) : (d.raise q s c o l).stack z = d.stack z := rfl
@[simp] theorem Dev.stack_of_clearCount (c : CN) (i j : Nat) (z : Nat) : (d.clearCount c i j).stack z = d.stack z := rfl

@[simp] theorem Dev.dom_of_setTree (i : Nat) (x : Tree) (z : Nat) : (d.setTree i x).dom z = d.dom z := rfl
@[simp] theorem Dev.dom_of_modTree (i : Nat) (f : Tree → Tree) (z : Nat) : (d.modTree i f).dom z = d.dom z := rfl
@[simp] theorem Dev.dom_of_setSlice (i : Nat) (x : Slice) (z : Nat) : (d.setSlice i x).dom z = d.dom z := rfl
@[simp] theorem Dev.dom_of_modSlice (i : Nat) (f : Slice → Slice) (z : Nat) : (d.modSlice i f).dom z = d.dom z := rfl
@[simp] theorem Dev.dom_of_modTab (i : Nat) (f : Tables → Tables) (z : Nat) : (d.modTab i f).dom z = d.dom z := rfl
@[simp] theorem Dev.dom_of_modBuf (i : Nat) (f : BufSt → BufSt) (z : Nat) : (d.modBuf i f).dom z = d.dom z := rfl
@[simp] theorem Dev.dom_of_modSched (i : Nat) (f : SchedSt → SchedSt) (z : Nat) : (d.modSched i f).dom z = d.dom z := rfl
@[simp] theorem Dev.dom_of_modKey (i : Nat) (f : KeySt → KeySt) (z : Nat) : (d.modKey i f).dom z = d.dom z := rfl
@[simp] theorem Dev.dom_of_modObs (i : Nat) (f : Observe → Observe) (z : Nat) : (d.modObs i f).dom z = d.dom z := rfl
@[simp] theorem Dev.dom_of_modRx (i : Nat) (f : LaneRx → LaneRx) (z : Nat) : (d.modRx i f).dom z = d.dom z := rfl
@[simp] theorem Dev.dom_of_modTx (i : Nat) (f : LaneTx → LaneTx) (z : Nat) : (d.modTx i f).dom z = d.dom z := rfl
@[simp] theorem Dev.dom_of_modAlign (i : Nat) (f : Align → Align) (z : Nat) : (d.modAlign i f).dom z = d.dom z := rfl
@[simp] theorem Dev.dom_of_modPort (i : Nat) (f : LinePort → LinePort) (z : Nat) : (d.modPort i f).dom z = d.dom z := rfl
@[simp] theorem Dev.dom_of_modSys (i : Nat) (f : SysPort → SysPort) (z : Nat) : (d.modSys i f).dom z = d.dom z := rfl
@[simp] theorem Dev.dom_of_modStack (i : Nat) (f : Stack → Stack) (z : Nat) : (d.modStack i f).dom z = d.dom z := rfl
@[simp] theorem Dev.dom_of_modHost (f : Host14 → Host14) (z : Nat) : (d.modHost f).dom z = d.dom z := rfl
@[simp] theorem Dev.dom_of_modBoot (f : Boot → Boot) (z : Nat) : (d.modBoot f).dom z = d.dom z := rfl
@[simp] theorem Dev.dom_of_modFw (f : Firmware → Firmware) (z : Nat) : (d.modFw f).dom z = d.dom z := rfl
@[simp] theorem Dev.dom_of_modMbox (i : Nat) (f : Mailbox → Mailbox) (z : Nat) : (d.modMbox i f).dom z = d.dom z := rfl
@[simp] theorem Dev.dom_of_due (v : Nat) (z : Nat) : (d.due v).dom z = d.dom z := rfl
@[simp] theorem Dev.dom_of_modVault (f : Vault → Vault) (z : Nat) : (d.modVault f).dom z = d.dom z := rfl
@[simp] theorem Dev.dom_of_modTime (f : TimeSt → TimeSt) (z : Nat) : (d.modTime f).dom z = d.dom z := rfl
@[simp] theorem Dev.dom_of_modAo (f : TimeAo → TimeAo) (z : Nat) : (d.modAo f).dom z = d.dom z := rfl
@[simp] theorem Dev.dom_of_out (o : Output) (z : Nat) : (d.out o).dom z = d.dom z := rfl
@[simp] theorem Dev.dom_of_raise (q s c o : Nat) (l : List Nat) (z : Nat) : (d.raise q s c o l).dom z = d.dom z := rfl
@[simp] theorem Dev.dom_of_clearCount (c : CN) (i j : Nat) (z : Nat) : (d.clearCount c i j).dom z = d.dom z := rfl

@[simp] theorem Dev.mbox_of_setTree (i : Nat) (x : Tree) (z : Nat) : (d.setTree i x).mbox z = d.mbox z := rfl
@[simp] theorem Dev.mbox_of_modTree (i : Nat) (f : Tree → Tree) (z : Nat) : (d.modTree i f).mbox z = d.mbox z := rfl
@[simp] theorem Dev.mbox_of_setSlice (i : Nat) (x : Slice) (z : Nat) : (d.setSlice i x).mbox z = d.mbox z := rfl
@[simp] theorem Dev.mbox_of_modSlice (i : Nat) (f : Slice → Slice) (z : Nat) : (d.modSlice i f).mbox z = d.mbox z := rfl
@[simp] theorem Dev.mbox_of_modTab (i : Nat) (f : Tables → Tables) (z : Nat) : (d.modTab i f).mbox z = d.mbox z := rfl
@[simp] theorem Dev.mbox_of_modBuf (i : Nat) (f : BufSt → BufSt) (z : Nat) : (d.modBuf i f).mbox z = d.mbox z := rfl
@[simp] theorem Dev.mbox_of_modSched (i : Nat) (f : SchedSt → SchedSt) (z : Nat) : (d.modSched i f).mbox z = d.mbox z := rfl
@[simp] theorem Dev.mbox_of_modKey (i : Nat) (f : KeySt → KeySt) (z : Nat) : (d.modKey i f).mbox z = d.mbox z := rfl
@[simp] theorem Dev.mbox_of_modObs (i : Nat) (f : Observe → Observe) (z : Nat) : (d.modObs i f).mbox z = d.mbox z := rfl
@[simp] theorem Dev.mbox_of_modRx (i : Nat) (f : LaneRx → LaneRx) (z : Nat) : (d.modRx i f).mbox z = d.mbox z := rfl
@[simp] theorem Dev.mbox_of_modTx (i : Nat) (f : LaneTx → LaneTx) (z : Nat) : (d.modTx i f).mbox z = d.mbox z := rfl
@[simp] theorem Dev.mbox_of_modAlign (i : Nat) (f : Align → Align) (z : Nat) : (d.modAlign i f).mbox z = d.mbox z := rfl
@[simp] theorem Dev.mbox_of_modPort (i : Nat) (f : LinePort → LinePort) (z : Nat) : (d.modPort i f).mbox z = d.mbox z := rfl
@[simp] theorem Dev.mbox_of_modSys (i : Nat) (f : SysPort → SysPort) (z : Nat) : (d.modSys i f).mbox z = d.mbox z := rfl
@[simp] theorem Dev.mbox_of_modStack (i : Nat) (f : Stack → Stack) (z : Nat) : (d.modStack i f).mbox z = d.mbox z := rfl
@[simp] theorem Dev.mbox_of_modPwr (f : PowerSt → PowerSt) (z : Nat) : (d.modPwr f).mbox z = d.mbox z := rfl
@[simp] theorem Dev.mbox_of_modDom (i : Nat) (f : PDom → PDom) (z : Nat) : (d.modDom i f).mbox z = d.mbox z := rfl
@[simp] theorem Dev.mbox_of_modVault (f : Vault → Vault) (z : Nat) : (d.modVault f).mbox z = d.mbox z := rfl
@[simp] theorem Dev.mbox_of_modTime (f : TimeSt → TimeSt) (z : Nat) : (d.modTime f).mbox z = d.mbox z := rfl
@[simp] theorem Dev.mbox_of_modAo (f : TimeAo → TimeAo) (z : Nat) : (d.modAo f).mbox z = d.mbox z := rfl
@[simp] theorem Dev.mbox_of_out (o : Output) (z : Nat) : (d.out o).mbox z = d.mbox z := rfl
@[simp] theorem Dev.mbox_of_raise (q s c o : Nat) (l : List Nat) (z : Nat) : (d.raise q s c o l).mbox z = d.mbox z := rfl
@[simp] theorem Dev.mbox_of_clearCount (c : CN) (i j : Nat) (z : Nat) : (d.clearCount c i j).mbox z = d.mbox z := rfl

@[simp] theorem Dev.isReady_of_setTree (i : Nat) (x : Tree) (z : Nat) : (d.setTree i x).isReady z = d.isReady z := rfl
@[simp] theorem Dev.isReady_of_modTree (i : Nat) (f : Tree → Tree) (z : Nat) : (d.modTree i f).isReady z = d.isReady z := rfl
@[simp] theorem Dev.isReady_of_setSlice (i : Nat) (x : Slice) (z : Nat) : (d.setSlice i x).isReady z = d.isReady z := rfl
@[simp] theorem Dev.isReady_of_modSlice (i : Nat) (f : Slice → Slice) (z : Nat) : (d.modSlice i f).isReady z = d.isReady z := rfl
@[simp] theorem Dev.isReady_of_modTab (i : Nat) (f : Tables → Tables) (z : Nat) : (d.modTab i f).isReady z = d.isReady z := rfl
@[simp] theorem Dev.isReady_of_modBuf (i : Nat) (f : BufSt → BufSt) (z : Nat) : (d.modBuf i f).isReady z = d.isReady z := rfl
@[simp] theorem Dev.isReady_of_modSched (i : Nat) (f : SchedSt → SchedSt) (z : Nat) : (d.modSched i f).isReady z = d.isReady z := rfl
@[simp] theorem Dev.isReady_of_modKey (i : Nat) (f : KeySt → KeySt) (z : Nat) : (d.modKey i f).isReady z = d.isReady z := rfl
@[simp] theorem Dev.isReady_of_modObs (i : Nat) (f : Observe → Observe) (z : Nat) : (d.modObs i f).isReady z = d.isReady z := rfl
@[simp] theorem Dev.isReady_of_modRx (i : Nat) (f : LaneRx → LaneRx) (z : Nat) : (d.modRx i f).isReady z = d.isReady z := rfl
@[simp] theorem Dev.isReady_of_modTx (i : Nat) (f : LaneTx → LaneTx) (z : Nat) : (d.modTx i f).isReady z = d.isReady z := rfl
@[simp] theorem Dev.isReady_of_modAlign (i : Nat) (f : Align → Align) (z : Nat) : (d.modAlign i f).isReady z = d.isReady z := rfl
@[simp] theorem Dev.isReady_of_modPort (i : Nat) (f : LinePort → LinePort) (z : Nat) : (d.modPort i f).isReady z = d.isReady z := rfl
@[simp] theorem Dev.isReady_of_modSys (i : Nat) (f : SysPort → SysPort) (z : Nat) : (d.modSys i f).isReady z = d.isReady z := rfl
@[simp] theorem Dev.isReady_of_modStack (i : Nat) (f : Stack → Stack) (z : Nat) : (d.modStack i f).isReady z = d.isReady z := rfl
@[simp] theorem Dev.isReady_of_modPwr (f : PowerSt → PowerSt) (z : Nat) : (d.modPwr f).isReady z = d.isReady z := rfl
@[simp] theorem Dev.isReady_of_modDom (i : Nat) (f : PDom → PDom) (z : Nat) : (d.modDom i f).isReady z = d.isReady z := rfl
@[simp] theorem Dev.isReady_of_modVault (f : Vault → Vault) (z : Nat) : (d.modVault f).isReady z = d.isReady z := rfl
@[simp] theorem Dev.isReady_of_modTime (f : TimeSt → TimeSt) (z : Nat) : (d.modTime f).isReady z = d.isReady z := rfl
@[simp] theorem Dev.isReady_of_modAo (f : TimeAo → TimeAo) (z : Nat) : (d.modAo f).isReady z = d.isReady z := rfl
@[simp] theorem Dev.isReady_of_out (o : Output) (z : Nat) : (d.out o).isReady z = d.isReady z := rfl
@[simp] theorem Dev.isReady_of_raise (q s c o : Nat) (l : List Nat) (z : Nat) : (d.raise q s c o l).isReady z = d.isReady z := rfl
@[simp] theorem Dev.isReady_of_clearCount (c : CN) (i j : Nat) (z : Nat) : (d.clearCount c i j).isReady z = d.isReady z := rfl

@[simp] theorem Dev.isOn_of_setTree (i : Nat) (x : Tree) (z : Nat) : (d.setTree i x).isOn z = d.isOn z := rfl
@[simp] theorem Dev.isOn_of_modTree (i : Nat) (f : Tree → Tree) (z : Nat) : (d.modTree i f).isOn z = d.isOn z := rfl
@[simp] theorem Dev.isOn_of_setSlice (i : Nat) (x : Slice) (z : Nat) : (d.setSlice i x).isOn z = d.isOn z := rfl
@[simp] theorem Dev.isOn_of_modSlice (i : Nat) (f : Slice → Slice) (z : Nat) : (d.modSlice i f).isOn z = d.isOn z := rfl
@[simp] theorem Dev.isOn_of_modTab (i : Nat) (f : Tables → Tables) (z : Nat) : (d.modTab i f).isOn z = d.isOn z := rfl
@[simp] theorem Dev.isOn_of_modBuf (i : Nat) (f : BufSt → BufSt) (z : Nat) : (d.modBuf i f).isOn z = d.isOn z := rfl
@[simp] theorem Dev.isOn_of_modSched (i : Nat) (f : SchedSt → SchedSt) (z : Nat) : (d.modSched i f).isOn z = d.isOn z := rfl
@[simp] theorem Dev.isOn_of_modKey (i : Nat) (f : KeySt → KeySt) (z : Nat) : (d.modKey i f).isOn z = d.isOn z := rfl
@[simp] theorem Dev.isOn_of_modObs (i : Nat) (f : Observe → Observe) (z : Nat) : (d.modObs i f).isOn z = d.isOn z := rfl
@[simp] theorem Dev.isOn_of_modRx (i : Nat) (f : LaneRx → LaneRx) (z : Nat) : (d.modRx i f).isOn z = d.isOn z := rfl
@[simp] theorem Dev.isOn_of_modTx (i : Nat) (f : LaneTx → LaneTx) (z : Nat) : (d.modTx i f).isOn z = d.isOn z := rfl
@[simp] theorem Dev.isOn_of_modAlign (i : Nat) (f : Align → Align) (z : Nat) : (d.modAlign i f).isOn z = d.isOn z := rfl
@[simp] theorem Dev.isOn_of_modPort (i : Nat) (f : LinePort → LinePort) (z : Nat) : (d.modPort i f).isOn z = d.isOn z := rfl
@[simp] theorem Dev.isOn_of_modSys (i : Nat) (f : SysPort → SysPort) (z : Nat) : (d.modSys i f).isOn z = d.isOn z := rfl
@[simp] theorem Dev.isOn_of_modStack (i : Nat) (f : Stack → Stack) (z : Nat) : (d.modStack i f).isOn z = d.isOn z := rfl
@[simp] theorem Dev.isOn_of_modHost (f : Host14 → Host14) (z : Nat) : (d.modHost f).isOn z = d.isOn z := rfl
@[simp] theorem Dev.isOn_of_modBoot (f : Boot → Boot) (z : Nat) : (d.modBoot f).isOn z = d.isOn z := rfl
@[simp] theorem Dev.isOn_of_modFw (f : Firmware → Firmware) (z : Nat) : (d.modFw f).isOn z = d.isOn z := rfl
@[simp] theorem Dev.isOn_of_modMbox (i : Nat) (f : Mailbox → Mailbox) (z : Nat) : (d.modMbox i f).isOn z = d.isOn z := rfl
@[simp] theorem Dev.isOn_of_due (v : Nat) (z : Nat) : (d.due v).isOn z = d.isOn z := rfl
@[simp] theorem Dev.isOn_of_modVault (f : Vault → Vault) (z : Nat) : (d.modVault f).isOn z = d.isOn z := rfl
@[simp] theorem Dev.isOn_of_modTime (f : TimeSt → TimeSt) (z : Nat) : (d.modTime f).isOn z = d.isOn z := rfl
@[simp] theorem Dev.isOn_of_modAo (f : TimeAo → TimeAo) (z : Nat) : (d.modAo f).isOn z = d.isOn z := rfl
@[simp] theorem Dev.isOn_of_out (o : Output) (z : Nat) : (d.out o).isOn z = d.isOn z := rfl
@[simp] theorem Dev.isOn_of_raise (q s c o : Nat) (l : List Nat) (z : Nat) : (d.raise q s c o l).isOn z = d.isOn z := rfl
@[simp] theorem Dev.isOn_of_clearCount (c : CN) (i j : Nat) (z : Nat) : (d.clearCount c i j).isOn z = d.isOn z := rfl

@[simp] theorem Dev.dmaHalted_of_setTree (i : Nat) (x : Tree) (z : Nat) : (d.setTree i x).dmaHalted z = d.dmaHalted z := rfl
@[simp] theorem Dev.dmaHalted_of_modTree (i : Nat) (f : Tree → Tree) (z : Nat) : (d.modTree i f).dmaHalted z = d.dmaHalted z := rfl
@[simp] theorem Dev.dmaHalted_of_setSlice (i : Nat) (x : Slice) (z : Nat) : (d.setSlice i x).dmaHalted z = d.dmaHalted z := rfl
@[simp] theorem Dev.dmaHalted_of_modSlice (i : Nat) (f : Slice → Slice) (z : Nat) : (d.modSlice i f).dmaHalted z = d.dmaHalted z := rfl
@[simp] theorem Dev.dmaHalted_of_modTab (i : Nat) (f : Tables → Tables) (z : Nat) : (d.modTab i f).dmaHalted z = d.dmaHalted z := rfl
@[simp] theorem Dev.dmaHalted_of_modBuf (i : Nat) (f : BufSt → BufSt) (z : Nat) : (d.modBuf i f).dmaHalted z = d.dmaHalted z := rfl
@[simp] theorem Dev.dmaHalted_of_modSched (i : Nat) (f : SchedSt → SchedSt) (z : Nat) : (d.modSched i f).dmaHalted z = d.dmaHalted z := rfl
@[simp] theorem Dev.dmaHalted_of_modKey (i : Nat) (f : KeySt → KeySt) (z : Nat) : (d.modKey i f).dmaHalted z = d.dmaHalted z := rfl
@[simp] theorem Dev.dmaHalted_of_modObs (i : Nat) (f : Observe → Observe) (z : Nat) : (d.modObs i f).dmaHalted z = d.dmaHalted z := rfl
@[simp] theorem Dev.dmaHalted_of_modRx (i : Nat) (f : LaneRx → LaneRx) (z : Nat) : (d.modRx i f).dmaHalted z = d.dmaHalted z := rfl
@[simp] theorem Dev.dmaHalted_of_modTx (i : Nat) (f : LaneTx → LaneTx) (z : Nat) : (d.modTx i f).dmaHalted z = d.dmaHalted z := rfl
@[simp] theorem Dev.dmaHalted_of_modAlign (i : Nat) (f : Align → Align) (z : Nat) : (d.modAlign i f).dmaHalted z = d.dmaHalted z := rfl
@[simp] theorem Dev.dmaHalted_of_modPort (i : Nat) (f : LinePort → LinePort) (z : Nat) : (d.modPort i f).dmaHalted z = d.dmaHalted z := rfl
@[simp] theorem Dev.dmaHalted_of_modSys (i : Nat) (f : SysPort → SysPort) (z : Nat) : (d.modSys i f).dmaHalted z = d.dmaHalted z := rfl
@[simp] theorem Dev.dmaHalted_of_modStack (i : Nat) (f : Stack → Stack) (z : Nat) : (d.modStack i f).dmaHalted z = d.dmaHalted z := rfl
@[simp] theorem Dev.dmaHalted_of_modPwr (f : PowerSt → PowerSt) (z : Nat) : (d.modPwr f).dmaHalted z = d.dmaHalted z := rfl
@[simp] theorem Dev.dmaHalted_of_modDom (i : Nat) (f : PDom → PDom) (z : Nat) : (d.modDom i f).dmaHalted z = d.dmaHalted z := rfl
@[simp] theorem Dev.dmaHalted_of_modVault (f : Vault → Vault) (z : Nat) : (d.modVault f).dmaHalted z = d.dmaHalted z := rfl
@[simp] theorem Dev.dmaHalted_of_modTime (f : TimeSt → TimeSt) (z : Nat) : (d.modTime f).dmaHalted z = d.dmaHalted z := rfl
@[simp] theorem Dev.dmaHalted_of_modAo (f : TimeAo → TimeAo) (z : Nat) : (d.modAo f).dmaHalted z = d.dmaHalted z := rfl
@[simp] theorem Dev.dmaHalted_of_out (o : Output) (z : Nat) : (d.out o).dmaHalted z = d.dmaHalted z := rfl
@[simp] theorem Dev.dmaHalted_of_raise (q s c o : Nat) (l : List Nat) (z : Nat) : (d.raise q s c o l).dmaHalted z = d.dmaHalted z := rfl
@[simp] theorem Dev.dmaHalted_of_clearCount (c : CN) (i j : Nat) (z : Nat) : (d.clearCount c i j).dmaHalted z = d.dmaHalted z := rfl

end Sys2Proof
end

