-- ==== Sys2Proof/Laws/Checks.lean ====
section
/-! SUPPORT. What the checks of a mailbox command decide, and what its doorbell does. -/

namespace Sys2Proof

/-- Every group has a ready function, or names only functions that do not exist: readiness passes. -/
theorem chkReady_none {d : Dev} {needs : List (List Nat)}
    (h : ∀ g ∈ needs, (g.any fun f => decide (42 < f) || d.isReady f) = true) : chkReady d needs = none := by
  have e : (needs.filter fun g => g.all fun f => decide (f ≤ 42) && !d.isReady f) = [] := by
    rw [List.filter_eq_nil_iff]
    intro g hg hall
    obtain ⟨f, hf, hb⟩ := List.any_eq_true.1 (h g hg)
    have ha := List.all_eq_true.1 hall f hf
    simp only [Bool.and_eq_true, Bool.or_eq_true, decide_eq_true_eq, Bool.not_eq_true'] at ha hb
    rcases hb with hb | hb
    · omega
    · simp [hb] at ha
  unfold chkReady
  simp [e]

theorem chkReady_one {d : Dev} {f : Nat} (h : d.isReady f = true) : chkReady d [[f]] = none := chkReady_none (by simp [h])

/-- Every dword lies in its range: the range check passes. -/
theorem chkRange_none {rq : Req} {l : List (Nat × Nat × Nat)} (h : ∀ x ∈ l, x.2.1 ≤ rq.prm x.1 ∧ rq.prm x.1 ≤ x.2.2) :
    chkRange rq l = none := by
  unfold chkRange
  rw [show (l.find? fun (x : Nat × Nat × Nat) => match x with
      | (i, lo, hi) => decide (rq.prm i < lo ∨ hi < rq.prm i)) = none from ?_]
  rw [List.find?_eq_none]
  intro x hx
  have := h x hx
  simp; omega

theorem chkRange_nil (rq : Req) : chkRange rq [] = none := rfl
/-- The first dword out of its range decides. -/
theorem chkRange_cons (rq : Req) (i lo hi : Nat) (l : List (Nat × Nat × Nat)) :
    chkRange rq ((i, lo, hi) :: l) =
      if lo ≤ rq.prm i ∧ rq.prm i ≤ hi then chkRange rq l else some { code := .range, detail := i } := by
  unfold chkRange
  by_cases h : lo ≤ rq.prm i ∧ rq.prm i ≤ hi
  · have : ¬(rq.prm i < lo ∨ hi < rq.prm i) := by omega
    simp [this, h]
  · have : rq.prm i < lo ∨ hi < rq.prm i := by omega
    simp [this, h]

theorem failIf_false {b : Bool} (c : Code) (n : Nat) (h : b = false) : failIf b c n = none := by simp [failIf, h]
theorem chkLen_none {rq : Req} {n : Nat} (h : rq.len = n) : chkLen rq n = none := by simp [chkLen, failIf, h]

theorem firstFail_none {cs : List Check} (h : ∀ c ∈ cs, c = none) : firstFail cs = none := by
  induction cs with
  | nil => rfl
  | cons c cs ih =>
    have := h c (List.mem_cons_self ..); subst this
    exact ih fun c hc => h c (List.mem_cons_of_mem _ hc)

/-- All checks pass: the command's final step decides. -/
theorem withChecks_pass {cs : List Check} {d : Dev} {k : Resp × Dev} (h : ∀ c ∈ cs, c = none) : withChecks cs d k = k := by
  simp [withChecks, firstFail_none h]

/-- A check fails: nothing changes (R404, R405). -/
theorem withChecks_fail {cs : List Check} {d : Dev} {k : Resp × Dev} {r : Resp} (h : firstFail cs = some r) :
    withChecks cs d k = (r, d) := by simp [withChecks, h]

theorem Dev.runsNow_ok {d : Dev} {m : Nat} (h : d.runsNow m = true) : d.doorbellOk m = true := by
  simp only [Dev.runsNow, Bool.and_eq_true] at h; exact h.1

theorem runCmd_accepted {op : Nat} {c : Cmd} {rq : Req} {d : Dev} (h : d.runsNow rq.mb.val = true) :
    runCmd op c rq d = (c rq d).2.answer rq op (c rq d).1 := by simp [runCmd, h, Dev.runsNow_ok h]

/-- A command whose turn has not come is held (R407). -/
theorem runCmd_held {op : Nat} {c : Cmd} {rq : Req} {d : Dev} (h : d.doorbellOk rq.mb.val = true) (h2 : d.runsNow rq.mb.val = false) :
    runCmd op c rq d = d.hold rq.mb.val { opcode := op, tag := rq.tag, addr := 0, len := rq.params.length, held := some (rq.params, rq.host) } := by
  simp [runCmd, h, h2]

theorem runCmd_ignored {op : Nat} {c : Cmd} {rq : Req} {d : Dev} (h : d.doorbellOk rq.mb.val = false) :
    runCmd op c rq d = d.ignoreDoorbell rq.mb.val := by simp [runCmd, h]

end Sys2Proof
end

