-- ==== Sys2Proof/Laws/Events.lean ====
section
/-! SUPPORT. Events: delivery to their queues, their order, and the event log (R413, R414, R463, R464). -/

namespace Sys2Proof

open Sys2Proof.Machine

/-- What delivering some events does to the block: it moves event queues and vectors, and writes at most one record per event (R413, R414). -/
structure Delivers (d e : Dev) (es : List Event) : Prop where
  h : ∃ evq due pba outs, e = { d with outs := d.outs ++ outs, host := { d.host with evq := evq, msix := { d.host.msix with due := due, pba := pba } } } ∧
    outs.length ≤ es.length ∧ (∀ o ∈ outs, ∃ e ∈ es, ∃ a ws, o = .dma (48 + e.queue / 64) a ws) ∧
    (∀ q, (∀ e ∈ es, e.queue ≠ q) → evq.get {} q = d.host.evq.get {} q) ∧
    (∀ q, let a := d.host.evq.get {} q; let b := evq.get {} q
      b.reg = a.reg ∧ b.addr = a.addr ∧ b.entries = a.entries ∧ b.idx.host = a.idx.host)

/-- A vector that falls due changes the vector tables alone (R418). -/
theorem due_cases (v : Nat) (d : Dev) : ∃ x y, d.due v = { d with host := { d.host with msix := { d.host.msix with due := x, pba := y } } } := by
  unfold Dev.due Dev.modHost
  dsimp only
  by_cases h : d.host.msix.enable = true
  · rw [if_pos h]; exact ⟨_, _, rfl⟩
  · rw [if_neg h]; exact ⟨d.host.msix.due, d.host.msix.pba, rfl⟩

/-- Delivery of one event. -/
theorem deliver_spec (e : Event) (d : Dev) : Delivers d (d.deliver e) [e] := by
  have key : ∀ q', (q'.reg = (d.host.evq.get {} e.queue).reg ∧ q'.addr = (d.host.evq.get {} e.queue).addr ∧ q'.entries = (d.host.evq.get {} e.queue).entries ∧ q'.idx.host = (d.host.evq.get {} e.queue).idx.host) →
     (∀ q, (∀ x ∈ [e], x.queue ≠ q) → (d.host.evq.set {} e.queue q').get {} q = d.host.evq.get {} q) ∧
    (∀ q, let a := d.host.evq.get {} q; let b := (d.host.evq.set {} e.queue q').get {} q
      b.reg = a.reg ∧ b.addr = a.addr ∧ b.entries = a.entries ∧ b.idx.host = a.idx.host) := by
    intro q' hq
    constructor
    · intro q hh; exact Tab.get_set_other _ _ _ (hh e (by simp))
    · intro q
      by_cases hqq : e.queue = q
      · subst hqq; simpa using hq
      · rw [Tab.get_set_other _ _ _ hqq]; simp
  unfold Dev.deliver
  dsimp only
  split
  · rename_i hok
    obtain ⟨x, y, hxy⟩ := due_cases (16 + e.queue) (Dev.out (Output.dma (48 + e.queue / 64) ((d.host.evq.get {} e.queue).addr + 32 * ((d.host.evq.get {} e.queue).idx.dev % (d.host.evq.get {} e.queue).entries)) (toDwords (e.words (d.host.evq.get {} e.queue).seq)))
      (Dev.modHost (fun h => { h with evq := h.evq.set {} e.queue { (d.host.evq.get {} e.queue) with seq := ((d.host.evq.get {} e.queue).seq + 1) % 2 ^ 20, idx := (d.host.evq.get {} e.queue).idx.push (d.host.evq.get {} e.queue).entries } }) d))
    exact ⟨Tab.set {} d.host.evq e.queue { (d.host.evq.get {} e.queue) with seq := ((d.host.evq.get {} e.queue).seq + 1) % 2 ^ 20, idx := (d.host.evq.get {} e.queue).idx.push (d.host.evq.get {} e.queue).entries }, x, y, [Output.dma (48 + e.queue / 64) ((d.host.evq.get {} e.queue).addr + 32 * ((d.host.evq.get {} e.queue).idx.dev % (d.host.evq.get {} e.queue).entries)) (toDwords (e.words (d.host.evq.get {} e.queue).seq))], by rw [hxy]; rfl, by simp, by simp, key _ (by simp [Idx.push])⟩
  · rename_i hok
    exact ⟨Tab.set {} d.host.evq e.queue { (d.host.evq.get {} e.queue) with seq := ((d.host.evq.get {} e.queue).seq + 1) % 2 ^ 20, idx := (d.host.evq.get {} e.queue).idx.lose }, d.host.msix.due, d.host.msix.pba, [], by simp [Dev.modHost], by simp, by simp, key _ (by simp [Idx.lose])⟩

/-- Delivery of a list of events. -/
theorem drainEvents_spec (es : List Event) : ∀ g d, Delivers d (drainEvents es (g, d)).2 es := by
  induction es with
  | nil => intro g d; exact ⟨d.host.evq, d.host.msix.due, d.host.msix.pba, [], by simp [drainEvents], by simp, by simp, by simp, by simp⟩
  | cons e es ih =>
    intro g d
    obtain ⟨q1, a1, b1, o1, h1, l1, m1, k1, n1⟩ := deliver_spec e d
    obtain ⟨q2, a2, b2, o2, h2, l2, m2, k2, n2⟩ := ih (g.add e (d.host.evq.get {} e.queue).seq) (d.deliver e)
    refine ⟨q2, a2, b2, o1 ++ o2, ?_, ?_, ?_, ?_, ?_⟩
    · simp only [drainEvents]; rw [h2, h1]; simp
    · simp at *; omega
    · intro o ho; rcases List.mem_append.1 ho with ho | ho
      · obtain ⟨x, hx, y⟩ := m1 o ho; exact ⟨x, by simp at hx; simp [hx], y⟩
      · obtain ⟨x, hx, y⟩ := m2 o ho; exact ⟨x, by simp [hx], y⟩
    · intro q hq
      rw [k2 q (fun x hx => hq x (by simp [hx])), h1]; exact k1 q (fun x hx => hq x (by simp at hx; simp [hx]))
    · intro q
      have x1 := n1 q; have x2 := n2 q
      rw [h1] at x2; simp only at x1 x2 ⊢
      exact ⟨x2.1.trans x1.1, x2.2.1.trans x1.2.1, x2.2.2.1.trans x1.2.2.1, x2.2.2.2.trans x1.2.2.2⟩

/-- Inserting an event adds it. -/
theorem mem_insertEvent (e x : Event) (l : List Event) : x ∈ insertEvent e l ↔ x = e ∨ x ∈ l := by
  induction l with
  | nil => simp [insertEvent]
  | cons y l ih => simp only [insertEvent]; split <;> (simp [ih]; try tauto)

/-- Inserting an event adds one. -/
theorem length_insertEvent (e : Event) (l : List Event) : (insertEvent e l).length = l.length + 1 := by
  induction l with
  | nil => simp [insertEvent]
  | cons y l ih => simp only [insertEvent]; split <;> simp [ih]

/-- Sorting keeps the events and their number. -/
theorem foldl_insertEvent (es : List Event) : ∀ a : List Event, (∀ x, x ∈ es.foldl (fun a e => insertEvent e a) a ↔ x ∈ a ∨ x ∈ es) ∧ (es.foldl (fun a e => insertEvent e a) a).length = a.length + es.length := by
  induction es with
  | nil => intro a; simp
  | cons e es ih =>
    intro a; obtain ⟨h1, h2⟩ := ih (insertEvent e a)
    constructor
    · intro x; rw [List.foldl_cons, h1, mem_insertEvent]; simp; tauto
    · rw [List.foldl_cons, h2, length_insertEvent]; simp; omega

/-- The log stays consistent when an event enters it (R463). -/
theorem EvLog.add_consistent (g : EvLog) (e : Event) (n : Nat) (h : g.Consistent) : (g.add e n).Consistent := by
  obtain ⟨h1, h2, h3, h4, h5⟩ := h
  unfold EvLog.add
  dsimp only
  split
  · rename_i hl
    refine ⟨by simp; omega, Nat.mod_lt _ (by norm_num), h3, fun hh => absurd (h4 hh) (by omega), ?_⟩
    intro i x hx
    simp only [List.getElem?_append] at hx
    split at hx
    · have := h5 i x hx; simp only [List.length_append, List.length_singleton]; rename_i hi; omega
    · rename_i hi
      have : i = g.entries.length := by
        by_contra hne
        have : 1 ≤ i - g.entries.length := by omega
        rw [List.getElem?_eq_none (by simp; omega)] at hx; simp at hx
      subst this
      simp at hx; subst hx; simp
  · rename_i hl
    have hl' : g.entries.length = 4096 := by omega
    refine ⟨by simp [hl'], Nat.mod_lt _ (by norm_num), by dsimp only; omega, fun _ => by simp [hl'], ?_⟩
    intro i x hx
    simp only [List.getElem?_append] at hx
    simp only [List.length_append, List.length_singleton, List.length_drop, hl']
    split at hx
    · rename_i hi
      rw [List.getElem?_drop] at hx
      have := h5 _ x hx; simp at hi; omega
    · rename_i hi
      have : i = 4095 := by
        by_contra hne
        simp [hl'] at hi
        rw [List.getElem?_eq_none (by simp [hl']; omega)] at hx; simp at hx
      subst this
      simp [hl'] at hx; subst hx; simp

/-- The log stays consistent when a list of events enters it. -/
theorem drainEvents_consistent (es : List Event) : ∀ g d, g.Consistent → (drainEvents es (g, d)).1.Consistent := by
  induction es with
  | nil => intro g d h; exact h
  | cons e es ih => intro g d h; exact ih _ _ (EvLog.add_consistent g e _ h)

/-- The order of R464, spelt out. -/
theorem Event.before_iff {a b : Event} : a.before b = true ↔ a.source < b.source ∨ (a.source = b.source ∧ (a.code < b.code ∨ (a.code = b.code ∧ a.object < b.object))) := by
  simp [Event.before]

/-- One event does not come after another (R464). -/
abbrev Event.InOrder (a b : Event) : Prop := a.source < b.source ∨ (a.source = b.source ∧ (a.code < b.code ∨ (a.code = b.code ∧ a.object ≤ b.object)))

/-- Inserting an event permutes. -/
theorem insertEvent_perm (e : Event) (l : List Event) : (insertEvent e l).Perm (e :: l) := by
  induction l with
  | nil => exact List.Perm.refl _
  | cons x l ih =>
    unfold insertEvent; split
    · exact List.Perm.refl _
    · exact (List.Perm.cons x ih).trans (List.Perm.swap e x l)

/-- Inserting an event keeps the order. -/
theorem insertEvent_ordered (e : Event) (l : List Event) (h : l.Pairwise Event.InOrder) : (insertEvent e l).Pairwise Event.InOrder := by
  induction l with
  | nil => simp [insertEvent]
  | cons x l ih =>
    have h' := List.pairwise_cons.1 h
    unfold insertEvent; split
    · rename_i hb
      rw [Event.before_iff] at hb
      refine List.pairwise_cons.2 ⟨?_, h⟩
      intro y hy
      rcases List.mem_cons.1 hy with rfl | hy
      · unfold Event.InOrder; omega
      · have := h'.1 y hy; unfold Event.InOrder at *; omega
    · rename_i hb
      have hb' : ¬ (e.before x = true) := hb
      rw [Event.before_iff] at hb'
      refine List.pairwise_cons.2 ⟨?_, ih h'.2⟩
      intro y hy
      rcases List.mem_cons.1 ((insertEvent_perm e l).mem_iff.1 hy) with rfl | hy
      · unfold Event.InOrder; omega
      · exact h'.1 y hy

/-- Sorting permutes and orders. -/
theorem foldl_insertEvent_sorted (es acc : List Event) (h : acc.Pairwise Event.InOrder) : (es.foldl (fun a e => insertEvent e a) acc).Perm (acc ++ es) ∧ (es.foldl (fun a e => insertEvent e a) acc).Pairwise Event.InOrder := by
  induction es generalizing acc with
  | nil => simp [h]
  | cons e es ih =>
    obtain ⟨a, b⟩ := ih (insertEvent e acc) (insertEvent_ordered e acc h)
    refine ⟨?_, b⟩
    refine a.trans ?_
    exact ((insertEvent_perm e acc).append_right es).trans (by simpa using (List.perm_middle (a := e) (l₁ := acc) (l₂ := es)).symm)

/-- Draining as a fold. -/
theorem drainEvents_fold (es : List Event) (x : EvLog × Dev) : drainEvents es x = es.foldl (fun x e => (x.1.add e (x.2.host.evq.get {} e.queue).seq, x.2.deliver e)) x := by
  induction es generalizing x with
  | nil => rfl
  | cons e es ih => obtain ⟨g, d⟩ := x; exact ih _

/-- While the log has room it appends exactly the events drained. -/
theorem drainEvents_log (es : List Event) (g : EvLog) (d : Dev) (h : g.entries.length + es.length ≤ 4096) :
   (drainEvents es (g, d)).1.entries.map (fun x => (x.queue, x.source, x.code, x.object, x.detail, x.time)) =
        g.entries.map (fun x => (x.queue, x.source, x.code, x.object, x.detail, x.time)) ++
        es.map (fun x => (x.queue, x.source, x.code, x.object, x.detail, x.time)) := by
  induction es generalizing g d with
  | nil => simp [drainEvents]
  | cons e es ih =>
    unfold drainEvents
    simp only [List.length_cons] at h
    have : (g.add e (d.host.evq.get {} e.queue).seq).entries = g.entries ++ [{ queue := e.queue, seq := (d.host.evq.get {} e.queue).seq, source := e.source, code := e.code, object := e.object, detail := e.detail, time := e.time, logSeq := g.next }] := by
      simp [EvLog.add, show g.entries.length < 4096 by omega]
    rw [ih _ _ (by rw [this]; simp; omega), this]
    simp

end Sys2Proof
end

