-- ==== Sys2Proof/Laws/Fields.lean ====
section
/-! SUPPORT. Reading a field back out of a block that was put together from fields: each field answers what was put there, and no other
field disturbs it. -/

namespace Sys2Proof

theorem fld_or {n : Nat} (w lo : Nat) (x y : BitVec n) : fld w lo (x ||| y) = fld w lo x ||| fld w lo y := by
  ext j hj; simp [fld]

theorem fld_put_same {w : Nat} (n lo : Nat) (v : BitVec w) (h : lo + w ≤ n) : fld w lo (put n lo v) = v := by
  ext j hj
  have : v.getLsbD j = v[j] := BitVec.getLsbD_eq_getElem hj
  simp only [fld, put, BitVec.getElem_extractLsb', BitVec.getLsbD_shiftLeft, BitVec.getLsbD_setWidth, Nat.add_sub_cancel_left, this]
  simp [show lo + j < n by omega, show j < n by omega]

theorem fld_put_apart {u : Nat} (n w lo at_ : Nat) (v : BitVec u) (h : at_ + u ≤ lo ∨ lo + w ≤ at_) :
    fld w lo (put n at_ v) = 0#w := by
  ext j hj
  simp only [fld, put, BitVec.getElem_extractLsb', BitVec.getLsbD_shiftLeft, BitVec.getLsbD_setWidth, BitVec.getElem_zero]
  rcases h with h | h
  · simp [BitVec.getLsbD_of_ge v (lo + j - at_) (by omega)]
  · simp [show lo + j < at_ by omega]

theorem fld_low {n u : Nat} (w lo : Nat) (v : BitVec u) (h : u ≤ lo) : fld w lo (v.setWidth n) = 0#w := by
  ext j hj
  simp only [fld, BitVec.getElem_extractLsb', BitVec.getLsbD_setWidth, BitVec.getElem_zero]
  simp [BitVec.getLsbD_of_ge v (lo + j) (by omega)]

/-- The check lies in bits [15:0], so that it disturbs no field above. -/
theorem fld_withChk (w lo : Nat) (b : Block) (h : 16 ≤ lo) (h' : lo + w ≤ 128) : fld w lo (withChk b) = fld w lo b := by
  unfold withChk
  rw [fld_or, fld_low w lo _ h]
  ext j hj
  have k : (0xFFFF : Block) = BitVec.setWidth 128 (BitVec.allOnes 16) := by decide
  have e : (0xFFFF : Block).getLsbD (lo + j) = false := by
    rw [k, BitVec.getLsbD_setWidth, BitVec.getLsbD_allOnes, decide_eq_false (by omega : ¬ lo + j < 16), Bool.and_false]
  simp only [fld, BitVec.getElem_or, BitVec.getElem_extractLsb', BitVec.getLsbD_and, BitVec.getLsbD_not, e, BitVec.getElem_zero]
  simp; omega

theorem low_allOnes : (0xFFFF : Block) = BitVec.setWidth 128 (BitVec.allOnes 16) := by decide

theorem fld_check (b : Block) : fld 16 0 (withChk b) = blockChk b := by
  unfold withChk
  rw [fld_or]
  generalize blockChk b = v
  ext j hj
  have e : (0xFFFF : Block).getLsbD j = true := by
    rw [low_allOnes, BitVec.getLsbD_setWidth, BitVec.getLsbD_allOnes, decide_eq_true hj, Bool.and_true, decide_eq_true (by omega)]
  have g : v.getLsbD j = v[j] := BitVec.getLsbD_eq_getElem hj
  simp only [fld, BitVec.getElem_or, BitVec.getElem_extractLsb', Nat.zero_add, BitVec.getLsbD_and, BitVec.getLsbD_not,
    BitVec.getLsbD_setWidth, e, g]
  simp; omega

/-- A block with its check verifies. -/
theorem blockChk_withChk (b : Block) : blockChk (withChk b) = blockChk b := by
  simp only [blockChk, fld_withChk 112 16 b (by omega) (by omega)]

theorem fld_getLsbD {n : Nat} (lo : Nat) (x : BitVec n) : (fld 1 lo x).getLsbD 0 = x.getLsbD lo := by simp [fld]

end Sys2Proof
end

