-- ==== Sys2Proof/Laws/Keeps.lean ====
section
/-! SUPPORT. What the shared operations that undo, cut, drop and deregister leave alone, and the restoring of the persistent records. -/

namespace Sys2Proof

open Sys2Proof.Machine

/-- P reads nothing that an undone take, a cut burst, a freed buffer or a raised event changes. -/
structure Keeps {β : Type} (P : Dev → β) : Prop where
  buf : ∀ n f e, P (Dev.modBuf n f e) = P e
  sched : ∀ n f e, P (Dev.modSched n f e) = P e
  obs : ∀ n f e, P (Dev.modObs n f e) = P e
  tree : ∀ k f e, P (Dev.modTree k f e) = P e
  tx : ∀ k f e, P (Dev.modTx k f e) = P e
  rx : ∀ k f e, P (Dev.modRx k f e) = P e
  al : ∀ k f e, P (Dev.modAlign k f e) = P e
  ao : ∀ f e, P (Dev.modAo f e) = P e
  due : ∀ v e, P (Dev.due v e) = P e
  cnt : ∀ (e : Dev) c, P { e with counts := c } = P e
  ev : ∀ (e : Dev) c, P { e with evPend := c } = P e
  outs : ∀ (e : Dev) c, P { e with outs := c } = P e
  ends : ∀ (e : Dev) c, P { e with ending := c } = P e

theorem Keeps.raise {β : Type} {P : Dev → β} (K : Keeps P) (q s c o : Nat) (l : List Nat) (d : Dev) : P (d.raise q s c o l) = P d := K.ev _ _

theorem Keeps.bumpN {β : Type} {P : Dev → β} (K : Keeps P) (c : CN) (i j n : Nat) (d : Dev) : P (d.bumpN c i j n) = P d := by
  simp only [Dev.bumpN]
  split
  · exact (K.raise _ _ _ _ _ _).trans (K.cnt _ _)
  · exact K.cnt _ _

theorem Keeps.bump {β : Type} {P : Dev → β} (K : Keeps P) (c : CN) (i j : Nat) (d : Dev) : P (d.bump c i j) = P d := K.bumpN _ _ _ _ _

theorem Keeps.out {β : Type} {P : Dev → β} (K : Keeps P) (o : Output) (d : Dev) : P (d.out o) = P d := K.outs _ _

theorem Keeps.fE {β : Type} {P : Dev → β} (_ : Keeps P) {α : Type} (f : α → Dev → Dev) (l : List α) (h : ∀ n e, P (f n e) = P e) (d : Dev) : P (d.forEach l f) = P d := by
  unfold Dev.forEach; induction l generalizing d with
  | nil => rfl
  | cons a l ih => simp only [List.foldl_cons]; rw [ih, h]

theorem Keeps.fold {β : Type} {P : Dev → β} (_ : Keeps P) {α : Type} (f : Dev → α → Dev) (l : List α) (h : ∀ n e, P (f e n) = P e) (d : Dev) : P (l.foldl f d) = P d := by
  induction l generalizing d with
  | nil => rfl
  | cons a l ih => simp only [List.foldl_cons]; rw [ih, h]

theorem Keeps.setQueue {β : Type} {P : Dev → β} (K : Keeps P) (n q : Nat) (x : Queue) (d : Dev) : P (d.setQueue n q x) = P d := K.buf _ _ _

theorem Keeps.modQueue {β : Type} {P : Dev → β} (K : Keeps P) (n q : Nat) (f : Queue → Queue) (d : Dev) : P (d.modQueue n q f) = P d := K.setQueue _ _ _ _

theorem Keeps.portEmptier {β : Type} {P : Dev → β} (K : Keeps P) (s : Option Nat) (d : Dev) : P (d.portEmptier s) = P d := by
  unfold Dev.portEmptier; split
  · rfl
  · exact K.sched _ _ _

theorem Keeps.triggerSweep {β : Type} {P : Dev → β} (K : Keeps P) (n : Nat) (d : Dev) : P (d.triggerSweep n) = P d := K.buf _ _ _

theorem Keeps.sramBad {β : Type} {P : Dev → β} (K : Keeps P) (n m e : Nat) (d : Dev) : P (d.sramBad n m e) = P d := by
  unfold Dev.sramBad; rw [K.raise, K.bump]

theorem Keeps.resetQueue {β : Type} {P : Dev → β} (K : Keeps P) (n q c : Nat) (d : Dev) : P (d.resetQueue n q c) = P d := by
  unfold Dev.resetQueue; dsimp only; rw [K.triggerSweep, K.raise, K.bump, K.portEmptier, K.modQueue]

theorem Keeps.checkQueue {β : Type} {P : Dev → β} (K : Keeps P) (n q : Nat) (f : QFault) (d : Dev) : P (d.checkQueue n q f) = P d := by
  have dam : P (d.damage n q f) = P d := by
    unfold Dev.damage; split
    · rfl
    · exact K.modQueue _ _ _ _
  unfold Dev.checkQueue; dsimp only
  repeat' split
  all_goals simp only [K.resetQueue, K.sramBad, K.modQueue, dam]

theorem Keeps.rewind {β : Type} {P : Dev → β} (K : Keeps P) (n q g p : Nat) (d : Dev) : P (d.rewind n q g p).2 = P d := by
  unfold Dev.rewind; dsimp only
  split
  · exact K.checkQueue _ _ _ _
  · split
    · dsimp only; rw [K.bump, K.checkQueue]
    · dsimp only; rw [K.setQueue, K.checkQueue]

theorem Keeps.perf {β : Type} {P : Dev → β} (K : Keeps P) (a b c e f : Nat) (d : Dev) : P (d.perf a b c e f) = P d := by
  unfold Dev.perf
  apply K.fold
  intro n e; dsimp only
  split
  · split
    · exact (K.raise _ _ _ _ _ _).trans (K.obs _ _ _)
    · exact K.obs _ _ _
  · rfl

theorem Keeps.tsRing {β : Type} {P : Dev → β} (K : Keeps P) (r id : Nat) (b : Bool) (s : Nat) (d : Dev) : P (d.tsRing r id b s) = P d := by
  unfold Dev.tsRing; dsimp only; split
  · exact K.ao _ _
  · exact (K.due _ _).trans (K.ao _ _)

theorem Keeps.stampsCut {β : Type} {P : Dev → β} (K : Keeps P) (k f pd : Nat) (d : Dev) : P (d.stampsCut k f pd) = P d := by
  unfold Dev.stampsCut; dsimp only; rw [K.fE _ _ (fun x e => K.tsRing _ _ _ _ e), K.ao]

theorem Keeps.showOutputs {β : Type} {P : Dev → β} (K : Keeps P) (bs : List Nat) (d was : Dev) : P (d.showOutputs bs was) = P d := by
  unfold Dev.showOutputs; exact K.fE _ _ (fun b e => K.out _ e) d

theorem Keeps.ts {β : Type} {P : Dev → β} (K : Keeps P) (f : Frame) (s : Option Nat) (d : Dev) : P (d.tsNotSent f s) = P d := by
  unfold Dev.tsNotSent
  split
  · rfl
  · split
    · unfold Dev.tsSys; dsimp only; split
      · exact K.ao _ _
      · exact (K.due _ _).trans (K.ao _ _)
    · exact K.tsRing _ _ _ _ _

theorem Keeps.mothClose {β : Type} {P : Dev → β} (K : Keeps P) (n : Nat) (m : Option Nat) (o l : Nat) (d : Dev) : P (d.mothClose n m o l) = P d := by
  unfold Dev.mothClose
  split
  · rfl
  · dsimp only
    split
    · rfl
    · split
      · exact K.obs _ _ _
      · exact (K.due _ _).trans (K.obs _ _ _)

theorem Keeps.freeBuf {β : Type} {P : Dev → β} (K : Keeps P) (n x p i : Nat) (d : Dev) : P (d.freeBuf n x p i) = P d := by
  unfold Dev.freeBuf Dev.freeHandle; exact K.ends _ _

theorem Keeps.dropBuffer {β : Type} {P : Dev → β} (K : Keeps P) (n x p i o : Nat) (s : Option Nat) (d : Dev) : P (d.dropBuffer n x p i o s) = P d := by
  unfold Dev.dropBuffer; dsimp only
  rw [K.freeBuf, K.portEmptier, K.ts, K.mothClose]

theorem Keeps.undoTake {β : Type} {P : Dev → β} (K : Keeps P) (k : Nat) (aid : Word) (b : Bool) (t : Take) (d : Dev) : P (d.undoTake k aid b t) = P d := by
  have moth : ∀ n m e, P (Dev.mothRewind n m e) = P e := by
    intro n m e; unfold Dev.mothRewind; split
    · rfl
    · exact K.obs _ _ _
  have stale : ∀ n x e, P (Dev.dropStale n x e) = P e := by
    intro n x e; unfold Dev.dropStale; split
    · exact K.triggerSweep _ _
    · exact K.dropBuffer _ _ _ _ _ _ _
  unfold Dev.undoTake; dsimp only
  rw [K.perf, K.bump, K.tree, moth, K.sched, K.modQueue]
  split
  · exact K.rewind _ _ _ _ _
  · rw [K.bump, stale]; exact K.rewind _ _ _ _ _

theorem Keeps.modPitch {β : Type} {P : Dev → β} (K : Keeps P) (k f pd : Nat) (g : Pitch → Pitch) (d : Dev) : P (d.modPitch k f pd g) = P d := K.tree _ _ _

theorem Keeps.undoWhile {β : Type} {P : Dev → β} (K : Keeps P) (k f pd : Nat) (b : Bool) (g : Take → Bool) (m : Pitch → Bool) (i : Nat) (d : Dev) : P (d.undoWhile k f pd b g m i) = P d := by
  induction i generalizing d with
  | zero => rfl
  | succ i ih =>
    unfold Dev.undoWhile
    split
    · rfl
    · split
      · rfl
      · split
        · rfl
        · dsimp only; rw [ih, K.modPitch, K.undoTake]

theorem Keeps.undoPitch {β : Type} {P : Dev → β} (K : Keeps P) (k : Nat) (p : Pitch) (d : Dev) : P (d.undoPitch k p) = P d := by
  unfold Dev.undoPitch
  split
  · rfl
  · dsimp only; rw [K.modPitch]; unfold Dev.returnAnswers; dsimp only; rw [K.tree]; exact K.undoWhile _ _ _ _ _ _ _ _

theorem Keeps.undoTree {β : Type} {P : Dev → β} (K : Keeps P) (k : Nat) (d : Dev) : P (d.undoTree k) = P d := K.fE _ _ (fun p e => K.undoPitch k p e) d

theorem Keeps.laneEnd {β : Type} {P : Dev → β} (K : Keeps P) (ls : List Nat) (d : Dev) : P (d.laneEnd ls) = P d := by
  unfold Dev.laneEnd
  rw [K.fE]
  · unfold Dev.setDrive; dsimp only
    rw [K.showOutputs, K.fE]
    intro n e; exact K.tx _ _ _
  · intro n e; unfold Dev.laneDown; split
    · rfl
    · dsimp only; split
      · exact (K.rx _ _ _).trans (K.tx _ _ _)
      · exact (K.al _ _ _).trans ((K.raise _ _ _ _ _ _).trans ((K.rx _ _ _).trans (K.tx _ _ _)))

theorem Keeps.cutPitch {β : Type} {P : Dev → β} (K : Keeps P) (k : Nat) (p : Pitch) (d : Dev) : P (d.cutPitch k p) = P d := by
  unfold Dev.cutPitch; dsimp only
  unfold Dev.modPitch
  rw [K.tree]
  have : ∀ e : Dev, P (e.forEach p.takes fun t d => d.dropBuffer (sliceOfTree k) 10 t.desc.pool t.desc.index 5 none) = P e := fun e => K.fE _ _ (fun t x => K.dropBuffer _ _ _ _ _ _ _) e
  split
  · rw [K.out, K.laneEnd, K.fE _ _ (fun l x => K.tx _ _ _), K.stampsCut, this, K.bumpN]
  · rw [K.stampsCut, this, K.bumpN]

theorem Keeps.emptyQueue {β : Type} {P : Dev → β} (K : Keeps P) (n q : Nat) (d : Dev) : P (d.emptyQueue n q).2 = P d := by
  unfold Dev.emptyQueue; dsimp only
  rw [K.setQueue]; unfold Dev.freeCells; rw [K.ends]
  exact K.fE _ _ (fun t x => K.dropBuffer _ _ _ _ _ _ _) _

theorem Keeps.dropQueued {β : Type} {P : Dev → β} (K : Keeps P) (k : Nat) (aid : Word) (c : CN) (d : Dev) : P (d.dropQueued k aid c) = P d := by
  unfold Dev.dropQueued; dsimp only
  apply K.fE
  intro q e
  exact (K.bumpN _ _ _ _ _).trans (K.emptyQueue _ _ _)
/-- Predicates that freeing a context and erasing a root keep. -/

theorem Keeps.deregister {β : Type} {P : Dev → β} (K : Keeps P) (R : β → β → Prop) (rfl_ : ∀ a, R a a) (tr : ∀ a b c, R a b → R b c → R a c)
    (hf : ∀ n c e, R (P e) (P (Dev.freeCtx n c e))) (hv : ∀ k e, R (P e) (P (Dev.modVault (fun v => { v with roots := v.roots.erase k, kex := v.kex.erase k, noticeKeys := v.noticeKeys.erase k, spdm := v.spdm.erase (k + 1), sign := v.sign.drop k }) e)))
    (k h : Nat) (at_ : Ticks) (d : Dev) : R (P d) (P (d.deregister k h at_)) := by
  unfold Dev.deregister; dsimp only
  rw [K.tree, K.raise]
  have e1 : P ((((d.undoTree k).dropCommitted k).modTree k fun x => { x with pitches := x.pitches.filter fun p => p.phase == 3 }).modTree k fun x =>
      { x with il := x.il.filter fun w => x.pitches.any fun p => w.is p.frame p.pid }) = P d := by
    rw [K.tree, K.tree]; unfold Dev.dropCommitted; rw [K.fE _ _ (fun p e => K.cutPitch k p e), K.undoTree]
  rw [← e1]
  generalize ((((d.undoTree k).dropCommitted k).modTree k fun x => { x with pitches := x.pitches.filter fun p => p.phase == 3 }).modTree k fun x =>
      { x with il := x.il.filter fun w => x.pitches.any fun p => w.is p.frame p.pid }) = y
  unfold Dev.discardTree; dsimp only
  have sl : ∀ k st e, P (Dev.setLeaf k st e) = P e := by
    intro k st e; unfold Dev.setLeaf; dsimp only; split
    · rfl
    · exact (K.raise _ _ _ _ _ _).trans (K.tree _ _ _)
  rw [sl, K.tree]
  refine tr _ _ _ ?_ (hv _ _)
  have FR : ∀ (l : List Word) (z : Dev), R (P z) (P (z.forEach l fun a d =>
      match (if d.selected k then d.dropQueued k a .lostDropped else d).ctxOf (sliceOfTree k) k a.toNat with
      | some c => (if d.selected k then d.dropQueued k a .lostDropped else d).freeCtx (sliceOfTree k) c
      | none => (if d.selected k then d.dropQueued k a .lostDropped else d))) := by
    intro l
    induction l with
    | nil => intro z; exact rfl_ _
    | cons a l ih =>
      intro z
      refine tr _ _ _ ?_ (ih _)
      have e0 : P (if z.selected k then z.dropQueued k a .lostDropped else z) = P z := by
        split
        · exact K.dropQueued _ _ _ _
        · rfl
      dsimp only
      generalize (if z.selected k then z.dropQueued k a .lostDropped else z) = w at *
      rw [← e0]
      split
      · exact hf _ _ _
      · exact rfl_ _
  exact FR _ y

theorem keeps_vault : Keeps (fun d => d.vault) := by constructor <;> intros <;> rfl

theorem keeps_flash : Keeps (fun d => (d.flashA, d.flashB)) := by constructor <;> intros <;> rfl

theorem keeps_irq_vault : Keeps (fun d => d.host.irq.vault) := by
  constructor <;> intros <;> first | rfl | (simp only [Dev.due, Dev.modHost]; split <;> rfl)

theorem slice_key_modSlice (n m : Nat) (f : Slice → Slice) (h : ∀ s, (f s).key = s.key) (e : Dev) : ((e.modSlice m f).slice n).key = (e.slice n).key := by
  simp only [Dev.slice, Dev.modSlice, Dev.setSlice]
  by_cases q : n = m
  · subst q; rw [Tab.get_set_same]; exact h _
  · rw [Tab.get_set_other _ _ _ (Ne.symm q)]

theorem keeps_key (n : Nat) : Keeps (fun d => (d.slice n).key) := by
  constructor <;> intros <;> first | rfl | (simp only [Dev.modBuf, Dev.modSched, Dev.modObs]; apply slice_key_modSlice; intro _; rfl)

theorem Tab.get_mapV {α : Type} [DecidableEq α] (df : α) (m : Tab α) (f : Nat → α → α) (Q : α → Prop) (hd : Q df) (hf : ∀ i v, Q (f i v)) (i : Nat) : Q (Tab.get df (Tab.mapV df m f) i) := by
  unfold Tab.mapV
  induction m with
  | nil => exact hd
  | cons e m ih =>
    rw [List.map_cons, List.filter_cons]
    split
    · unfold Tab.get; split
      · exact hf _ _
      · exact ih
    · exact ih

theorem setReady_fw (f : Nat) (r : Readiness) (d : Dev) : (d.setReady f r).host.fw = d.host.fw ∧ (d.setReady f r).host.initDone = d.host.initDone := by
  unfold Dev.setReady; split <;> exact ⟨rfl, rfl⟩

theorem setReady_other (f g : Nat) (r : Readiness) (d : Dev) (h : f ≠ g) : (d.setReady f r).isReady g = d.isReady g := by
  unfold Dev.setReady; split
  · rfl
  · simp only [Dev.isReady, Dev.readyRead, Dev.readyW, Dev.raise, Dev.modHost, Tab.get_set_other _ _ _ h]

theorem setReady_same (f : Nat) (r : Readiness) (d : Dev) : (d.setReady f r).isReady f = (!d.host.fw.swapping && r.st == 1) := by
  unfold Dev.setReady; split
  · rename_i h
    simp only [Dev.isReady, Dev.readyRead, h]; cases d.host.fw.swapping <;> simp
  · simp only [Dev.isReady, Dev.readyRead, Dev.readyW, Dev.raise, Dev.modHost, Tab.get_set_same]
    cases d.host.fw.swapping <;> simp

theorem Tab.get_foldl_set {α : Type} [DecidableEq α] (df : α) (g : Nat → α) (m : Nat) (k : Nat) (h : k < m) : Tab.get df ((List.range m).foldl (fun t k => Tab.set df t k (g k)) []) k = g k := by
  induction m with
  | zero => omega
  | succ m ih =>
    rw [List.range_succ, List.foldl_append, List.foldl_cons, List.foldl_nil]
    by_cases e : k = m
    · subst e; rw [Tab.get_set_same]
    · rw [Tab.get_set_other _ _ _ (Ne.symm e)]; exact ih (by omega)

theorem tree_dt_forEach (dt : Tab DtRec) (l : List Nat) (d : Dev) (k : Nat) : ((d.forEach l fun k d => d.modTree k fun x => { x with dt := dt.get {} k }).tree k).dt = if k ∈ l then dt.get {} k else (d.tree k).dt := by
  unfold Dev.forEach
  induction l generalizing d with
  | nil => simp
  | cons a l ih =>
    rw [List.foldl_cons, ih]
    by_cases e : k = a
    · subst e; simp [Dev.tree, Dev.modTree, Dev.setTree]
    · have : ((d.modTree a fun x => { x with dt := dt.get {} a }).tree k) = d.tree k := by
        simp only [Dev.tree, Dev.modTree, Dev.setTree]; rw [Tab.get_set_other _ _ _ (Ne.symm e)]
      rw [this]; simp [e]

theorem stack_map_forEach (mp : Tab RankMap) (g : Nat → Stack → Stack) (hg : ∀ n m, (g n m).map = mp.get {} n) (l : List Nat) (d : Dev) (k : Nat) :
    ((d.forEach l fun n d => d.modStack n (g n)).stack k).map = if k ∈ l then mp.get {} k else (d.stack k).map := by
  unfold Dev.forEach
  induction l generalizing d with
  | nil => simp
  | cons a l ih =>
    rw [List.foldl_cons, ih]
    by_cases e : k = a
    · subst e; simp [Dev.stack, Dev.modStack, hg]
    · have : ((d.modStack a (g a)).stack k) = d.stack k := by
        simp only [Dev.stack, Dev.modStack]; rw [Tab.get_upd_other _ _ _ (Ne.symm e)]
      rw [this]; simp [e]

end Sys2Proof
end

