-- ==== Sys2Proof/Laws/Mailbox.lean ====
section
/-! SUPPORT. The path of a mailbox command: the checks of a slice, the commands over its tables, and what a refused command leaves. -/

namespace Sys2Proof

/-- Either half of slice n is ready: the slice check passes (R396). -/
theorem chkReady_slice {d : Dev} {n : Nat} (h8 : n ≤ 7) (h : (d.isReady (fnDs n) || d.isReady (fnUs n)) = true) : chkReady d [needSlice n] = none :=
  chkReady_none (by simp at h; simp [needSlice, show n < 8 by omega]; tauto)

/-- Function f and either half of slice n are ready. -/
theorem chkReady_two {d : Dev} {n f : Nat} (hf : d.isReady f = true) (h8 : n ≤ 7) (h : (d.isReady (fnDs n) || d.isReady (fnUs n)) = true) : chkReady d [[f], needSlice n] = none :=
  chkReady_none (by simp at h; simp [needSlice, hf, show n < 8 by omega]; tauto)

/-- The length, the readiness and the range of a command on a slice pass. -/
theorem sliceChecks_pass {rq : Req} {d : Dev} {n : Nat} (h2 : rq.len = n) (a : rq.prm 0 ≤ 7) (b : (d.isReady (fnDs (rq.prm 0)) || d.isReady (fnUs (rq.prm 0))) = true) :
    ∀ c ∈ sliceChecks rq d n, c = none := by
  intro x hx
  simp only [sliceChecks, List.mem_cons, List.not_mem_nil, or_false] at hx
  rcases hx with rfl | rfl | rfl
  · exact chkLen_none h2
  · exact chkReady_slice a b
  · simp [chkRange_cons, chkRange_nil, a]

/-- The state that a command on a domain leaves: its own on the woken block where it answers OK or ASYNC, else the block as it was (R381, R404). -/
theorem domainCmd_state (dom : Nat → Nat) (c : Cmd) (rq : Req) (d : Dev) :
    (domainCmd dom c rq d).2 = if (c rq (d.wake (dom (rq.prm 0)) causeHost)).1.code = .ok ∨ (c rq (d.wake (dom (rq.prm 0)) causeHost)).1.code = .async
      then (c rq (d.wake (dom (rq.prm 0)) causeHost)).2 else d := rfl

theorem domainCmd_resp (dom : Nat → Nat) (c : Cmd) (rq : Req) (d : Dev) : (domainCmd dom c rq d).1 = (c rq (d.wake (dom (rq.prm 0)) causeHost)).1 := rfl

/-- A command on a domain that answers OK runs on the woken block (R381). -/
theorem runCmd_domain {op : Nat} {dom : Nat → Nat} {c : Cmd} {rq : Req} {d d' : Dev} {rs : List Dword} (h1 : d.runsNow rq.mb.val = true)
    (h : c rq (d.wake (dom (rq.prm 0)) causeHost) = okWith d' rs) : runCmd op (domainCmd dom c) rq d = d'.answer rq op { results := rs } := by
  rw [runCmd_accepted h1, domainCmd_state, domainCmd_resp, h]; rfl

/-- The same, for a command without results. -/
theorem runCmd_domain_done {op : Nat} {dom : Nat → Nat} {c : Cmd} {rq : Req} {d d' : Dev} (h1 : d.runsNow rq.mb.val = true)
    (h : c rq (d.wake (dom (rq.prm 0)) causeHost) = okDone d') : runCmd op (domainCmd dom c) rq d = d'.answer rq op {} := runCmd_domain h1 h

/-- A command that answers neither OK nor ASYNC changes nothing, where its last step changes nothing but under such an answer (R404). -/
theorem withChecks_refused {cs : List Check} {d : Dev} {k : Resp × Dev} (hk : k.1.code = .ok ∨ k.1.code = .async ∨ k.2 = d) (h : (withChecks cs d k).1.code ≠ .ok) (h2 : (withChecks cs d k).1.code ≠ .async) : (withChecks cs d k).2 = d := by
  unfold withChecks at *
  split
  · rfl
  · rename_i hh; simp only [hh] at h h2; rcases hk with hk | hk | hk
    · exact absurd hk h
    · exact absurd hk h2
    · exact hk

/-- A command on a domain that answers neither OK nor ASYNC changes nothing. -/
theorem domainCmd_refused {dom : Nat → Nat} {c : Cmd} {rq : Req} {d : Dev} (h : (domainCmd dom c rq d).1.code ≠ .ok)
    (h2 : (domainCmd dom c rq d).1.code ≠ .async) : (domainCmd dom c rq d).2 = d := by
  rw [domainCmd_state]; rw [domainCmd_resp] at h h2; simp [h, h2]

/-- What the last step of a command keeps, the command keeps. -/
theorem withChecks_keeps {β : Type} (P : Dev → β) {cs : List Check} {d : Dev} {k : Resp × Dev} (h : P k.2 = P d) : P (withChecks cs d k).2 = P d := by
  unfold withChecks; split
  · rfl
  · exact h

/-- What holds before and after the last step holds after the command. -/
theorem withChecks_either (P : Dev → Prop) {cs : List Check} {d : Dev} {k : Resp × Dev} (h0 : P d) (h : P k.2) : P (withChecks cs d k).2 := by
  unfold withChecks; split
  · exact h0
  · exact h

end Sys2Proof
end

