-- ==== Sys2Proof/Laws/Sched.lean ====
section
/-! SUPPORT. Meters and the deficit round robin (R261, R268): a bucket filled in parts, and what the search changes. -/

namespace Sys2Proof

/-- A bucket filled by a number of parts of a token. -/
def fillBy (den num1 tok cap : Nat) : Nat × Nat × Nat :=
  let all := tok + num1 / den
  if cap ≤ all then (cap, all - cap, num1 % den) else (all, 0, num1 % den)

/-- Filling twice fills as once. -/
theorem fillBy_add (den A B tok cap : Nat) (hd : 0 < den) (h : tok ≤ cap) :
   let a := fillBy den A tok cap
   let b := fillBy den (B + a.2.2) a.1 cap
   let c := fillBy den (A + B) tok cap
   b.1 = c.1 ∧ a.2.1 + b.2.1 = c.2.1 ∧ b.2.2 = c.2.2 ∧ a.1 ≤ cap ∧ c.1 ≤ cap ∧ tok ≤ c.1 := by
  have h1 : (A + B) / den = A / den + (B + A % den) / den := by
    conv_lhs => rw [← Nat.div_add_mod A den]
    rw [Nat.add_assoc, Nat.mul_add_div hd, Nat.add_comm (A % den)]
  have h2 : (A + B) % den = (B + A % den) % den := by
    conv_lhs => rw [← Nat.div_add_mod A den]
    rw [Nat.add_assoc, Nat.mul_add_mod, Nat.add_comm (A % den)]
  have e1 : (fillBy den A tok cap).2.2 = A % den := by unfold fillBy; dsimp only; split <;> rfl
  dsimp only
  rw [e1]
  unfold fillBy
  dsimp only
  rw [h1, h2]
  generalize A / den = x
  generalize (B + A % den) / den = y
  (repeat' split) <;> simp_all <;> omega

/-- The bucket of R261 in those terms. -/
theorem fillBucket_eq (rate span tok cap rest : Nat) : fillBucket rate span tok cap rest = fillBy 146124000000000 (rate * span * 65536 + rest) tok cap := rfl

/-- Filling over two spans fills as over their sum (R261). -/
theorem fillBucket_add (rate s1 s2 tok cap rest : Nat) (h : tok ≤ cap) :
   let a := fillBucket rate s1 tok cap rest
   let b := fillBucket rate s2 a.1 cap a.2.2
   let c := fillBucket rate (s1 + s2) tok cap rest
   b.1 = c.1 ∧ a.2.1 + b.2.1 = c.2.1 ∧ b.2.2 = c.2.2 ∧ a.1 ≤ cap ∧ c.1 ≤ cap ∧ tok ≤ c.1 := by
  have e : rate * (s1 + s2) * 65536 + rest = rate * s1 * 65536 + rest + rate * s2 * 65536 := by ring
  have := fillBy_add 146124000000000 (rate * s1 * 65536 + rest) (rate * s2 * 65536) tok cap (by norm_num) h
  simpa only [fillBucket_eq, e] using this

/-- Reading back a queue. -/
theorem queue_setQueue_same (n q : Nat) (Q : Queue) (d : Dev) : (d.setQueue n q Q).queue n q = Q := by
  simp only [Dev.queue, Dev.setQueue, Dev.modBuf, Dev.modSlice, Dev.setSlice, Dev.slice, Tab.get_set_same]

/-- Another queue. -/
theorem queue_setQueue_other (n q q' : Nat) (Q : Queue) (d : Dev) (h : q' ≠ q) : (d.setQueue n q Q).queue n q' = d.queue n q' := by
  simp only [Dev.queue, Dev.setQueue, Dev.modBuf, Dev.modSlice, Dev.setSlice, Dev.slice, Tab.get_set_same]
  rw [Tab.get_set_other]; exact Ne.symm h

/-- Round robin changes a queue in its deficit and its turn alone, and only an eligible one (R268). -/
abbrev RobinKeeps (n : Nat) (qs : List Nat) (d d' : Dev) : Prop :=
  (∀ q, d'.queue n q = { d.queue n q with deficit := (d'.queue n q).deficit, turn := (d'.queue n q).turn }) ∧ (∀ q, q ∉ qs → d'.queue n q = d.queue n q)

/-- The search from a pointer finds an element. -/
theorem atOrAfter_mem (ptr : Nat) (qs : List Nat) (q : Nat) (h : atOrAfter ptr qs = some q) : q ∈ qs := by
  unfold atOrAfter at h
  rcases hf : qs.find? (fun q => decide (ptr ≤ q)) with _ | x
  · rw [hf] at h; simp at h; exact List.mem_of_mem_head? (by rw [h]; rfl)
  · rw [hf] at h; simp at h; subst h; exact List.mem_of_find?_eq_some hf

/-- One change of an eligible queue. -/
theorem RobinKeeps.step {n q : Nat} {qs : List Nat} {d : Dev} (Q : Queue) (hq : q ∈ qs) (hQ : Q = { d.queue n q with deficit := Q.deficit, turn := Q.turn }) : RobinKeeps n qs d (d.setQueue n q Q) := by
  constructor
  · intro x
    by_cases e : x = q
    · subst e; rw [queue_setQueue_same]; exact hQ
    · rw [queue_setQueue_other _ _ _ _ _ e]
  · intro x hx; exact queue_setQueue_other _ _ _ _ _ (fun e => hx (e ▸ hq))

/-- Changes one after another. -/
theorem RobinKeeps.trans {n : Nat} {qs : List Nat} {a b c : Dev} (h1 : RobinKeeps n qs a b) (h2 : RobinKeeps n qs b c) : RobinKeeps n qs a c := by
  constructor
  · intro q; have u := h1.1 q; have v := h2.1 q; rw [u] at v; exact v
  · intro q hq; rw [h2.2 q hq, h1.2 q hq]

end Sys2Proof
end

