-- ==== Sys2Proof/Laws/Slice.lean ====
section
/-! SUPPORT. What lies outside a slice stays, whatever a command does to the slice. -/

namespace Sys2Proof

/-- What lies outside slice n: the other slices, trees, lanes, ports, rank maps, vault and time. -/
abbrev outside (n : Nat) (d : Dev) : (Nat → Slice) × (Nat → Tree) × (Nat → LaneTx × LaneRx) × (Nat → LinePort) × (Nat → RankMap) × Vault × TimeSt × Nat :=
  (fun m => if m = n then {} else d.slice m, d.tree, fun l => (d.txLane l, d.rxLane l), d.port, fun m => (d.stack m).map, d.vault, d.time, d.now)

theorem outside_modSlice (n : Nat) (f : Slice → Slice) (d : Dev) : outside n (d.modSlice n f) = outside n d := by
  have : ∀ m, m ≠ n → (d.modSlice n f).slice m = d.slice m := by
    intro m h
    simp only [Dev.slice, Dev.modSlice, Dev.setSlice]; exact Tab.get_set_other _ _ _ (Ne.symm h)
  simp only [outside, Prod.mk.injEq]
  refine ⟨?_, rfl, rfl, rfl, rfl, rfl, rfl, rfl⟩
  funext m; by_cases q : m = n
  · simp [q]
  · simp [q, this m q]

theorem outside_modTab (n : Nat) (f : Tables → Tables) (d : Dev) : outside n (d.modTab n f) = outside n d := outside_modSlice _ _ _

theorem outside_modBuf (n : Nat) (f : BufSt → BufSt) (d : Dev) : outside n (d.modBuf n f) = outside n d := outside_modSlice _ _ _

theorem outside_modSched (n : Nat) (f : SchedSt → SchedSt) (d : Dev) : outside n (d.modSched n f) = outside n d := outside_modSlice _ _ _

theorem outside_modObs (n : Nat) (f : Observe → Observe) (d : Dev) : outside n (d.modObs n f) = outside n d := outside_modSlice _ _ _

theorem outside_forEach {α : Type} (n : Nat) (f : α → Dev → Dev) (l : List α) (h : ∀ x e, outside n (f x e) = outside n e) (d : Dev) : outside n (d.forEach l f) = outside n d := by
  unfold Dev.forEach; induction l generalizing d with
  | nil => rfl
  | cons a l ih => simp only [List.foldl_cons]; rw [ih, h]

theorem outside_bump (n : Nat) (c : CN) (i j : Nat) (d : Dev) : outside n (d.bump c i j) = outside n d := by
  simp only [Dev.bump, Dev.bumpN]
  split <;> rfl
theorem outside_modPwr (n : Nat) (f : PowerSt → PowerSt) (d : Dev) : outside n (d.modPwr f) = outside n d := rfl

theorem outside_modHost (n : Nat) (f : Host14 → Host14) (d : Dev) : outside n (d.modHost f) = outside n d := rfl

theorem outside_modDom (n p : Nat) (f : PDom → PDom) (d : Dev) : outside n (d.modDom p f) = outside n d := rfl

theorem outside_setDom (n p : Nat) (f : PDom → PDom) (d : Dev) : outside n (d.setDom p f) = outside n d := by
  unfold Dev.setDom; dsimp only; split
  · unfold Dev.showOutputs; exact (outside_forEach n (fun b e => e.out _) _ (fun _ _ => rfl) _).trans (outside_modDom n p f d)
  · exact outside_modDom n p f d

theorem outside_respond (n m : Nat) (tag : Word) (op : Nat) (r : Resp) (d : Dev) : outside n (d.respond m tag op r) = outside n d := rfl

theorem outside_entryAnswer (n p : Nat) (r : Resp) (d : Dev) : outside n (d.entryAnswer p r) = outside n d := by
  unfold Dev.entryAnswer; split
  · rfl
  · rw [outside_respond, outside_modDom]

theorem outside_abortEntry (n p code : Nat) (d : Dev) : outside n (d.abortEntry p code) = outside n d := by
  unfold Dev.abortEntry; rw [outside_entryAnswer, outside_bump, outside_setDom]

theorem outside_wakeBegins (n p c : Nat) (off : Bool) (d : Dev) : outside n (d.wakeBegins p c off) = outside n d := rfl

/-- A wake of any domain, but for what its start from off gives it, leaves what lies outside a slice. -/
theorem outside_wakeNow (n p c : Nat) (d : Dev) : outside n (d.wakeNow p c) = outside n d := by
  unfold Dev.wakeNow; dsimp only
  split
  · exact outside_modDom ..
  · split
    · rw [outside_abortEntry, outside_modDom]
    · split
      · exact outside_setDom ..
      · rw [outside_wakeBegins, outside_setDom]

theorem outside_modStack (n m : Nat) (f : Stack → Stack) (h : ∀ x, (f x).map = x.map) (d : Dev) : outside n (d.modStack m f) = outside n d := by
  have : ∀ i, ((d.modStack m f).stack i).map = (d.stack i).map := by
    intro i; by_cases q : m = i
    · subst q; rw [Dev.stack_modStack, h]
    · rw [Dev.stack_modStack_other d _ q]
  simp only [outside, Prod.mk.injEq]
  exact ⟨rfl, rfl, rfl, rfl, funext this, rfl, rfl, rfl⟩

theorem outside_bumpN (n : Nat) (c : CN) (i j k : Nat) (d : Dev) : outside n (d.bumpN c i j k) = outside n d := by
  simp only [Dev.bumpN]
  split <;> rfl

theorem outside_raise (n q s c o : Nat) (l : List Nat) (d : Dev) : outside n (d.raise q s c o l) = outside n d := rfl

theorem outside_perf (n e dir p k : Nat) (d : Dev) : outside n (d.perf n e dir p k) = outside n d := by
  unfold Dev.perf
  refine outside_forEach n (fun i d => _) _ (fun i d => ?_) d
  dsimp only
  split
  · split
    · exact (outside_raise ..).trans (outside_modObs ..)
    · exact outside_modObs ..
  · rfl

theorem outside_slotsUsed (n port k : Nat) (w : Bool) (d : Dev) : outside n (d.slotsUsed n port k w) = outside n d := by
  unfold Dev.slotsUsed; dsimp only; rw [outside_modObs, outside_perf, outside_bumpN, outside_bumpN]

/-- What a slice keeps of its buffers and queues when its tables wake from off (R367). -/
def emptiedBuffers (b : BufSt) : BufSt := { b with bufs := [], cells := [], cyc := [], rot := [], spills := [], reads := [], copies := [], queues := b.queues.mapV {} fun _ q => q.restart }

theorem Dev.wokenFromOff_mem (n : Nat) (h : n ≤ 7) (d : Dev) : d.wokenFromOff (pdMem n) =
    (d.modStack n fun x => Stack.start x.map d.now).modDom (pdMem n) fun x => { x with stopAt := d.now, stood := 0 } := by
  have e : pdMem n = 55 + n := rfl
  unfold Dev.wokenFromOff
  rw [if_neg (by omega), if_neg (by omega), if_neg (by omega), if_neg (by omega), if_neg (by omega), if_pos (by omega), e, show 55 + n - 55 = n by omega]

theorem Dev.wokenFromOff_tables (n : Nat) (h : n ≤ 7) (d : Dev) : d.wokenFromOff (pdTables n) =
    (({ d with ending := d.ending.filter fun o => o.slice != n } : Dev).imageRestored n).modBuf n emptiedBuffers := by
  have e : pdTables n = 12 + 6 * n := rfl
  unfold Dev.wokenFromOff
  rw [if_neg (by omega), if_neg (by omega), if_neg (by omega), if_neg (by omega), if_pos (by omega), e, show (12 + 6 * n - 7) / 6 = n by omega,
    show (12 + 6 * n - 7) % 6 = 5 by omega]
  rfl

/-- The domains that wake with the tables of a slice, and the tables, started from off. -/
theorem outside_wokenFromOff (n q : Nat) (h : n ≤ 7) (hq : q = 6 ∨ q = pdMem n ∨ q = pdTables n) (d : Dev) : outside n (d.wokenFromOff q) = outside n d := by
  rcases hq with rfl | rfl | rfl
  · rfl
  · rw [Dev.wokenFromOff_mem n h, outside_modDom]
    exact outside_modStack n n (fun x => Stack.start x.map d.now) (fun _ => rfl) d
  · rw [Dev.wokenFromOff_tables n h, outside_modBuf, Dev.imageRestored, outside_slotsUsed]
    exact outside_modStack _ _ (fun x => { x with lastRq := d.now }) (fun _ => rfl) _

theorem outside_wakeOne (n q c : Nat) (h : n ≤ 7) (hq : q = 6 ∨ q = pdMem n ∨ q = pdTables n) (d : Dev) : outside n (d.wakeOne q c) = outside n d := by
  unfold Dev.wakeOne; dsimp only; split
  · rw [outside_wokenFromOff n q h hq, outside_wakeNow]
  · exact outside_wakeNow ..

theorem wakeFirst_tables (n : Nat) (h : n ≤ 7) (d : Dev) : ∀ q ∈ d.wakeFirst (pdTables n), q = 6 ∨ q = pdMem n ∨ q = pdTables n := by
  have e : pdTables n = 12 + 6 * n := by simp [pdTables]
  have e1 : (pdTables n - 7) / 6 = n := by omega
  have e2 : (pdTables n - 7) % 6 = 5 := by omega
  have e3 : (Nat.ble 7 (pdTables n) && Nat.blt (pdTables n) 55) = true := by simp [Nat.ble_eq, Nat.blt_eq]; omega
  have e4 : Nat.ble 63 (pdTables n) = false := by
    rw [Bool.eq_false_iff]; simp; omega
  intro q
  simp only [Dev.wakeFirst, e1, e2, e3, e4]
  simp; tauto

theorem outside_forEach_mem {α : Type} (n : Nat) (f : α → Dev → Dev) (l : List α) (h : ∀ x ∈ l, ∀ e, outside n (f x e) = outside n e) (d : Dev) : outside n (d.forEach l f) = outside n d := by
  unfold Dev.forEach; induction l generalizing d with
  | nil => rfl
  | cons a l ih => simp only [List.foldl_cons]; rw [ih (fun x hx => h x (List.mem_cons_of_mem _ hx)), h a (List.mem_cons_self ..)]

theorem outside_wake (n : Nat) (h : n ≤ 7) (c : Nat) (d : Dev) : outside n (d.wake (pdTables n) c) = outside n d := by
  unfold Dev.wake; rw [outside_wakeOne n _ c h (.inr (.inr rfl))]
  unfold Dev.wakeOthers; split
  · rfl
  · exact outside_forEach_mem n _ _ (fun q hq e => outside_wakeOne n q c h (wakeFirst_tables n h d q (List.mem_of_mem_filter hq)) e) d

theorem outside_wakeTables (n : Nat) (h : n ≤ 7) (d : Dev) : outside n (d.wakeTables n) = outside n d := outside_wake n h _ d

theorem outside_tablesCmd {c : Cmd} {rq : Req} {d : Dev} (hn : rq.prm 0 ≤ 7) (h : ∀ e, outside (rq.prm 0) (c rq e).2 = outside (rq.prm 0) e) : outside (rq.prm 0) (tablesCmd c rq d).2 = outside (rq.prm 0) d := by
  rw [show (tablesCmd c rq d).2 = _ from domainCmd_state ..]; split
  · rw [h, outside_wake _ hn]
  · rfl

theorem outside_writeEntry (n code i : Nat) (e : Entry) (d : Dev) : outside n (d.writeEntry n code i e) = outside n d := by
  unfold Dev.writeEntry; dsimp only
  split <;> first | exact outside_modSlice _ _ _ | rfl

theorem outside_forgetKey (n : Nat) (v : BitVec 12) (m : BitVec 48) (d : Dev) : outside n (d.forgetKey n v m) = outside n d := outside_modSlice _ _ _

theorem outside_setAddr (n i : Nat) (e : AddrEntry) (d : Dev) : outside n (d.setAddr n i e) = outside n d := outside_modSlice _ _ _

/-- Two changes of a slice's tables are one change. -/
theorem Dev.modTab_modTab (n : Nat) (f g : Tables → Tables) (d : Dev) : (d.modTab n f).modTab n g = d.modTab n fun x => g (f x) := by
  simp [Dev.modTab, Dev.modSlice, Dev.setSlice, Dev.slice]

end Sys2Proof
end

