-- ==== Sys2Proof/Laws/Windows.lean ====
section
/-! SUPPORT. At every instant the windows of R13 that are open hold the present. -/

namespace Sys2Proof
/-- The bandwidth window of slice n that is open is not over by the device time. -/
abbrev Dev.BwOpen (d : Dev) (n : Nat) : Prop := d.devNs / d.bwNs n ≤ (d.slice n).obs.bwWin
/-- And its activation window. -/
abbrev Dev.ActOpen (d : Dev) (n : Nat) : Prop := d.devNs / activationNs ≤ (d.stack n).actWin

theorem passBw_timeOn (n ns : Nat) (d : Dev) : (d.passBw n ns).timeOn = d.timeOn ∧ (d.passBw n ns).devNs = d.devNs := by
  unfold Dev.passBw; dsimp only; split <;> exact ⟨rfl, rfl⟩
theorem passActivation_keeps (n m : Nat) (d : Dev) :
    (d.passActivation n).timeOn = d.timeOn ∧ (d.passActivation n).devNs = d.devNs ∧ (d.passActivation n).slice m = d.slice m := by
  unfold Dev.passActivation; dsimp only; split <;> exact ⟨rfl, rfl, rfl⟩

theorem bwTo_open (o : Observe) (k : Nat) : (o.bwTo k).bwWin = k ∧ (o.bwTo k).bwUs = o.bwUs := by
  unfold Observe.bwTo; dsimp only; split <;> exact ⟨rfl, rfl⟩

theorem passBw_opens (n : Nat) (d : Dev) : (d.passBw n d.devNs).BwOpen n := by
  unfold Dev.BwOpen; rw [(passBw_timeOn n _ d).2]; unfold Dev.passBw; dsimp only
  split
  · rename_i h; exact Nat.le_of_ble_eq_true h
  · rw [Dev.slice_modObs]
    unfold Dev.bwNs
    rw [Dev.slice_modObs, (bwTo_open _ _).1, (bwTo_open _ _).2]

theorem passBw_keeps (n m : Nat) (d : Dev) (h : d.BwOpen m) : (d.passBw n d.devNs).BwOpen m := by
  by_cases q : m = n
  · subst q; exact passBw_opens m d
  · unfold Dev.BwOpen; rw [(passBw_timeOn n _ d).2]
    have e : (d.passBw n d.devNs).slice m = d.slice m := by
      unfold Dev.passBw; dsimp only; split
      · rfl
      · exact Dev.slice_modObs_other _ _ (Ne.symm q)
    simp only [Dev.bwNs, e]; exact h

theorem forEach_bw (l : List Nat) (n : Nat) (d : Dev) : (n ∈ l ∨ d.BwOpen n) → (d.forEach l fun n d => d.passBw n d.devNs).BwOpen n := by
  unfold Dev.forEach
  induction l generalizing d with
  | nil => intro h; simpa using h
  | cons a l ih =>
    intro h; rw [List.foldl_cons]; apply ih
    by_cases q : a = n
    · subst q; exact .inr (passBw_opens _ d)
    · rcases h with h | h
      · rcases List.mem_cons.1 h with h | h
        · exact absurd h.symm q
        · exact .inl h
      · exact .inr (passBw_keeps a n d h)

theorem passActivation_opens (n : Nat) (d : Dev) : (d.passActivation n).ActOpen n := by
  unfold Dev.ActOpen; rw [(passActivation_keeps n n d).2.1]; unfold Dev.passActivation; dsimp only
  split
  · rename_i h; exact Nat.le_of_ble_eq_true h
  · unfold Dev.closeActivation; rw [Dev.stack_modStack]

theorem forEach_act (l : List Nat) (n : Nat) (d : Dev) : (n ∈ l ∨ d.ActOpen n) → (d.forEach l Dev.passActivation).ActOpen n := by
  unfold Dev.forEach
  induction l generalizing d with
  | nil => intro h; simpa using h
  | cons a l ih =>
    intro h; rw [List.foldl_cons]; apply ih
    by_cases q : a = n
    · subst q; exact .inr (passActivation_opens _ d)
    · rcases h with h | h
      · rcases List.mem_cons.1 h with h | h
        · exact absurd h.symm q
        · exact .inl h
      · refine .inr ?_
        unfold Dev.ActOpen at h ⊢; rw [(passActivation_keeps a n d).2.1]
        have e : (d.passActivation a).stack n = d.stack n := by
          unfold Dev.passActivation; dsimp only; split
          · rfl
          · exact Dev.stack_modStack_other _ _ q
        rw [e]; exact h

theorem forEach_act_bw (l : List Nat) (n : Nat) (d : Dev) (h : d.BwOpen n) :
    (d.forEach l Dev.passActivation).BwOpen n := by
  unfold Dev.forEach
  induction l generalizing d with
  | nil => exact h
  | cons a l ih =>
    rw [List.foldl_cons]; apply ih
    unfold Dev.BwOpen Dev.bwNs at h ⊢; rw [(passActivation_keeps a n d).2.1, (passActivation_keeps a n d).2.2]; exact h

/-- After the windows have been passed, while the timebase runs, every open one holds the present (R13, R14). -/
theorem passWindows_open (n : Nat) (hn : n < 8) (d : Dev) (h : d.passWindows.timeOn = true) : d.passWindows.BwOpen n ∧ d.passWindows.ActOpen n := by
  have hm : n ∈ List.range 8 := List.mem_range.2 hn
  unfold Dev.passWindows at h ⊢
  by_cases q : d.timeOn = true
  · simp only [q, Bool.not_true, Bool.false_eq_true, if_false]
    exact ⟨forEach_act_bw _ _ _ (forEach_bw _ _ _ (.inl hm)), forEach_act _ _ _ (.inl hm)⟩
  · simp only [Bool.not_eq_true] at q; rw [if_pos (by simp [q])] at h; simp [q] at h

/-- Writing the stamps of sent parcels leaves slices, stacks, time, domains and the instant (R356). -/
theorem passStamps_keeps (d : Dev) : ((d.passStamps).slices, d.passStamps.mems, d.passStamps.time, d.passStamps.pwr, d.passStamps.now) = (d.slices, d.mems, d.time, d.pwr, d.now) := by
  have one : ∀ (r id : Nat) (b : Bool) (st : Nat) (e : Dev), ((e.tsRing r id b st).slices, (e.tsRing r id b st).mems, (e.tsRing r id b st).time, (e.tsRing r id b st).pwr, (e.tsRing r id b st).now) =
      (e.slices, e.mems, e.time, e.pwr, e.now) := by
    intro r id b st e; unfold Dev.tsRing; dsimp only; split <;> rfl
  unfold Dev.passStamps; dsimp only
  split
  · rfl
  · generalize List.takeWhile (fun x => decide (x.done ≤ d.now)) d.ao.tsWait = l
    have all : ∀ (m : List TsWait) (e : Dev), ((e.forEach m fun x d => d.tsRing x.ring x.id true x.stamp).slices, (e.forEach m fun x d => d.tsRing x.ring x.id true x.stamp).mems,
        (e.forEach m fun x d => d.tsRing x.ring x.id true x.stamp).time, (e.forEach m fun x d => d.tsRing x.ring x.id true x.stamp).pwr,
        (e.forEach m fun x d => d.tsRing x.ring x.id true x.stamp).now) = (e.slices, e.mems, e.time, e.pwr, e.now) := by
      intro m; unfold Dev.forEach
      induction m with
      | nil => intro e; rfl
      | cons a m ih => intro e; rw [List.foldl_cons, ih, one]
    exact all _ _

theorem passStamps_windows (n : Nat) (d : Dev) : (d.passStamps.timeOn = d.timeOn) ∧ (d.passStamps.BwOpen n = d.BwOpen n) ∧ (d.passStamps.ActOpen n = d.ActOpen n) := by
  have h := passStamps_keeps d
  simp only [Prod.mk.injEq] at h
  obtain ⟨h1, h2, h3, h4, h5⟩ := h
  simp only [Dev.timeOn, Dev.clocked, Dev.isOn, Dev.dom, Dev.BwOpen, Dev.ActOpen, Dev.devNs, Dev.devLin, Dev.frcLin, Dev.bwNs, Dev.slice, Dev.stack, h1, h2, h3, h4, and_self]

theorem begin_windows_open (t n : Nat) (hn : n < 8) (d : Dev) (h : (d.begin t).timeOn = true) : (d.begin t).BwOpen n ∧ (d.begin t).ActOpen n := by
  unfold Dev.begin Dev.reach at h ⊢
  generalize Dev.endCycles t d.ending.length d = e at h ⊢
  obtain ⟨a, b, c⟩ := passStamps_windows n (((e.advance t).perfElapse e.now).passWindows)
  rw [a] at h; rw [b, c]; exact passWindows_open n hn _ h
end Sys2Proof
end

