-- ==== Sys2Proof/Machine/ClockTree.lean ====
section
/-! DEFINITION. The 40 clock domains (R363, R364, Table 13.1): their frequency and source, and the power domains while one of which is on the
clock runs. -/

namespace Sys2Proof

inductive ClockDom
  | ao | ref | time | ctrl | pcie | vault | mgmt | trace
  | slice (n : Fin 8) | mem (n : Fin 8) | ltx (n : Fin 8) | stx (n : Fin 8)
  deriving DecidableEq, Repr

def allClocks : List ClockDom :=
  [.ao, .ref, .time, .ctrl, .pcie, .vault, .mgmt, .trace] ++ (List.finRange 8).map .slice ++ (List.finRange 8).map .mem ++
    (List.finRange 8).map .ltx ++ (List.finRange 8).map .stx

/-- The power domains that hold a clock. -/
def ClockDom.heldBy : ClockDom → List Nat
  | .ao => [0]
  | .time => [1]
  | .ctrl => [2, 3]
  | .pcie => [4]
  | .vault => [5]
  | .ref | .mgmt | .trace => [6]
  | .slice n => (List.range 6).map fun k => 7 + 6 * n.val + k
  | .mem n => [pdMem n.val]
  | .ltx n => [pdLtx (2 * n.val), pdLtx (2 * n.val + 1)]
  | .stx n => [pdStx (2 * n.val), pdStx (2 * n.val + 1)]

/-- A clock runs while a power domain that holds it does (R363). -/
def Dev.clockRuns (d : Dev) (c : ClockDom) : Bool := c.heldBy.any d.clocked

/-- What a clock is made from (Table 13.1). -/
inductive ClockSource
  | crystal | fallback | refInput (i : Nat) | crystalTimes6_25 | ref | pcieReference | recovered (lane : Nat)
  deriving DecidableEq, Repr

/-- The source of a clock now; of a line synthesiser, for one lane: the recovered clock of its tree's reference lane, REF for a lane in no
tree. -/
def Dev.clockSource (d : Dev) (lane : Nat) : ClockDom → ClockSource
  | .ao => if d.ao.fallback then .fallback else .crystal
  | .ref => if d.ao.refHoldover then .crystalTimes6_25 else .refInput d.ao.refActive
  | .pcie => .pcieReference
  | .ltx _ => ((d.treeOfLane lane).bind fun k => (d.tree k).refLane).elim .ref .recovered
  | _ => .ref

/-- The frequency in kHz; of a line synthesiser the symbol rate, of a system synthesiser that of the fastest mode of its two groups. -/
def Dev.clockKhz (d : Dev) : ClockDom → Nat
  | .ao => if d.ao.fallback then 32000 else 25000
  | .ref => 156250
  | .time | .pcie => 1000000
  | .ctrl => 2400000
  | .vault => 400000
  | .mgmt => 200000
  | .trace => 800000
  | .slice _ => 2200000
  | .mem _ => 1250000
  | .ltx _ => 106272000
  | .stx n =>
    let khz := fun (m : Nat) => if m = 0 then 106250000 else if m = 1 then 53125000 else 26562500
    ((List.range 32).filterMap fun i => (d.sysPortOfLane (32 * n.val + i)).map fun p => khz (d.sysPort p).mode).foldl max 0

end Sys2Proof
end

