-- ==== Sys2Proof/Machine/Edge.lean ====
section
/-! DEFINITION. The order in which happenings of one instant apply (R467 to R469): what a sender that keeps the manual's order puts into the
queue. step takes the commands as they come (log entry 44). -/

namespace Sys2Proof

/-- The instant that a command carries. -/
def Instr.instant : Instr → Nat
  | .registerWrite t _ _ _ => t
  | .treeConfigure t _ | .laneIdentifierReceived t _ _ | .treePair t _ | .protectionSwitchComplete t _ | .entryToLost t _
  | .sysLinkDown t _ => t
  | .sysLinkUp t _ _ _ | .cdrLock t _ | .laneTxSet t _ | .laneRxSet t _ | .dfeEngage t _ _ | .lanePrbs t _ | .checkerLock t _ _ _
  | .checkerLockLoss t _ _ _ | .laneInject t _ | .laneEyeScan t _ | .eyeScanPointDone t _ _ _ | .laneEyeAbort t _
  | .eyeScanLockTimeout t _ => t
  | .rxOpenDetected t _ _ _ | .rxOpenCleared t _ _ | .txShortDetected t _ | .txShortProbe t _ _ | .laneRxStatusWrite t _ _
  | .laneTxStatusRead t _ | .laneTxStatusWrite t _ _ | .laneStatus t _ => t
  | .blockLockGained t _ _ | .lossOfSignal t _ _ | .blockLockLoss t _ _ _ | .frameStartDecision t _ _ _ _ _ | .frameLockLoss t _
  | .listeningLockLoss t _ | .treeFrameDecision t _ _ | .nLaneRemove t _ | .nLaneReturn t _ | .laneChangeEffect t _
  | .parcelReceived t _ _ _ _ | .acceptBitBoundary t _ | .acceptRebuild t _ => t
  | .acceptWordRewrite t _ _ | .srFilterSet t _ | .srValueAccepted t _ | .wholeSecond t _ _ | .acceptRead t _ | .treeSkewRead t _ => t
  | .pitchListEntry t _ _ _ | .nPitchRev t _ _ | .linePortBurstSet t _ | .burstStart t _ _ _ | .pitchClose t _ _ _
  | .burstEnd t _ _ _ | .eqdTakesEffect t _ | .barrowAwningSet t _ | .class0BarrowArrival t _ _ _ | .pitchCommit t _ _ _ _ _
  | .transmitReadDone t _ _ _ _ _ _ | .interlockTrip t _ _ _ | .thermalTrip t _ => t
  | .thermalTripClear t | .ilStatusRead t _ | .ilStatusWrite t _ _ | .ilStatusCmd t _ | .barrowStatus t _ | .pitchRead t _ => t
  | .noticeReceived t _ _ _ | .answerStale t _ | .kexShareReady t _ _ _ | .tKexExpiry t _ | .tAssignExpiry t _ _ | .nAssign t _
  | .nRange t _ | .nEqd t _ | .nTxset t _ | .nAttest t _ | .nKexPhase0 t _ _ | .nKexPhase1 t _ | .nKexPhase2 t _ => t
  | .nAllocAdd t _ | .nAllocRemove t _ | .dormantRequest t _ | .nDormant t _ | .nProtect t _ | .nDisableTxSet t _ _
  | .nDisableTxLift t _ _ _ | .nDeregister t _ _ | .tAnnouncedExpiry t _ _ | .tRangedExpiry t _ _ | .holdoffExpiry t _ _
  | .joinStatusCmd t _ | .joinLogRead t _ => t
  | .portParseSet t _ | .tpidSet t _ | .macFilterWrite t _ | .profileWrite t _ | .rangeWrite t _ | .actionWrite t _
  | .frameDispatch t _ _ _ | .reorderRelease t _ _ _ _ _ _ | .ruleWrite t _ | .clsRead t _ => t
  | .lftWrite t _ | .addrInsert t _ | .learnRecordExpiry t _ | .learnCfgSet t _ | .agePassStart t _ | .ageScannerVisit t _ _
  | .shadowSet t _ | .shadowStart t _ | .shadowFetch t _ _ _ _ | .shadowRepair t _ | .addrDelete t _ | .addrLookup t _
  | .addrFlush t _ => t
  | .shadowStop t _ => t
  | .sysFrameReceived t _ _ _ _ | .bufCfgSet t _ | .bufferSpillUp t _ | .stallholderSet t _ | .queueSet t _ | .queueFlush t _
  | .sweepStart t _ | .orphanSweep t _ | .queueStatus t _ | .poolStatus t _ | .stallholderStatus t _ => t
  | .meterWrite t _ | .schedSet t _ | .barrowAssembly t _ _ _ | .systemPortFrameStart t _ _ | .portEgressSet t _
  | .pauseReceived t _ _ | .pfcReceived t _ _ | .pauseExpiry t _ | .lpiEntry t _ | .lpiWakeEnd t _ | .budgetFrameBoundary t _
  | .meterRead t _ | .escaleStatusCmd t _ => t
  | .c0Report t _ => t
  | .keyCtxSet t _ | .derivationComplete t _ | .epochOverlapEnd t _ _ _ | .keyCtxRead t _ | .keyCtxFind t _ | .cipherStatus t _ => t
  | .controlCopyRebuilt t _ | .memCfgSet t _ | .hbmWritePerformed t _ _ _ _ | .stackTempRead t _ _ | .activationWindowEnd t _
  | .hbmReadComplete t _ _ _ _ _ _ | .scrubStart t _ | .scrubPassEnd t _ | .scrubAbort t _ | .rankMigrate t _
  | .migrationComplete t _ | .sramWriteback t _ | .memStatusCmd t _ => t
  | .memErrorLog t _ => t
  | .aoColdStart t | .timeRate t _ | .timeSnapRead t | .timeStatusWrite t _ | .timeStep t _ | .refHoldoverUncertain t
  | .nTime t _ | .timeSourceSet t _ | .timeSourceHoldover t | .ptpTcSet t _ | .ppsCfgSet t _ | .ppsOutPulseEnd t | .todOutSend t => t
  | .ppsInEdge t _ | .timeStatusCmd t _ | .aoFallbackSwitch t | .aoCrystalRestored t | .refInputLost t _ | .refInputRestored t _ => t
  | .pcieLinkStateChange t _ | .pdWakeComplete t _ _ | .pdEntryComplete t _ | .pdEntry t _ _ | .lanePowerupComplete t _
  | .pdScheduledExit t _ | .powerPolicySet t _ | .powerEnter t _ | .pdStatusWrite t _ _ | .refusalRead t _ | .railRead t _ _ _
  | .budgetControllerRun t _ _ | .railReadTimeout t _ => t
  | .powerStatus t _ | .seqCfgSet t _ | .budgetCfgSet t _ | .budgetStatus t _ => t
  | .perstRelease t | .bootAttempt t _ | .bootWaitExpiry t | .firmwareRunning t | .firmwareStartTimeout t | .hostImgPost t _
  | .perstAssert t | .functionLevelReset t | .persistentRecordWrite t | .functionReady t _ _ | .mbDoorbell t _ _ _
  | .mbStatusWrite t _ _ | .indirectParamFetch t _ _ _ _ => t
  | .asyncCompletion t _ _ _ _ | .fwStatus t _ | .ringStop t _ | .echo t _ | .treeUnconfigure t _ | .treeUnpair t _
  | .sysPortSet t _ | .eventQueueSet t _ | .queueHostIdxWrite t _ _ | .queueOvfClear t _ _ | .ringSet t _ | .rxBufferPost t _ _ _
  | .hostRingCopy t _ _ _ => t
  | .txRingDoorbell t _ _ | .txDescriptorRead t _ _ _ | .msixSignal t _ | .boardIrqWrite t _ | .dmaStatusRead t _
  | .dmaRestart t _ | .dmaHalt t _ _ | .dmaAutoRestart t _ | .firmwareTrap t _ _ _ _ _ _ _ | .fwLoad t _ | .fwUpdate t _
  | .fwHandover t => t
  | .spdmResponseReady t _ _ | .spdmDoeRequest t _ | .doeAbort t | .jtagInstruction t _ | .jtagUnlock t _ | .vaultZeroise t _
  | .trustStatus t _ | .certRead t _ | .svnAdvance t _ => t
  | .countClear t _ | .countBlockUpdate t _ _ _ | .countWindowSet t _ | .bwCfgSet t _ | .bwWindowEnd t _ | .perfCfgSet t _
  | .perfRead t _ | .mothCfgSet t _ | .eventLogRead t _ => t
  | .avsAdjust t _ _ | .mainRailsRestored t | .railExcursion t _ | .losAsserted t _ | .losCleared t _ | .ballMismatch t _
  | .ballMismatchEnd t _ | .pitchListComplete t _ _ => t

/-- The order of what takes effect at one edge: a window's end before what falls on the boundary, which the later window has (R14), and the
commands after which the increments of the edge count (R443, R455, R456); then R469; a change of rate or offset at the edge's end (R342). -/
def Instr.edgeRank : Instr → Nat
  | .wholeSecond _ _ _ | .bwWindowEnd _ _ | .activationWindowEnd _ _ | .budgetFrameBoundary _ _ | .countClear _ _ | .perfCfgSet _ _ | .perfRead _ _ => 0
  | .thermalTrip _ _ => 1
  | .entryToLost _ _ => 2
  | .nDisableTxSet _ _ _ => 3
  | .pitchCommit _ _ _ _ _ _ => 4
  | .timeRate _ _ | .timeStep _ _ => 6
  | _ => 5

/-- What a command asks of an address bank, in the order of Table 7.7: the scanner, moves that the hardware makes, software, shadow reads. -/
def Instr.bankRank : Instr → Option Nat
  | .ageScannerVisit _ _ _ => some 0
  | .frameDispatch _ _ _ _ => some 1
  | .addrInsert _ _ | .addrDelete _ _ | .addrFlush _ _ | .shadowRepair _ _ => some 2
  | .shadowFetch _ _ _ _ _ => some 3
  | _ => none

/-- Two commands for the address banks in one SLICE cycle stand in the order of R223. -/
def bankOrder (a b : Instr) : Bool :=
  match a.bankRank, b.bankRank with
  | some x, some y => a.instant / Config.slicePeriod != b.instant / Config.slicePeriod || Nat.ble x y
  | _, _ => true

/-- Commands in the order of their instants, at one instant in that of R469, and in one cycle in that of R223. -/
def InEdgeOrder (cs : List Instr) : Prop :=
  cs.Pairwise fun a b =>
    (a.instant < b.instant ∨ (a.instant = b.instant ∧ a.edgeRank ≤ b.edgeRank)) ∧ bankOrder a b

end Sys2Proof
end

