-- ==== Sys2Proof/Machine/Flags.lean ====
section
/-! DEFINITION. The status words as the host reads them in BAR0, BAR2 and BAR4 (R393, R397 to R399, R419, R420, Tables 14.2 to 14.8, 14.14,
14.17, 14.18, 16.1 to 16.5): functions of the state, without the effect of a read, which is a command of its own. -/

namespace Sys2Proof

/-! ### PCI Express configuration space (R6) -/

/-- The identification dwords of the standard header, which place the values of Table 0.3 as PCI Express Base does (log entry 97). -/
def Dev.readConfig (d : Dev) (off : Nat) : Nat :=
  match off with
  | 0x00 => Config.deviceId.toNat * 2 ^ 16 + Config.vendorId.toNat
  | 0x04 => d.host.busMaster.toNat * 4
  | 0x08 => Config.classCode.toNat * 2 ^ 16 + Config.revisionId.toNat
  | _ => 0

/-- Dword i of the body of the vendor-specific extended capability: the part and stepping string, its first byte lowest (R6, R7, R10). -/
def Dev.readStepping (_ : Dev) (i : Nat) : Nat :=
  (List.range 4).foldl (fun a j => a + (Config.steppingString.getD (4 * i + j) 0).toNat * 2 ^ (8 * j)) 0

/-! ### BAR0 (Table 14.5) -/

/-- A readiness word (Table 14.4). -/
def Readiness.word (r : Readiness) : Nat := r.st * 2 ^ 18 + r.reason * 2 ^ 10

/-- DMA_STATUS (Table 14.18). -/
def DmaStatus.word (x : DmaStatus) : Nat := x.halted.toNat * 2 ^ 19 + x.cause * 2 ^ 16 + x.halts

/-- FAULT: firmware not running, a channel halted, or an unrecovered fault; a rail out of its range asserts it too (R419, R485). -/
def Dev.fault (d : Dev) : Bool :=
  !d.host.fw.running || d.host.fw.faultOut || (List.range 64).any d.dmaHalted || !d.pwr.railsOk

/-- BOARD_IRQ (Table 14.17). -/
def Dev.boardIrq (d : Dev) : Nat :=
  let b := fun (v : Bool) (i : Nat) => v.toNat * 2 ^ i
  b d.host.irq.vault 7 + b ((List.range 43).any fun f => !d.isReady f) 6 + b d.host.irq.tree 5 + b d.host.irq.mem 4 + b d.pwr.trip 3 +
    b d.time.uncertain 2 + b (decide (95 ≤ d.maxTemp)) 1 + b d.fault 0

/-- Dword of an MSI-X table entry. -/
def MsixEntry.dword (e : MsixEntry) (i : Nat) : Nat :=
  match i with
  | 0 => e.addr % 2 ^ 32 | 1 => e.addr / 2 ^ 32 % 2 ^ 32 | 2 => e.data.toNat | _ => e.masked.toNat

/-- A dword of BAR0; what is not assigned reads 0. -/
def Dev.readBar0 (d : Dev) (off : Nat) : Nat :=
  let b := d.host.boot
  if off < 8 then ((b.words.getD (off / 4) 0).toNat)
  else if off = 0x10 then b.imgAddrLo.toNat
  else if off = 0x14 then b.imgAddrHi.toNat
  else if off = 0x18 then b.imgLen.toNat
  else if off = 0x20 then d.boardIrq
  else if 0x100 ≤ off ∧ off < 0x100 + 4 * 43 then (d.readyRead ((off - 0x100) / 4)).word
  else if 0x200 ≤ off ∧ off < 0x300 then (d.host.dma.get {} ((off - 0x200) / 4)).word
  else if 0x7000 ≤ off ∧ off < 0x7100 then
    (List.range 32).foldl (fun a i => a + (d.host.msix.pba.get false ((off - 0x7000) / 4 * 32 + i)).toNat * 2 ^ i) 0
  else if 0x8000 ≤ off ∧ off < 0x10000 then (d.host.msix.table.get {} ((off - 0x8000) / 16)).dword (off % 16 / 4)
  else 0

/-! ### BAR2 (R399) -/

/-- MB_STATUS (Table 14.8). -/
def Mailbox.status (m : Mailbox) : Nat := m.busy.toNat * 2 ^ 19 + m.done.toNat * 2 ^ 18 + m.dbIgnored.toNat * 2 ^ 17

def Dev.readBar2 (d : Dev) (off : Nat) : Nat :=
  let m := d.mbox (off / 0x4000 % 16)
  let o := off % 0x4000
  if 0x1000 ≤ o ∧ o < 0x2000 then (m.resp.getD ((o - 0x1000) / 4) 0).toNat
  else if o = 0x2004 then m.status
  else 0

/-! ### BAR4 (Tables 14.6 and 16.3) -/

/-- Native word i of a record, 0 beyond its end. -/
def wordAt (ws : List Word) (i : Nat) : Nat := (ws.getD i 0).toNat
def natAt (ws : List Nat) (i : Nat) : Nat := ws.getD i 0 % 2 ^ 20

/-- The lane status page. -/
def Dev.lanePage (d : Dev) (off : Nat) : Nat :=
  if off < 0x2000 then
    let l := off / 16
    match off % 16 / 4 with
    | 0 => d.laneRxStatus l | 1 => d.laneTxStatus l | 2 => (d.txLane l).eq.word | _ => 0
  else if off < 0x2040 then d.ilStatus ((off - 0x2000) / 4)
  else 0

/-- TREE_LINK (Table 14.7). -/
def Dev.treeLink (d : Dev) (k : Nat) : List Nat :=
  let x := d.tree k
  let c := x.cfg
  [c.configured.toNat * 2 ^ 19 + x.fr.tfl.toNat * 2 ^ 18 + c.pair.isSome.toNat * 2 ^ 17 + (d.selected k).toNat * 2 ^ 16 + c.size * 2 ^ 11 + c.first,
   c.lockedId / 2 ^ 20, c.lockedId, x.stripe.foldl (fun a i => a + 2 ^ i) 0, (x.fr.sr.map (·.toNat)).getD 0]

/-- TREE_TIME (Table 12.4). -/
def Dev.treeTimeWords (d : Dev) (k : Nat) : List Nat :=
  let x := (d.tree k).time
  let off := unsignedOf 60 x.offset
  let asym := unsignedOf 32 x.asym
  let isSource := d.time.source == 1 && d.srcTree == k && !d.time.holdover
  [x.valid.toNat * 2 ^ 19 + isSource.toNat * 2 ^ 18 + x.leap * 2 ^ 16 + unsignedOf 16 x.utc,
   off / 2 ^ 40, off / 2 ^ 20, off, asym / 2 ^ 20, asym]

/-- The tree status page. -/
def Dev.treePage (d : Dev) (off : Nat) : Nat :=
  let k := off / 0x400
  let i := off % 0x20 / 4
  match off % 0x400 / 0x20 with
  | 0 => wordAt (d.joinStatus k) i
  | 1 => natAt (d.treeLink k) i
  | 2 => natAt (d.treeTimeWords k) i
  | _ => 0

/-- The slice status page. -/
def Dev.slicePage (d : Dev) (off : Nat) : Nat :=
  let n := off / 0x2000
  let o := off % 0x2000
  if o < 4 then (d.escaleStatus n).toNat
  else if 0x10 ≤ o ∧ o < 0x1C then wordAt (d.stack n).status ((o - 0x10) / 4)
  else 0

/-- Domain and rail second records (Tables 13.11 and 13.12). -/
def PDom.record (x : PDom) : List Nat :=
  let g := fun i => x.latched.getD i 0
  [g 0, g 1, g 2, g 3 * 1024 + g 4, g 0]
def Rail.record (x : Rail) : List Nat :=
  let g := fun i => x.latched.getD i 0
  [g 0, g 1 / 2 ^ 20, g 1, g 2, g 0]

/-- The power page. -/
def Dev.powerPage (d : Dev) (off : Nat) : Nat :=
  if off < 4 * 127 then ((d.dom (off / 4)).word).toNat
  else if 0x400 ≤ off ∧ off < 0x400 + 8 * 49 then wordAt ((d.pwr.wakes.get {} ((off - 0x400) / 8)).words) (off % 8 / 4)
  else if 0x1000 ≤ off ∧ off < 0x1000 + 32 * 127 then natAt (d.dom ((off - 0x1000) / 32)).record (off % 32 / 4)
  else if 0x3000 ≤ off ∧ off < 0x3000 + 32 * d.pwr.cfg.rails then natAt (d.pwr.railCh.get {} ((off - 0x3000) / 32)).record (off % 32 / 4)
  else 0

/-- The record of the queue index page at an offset (Table 14.14). -/
def Dev.idxAt (d : Dev) (off : Nat) : Idx :=
  if off < 0x400 then (d.rxRing (off / 16)).idx
  else if off < 0x800 then (d.txRing ((off - 0x400) / 16)).idx
  else if off < 0x1800 then (d.host.evq.get {} ((off - 0x800) / 16)).idx
  else if off < 0x1880 then (d.slice ((off - 0x1800) / 16)).tab.learnIdx
  else if off < 0x2000 then {}
  else if off < 0x3000 then (d.ao.tsqSys.get {} ((off - 0x2000) / 16)).idx
  else if off < 0x3400 then (d.ao.tsqRing.get {} ((off - 0x3000) / 16)).idx
  else if off < 0x3480 then (d.slice ((off - 0x3400) / 16)).obs.trapIdx
  else {}

def Dev.idxPage (d : Dev) (off : Nat) : Nat :=
  let x := d.idxAt off
  match off % 16 / 4 with
  | 0 => x.dev | 1 => x.host | 2 => x.ovf.toNat | _ => x.lost

/-- TIME_SNAP, FRC_SNAP and a capture (Table 12.1) of a linear time. -/
def snapWords (v : Nat) : List Nat :=
  let (s, ns, fr) := linFields v
  [s / 2 ^ 28, s / 2 ^ 8, s % 256 * 2 ^ 12 + ns / 2 ^ 20, ns, fr * 16]

/-- A time-stamp entry (Table 12.8). -/
def tsWords (e : List Nat) : List Nat :=
  let (s, ns, fr) := linFields (e.getD 2 0)
  [e.getD 0 0 % 256 * 2 ^ 12 + e.getD 1 0 * 2 ^ 10 + ns / 2 ^ 20, ns, fr * 16, s % 65536]

/-- The time page. -/
def Dev.timePage (d : Dev) (off : Nat) : Nat :=
  let i := off % 32 / 4
  if off < 0x20 then natAt (snapWords d.time.snap) i
  else if off < 0x40 then natAt (snapWords d.time.frcSnap) i
  else if off < 0x60 then wordAt d.timeStatus i
  else if 0x100 ≤ off ∧ off < 0x300 then natAt (snapWords (d.time.ppsIn.get 0 ((off - 0x100) / 32))) i
  else if 0x10000 ≤ off ∧ off < 0x50000 then
    natAt (tsWords ((d.ao.tsqSys.get {} ((off - 0x10000) / 1024)).entries.get [] (off % 1024 / 16))) (off % 16 / 4)
  else if 0x50000 ≤ off ∧ off < 0x60000 then
    natAt (tsWords ((d.ao.tsqRing.get {} ((off - 0x50000) / 1024)).entries.get [] (off % 1024 / 16))) (off % 16 / 4)
  else 0

/-- A previous-second record (Table 3.12). -/
def PmRec.words (x : PmRec) : List Nat :=
  let w := fun v => [v / 2 ^ 20, v]
  [x.second] ++ w x.pm.corr ++ w x.pm.uncorr ++ w x.pm.inv ++ w x.pm.fs ++ w x.pm.lol ++ w x.pm.skew ++ [x.second]

/-- The PM area. -/
def Dev.pmPage (d : Dev) (off : Nat) : Nat :=
  let i := off % 64 / 4
  if off < 0x4000 then natAt (d.align (off / 64)).pmRec.words i
  else if off < 0x5000 then natAt (d.tree ((off - 0x4000) / 64)).fr.pmRec.words i
  else 0

/-- A dword of a count quadword (Table 16.1). -/
def quadword (val : Nat) (invalid wrap high : Bool) : Nat :=
  if high then val / 2 ^ 32 % 2 ^ 16 + invalid.toNat * 2 ^ 31 + wrap.toNat * 2 ^ 30 else val % 2 ^ 32

def Count.dword (c : Count) (high : Bool) : Nat := quadword c.val.toNat c.invalid false high

/-- A MAC statistics block: the receive half, then the transmit half (Table 16.4). -/
def Dev.macDword (d : Dev) (rx tx : CN) (owner n o : Nat) : Nat :=
  let i := o % 0x400 / 8
  if i < n then (d.count (if o < 0x400 then rx else tx) owner i).dword (o % 8 == 4) else 0

/-- A bandwidth record (R454). -/
def BwRec.dword (x : BwRec) (windows o : Nat) : Nat :=
  let v := match o / 8 with | 0 => x.last | 1 => x.peak | 2 => x.peakWin | _ => windows
  quadword v false false (o % 8 == 4)

/-- The event log as it stands in BAR4 (R463). -/
def EvLog.dword (g : EvLog) (o : Nat) : Nat :=
  if o = 0 then g.next / 2 ^ 20
  else if o = 4 then g.next % 2 ^ 20
  else if o = 8 then g.lost
  else if 0x100 ≤ o ∧ o < 0x100 + 48 * 4096 then
    match g.entries.find? fun e => e.logSeq % 4096 == (o - 0x100) / 48 with
    | some e => natAt e.words ((o - 0x100) % 48 / 4)
    | none => 0
  else 0

/-! ### The count directory, the counter pages and the count windows (R446 to R449, R451) -/

/-- NAME of each family, in the order of the directory: as the manual writes it, or after the constructor where the manual gives a count no name
(log entry 39). -/
def countNames : List String :=
  List.flatten
  ["PITCH_MASK_IGN PITCH_EMPTY PITCH_WITHHELD LOST_DROPPED DFE_ENGAGED DFE_DISENGAGED CHK_SYMBOLS ERR_SYMBOLS ERR_BITS LOCK_LOSS SHORT_FOUND SHORT_CLEARED OPEN_FOUND".splitOn " " ++
   "OPEN_CLEARED POL_INVERTED POL_NORMAL SHUFFLE_FOUND LOOP_FOUND LOOP_CLEARED BAD_TYPE STRAY_DATA LANE_LATE LIST_BAD".splitOn " " ++
   "FC_JUMP PAR_HDR PAR_RSVD PAR_LEN PAR_NOTSEL PAR_UNACC PAR_TRUNC PAR_FEC PAR_FCS ENTRY_BAD ENTRY_UNKNOWN".splitOn " " ++
   "PITCH_MALFORMED ENTRY_DUP PITCH_SHORT PITCH_OVERLAP C0_GAP_MAX REV_UNKNOWN REV_STALE REV_LATE BAR_FULL BURSTS_SENT".splitOn " " ++
   "PITCH_SKIPPED DISPLACED REWOUND POISON_TX TX_CUT PARCELS_COMMIT BYTES_COMMITTED AWN_LONG NOTICE_BAD NOTICE_UNKNOWN".splitOn " " ++
   "NOTICE_AUTH NOTICE_STATE ASSIGN_TIMEOUT KEX_TIMEOUT ANS_STALE REMOVE_DROPPED CLS_UNMATCHED POP_MISS RW_SHORT".splitOn " " ++
   "ACT_EXCESS ACT_BAD LEN_OVER PADDED CSUM_SKIP IP4_BAD_IN RULE_HITS MF_HITS MF_DROP STEERED LFT_BAD LFT_INVALID LFT_DIR".splitOn " " ++
   "LFT_NOALLOC LFT_NOQUEUE LFN_FRAMES LFN_BYTES LEARN_LOST LEARN_DEDUP MOVED MOVE_HELD STATIC_CONFLICT AGED SHC_SKIP".splitOn " " ++
   "SHC_MORE POOL_REFUSED BUF_REFUSED FREE_INVALID FREE_DOUBLE FREE_FOREIGN ADMIT_REFUSED CELL_REFUSED Q_FULL Q_BADTOKEN".splitOn " " ++
   "Q_RESET QRESET_DROP POISON_DROP FLUSHED SWEEPS CELLS_RECLAIMED BUFS_RECLAIMED MTR_GREEN MTR_GREEN_BYTES MTR_YELLOW".splitOn " " ++
   "MTR_YELLOW_BYTES MTR_RED MTR_RED_BYTES MTR_SENT_GREEN MTR_SENT_YELLOW METER_INVALID METER_BAD FRAMES_CAPPED".splitOn " " ++
   "FRAMES_SUSPENDED EG_NOQ PAUSE_RX PFC_RX PAUSED_US LPI_ENTRIES LPI_US PAR_NOKEY PAR_REPLAY PAR_TAG KEY_MISS_TX".splitOn " " ++
   "KSW_EARLY EPOCHS_DS EPOCHS_US KEY_CTX_MISMATCH DERIVATIONS CACHE_BAD CE UE DIE_CORR POISON_READS RMW MEM_READS".splitOn " " ++
   "MEM_WRITES MEM_SLOTS NEIGHBOUR_REF THROTTLES MIGRATIONS SHRINKAGES RETIRED_BUFS SRAM_CE SRAM_UE TOD_BAD PTP_CORRECTED".splitOn " " ++
   "PTP_SKIPPED PPS_ACCEPTED PPS_IGNORED STEPS_MADE PD_REFUSED PD_ABORTED RING_FULL BAD_DESC MAC_RX MAC_TX TREE_RX TREE_TX".splitOn " " ++
   "MOTH_BUSY".splitOn " "]

/-- Four characters of a name, the first in byte 0. -/
def nameDword (i : Nat) (name : String) : Nat :=
  (List.range 4).foldl (fun a j => a + ((name.toList.getD (4 * i + j) (Char.ofNat 0)).toNat % 256) * 2 ^ (8 * j)) 0

/-- SCOPE of Table 16.2 (log entry 39 names the families whose scope the manual leaves open). -/
def CN.dirScope (c : CN) : Nat :=
  if aidCounts.contains c then 18
  else if queueCounts.contains c then 14
  else match c with
  | .ruleHits => 16
  | .mfHits => 17
  | .lfnFrames | .lfnBytes => 12
  | .mtrGreen | .mtrGreenBytes | .mtrYellow | .mtrYellowBytes | .mtrRed | .mtrRedBytes | .mtrSentGreen | .mtrSentYellow => 13
  | .poolRefused | .bufRefused | .freeInvalid | .freeDouble | .freeForeign => 8
  | .ce | .ue | .dieCorr | .poisonReads => 9
  | .neighbourRef | .throttles => 10
  | _ =>
    match c.scope with
    | .device => 0
    | .slice | .stack => if c.subs == 2 then 2 else 1
    | .tree => 3 | .lane => 4 | .sysPort => 5 | .domain => 11

/-- Dword i of a family's directory entry (Table 16.2). Where its counts stand the manual leaves to the device: Config.countOffset and
Config.countStride. -/
def CN.dirDword (c : CN) (i : Nat) : Nat :=
  match i with
  | 4 => c.inBlocks.toNat * 2 ^ 28 + c.dirScope * 2 ^ 23 + c.halfRange.toNat * 2 ^ 22
  | 5 => (Config.countOffset c.index).toNat
  | 6 => (Config.countStride c.index).toNat
  | 7 => c.instances
  | _ => nameDword i (countNames.getD c.index "")

/-- Dword o of the directory: an entry of zeros ends it. -/
def dirPage (o : Nat) : Nat :=
  match allCounts[o / 32]? with
  | some c => c.dirDword (o % 32 / 4)
  | none => 0

/-- The instance of a family whose quadword stands at offset o of the family's area. -/
def CN.instanceAt (c : CN) (o : Nat) : Option Nat :=
  let base := (Config.countOffset c.index).toNat
  let step := (Config.countStride c.index).toNat
  let i := (o - base) / step
  if Nat.ble base o && Nat.blt i c.instances && Nat.blt ((o - base) % step) 8 then some i else none

/-- Instance i of a family, of slice n where it stands in count blocks; an instance per AID is that of the key context's binding. -/
def Dev.countAt (d : Dev) (n : Nat) (c : CN) (i : Nat) : Count :=
  if aidCounts.contains c then
    let x := d.keyCtx n i
    if x.bound then d.count c x.tree x.aid.toNat else {}
  else if c.inBlocks then d.count c n i
  else if c.checker then { val := BitVec.ofNat 48 ((d.rxLane i).checkerCount c) }
  else
    let x := d.count c (i / c.subs) (i % c.subs)
    { x with val := x.val + BitVec.ofNat 48 (d.stillRunning c (i / c.subs) (i % c.subs)) }

/-- A dword of the counter pages, or of slice n's count blocks with what is still pending (R446). -/
def Dev.countDword (d : Dev) (blocks : Bool) (n o : Nat) : Nat :=
  match (allCounts.filter fun c => c.inBlocks == blocks).findSome? fun c => (c.instanceAt o).map fun i => (c, i) with
  | some (c, i) => (d.countAt n c i).dword (o / 4 % 2 == 1)
  | none => 0

/-- A dword of BAR4. -/
def Dev.readBar4 (g : EvLog) (d : Dev) (off : Nat) : Nat :=
  if off < 0x10000 then (d.lanePage off)
  else if off < 0x20000 then (d.treePage (off - 0x10000))
  else if off < 0x30000 then (d.slicePage (off - 0x20000))
  else if off < 0x40000 then (d.powerPage (off - 0x30000))
  else if off < 0x50000 then (d.idxPage (off - 0x40000))
  else if off < 0x80000 then 0
  else if off < 0x100000 then (d.timePage (off - 0x80000))
  else if off < 0x300000 then
    let o := off - 0x100000
    (wordAt ((d.slice (o / 0x40000)).tab.learnQ.get [] (o % 0x40000 / 48)) (o % 0x40000 % 48 / 4))
  else if off < 0x310000 then (d.pmPage (off - 0x300000))
  else if off < 0x400000 then 0
  else if off < 0x480000 then (d.macDword .macRx .macTx ((off - 0x400000) / 0x800) 26 (off % 0x800))
  else if off < 0x4A0000 then (d.macDword .treeRx .treeTx ((off - 0x480000) / 0x800) 16 (off % 0x800))
  else if off < 0x4B0000 then
    let o := off - 0x4A0000
    (if o < 0x8000 ∧ o % 0x1000 < 32 * 80 then ((d.slice (o / 0x1000)).obs.bw.get {} (o % 0x1000 / 32)).dword (d.slice (o / 0x1000)).obs.bwWins (o % 32) else 0)
  else if off < 0x4C0000 then
    let o := off - 0x4B0000
    let p := (d.slice (o / 0x100)).obs.perf.get {} (o % 0x100 / 8)
    (if o < 0x800 ∧ o % 0x100 < 0x80 then quadword p.val false p.wrap (o % 8 == 4) else 0)
  else if off < 0x500000 then (g.dword (off - 0x4C0000))
  else if off < 0x580000 then
    let o := off - 0x500000
    (wordAt ((d.slice (o / 0x10000)).obs.trapQ.get [] (o % 0x10000 / 64)) (o % 64 / 4))
  else if off < 0x590000 then (dirPage (off - 0x580000))
  else if off < 0x600000 then 0
  else if off < 0xA00000 then (d.countDword false 0 (off - 0x600000))
  else if off < 0x2A00000 then
    let o := off - 0xA00000
    (d.countDword true (o / 0x400000) ((d.slice (o / 0x400000)).obs.window + o % 0x400000))
  else 0

end Sys2Proof
end

