-- ==== Sys2Proof/Machine/Package.lean ====
section
/-! DEFINITION. The balls of the package (R475 to R478, Tables 18.2 to 18.4) and the operating ranges of the rails (R479, Table 18.5): where
each signal that a command or an output names stands, and what a rail excursion is measured against. -/

namespace Sys2Proof

/-- The ball at a depth and a place along the band of a lane chiplet, as row and column (R475). -/
def bandBall (chiplet depth along : Nat) : Nat × Nat :=
  match chiplet with
  | 0 => (depth, along)
  | 1 => (along, depth)
  | 2 => (103 - depth, along)
  | _ => (along, 103 - depth)

/-- The signals with a ball of their own; neg is the negative leg of a pair (Tables 18.2 and 18.3). -/
inductive Signal
  | lineTx (l : Fin 256) (neg : Bool)
  | lineRx (l : Fin 256) (neg : Bool)
  | sysTx (l : Fin 256) (neg : Bool)
  | sysRx (l : Fin 256) (neg : Bool)
  | burstEnable (b : Fin 64)
  | los (p : Fin 16)
  | bus (p : Fin 16) (wire : Fin 4)        -- host SCL, host SDA, engine SCL, engine SDA
  | pcie (k : Fin 8) (wire : Fin 4)        -- PETP, PETN, PERP, PERN
  | refclk (neg : Bool)
  | perst
  | refIn (i : Fin 2) (neg : Bool)
  | aoClk
  | ppsIn
  | ppsOut
  | todOut
  | xspi (wire : Fin 12)                   -- CLK, CS#, DQS, RESET#, DQ0 to DQ7
  | pmbus (wire : Fin 3)                   -- SCL, SDA, ALERT#
  | jtag (wire : Fin 5)                    -- TCK, TMS, TDI, TDO, TRST#
  | gpio (i : Fin 8)
  | boardIrq (i : Fin 8)
  | diode (east cathode : Bool)
  | sense (code : Fin 20) (neg : Bool)     -- rail code + 1
  deriving DecidableEq, Repr

/-- The ball of a lane's leg at a depth of its band (R476). -/
def laneBall (l depth : Nat) (neg : Bool) : Nat × Nat := bandBall (l / 64) (depth + neg.toNat) (20 + l % 64)

/-- Row and column of a signal's ball (R476, R477). -/
def Signal.ball : Signal → Nat × Nat
  | .lineTx l neg => laneBall l.val 4 neg
  | .lineRx l neg => laneBall l.val 7 neg
  | .sysTx l neg => laneBall l.val 11 neg
  | .sysRx l neg => laneBall l.val 14 neg
  | .burstEnable b => bandBall (b.val / 16) 18 (21 + 4 * (b.val % 16))
  | .los p => bandBall (p.val / 4) 18 (23 + 16 * (p.val % 4))
  | .bus p wire => bandBall (p.val / 4) 19 (21 + 2 * wire.val + 16 * (p.val % 4))
  | .pcie k wire => ([3, 4, 6, 7].getD wire.val 0, 3 + 2 * k.val)
  | .refclk neg => (9, 3 + neg.toNat)
  | .perst => (9, 6)
  | .refIn i neg => (11, 3 + 3 * i.val + neg.toNat)
  | .aoClk => (13, 3)
  | .ppsIn => (13, 5)
  | .ppsOut => (13, 7)
  | .todOut => (13, 9)
  | .xspi wire => (15, 3 + wire.val)
  | .pmbus wire => (17, 3 + wire.val)
  | .jtag wire => (17, 7 + wire.val)
  | .gpio i => (18, 3 + i.val)
  | .boardIrq i => (19, 3 + i.val)
  | .diode east cathode => (19, 12 + 3 * east.toNat + cathode.toNat)
  | .sense code neg => (3 + code.val % 10, 90 + 4 * (code.val / 10) + neg.toNat)

/-- The rail code of an unnamed ball, 0 for ground (R478, Table 18.4). -/
def supplyBall (row col : Nat) : Nat :=
  let parity := fun rail => if (row + col) % 2 = 0 then 0 else rail
  let band := fun (chiplet depth : Nat) =>
    if depth ≤ 3 ∨ depth = 17 then 4 + chiplet else if depth = 18 ∨ depth = 19 then 8 + chiplet else 0
  let north := decide (row < 20)
  let south := decide (84 ≤ row)
  let west := decide (col < 20)
  let east := decide (84 ≤ col)
  if (north || south) && (west || east) then
    parity (if south then 16 else if west then (if row ≤ 9 then 18 else 17) else if row ≤ 9 then 19 else 20)
  else if north then band 0 row
  else if south then band 2 (103 - row)
  else if west then band 1 col
  else if east then band 3 (103 - col)
  else if col ≤ 27 ∨ 76 ≤ col then parity ((if row ≤ 51 then 12 else 14) + (decide (76 ≤ col)).toNat)
  else if row ≤ 27 ∨ 76 ≤ row then parity 3
  else parity (if col ≤ 51 then 1 else 2)

/-- The operating range of a rail in steps of 0.1 mV, avs the core rail's target in mV (Table 18.5); none for a reserved code and for the HBM rails,
whose range is that of JEDEC HBM4. -/
def railRange (code avs : Nat) : Option (Nat × Nat) :=
  match code with
  | 1 | 2 => some (10 * avs - 150, 10 * avs + 150)
  | 3 | 4 | 5 | 6 | 7 | 18 => some (7275, 7725)
  | 8 | 9 | 10 | 11 => some (11640, 12360)
  | 17 | 20 => some (17100, 18900)
  | 19 => some (7760, 8240)
  | _ => none

/-! ### The burst-enable balls (R488) and the management buses (R491) -/

/-- The level of burst-enable ball b, true for high: none, high impedance, while VDDIO is absent; low while its line-port TX domain is not on,
and under EXTEST. -/
def Dev.burstEnable (d : Dev) (b : Nat) : Option Bool :=
  if d.pwr.vddio then some (d.outputOn b && (d.dom (pdLtx (b / 4))).st == 0 && d.tapNow != .extest) else none


/-- The levels, true for high, of a wire's host segment and engine segment, by whether a device on each pulls it low: the repeater joins the
segments while VDDIO is in range, and releases both otherwise. The block itself pulls neither. -/
def Dev.busLevels (d : Dev) (hostPulls enginePulls : Bool) : Bool × Bool :=
  if d.pwr.vddio then (!(hostPulls || enginePulls), !(hostPulls || enginePulls)) else (!hostPulls, !enginePulls)


end Sys2Proof
end

