-- ==== Sys2Proof/WellFormed.lean ====
section
/-! DEFINITION. Well-formed commands: what an operand of a wide type must satisfy to be something that the outside world can present.
exec is total and does not ask for it. -/

namespace Sys2Proof

/-- A mailbox command: at most 65,536 parameter dwords (R403). -/
def Req.wf (rq : Req) : Bool := Nat.ble rq.params.length 65536

/-- The address of a 32-byte word inside the 36 GiB of a stack (R309). -/
def onHbm (addr : Nat) : Bool := Nat.blt addr 0x900000000 && addr % 32 == 0

/-- The slot of an access seen at instant t: it lies not later, and what had arrived at its channel arrived not later than it (R315). -/
def MemSlot.wf (t : Nat) (s : MemSlot) : Bool := Nat.ble s.at_ t && s.arrived.all fun a => onHbm a.addr && Nat.ble a.at_ s.at_

/-- A register or queue offset is a dword's; an HBM address is a word's; there are 48 sensors (R384); a frame has bytes; a host address
has 64 bits. -/
def Instr.wf : Instr → Bool
  | .registerWrite _ _ off _ => off % 4 == 0
  | .treeConfigure _ rq | .treePair _ rq => rq.wf
  | .laneIdentifierReceived _ _ _ | .entryToLost _ _ | .protectionSwitchComplete _ _ | .sysLinkDown _ _ => true
  | .laneTxSet _ rq | .laneRxSet _ rq | .lanePrbs _ rq | .laneInject _ rq | .laneEyeScan _ rq | .laneEyeAbort _ rq
  | .laneStatus _ rq => rq.wf
  | .laneRxStatusWrite _ _ _ | .laneTxStatusRead _ _ | .laneTxStatusWrite _ _ _ | .cdrLock _ _ | .rxOpenDetected _ _ _ _
  | .rxOpenCleared _ _ _ | .txShortDetected _ _ | .txShortProbe _ _ _ | .dfeEngage _ _ _ | .eyeScanPointDone _ _ _ _
  | .eyeScanLockTimeout _ _ | .sysLinkUp _ _ _ _ | .checkerLock _ _ _ _ => true
  | .checkerLockLoss _ _ _ _ => true
  | .acceptRead _ rq | .acceptRebuild _ rq | .srFilterSet _ rq | .treeSkewRead _ rq => rq.wf
  | .lossOfSignal _ _ _ | .blockLockGained _ _ _ | .blockLockLoss _ _ _ _ | .frameStartDecision _ _ _ _ _ _ | .frameLockLoss _ _
  | .treeFrameDecision _ _ _ | .listeningLockLoss _ _ | .srValueAccepted _ _ | .parcelReceived _ _ _ _ _ | .nLaneRemove _ _
  | .nLaneReturn _ _ | .laneChangeEffect _ _ | .acceptBitBoundary _ _ => true
  | .acceptWordRewrite _ _ _ | .wholeSecond _ _ _ => true
  | .thermalTrip _ temps => temps.length == 48
  | .linePortBurstSet _ rq | .barrowAwningSet _ rq | .barrowStatus _ rq | .pitchRead _ rq | .ilStatusCmd _ rq => rq.wf
  | .ilStatusRead _ _ | .ilStatusWrite _ _ _ | .pitchListEntry _ _ _ _ | .nPitchRev _ _ _ | .eqdTakesEffect _ _
  | .class0BarrowArrival _ _ _ _ | .pitchCommit _ _ _ _ _ _ | .burstStart _ _ _ _ | .transmitReadDone _ _ _ _ _ _ _
  | .pitchClose _ _ _ _ | .interlockTrip _ _ _ _ | .thermalTripClear _ | .burstEnd _ _ _ _ => true
  | .joinStatusCmd _ rq | .dormantRequest _ rq | .joinLogRead _ rq => rq.wf
  | .noticeReceived _ _ _ _ | .nAssign _ _ | .nRange _ _ | .nEqd _ _ | .nTxset _ _ | .nKexPhase0 _ _ _ | .nKexPhase1 _ _
  | .nKexPhase2 _ _ | .nAttest _ _ | .nAllocAdd _ _ | .nAllocRemove _ _ | .nProtect _ _ | .nDisableTxSet _ _ _ => true
  | .nDisableTxLift _ _ _ _ | .nDeregister _ _ _ | .nDormant _ _ | .kexShareReady _ _ _ _ | .tAssignExpiry _ _ _
  | .tAnnouncedExpiry _ _ _ | .tRangedExpiry _ _ _ | .tKexExpiry _ _ | .holdoffExpiry _ _ _ | .answerStale _ _ => true
  | .portParseSet _ rq | .tpidSet _ rq | .macFilterWrite _ rq | .profileWrite _ rq | .rangeWrite _ rq | .actionWrite _ rq
  | .ruleWrite _ rq | .clsRead _ rq => rq.wf
  | .frameDispatch _ _ _ _ | .reorderRelease _ _ _ _ _ _ _ => true
  | .lftWrite _ rq | .addrInsert _ rq | .addrDelete _ rq | .addrLookup _ rq | .addrFlush _ rq | .learnCfgSet _ rq
  | .shadowSet _ rq | .shadowStart _ rq | .shadowStop _ rq | .shadowRepair _ rq => rq.wf
  | .agePassStart _ _ | .ageScannerVisit _ _ _ | .learnRecordExpiry _ _ | .shadowFetch _ _ _ _ _ => true
  | .sysFrameReceived _ _ frame _ _ => !frame.isEmpty
  | .bufCfgSet _ rq | .stallholderSet _ rq | .queueSet _ rq | .queueStatus _ rq | .queueFlush _ rq | .poolStatus _ rq
  | .stallholderStatus _ rq | .sweepStart _ rq => rq.wf
  | .bufferSpillUp _ _ | .orphanSweep _ _ => true
  | .pauseReceived _ _ frame => !frame.isEmpty
  | .pfcReceived _ _ frame => !frame.isEmpty
  | .budgetFrameBoundary _ temps => temps.length == 48
  | .meterWrite _ rq | .meterRead _ rq | .schedSet _ rq | .portEgressSet _ rq | .escaleStatusCmd _ rq | .c0Report _ rq => rq.wf
  | .pauseExpiry _ _ | .barrowAssembly _ _ _ _ | .systemPortFrameStart _ _ _ | .lpiEntry _ _ | .lpiWakeEnd _ _ => true
  | .keyCtxSet _ rq | .keyCtxRead _ rq | .keyCtxFind _ rq | .cipherStatus _ rq => rq.wf
  | .epochOverlapEnd _ _ _ _ | .derivationComplete _ _ => true
  | .hbmReadComplete t _ addr _ _ _ slot => onHbm addr && slot.wf t
  | .hbmWritePerformed t _ _ addr slot => onHbm addr && slot.wf t
  | .memCfgSet _ rq | .memStatusCmd _ rq | .scrubStart _ rq | .scrubAbort _ rq | .rankMigrate _ rq | .memErrorLog _ rq => rq.wf
  | .activationWindowEnd _ _ | .stackTempRead _ _ _ | .scrubPassEnd _ _ | .migrationComplete _ _ | .controlCopyRebuilt _ _
  | .sramWriteback _ _ => true
  | .timeSourceSet _ rq | .timeRate _ rq | .timeStep _ rq | .timeStatusCmd _ rq | .ppsCfgSet _ rq | .ptpTcSet _ rq => rq.wf
  | .aoColdStart _ | .timeSnapRead _ | .timeStatusWrite _ _ | .nTime _ _ | .todOutSend _ | .ppsInEdge _ _ | .timeSourceHoldover _
  | .refInputLost _ _ | .refHoldoverUncertain _ | .refInputRestored _ _ | .aoFallbackSwitch _ | .aoCrystalRestored _
  | .ppsOutPulseEnd _ => true
  | .powerPolicySet _ rq | .powerEnter _ rq | .powerStatus _ rq | .refusalRead _ rq | .seqCfgSet _ rq | .budgetCfgSet _ rq
  | .budgetStatus _ rq => rq.wf
  | .pcieLinkStateChange _ _ | .pdStatusWrite _ _ _ | .budgetControllerRun _ _ _ | .railRead _ _ _ _ | .railReadTimeout _ _
  | .pdEntry _ _ _ | .pdEntryComplete _ _ | .pdWakeComplete _ _ _ | .pdScheduledExit _ _ | .lanePowerupComplete _ _ => true
  | .indirectParamFetch _ _ _ params _ => Nat.ble params.length 65536
  | .rxBufferPost _ _ idx addrs => Nat.blt idx (2 ^ 32) && (addrs.all fun a => Nat.blt a (2 ^ 64))
  | .txRingDoorbell _ _ idx => Nat.blt idx (2 ^ 32)
  | .queueHostIdxWrite _ off _ => off % 4 == 0
  | .queueOvfClear _ off _ => off % 4 == 0
  | .treeUnconfigure _ rq | .treeUnpair _ rq | .sysPortSet _ rq | .fwStatus _ rq | .fwLoad _ rq | .fwUpdate _ rq
  | .eventQueueSet _ rq | .ringSet _ rq | .ringStop _ rq | .dmaRestart _ rq | .echo _ rq => rq.wf
  | .perstRelease _ | .bootAttempt _ _ | .bootWaitExpiry _ | .firmwareRunning _ | .firmwareStartTimeout _ | .functionReady _ _ _
  | .perstAssert _ | .functionLevelReset _ | .hostImgPost _ _ | .mbDoorbell _ _ _ _ | .asyncCompletion _ _ _ _ _
  | .mbStatusWrite _ _ _ | .boardIrqWrite _ _ => true
  | .dmaStatusRead _ _ | .msixSignal _ _ | .txDescriptorRead _ _ _ _ | .hostRingCopy _ _ _ _ | .persistentRecordWrite _
  | .firmwareTrap _ _ _ _ _ _ _ _ | .fwHandover _ | .dmaHalt _ _ _ | .dmaAutoRestart _ _ => true
  | .jtagUnlock _ token => Nat.blt token.digest (2 ^ 384)
  | .trustStatus _ rq | .certRead _ rq | .svnAdvance _ rq | .vaultZeroise _ rq => rq.wf
  | .spdmResponseReady _ _ _ | .spdmDoeRequest _ _ | .doeAbort _ | .jtagInstruction _ _ => true
  | .countWindowSet _ rq | .countClear _ rq | .bwCfgSet _ rq | .perfCfgSet _ rq | .perfRead _ rq | .mothCfgSet _ rq
  | .eventLogRead _ rq => rq.wf
  | .bwWindowEnd _ _ | .countBlockUpdate _ _ _ _ => true
  | .railExcursion _ _ | .mainRailsRestored _ | .losAsserted _ _ | .losCleared _ _ | .pitchListComplete _ _ _ | .ballMismatch _ _
  | .ballMismatchEnd _ _ | .avsAdjust _ _ _ => true

end Sys2Proof
end

