-- ==== Sys2Proof/Tests/Slice0.lean ====
section
/-! SUPPORT. The model's own tests: ill-formed commands, values of the manual's worked examples, and for each statement with hypotheses a
state and operands that meet them. -/

namespace Sys2Proof.Tests
open Sys2Proof Sys2Proof.Machine

set_option Elab.async false
set_option maxRecDepth 8000
set_option synthInstance.maxHeartbeats 400000
set_option synthInstance.maxSize 2000
set_option linter.unusedVariables false

/-- A block whose firmware runs and whose functions are all ready. -/
def wit (f : Dev → Dev) : State :=
  { dev := f { (State.reset.dev) with
      host := { State.reset.dev.host with
        perst := false, ready := (List.range 43).map fun f => (f, { st := 1, reason := 0 }), fw := { State.reset.dev.host.fw with running := true } } } }
def ask (ps : List Nat) : Req := { mb := 0, tag := 7, params := ps.map (BitVec.ofNat 32) }
/-- A codeword whose frame start passes: pattern, version 1, FRAME_COUNT 0, idle blocks, OH_CRC. -/
def goodFrame : List RxBlock :=
  let b : List RxBlock := { ctl := true, pl := 0x4BD359A6C21EB74F0000000001000000 } :: List.replicate 38 { ctl := true, pl := 0 }
  b ++ [{ ctl := true, pl := put 128 120 0x69#8 ||| (ohCrc b).setWidth 128 }]
/-- The header of a Pitch List with one entry, of the frame after next of frame 0. -/
def listHdr : RxBlock :=
  let b : BitVec 96 := put 96 88 0x3C#8 ||| put 96 75 1#13 ||| put 96 60 2#2
  { ctl := true, pl := put 128 32 b ||| put 128 0 (crc32 (bitsMsb b)) }
/-- A parcel header of an AID and a LENGTH, class 0. -/
def parHdr (aid len : Nat) : RxBlock :=
  { ctl := true, pl := withChk (put 128 120 0x78#8 ||| put 128 100 (BitVec.ofNat 20 aid) ||| put 128 86 (BitVec.ofNat 14 len)) }
/-- The header of a list with no entries and as many notice blocks. -/
def noteHdr (m : Nat) : RxBlock :=
  let b : BitVec 96 := put 96 88 0x3C#8 ||| put 96 60 2#2 ||| put 96 62 (BitVec.ofNat 13 m)
  { ctl := true, pl := put 128 32 b ||| put 128 0 (crc32 (bitsMsb b)) }
/-- A notice of a type, AUTH as given, with an ADDR, PARAM and body blocks, alone in the stream of a list; TCHK right where good. -/
def noteIn (ty addr : Nat) (auth good : Bool) (param : Nat := 0) (body : List Block := []) : NoticeIn :=
  let h : Block := withChk (put 128 120 (BitVec.ofNat 8 ty) ||| put 128 118 (BitVec.ofNat 2 addr) ||| put 128 98 (BitVec.ofNat 10 body.length) |||
    (if auth then put 128 97 1#1 else 0) ||| put 128 64 (BitVec.ofNat 32 param))
  let sum : Block := put 128 0 (crc32Blocks (h :: body))
  { src := .list (noteHdr (2 + body.length)), hdr := { ctl := false, pl := h },
    rest := body.map (fun b => { ctl := false, pl := b }) ++ [{ ctl := false, pl := if good then sum else ~~~ sum }] }
/-- An image whose header, signature and version are right. -/
def goodImage : FwImage :=
  { image := [1], blob := [2], digest := (sha384 [1, 2]).toNat, svn := 3, signer := 0, signed := ((sha384 [1, 2]).toNat, 3) }
theorem goodImage_verifies (f : Fuses) (h : f.vendorKey = 0) (hs : f.minSvn ≤ 3) : goodImage.verify f = 1 := by
  simp [FwImage.verify, goodImage, h, hs]
/-- The same notice with AUTH = 1 and, in its trailer, its tag under a key of zeros. -/
def noteTag (ty addr : Nat) (param : Nat := 0) : NoticeIn :=
  let n := noteIn ty addr true true param
  { n with rest := [{ ctl := false, pl := noticeTag {} 0 0 n.hdr.pl [] 0 }] }

/-! Well-formed commands: one that each check refuses. -/

theorem test_wf_refuses_params : (Instr.treeConfigure 0 { mb := 0, tag := 0, params := List.replicate 65537 0 }).wf = false ∧
    (Instr.indirectParamFetch 0 0 true (List.replicate 65537 0) []).wf = false ∧ (Instr.treeConfigure 0 (ask [21, 88, 4, 0, 0])).wf = true := by
  decide +kernel
theorem test_wf_refuses_indices : (Instr.rxBufferPost 0 0 (2 ^ 32) []).wf = false ∧ (Instr.rxBufferPost 0 0 0 [2 ^ 64]).wf = false ∧
    (Instr.txRingDoorbell 0 0 (2 ^ 32)).wf = false ∧ (Instr.rxBufferPost 0 0 1 [4096]).wf = true := by decide +kernel
theorem test_wf_refuses_offsets : (Instr.queueHostIdxWrite 0 2 0).wf = false ∧ (Instr.queueOvfClear 0 3 0).wf = false ∧
    (Instr.registerWrite 0 0 1 0).wf = false ∧ (Instr.registerWrite 0 0 4 0).wf = true := by decide +kernel
theorem test_wf_refuses_empty_frames : (Instr.sysFrameReceived 0 0 [] 0 []).wf = false ∧ (Instr.pauseReceived 0 0 []).wf = false ∧
    (Instr.pfcReceived 0 0 []).wf = false := by decide +kernel
theorem test_wf_refuses_sensors : (Instr.budgetFrameBoundary 0 [40]).wf = false ∧ (Instr.thermalTrip 0 []).wf = false ∧
    (Instr.budgetFrameBoundary 0 (List.replicate 48 40)).wf = true := by decide +kernel
theorem test_wf_refuses_addresses :
    let slot : MemSlot := { at_ := 0, arrived := [] }
    (Instr.hbmReadComplete 0 0 0x900000000 {} .scrub false slot).wf = false ∧ (Instr.hbmReadComplete 0 0 16 {} .scrub false slot).wf = false ∧
    (Instr.hbmWritePerformed 0 0 0 0x900000000 slot).wf = false ∧ (Instr.hbmWritePerformed 0 0 0 8 slot).wf = false ∧
    (Instr.hbmReadComplete 0 0 0x8FFFFFFE0 {} .scrub false slot).wf = true := by decide +kernel
theorem test_wf_refuses_late_slots :
    (Instr.hbmReadComplete 5 0 0 {} .scrub false { at_ := 6, arrived := [] }).wf = false ∧
    (Instr.hbmReadComplete 5 0 0 {} .scrub false { at_ := 5, arrived := [{ at_ := 6, port := 0, write := false, mig := false, addr := 0 }] }).wf = false := by
  decide +kernel
theorem test_wf_refuses_tokens : (Instr.jtagUnlock 0 { digest := 2 ^ 384, signer := 0, serial := 0, nonce := 0 }).wf = false ∧
    (Instr.jtagUnlock 0 { digest := 5, signer := 0, serial := 0, nonce := 0 }).wf = true := by decide +kernel

/-! The table gives no row any bits. -/

theorem test_no_word_is_a_command (nbits w : Nat) : decodeTableWord nbits w = none := rfl
theorem test_no_word_is_queued (s : State) (nbits w : Nat) : s.withFetchWord nbits w = s := rfl

/-! Values of the manual's worked examples. -/

/-- The worked example of `tree_configure` in 14_control_mailbox.md: TREE_LINK of tree 21 then reads CONFIGURED, GROUP_SIZE 4, FIRST_LANE 88,
and the response is code OK with no results. -/
theorem test_tree_configure_21 :
    (match exec (.treeConfigure 0 (ask [0x15, 0x58, 4, 0x5A1, 0x70C21])) (wit id) with
     | .next t => decide ((t.dev.tree 21).cfg.configured = true ∧ (t.dev.tree 21).cfg.expId = 0x5A170C21 ∧
         ((t.dev.treeLink 21).getD 0 0) / 2 ^ 19 = 1 ∧ ((t.dev.treeLink 21).getD 0 0) % 2 ^ 16 = 4 * 2 ^ 11 + 88 ∧ (t.dev.mbox 0).resp.take 4 = [0x110#32, 7#32, 0#32, 0#32])
     | _ => false) = true := by decide +kernel
/-- The group size 3 is out of range (R19): code 0x03 with parameter 2 as detail, and the slot stays as it was. -/
theorem test_tree_configure_bad_size :
    (match exec (.treeConfigure 0 (ask [0x15, 0x58, 3, 0x5A1, 0x70C21])) (wit id) with
     | .next t => decide ((t.dev.tree 21).cfg.configured = false ∧ (t.dev.mbox 0).resp.getD 2 0 ≠ 0#32)
     | _ => false) = true := by decide +kernel
/-- 04_upstream_bursts.md, a Pitch revised: T_on 200 ns is 21,255 UI, H = 22,535 UI, C = 27 for L = 40, R = 8,312 blocks on 8 lanes; C = 17 for
L = 30; a Pitch of L = 20 on one lane has C = 7 and R = 239. -/
theorem test_pitch_region : cdiv (200 * 106272) 1000 = 21255 ∧ headUi 21255 1024 = 22535 ∧ dataCw 40 22535 10628 = 27 ∧
    regionBlocks 8 27 = 8312 ∧ dataCw 30 22535 10628 = 17 ∧ dataCw 20 22535 10628 = 7 ∧ regionBlocks 1 7 = 239 ∧ regionBlocks 8 47 = 14712 := by
  decide +kernel
/-- The parcels of that example: 1,500 bytes take 96 blocks, 256 bytes 18. -/
theorem test_parcel_blocks : parcelBlocks 1500 = 96 ∧ parcelBlocks 256 = 18 ∧ parcelBlocks 64 = 6 := by decide +kernel
/-- 06_classification.md: a TOS of 0xB8 changes the IPv4 checksum 0xB1E6 into 0xB12E. -/
theorem test_checksum_update : csumStep 0xB1E6 0x4500 0x45B8 = 0xB12E := by decide +kernel
/-- 10_cipher.md: with TOP at 131,056, SEQ 3 is packet 131,075. -/
theorem test_packet_number : rebuildPn 131056 3 = 131075 := by decide +kernel
/-- 09_scheduling.md: at E_NUM 40 quanta of 1,000 and 250 earn 40,000 and 10,000 bytes; a queue with 9,000 bytes spent of 10,000 then has 11,000. -/
theorem test_refill :
    (({ cfg := { valid := true, kind := 0, cls := 3 }, quantum := 1000 } : Queue).refill 40).earned = 40000 ∧
    (({ cfg := { valid := true, kind := 0, cls := 3 }, quantum := 250 } : Queue).refill 40).earned = 10000 := by decide +kernel
theorem test_refill_again :
    (({ cfg := { valid := true, kind := 0, cls := 3 }, quantum := 250, earned := 10000, spent := 9000 } : Queue).refill 40).credit = 11000 := by
  decide +kernel
/-- R276: E_CAP is 64 below 95 degrees, 51 at 98, 0 from 110. -/
theorem test_e_cap : eCapOf 94 = 64 ∧ eCapOf 98 = 51 ∧ eCapOf 109 = 4 ∧ eCapOf 110 = 0 := by decide +kernel
/-- 16_observability.md: the stage offsets 37,000, 43,881 and 45,329 ns of the displaced parcel. -/
theorem test_trap_offsets : trapOffset 37000 = 0x09088 ∧ trapOffset 43881 = 0x0AB69 ∧ trapOffset 45329 = 0x0B111 := by decide +kernel
/-- 08_buffers_queues.md, the last shared buffer of pool 0: granted, refused, granted, refused. -/
theorem test_last_shared_buffer : decide239 true true 748575 100000 800000 648575 648576 0 false = true ∧
    decide239 true true 100000 100000 300000 648576 648576 0 false = false ∧
    decide239 true true 150000 200000 600000 648576 648576 0 false = true ∧
    decide239 true true 0 0 1000 648576 648576 0 false = false := by decide +kernel
/-- 02_serial_lanes.md: the full grid of the middle eye has 8,192 points. -/
theorem test_eye_grid : ({ mask := 2, vLo := 0, vHi := 63, pLo := 0, pHi := 127, job := { mb := 0, tag := 0, opcode := 0 } } : EyeScan).points = 8192 := by
  decide +kernel
/-- `echo` returns the dwords of its list (R402), and a count of 17 is out of range. -/
theorem test_echo :
    (match exec (.echo 0 (ask [2, 0x11, 0x22])) (wit id) with
     | .next t => decide ((t.dev.mbox 0).resp = [0xE17#32, 7#32, 3#32, 0#32, 2#32, 0x11#32, 0x22#32])
     | _ => false) = true := by decide +kernel
/-- An idle step changes nothing. -/
theorem test_idle (s : State) (h : s.pending = []) : step s = .next s := by simp [step, h]

/-! Witnesses of the statements about functions: values that meet the hypotheses, at the bounds of their ranges. -/

theorem witness_InvariantHoldsAtReset : State.reset.dev.evPend = [] ∧ State.reset.log.entries = [] := by decide +kernel
/-- A state that keeps the invariant and whose step answers a next state: the reset state, with nothing waiting. -/
theorem witness_StepKeepsTheInvariant : State.reset.Inv ∧ step State.reset = .next State.reset := by
  refine ⟨⟨⟨by decide, by decide, by decide, by decide, ?_⟩, rfl⟩, rfl⟩
  intro i e h
  exact absurd h (by simp [State.reset])
theorem witness_MailboxRowsRunTheirOpcodes : ((wit id).dev.begin 0).isReady 0 = true ∧ (((wit id).dev.begin 0).mbox 0).busy = false ∧
    ((State.reset.dev.begin 0).isReady 0 = false) ∧ (∀ m ∈ ((wit id).dev.begin 0).host.turns, (((wit id).dev.begin 0).mbox m).fetching.isSome = false) ∧
    (let d := (wit fun d => (d.modHost fun h => { h with turns := [3] }).modMbox 3 fun m =>
        { m with busy := true, fetching := some { opcode := 0x0E17, tag := 0, addr := 0, len := 1, held := some ([], []) } }).dev.begin 0
     (d.mbox 0).busy = false ∧ d.isReady 0 = true ∧ ∃ m ∈ d.host.turns, (d.mbox m).fetching.isSome = true) :=
  ⟨by decide +kernel, by decide +kernel, by decide +kernel, by decide +kernel, by decide +kernel, by decide +kernel, 3, by decide +kernel, by decide +kernel⟩
theorem witness_RefusedCommandChangesNothing :
    (∃ c, commandOf {} 0x0110 = some c ∧ (c (ask [64, 0, 4, 0, 0]) (wit id).dev).1.code = .range) := ⟨_, rfl, by decide +kernel⟩
theorem witness_UnlistedOpcodesAreUnknown : 0x0100 ∉ mailboxRows.map (·.1) ∧ 0xFFFF ∉ mailboxRows.map (·.1) ∧ 0x0110 ∈ mailboxRows.map (·.1) := by
  decide +kernel
theorem witness_ReadingCommandsChangeNothing : (∃ c, commandOf {} 0x0414 = some c) ∧ (∃ c, commandOf {} 0x1016 = some c) ∧
    (∃ c, commandOf {} 0x0B11 = some c) ∧ (∃ c, commandOf {} 0x0816 = some c) := ⟨⟨_, rfl⟩, ⟨_, rfl⟩, ⟨_, rfl⟩, ⟨_, rfl⟩⟩
theorem witness_SliceWritesStayInTheirSlice : (∃ c, commandOf {} 0x0611 = some c) ∧ (ask [7]).prm 0 ≤ 7 ∧ (ask [0]).prm 0 ≤ 7 :=
  ⟨⟨_, rfl⟩, by decide +kernel, by decide +kernel⟩
theorem witness_BufferPlacement : bufferAddr 5 1048575 = 0xCE800000 + 349525 * 10240 ∧ bufferAt (bufferAddr 0 1) = some (0, 1) ∧
    bufferAt (bufferAddr 5 1048575 + 10239) = some (5, 1048575) := by decide +kernel
/-- One tree without a leaf number, an entry for an allocation and one for an announcement window. -/
theorem witness_NoLeafConsidersAnnouncementsOnly :
    let d := (wit (fun d => d.modTree 63 fun x =>
      { x with cfg := { x.cfg with configured := true, size := 1, laneMap := [(0, 253)] }, fr := { x.fr with tfl := true, laneCount := 1 } })).dev.begin 0
    let b1 := ({ aid := 5, leaf := 3, length := 5, mask := 1, pid := 9 } : Pitch).block
    let b2 := ({ aid := 0xFFFF0, leaf := 1023, length := 5, mask := 1, pid := 9 } : Pitch).block
    (d.tree 63).cfg.configured = true ∧ (d.tree 63).fr.tfl = true ∧ (d.tree 63).join.leaf = none ∧ d.listHeader 63 listHdr = some (1, 0) ∧
      fld 20 108 b1 ≠ 0xFFFF0#20 ∧ fld 20 108 b2 = 0xFFFF0#20 ∧ blockChk b2 = fld 16 0 b2 ∧
      (pitchOf b2 2).malformed = false ∧ (d.tree 63).fr.listIds.contains (pitchOf b2 2).pid = false := by decide +kernel
theorem witness_ReadyOnlyAfterItsDependencies : (wit id).dev.settleReady.isReady 42 = true ∧ depsOf 42 ≠ [] ∧
    (∀ g ∈ depsOf 42, (wit id).dev.settleReady.isReady g = true) ∧ (wit id).dev.host.fw.running = true := by decide +kernel
theorem witness_PersistentRecordsComeBack :
    let d := { (wit id).dev with recDirty := true, flashA := some (2 ^ 32 - 2, [], []) }
    d.recDirty = true ∧ d.host.fw.running = true ∧ (∀ x ∈ d.flashA, x.1 + 1 < 2 ^ 32) ∧ d.flashB = none ∧
      d.writeRecords.flashB.isSome = true := by decide +kernel
theorem witness_EventsOfOneInstantEnterInOrder : (State.reset.log.entries.length + (sortEvents State.reset.dev.evPend).length ≤ 4096) := by
  decide +kernel
/-- The example of 10_cipher.md, and both ends of the range. -/
theorem witness_PacketNumberIsTheNearest : (131075 : Nat) % 65536 = 3 ∧ (131056 : Int) + 1 - 32768 ≤ 131075 ∧ 131075 ≤ 131056 + 1 + 32767 ∧
    rebuildPn 0 65535 = 65535 ∧ rebuildPn 131056 (163824 % 65536) = 163824 ∧ rebuildPn 131056 (98289 % 65536) = 98289 := by decide +kernel
theorem witness_NoTaggedNoticeIsAppliedTwice : (({} : Exchange).takeV 100).vHigh = some 100 ∧ (({} : Exchange).takeV 100).freshV 37 = true ∧
    (({} : Exchange).takeV 100).freshV 36 = false ∧ (({} : Exchange).takeV 100).freshV 100 = false := by decide +kernel
theorem witness_NoPacketNumberIsAcceptedTwice : (1024 : Nat) ≤ 1024 ∧ (({} : RxEpoch).fresh 0 5) = true ∧ ((({} : RxEpoch).accept 5).fresh 0 5) = false ∧
    ((({} : RxEpoch).accept 70).fresh 64 7) = true ∧ ((({} : RxEpoch).accept 70).fresh 64 6) = false := by decide +kernel
theorem witness_RevisionTargetIsUnique : revTarget 1 0 = 0 ∧ revTarget 1 3 = 3 ∧ revTarget 100 3 = 99 ∧ revTarget 100 2 = 102 := by decide +kernel
theorem witness_HeadroomFollowsTheEScale : State.reset.dev.eNumOf 0 ≤ 64 ∧ State.reset.dev.pwr.suspended = false ∧
    (State.reset.dev.modPwr fun w => { w with suspended := true }).pwr.suspended = true ∧ sliceOfTree 7 = 0 ∧
    (let d := (wit (fun d => d.modTree 7 fun x =>
      { x with cfg := { x.cfg with configured := true, size := 1, laneMap := [(0, 28)] }, fr := { x.fr with tfl := true, laneCount := 1 } })).dev
     (d.tree 7).namedLanes ({ mask := 1, length := 40, frame := 0, aid := 0 } : Pitch) = [0]) := by decide +kernel
theorem witness_MeterFillsByElapsedTime : let m : Meter := {}
    m.last ≤ 1000 ∧ m.tokC ≤ m.cbs * 64 * 65536 ∧ m.tokE ≤ m.ebs * 64 * 65536 := by decide +kernel
theorem witness_RoundRobinTakesAHeadThatFits : 1 ≤ (State.reset.dev.queue 0 16383).quantum ∧
    (drrPick 0 [3, 16383] 4 State.reset.dev).1 = some (16383, 1048576, 4) := by decide +kernel
theorem witness_LineCodingIsUndone : ([true, false] : List Bool).length % 2 = 0 ∧ (1 : Nat) < ([0, 3] : List (Fin 4)).length ∧ (3 : Fin 4) ≠ 0 ∧
    toLevels [false, false, false, true, true, true, true, false] = [0, 1, 2, 3] ∧ precode 0 [3, 3, 0] = [3, 0, 0] := by decide +kernel
/-- The last block of the smallest region: one lane, two codewords. -/
theorem witness_BurstBlocksStandInTheirPlaces : (1 : Nat) ≤ 1 ∧ (2 : Nat) ≤ 2 ∧ (38 : Nat) < 1 * (40 * 2 - 41) ∧ stripePlace 40 1 38 = (78, 0) ∧
    ((burstLane 1 2 0 false [] ((List.range 39).map fun j => (false, BitVec.ofNat 128 j)))[78]? = some (false, 38)) := by decide +kernel
/-- The ends of the ranges; and a parcel of three bytes, sealed and opened. -/
theorem witness_SealedParcelOpensAndTagSaysEveryInput : (2 ^ 24 - 1 : Nat) < 2 ^ 24 ∧ (2 ^ 64 - 1 : Nat) < 2 ^ 64 ∧
    parcelKdf .down 255 (2 ^ 24 - 1) (2 ^ 32 - 1) (2 ^ 64 - 1) ≠ parcelKdf .down 255 (2 ^ 24 - 1) (2 ^ 32 - 1) 0 ∧
    (parcelIv 0 (2 ^ 64 - 1), parcelAad 0xFFFF (2 ^ 32 - 1)) = (parcelIv 0 (2 ^ 64 - 1), parcelAad 0 (2 ^ 32 - 1)) ∧
    (noticeIv (2 ^ 32 - 1) (2 ^ 32 - 1) (2 ^ 32 - 1)).length = 12 ∧
    openParcel {} 5 1 0 0 3 (((sealedParcel {} 5 1 0 0 [1, 2, 3]).drop 1).map (·.2)) = some [1, 2, 3] := by decide +kernel
theorem witness_PitchBlockRoundTrip : (1023 : Nat) < 2 ^ 10 ∧ (8191 : Nat) < 2 ^ 13 ∧ (15 : Nat) < 2 ^ 4 ∧ (31 : Nat) < 2 ^ 5 ∧ (4095 : Nat) < 2 ^ 12 := by
  decide
theorem witness_AddressEntryRoundTrip : let e : AddrEntry := { age := 255, port := 31, lfn := 2 ^ 20 - 1 }
    e.age < 2 ^ 8 ∧ e.port < 2 ^ 5 ∧ e.lfn < 2 ^ 20 := by decide

/-! The line below the block. -/

/-- R76: α^10 = α^3 + 1; a message with its parity is a word of the code, and with ten wrong symbols it is corrected to it. -/
theorem test_field : gfMul 2 512 = 9 ∧ gfPow 3 = 8 ∧ gfPow 10 = 9 ∧ rsGenerator.length = 21 := by decide +kernel
theorem test_codeword : let m := (List.range 520).map fun i => (i * 37 + 11) % 1024
    rsWord (m ++ rsParity m) = true ∧ rsCorrects ((List.replicate 10 0) ++ (m ++ rsParity m).drop 10) (m ++ rsParity m) = true := by decide +kernel
/-- FIPS 197 C.3; a key of zeros (SP 800-38D); SP 800-38B D.3, example 9; FIPS 180-4: SHA-384 of "abc"; the base point of P-384. -/
theorem test_aes : aes256 0x000102030405060708090a0b0c0d0e0f101112131415161718191a1b1c1d1e1f 0x00112233445566778899aabbccddeeff =
    0x8ea2b7ca516745bfeafc49904b496089#128 := by decide +kernel
theorem test_gcm : gcmTag 0 (aes256 0 0) (List.replicate 12 0) [] [] = 0x530f8afbc74536b9a963b4f1c4cb738b#128 ∧
    gcmStream 0 (List.replicate 12 0) (List.replicate 16 0) = bytesOf 0xcea7403d4d606b6e074ec5d3baf39d18#128 := by decide +kernel
theorem test_cmac : cmac 0x603deb1015ca71be2b73aef0857d77811f352c073b6108d72d9810a30914dff4 [] = 0x028962f61b7bf89efc6b551f4667d983#128 := by
  decide +kernel
theorem test_sha384 : sha384 [0x61, 0x62, 0x63] =
    0xcb00753f45a35e8bb5a03d699ac65007272c32ab0eded1631a8b605a43ff5bed8086072ba1e7cc2358baeca134c825a7#384 := by decide +kernel
theorem test_base_on_curve : onCurve (wireOf p384Gx p384Gy) = true := by decide +kernel
/-- The worked example of 10_cipher.md: the first PRF input of the key of AID 0x00311 of tree 21, epoch serial 22. -/
theorem test_kdf_input : (parcelKdf .down 21 0x00311 22 0x0000000100009C2B).headD [] =
    [0x01, 0x4E, 0x4C, 0x44, 0x2D, 0x4B, 0x45, 0x59, 0x00, 0x01, 0x00, 0x15, 0x00, 0x03, 0x11, 0x00, 0x00, 0x00, 0x16, 0x00, 0x00, 0x00, 0x01,
     0x00, 0x00, 0x9C, 0x2B, 0x01, 0x00] := by decide +kernel
theorem test_delimiter : delimiterLevels.length = 256 := by decide +kernel
/-- R475, R476: the receive pair of line lane 89 stands at row 45, columns 7 and 8. -/
theorem test_balls : (Signal.lineRx 89 false).ball = (45, 7) ∧ (Signal.lineRx 89 true).ball = (45, 8) := by decide +kernel
/-- R75: a control block of a wrong type at position 2 carries no switching request and counts. -/
theorem test_wrong_type : let cw : List RxBlock := goodFrame.set 2 { ctl := true, pl := put 128 120 0x55#8 }
    wrongTypes goodFrame = 3 ∧ (frameStartOf cw).sr = none := by decide +kernel

/-! Witnesses of the completion statements: for each clause a state and operands that meet its hypotheses together. -/

theorem witness_TimeCommandsComplete_0 :
    (let s : State := wit id;
  let t : Nat := 0;
  let rq : Req := ask [0, 0, 0, 0];
  let d := s.dev.begin t;
  let w := d.wake pdTime causeHost;
  (Accepted d rq 4 [1]) ∧ (rq.within 0 0 2) ∧ (rq.within 1 0 63) ∧ (rq.within 2 0 65535) ∧ (rq.within 3 0 3)) := by decide +kernel

theorem witness_TimeCommandsComplete_1 :
    (let s : State := wit id;
  let t : Nat := 0;
  let rq : Req := ask [0, 0];
  let d := s.dev.begin t;
  let w := d.wake pdTime causeHost;
  (Accepted d rq 2 [1]) ∧ (d.time.source = 0)) := by decide +kernel

theorem witness_TimeCommandsComplete_2 :
    (let s : State := wit id;
  let t : Nat := 0;
  let rq : Req := ask [0, 0, 0, 0, 0];
  let d := s.dev.begin t;
  let w := d.wake pdTime causeHost;
  (Accepted d rq 5 [1]) ∧ (rq.within 0 0 65535) ∧ (d.time.source ≠ 1) ∧ (d.time.armed = true)) := by decide +kernel

theorem witness_TimeCommandsComplete_3 :
    (let s : State := wit id;
  let t : Nat := 0;
  let rq : Req := ask [];
  let d := s.dev.begin t;
  let w := d.wake pdTime causeHost;
  (Accepted d rq 0 [1])) := by decide +kernel

theorem witness_TimeCommandsComplete_4 :
    (let s : State := wit id;
  let t : Nat := 0;
  let rq : Req := ask [500000, 1, 2];
  let d := s.dev.begin t;
  let w := d.wake pdTime causeHost;
  (Accepted d rq 3 [1]) ∧ (rq.within 0 1 500000) ∧ (rq.within 1 0 1) ∧ (rq.within 2 0 2)) := by decide +kernel

theorem witness_TimeCommandsComplete_5 :
    (let s : State := wit id;
  let t : Nat := 0;
  let rq : Req := ask [0, 0];
  let d := s.dev.begin t;
  let w := d.wake pdTime causeHost;
  (Accepted d rq 2 [1]) ∧ (rq.prm 0 ≤ 7) ∧ ((d.isReady (fnDs (rq.prm 0)) || d.isReady (fnUs (rq.prm 0))) = true)) := by decide +kernel

theorem witness_TimeEventsComplete_0 :
    (let s : State := wit (fun d => d.modTime fun x => { x with todSec := some 0 });
  let t : Nat := Config.ms;
  let d := s.dev.begin t;
  let sec : Nat := 0;
  (d.timeOn = true) ∧ (d.time.todSec = some sec) ∧ (d.time.ppsAt + Config.ms ≤ d.now)) := by decide +kernel

theorem witness_TimeEventsComplete_1 :
    (let s : State := wit (fun d => d.modTime fun x => { x with ppsOut := true });
  let t : Nat := Config.sec;
  let d := s.dev.begin t;
  (d.time.ppsOut = true) ∧ (d.time.ppsAt + d.time.pps.widthNs * Config.ns ≤ d.now)) := by decide +kernel

theorem witness_TimeEventsComplete_2 :
    (let s : State := wit (fun d => d.modTime fun x => { x with ppsInLast := some 0 });
  let t : Nat := 0;
  let d := s.dev.begin t;
  let frac : Nat := 0;
  let frc := d.frcLin + frac % 65536 / 512 * 512;
  (d.timeOn = true) ∧ (∃ l, d.time.ppsInLast = some l ∧ (frc : Int) - l < 100000000 * 65536)) := by decide +kernel

theorem witness_TimeEventsComplete_3 :
    (let s : State := wit id;
  let t : Nat := 0;
  let d := s.dev.begin t;
  let frac : Nat := 0;
  let frc := d.frcLin + frac % 65536 / 512 * 512;
  (d.timeOn = true) ∧ (∀ l, d.time.ppsInLast = some l → 100000000 * 65536 ≤ (frc : Int) - l)) := by decide +kernel

theorem witness_TimeEventsComplete_4 :
    (let s : State := wit (fun d => d.modTime fun x => { x with source := 1 });
  let t : Nat := Config.sec;
  let d := s.dev.begin t;
  (d.time.source = 1) ∧ ((d.tree d.srcTree).time.lastValid + Config.sec ≤ d.now)) := by decide +kernel

theorem witness_TimeEventsComplete_5 :
    (let s : State := wit id;
  let t : Nat := 0;
  let d := s.dev.begin t;
  let i : Fin 2 := (0 : Fin 2);
  (d.refValid i.val = true) ∧ (d.ao.refActive = i.val) ∧ (d.ao.refHoldover = false) ∧ (d.refValid (1 - i.val) = true)) := by decide +kernel

theorem witness_TimeEventsComplete_6 :
    (let s : State := wit (fun d => d.modAo fun x => { x with ref1 := false });
  let t : Nat := 0;
  let d := s.dev.begin t;
  let i : Fin 2 := (0 : Fin 2);
  (d.refValid i.val = true) ∧ (d.ao.refActive = i.val) ∧ (d.ao.refHoldover = false) ∧ (d.refValid (1 - i.val) = false)) := by decide +kernel

theorem witness_TimeEventsComplete_7 :
    (let s : State := wit (fun d => d.modAo fun x => { x with refHoldover := true });
  let t : Nat := Config.ms;
  let d := s.dev.begin t;
  (d.ao.refHoldover = true) ∧ (d.ao.refUnc = false) ∧ (d.ao.refLostAt + Config.ms ≤ d.now)) := by decide +kernel

theorem witness_TimeEventsComplete_8 :
    (let s : State := wit (fun d => d.modAo fun x => { x with ref0 := false, refHoldover := true, refUnc := true });
  let t : Nat := 0;
  let d := s.dev.begin t;
  let i : Fin 2 := (0 : Fin 2);
  (d.refValid i.val = false) ∧ (d.ao.refHoldover = true) ∧ (d.ao.refUnc = true)) := by decide +kernel

theorem witness_TimeEventsComplete_9 :
    (let s : State := wit id;
  let t : Nat := 0;
  let d := s.dev.begin t;
  (d.ao.fallback = false)) := by decide +kernel

theorem witness_TimeEventsComplete_10 :
    (let s : State := wit (fun d => d.modAo fun x => { x with fallback := true });
  let t : Nat := 0;
  let d := s.dev.begin t;
  (d.ao.fallback = true)) := by decide +kernel

theorem witness_TimeEventsComplete_11 :
    (let s : State := wit id;
  let t : Nat := Config.sec;
  let d := s.dev.begin t;
  (d.timeOn = true) ∧ (d.time.pulse < d.time.second)) := by decide +kernel

theorem witness_PowerCommandsComplete_0 :
    (let s : State := wit id;
  let t : Nat := 0;
  let rq : Req := ask [0, 0];
  let d := s.dev.begin t;
  let e := d.modDom (rq.prm 0) fun x => { x with policy := rq.prm 1 };
  (Accepted d rq 2 [0]) ∧ (rq.prm 0 ≤ 126) ∧ (rq.prm 1 ≤ 2)) := by decide +kernel

theorem witness_PowerCommandsComplete_1 :
    (let s : State := wit id;
  let t : Nat := 0;
  let rq : Req := ask [0, 0];
  let d := s.dev.begin t;
  (Accepted d rq 2 [0]) ∧ (rq.prm 0 ≤ 126) ∧ (rq.prm 1 = 0)) := by decide +kernel

theorem witness_PowerCommandsComplete_2 :
    (let s : State := wit (fun d => d.modDom 63 fun x => { x with st := 2 });
  let t : Nat := 0;
  let rq : Req := ask [63, 2];
  let d := s.dev.begin t;
  let p := rq.prm 0;
  (Accepted d rq 2 [0]) ∧ (rq.prm 0 ≤ 126) ∧ (rq.prm 1 = 1 ∨ rq.prm 1 = 2) ∧ ((d.dom p).st = rq.prm 1)) := by decide +kernel

theorem witness_PowerCommandsComplete_3 :
    (let s : State := wit (fun d => d.modDom 63 fun x => { x with st := 3 });
  let t : Nat := 0;
  let rq : Req := ask [63, 2];
  let d := s.dev.begin t;
  let p := rq.prm 0;
  (Accepted d rq 2 [0]) ∧ (rq.prm 0 ≤ 126) ∧ (rq.prm 1 = 1 ∨ rq.prm 1 = 2) ∧ ((d.dom p).st = 3)) := by decide +kernel

theorem witness_PowerCommandsComplete_4 :
    (let s : State := wit (fun d => d.modDom 63 fun x => { x with needAt := 1 });
  let t : Nat := 0;
  let rq : Req := ask [63, 2];
  let d := s.dev.begin t;
  let p := rq.prm 0;
  let e := if rq.prm 1 = 1 ∧ (d.dom p).st = 2 then d.wake p causeHost else d;
  (Accepted d rq 2 [0]) ∧ (rq.prm 0 ≤ 126) ∧ (rq.prm 1 = 1 ∨ rq.prm 1 = 2) ∧ ((d.dom p).st ≠ rq.prm 1) ∧ ((d.dom p).st ≠ 3) ∧ (d.neededNow p = true)) := by decide +kernel

theorem witness_PowerCommandsComplete_5 :
    (let s : State := wit id;
  let t : Nat := 0;
  let rq : Req := ask [63, 2];
  let d := s.dev.begin t;
  let p := rq.prm 0;
  let e := if rq.prm 1 = 1 ∧ (d.dom p).st = 2 then d.wake p causeHost else d;
  (Accepted d rq 2 [0]) ∧ (rq.prm 0 ≤ 126) ∧ (rq.prm 1 = 1 ∨ rq.prm 1 = 2) ∧ ((d.dom p).st ≠ rq.prm 1) ∧ ((d.dom p).st ≠ 3) ∧ (d.neededNow p = false) ∧ (e.refusers p (rq.prm 1) true = [])) := by decide +kernel

theorem witness_PowerCommandsComplete_6 :
    (let s : State := wit id;
  let t : Nat := 0;
  let rq : Req := ask [6, 2];
  let d := s.dev.begin t;
  let p := rq.prm 0;
  let e := if rq.prm 1 = 1 ∧ (d.dom p).st = 2 then d.wake p causeHost else d;
  let r := 0x0B;
  let rs := ([] : List Nat);
  (Accepted d rq 2 [0]) ∧ (rq.prm 0 ≤ 126) ∧ (rq.prm 1 = 1 ∨ rq.prm 1 = 2) ∧ ((d.dom p).st ≠ rq.prm 1) ∧ ((d.dom p).st ≠ 3) ∧ (d.neededNow p = false) ∧ (e.refusers p (rq.prm 1) true = r :: rs)) := by decide +kernel

theorem witness_PowerCommandsComplete_7 :
    (let s : State := wit id;
  let t : Nat := 0;
  let rq : Req := ask [];
  let d := s.dev.begin t;
  (Accepted d rq 0 [0])) := by decide +kernel

theorem witness_PowerCommandsComplete_8 :
    (let s : State := wit id;
  let t : Nat := 0;
  let rq : Req := ask [126];
  let d := s.dev.begin t;
  (Accepted d rq 1 [0]) ∧ (rq.prm 0 ≤ 126)) := by decide +kernel

theorem witness_PowerCommandsComplete_9 :
    (let s : State := wit id;
  let t : Nat := 0;
  let rq : Req := ask [7, 0, 0];
  let d := s.dev.begin t;
  (Accepted d rq 3 [0]) ∧ (rq.prm 0 ≤ 7)) := by decide +kernel

theorem witness_PowerCommandsComplete_10 :
    (let s : State := wit id;
  let t : Nat := 0;
  let rq : Req := ask [819456, 0, 0, 0, 0, 0, 0, 0, 0, 0];
  let d := s.dev.begin t;
  (Accepted d rq (10 + 2 * rq.bits 9 6 0) [0]) ∧ (100 ≤ rq.bits 0 11 9) ∧ (rq.bits 0 11 9 ≤ 1600) ∧ (rq.bits 0 7 2 ≤ 64) ∧ (rq.bits 9 6 0 ≤ 32) ∧ (∀ r, r < rq.bits 9 6 0 → rq.bits (10 + 2 * r) 5 0 ≠ 0 ∧ rq.bits (10 + 2 * r) 5 0 ≤ 20)) := by decide +kernel

theorem witness_PowerCommandsComplete_12 :
    (let s : State := wit id;
  let t : Nat := 0;
  let rq : Req := ask [];
  let d := s.dev.begin t;
  let p : Fin 127 := (0 : Fin 127);
  let v : Dword := 0x8000;
  (v.getLsbD 15 = true)) := by decide +kernel

theorem witness_PowerCommandsComplete_13 :
    (let s : State := wit id;
  let t : Nat := 0;
  let rq : Req := ask [];
  let d := s.dev.begin t;
  let p : Fin 127 := (0 : Fin 127);
  let v : Dword := 0;
  (v.getLsbD 15 = false)) := by decide +kernel

theorem witness_PowerEventsComplete_0 :
    (let s : State := wit (fun d => d.modDom 3 fun x => { x with needAt := 1 });
  let t : Nat := 0;
  let d := s.dev.begin t;
  let p : Fin 127 := 3;
  let g : Fin 3 := 1;
  (g.val ≠ 0) ∧ (stateAllowed p.val g.val = true) ∧ ((d.dom p.val).st ≠ 3) ∧ ((d.dom p.val).st ≠ 2) ∧ ((d.dom p.val).st ≠ g.val) ∧ (g.val = 1 → ∀ n < 8, p.val = pdBarrow n → d.barrowBuilt n = true) ∧ (d.seqWants p.val g.val = true) ∧ (d.neededNow p.val = true)) := by decide +kernel

theorem witness_PowerEventsComplete_1 :
    (let s : State := wit id;
  let t : Nat := 0;
  let d := s.dev.begin t;
  let p : Fin 127 := 3;
  let g : Fin 3 := 1;
  let e := match (if g.val = 2 then tablesSlice p.val else none) with
          | some n => d.wake (55 + n) causeTraffic
          | none => d;
  (g.val ≠ 0) ∧ (stateAllowed p.val g.val = true) ∧ ((d.dom p.val).st ≠ 3) ∧ ((d.dom p.val).st ≠ 2) ∧ ((d.dom p.val).st ≠ g.val) ∧ (g.val = 1 → ∀ n < 8, p.val = pdBarrow n → d.barrowBuilt n = true) ∧ (d.seqWants p.val g.val = true) ∧ (d.neededNow p.val = false) ∧ (d.refusers p.val g.val false = [])) := by decide +kernel

theorem witness_PowerEventsComplete_2 :
    (let s : State := wit id;
  let t : Nat := 0;
  let d := s.dev.begin t;
  let p : Fin 127 := 6;
  let g : Fin 3 := 2;
  let r := 0x0B;
  let rs := ([] : List Nat);
  (g.val ≠ 0) ∧ (stateAllowed p.val g.val = true) ∧ ((d.dom p.val).st ≠ 3) ∧ ((d.dom p.val).st ≠ 2) ∧ ((d.dom p.val).st ≠ g.val) ∧ (g.val = 1 → ∀ n < 8, p.val = pdBarrow n → d.barrowBuilt n = true) ∧ (d.seqWants p.val g.val = true) ∧ (d.neededNow p.val = false) ∧ (d.refusers p.val g.val false = r :: rs)) := by decide +kernel

theorem witness_PowerEventsComplete_3 :
    (let s : State := wit (fun d => d.modDom 3 fun x => { x with st := 3, target := 1 });
  let t : Nat := 0;
  let d := s.dev.begin t;
  let p : Fin 127 := 3;
  ((d.dom p.val).st = 3) ∧ ((d.dom p.val).target = 1) ∧ (p.val ≠ 1) ∧ (d.refusers p.val 1 (d.dom p.val).asker.isSome = [])) := by decide +kernel

theorem witness_PowerEventsComplete_4 :
    (let s : State := wit (fun d => d.modDom 63 fun x => { x with st := 3, target := 2 });
  let t : Nat := 0;
  let d := s.dev.begin t;
  let p : Fin 127 := 63;
  ((d.dom p.val).st = 3) ∧ ((d.dom p.val).target = 2) ∧ (d.refusers p.val 2 (d.dom p.val).asker.isSome = [])) := by decide +kernel

theorem witness_PowerEventsComplete_5 :
    (let s : State := wit (fun d => d.modDom 6 fun x => { x with st := 3, target := 2 });
  let t : Nat := 0;
  let d := s.dev.begin t;
  let p : Fin 127 := 6;
  let r : Nat := 0x0B;
  let rs : List Nat := [];
  let e := (r :: rs).foldl (fun d r => d.bump .pdAborted p.val r) d;
  ((d.dom p.val).st = 3) ∧ ((d.dom p.val).target ≠ 0) ∧ (d.refusers p.val (d.dom p.val).target (d.dom p.val).asker.isSome = r :: rs)) := by decide +kernel

theorem witness_PowerEventsComplete_6 :
    (let s : State := wit (fun d => (d.modTree 0 fun x => { x with pitches := [{ frame := 1, pid := 9, aid := 5, length := 5, mask := 1, phase := 1, fixedS := some 0 }] }).modDom 63 fun x => { x with st := 1, target := 0 });
  let t : Nat := 0;
  let d := s.dev.begin t;
  let p : Fin 127 := 63;
  let e := d.wakeOthers p.val causePitch;
  ((d.dom p.val).st = 1 ∨ (d.dom p.val).st = 2) ∧ (d.exitDue p.val = true)) := by decide +kernel

theorem witness_PowerEventsComplete_7 :
    (let s : State := wit (fun d => (d.modTree 0 fun x => { x with pitches := [{ frame := 1, pid := 9, aid := 5, length := 5, mask := 1, phase := 1, fixedS := some 0 }] }).modDom 63 fun x => { x with st := 3, target := 1 });
  let t : Nat := 0;
  let d := s.dev.begin t;
  let p : Fin 127 := 63;
  ((d.dom p.val).st = 3) ∧ ((d.dom p.val).target ≠ 0) ∧ (d.exitDue p.val = true)) := by decide +kernel

theorem witness_PowerEventsComplete_8 :
    (let s : State := wit (fun d => d.modDom 63 fun x => { x with st := 3, target := 0 });
  let t : Nat := 0;
  let d := s.dev.begin t;
  let p : Fin 127 := 63;
  ((d.dom p.val).st = 3) ∧ ((d.dom p.val).target = 0) ∧ (p.val ≠ (d.wake p.val 0).idleHalf) ∧ (p.val ≠ 5)) := by decide +kernel

theorem witness_PowerEventsComplete_9 :
    (let s : State := wit (fun d => d.modSys 0 fun x => { x with width := 1, enabled := true });
  let t : Nat := 0;
  let d := s.dev.begin t;
  let l : Fin 512 := 256;
  (d.laneNeeded l.val = true)) := by decide +kernel

theorem witness_PowerEventsComplete_10 :
    (let s : State := wit id;
  let t : Nat := 0;
  let d := s.dev.begin t;
  let st : Fin 4 := 1;
  let e := fun l => ({ d with host := { d.host with linkL0 := l } } : Dev);
  (d.host.perst = false) ∧ (st.val = 1)) := by decide +kernel

theorem witness_PowerEventsComplete_11 :
    (let s : State := wit id;
  let t : Nat := 0;
  let d := s.dev.begin t;
  let st : Fin 4 := 2;
  let e := fun l => ({ d with host := { d.host with linkL0 := l } } : Dev);
  (d.host.perst = false) ∧ (st.val = 2) ∧ ((d.dom 4).st ≠ 1)) := by decide +kernel

theorem witness_PowerEventsComplete_12 :
    (let s : State := wit (fun d => d.modHost fun h => { h with perst := true });
  let t : Nat := 0;
  let d := s.dev.begin t;
  let st : Fin 4 := (0 : Fin 4);
  let e := fun l => ({ d with host := { d.host with linkL0 := l } } : Dev);
  (d.host.perst = true) ∧ ((d.dom 4).st ≠ 2)) := by decide +kernel

theorem witness_PowerEventsComplete_13 :
    (let s : State := wit (fun d => d.modPwr fun x => { x with cfg := { x.cfg with rails := 1 }, railCh := [(0, { supply := 1 })] });
  let t : Nat := 3600 * Config.sec;
  let d := s.dev.begin t;
  let east : Bool := false;
  let mv : Nat := 745;
  let ch : Nat := 0;
  (d.isReady 0 = true) ∧ (650 ≤ mv) ∧ (mv ≤ 750) ∧ (let cur := if east then d.pwr.avsE else d.pwr.avsW
       mv ≤ cur + 5 ∧ cur ≤ mv + 5 ∧ (if east then d.pwr.avsAtE else d.pwr.avsAtW) + 3600 * Config.sec ≤ d.now) ∧ (d.coreChannel east = some ch)) := by decide +kernel

theorem witness_BudgetEventsComplete_0 :
    (let s : State := wit id;
  let t : Nat := 0;
  let d := s.dev.begin t;
  let model : List (Nat × Nat) := [];
  let shared : Nat := 0;
  let cal : ℚ := d.pwr.cal / 4096;
  let pool : ℚ := (List.range d.pwr.cfg.rails).foldl (fun (a : ℚ) r =>
        let c := d.pwr.railCh.get {} r
        if c.iLimit ≠ 0 ∧ c.iLimit < c.iNow then a * c.iLimit / c.iNow else a) (d.pwr.cfg.pLimit * 125 - cal * shared);
  let lo : Nat → ℚ := fun n => cal * (model.getD n (0, 0)).1;
  let hi : Nat → ℚ := fun n => cal * (model.getD n (0, 0)).2;
  let spare : ℚ := max 0 (pool - ((List.range 8).map lo).sum);
  let share : Nat → ℚ := fun n => spare * d.pwr.cfg.weight.get 16 n / ((List.range 8).map fun n => d.pwr.cfg.weight.get 16 n).sum;
  let e := d.modPwr fun w => { w with last := ⌊pool⌋₊ :: (List.range 8).flatMap fun n => [⌊lo n⌋₊, ⌊hi n⌋₊, ⌊share n⌋₊] };
  (d.host.fw.running = true) ∧ (d.host.fw.swapping = false)) := by decide +kernel

theorem witness_BudgetEventsComplete_1 :
    (let s : State := wit (fun d => d.modPwr fun x => { x with cfg := { x.cfg with rails := 32 } });
  let t : Nat := 0;
  let d := s.dev.begin t;
  let ch : Fin 32 := 31;
  let cur : Nat := 0;
  let mv : Nat := 0;
  (ch.val < d.pwr.cfg.rails)) := by decide +kernel

theorem witness_BudgetEventsComplete_2 :
    (let s : State := wit (fun d => d.modPwr fun x => { x with cfg := { x.cfg with rails := 32 } });
  let t : Nat := 10 * Config.ms;
  let d := s.dev.begin t;
  let ch : Fin 32 := 31;
  (ch.val < d.pwr.cfg.rails) ∧ ((d.pwr.railCh.get {} ch.val).late = false) ∧ ((d.pwr.railCh.get {} ch.val).readAt + 10 * Config.ms ≤ d.now)) := by decide +kernel

theorem witness_BudgetEventsComplete_3 :
    (let s : State := wit id;
  let t : Nat := Config.ms;
  let d := s.dev.begin t;
  let temps : List Nat := [];
  let e := (((d.sense temps).hotTrip.budgetSettings).scale).suspension;
  let f := e.forEach (List.range 8) fun n d =>
        let d := if d.pwr.eCap < 64 then d.bump .framesCapped n 0 else d
        let d := if d.pwr.suspended then d.bump .framesSuspended n 0 else d
        d.modBuf n fun b => { b with queues := b.queues.mapV {} fun _ q => q.refill (d.eNumOf n) };
  (d.timeOn = true) ∧ (d.devNs / 125000 ≠ d.pwr.bFrame)) := by decide +kernel

theorem witness_BudgetEventsComplete_4 :
    (let s : State := wit id;
  let t : Nat := 0;
  let d := s.dev.begin t;
  let temps : List Nat := [25, 120];
  ((d.sense temps).pwr.trip = false) ∧ (120 ≤ (d.sense temps).maxTemp)) := by decide +kernel

theorem witness_BudgetEventsComplete_5 :
    (let s : State := wit id;
  let t : Nat := 0;
  let d := s.dev.begin t;
  let temps : List Nat := [119];
  ((d.sense temps).maxTemp < 120)) := by decide +kernel

theorem witness_BudgetEventsComplete_6 :
    (let s : State := wit (fun d => d.modPwr fun x => { x with trip := true, below115 := some 0 });
  let t : Nat := Config.sec;
  let d := s.dev.begin t;
  (d.pwr.trip = true) ∧ (heldFor d.pwr.below115 Config.sec d.now = true)) := by decide +kernel

theorem witness_BootSequenceCompletes_0 :
    (let s : State := wit id;
  let t : Nat := 0;
  let d := s.dev.begin t;
  (s.dev.pwr.aoDown = true ∨ s.dev.ao.cold = false)) := by decide +kernel

theorem witness_BootSequenceCompletes_2 :
    (let s : State := wit id;
  let t : Nat := 0;
  let d := s.dev.begin t;
  let rail : Fin 21 := 18;
  (0 < rail.val) ∧ (rail.val < 19) ∧ (d.pwr.railsOk = true)) := by decide +kernel

theorem witness_BootSequenceCompletes_3 :
    (let s : State := wit id;
  let t : Nat := 0;
  let d := s.dev.begin t;
  let rail : Fin 21 := 19;
  (19 ≤ rail.val) ∧ (d.pwr.railsOk = true)) := by decide +kernel

theorem witness_BootSequenceCompletes_4 :
    (let s : State := wit (fun d => d.modPwr fun x => { x with railsOk := false });
  let t : Nat := 0;
  let d := s.dev.begin t;
  (s.dev.pwr.railsOk = false) ∧ (s.dev.pwr.aoDown = false)) := by decide +kernel

theorem witness_BootSequenceCompletes_5 :
    (let s : State := wit (fun d => d.modHost fun h => { h with perst := true });
  let t : Nat := 0;
  let d := s.dev.begin t;
  (d.host.perst = true) ∧ (d.pwr.railsOk = true) ∧ (d.host.boot.started = false)) := by decide +kernel

theorem witness_BootSequenceCompletes_6 :
    (let s : State := wit (fun d => (d.modFw fun f => { f with running := false }).modBoot fun b => { b with started := true, stage := 1 });
  let t : Nat := 0;
  let d := s.dev.begin t;
  let x : FwImage := goodImage;
  let mi := (sha384 x.image).toNat;
  let mb := (sha384 x.blob).toNat;
  (d.host.boot.started = true) ∧ (d.pwr.railsOk = true) ∧ (d.host.fw.running = false) ∧ (d.host.boot.stage = 1) ∧ (d.host.boot.tried = 0) ∧ (x.image.length ≤ 25165824) ∧ (x.digest = (sha384 (x.image ++ x.blob)).toNat) ∧ (x.signer = d.vault.fuses.vendorKey) ∧ (x.signed = (x.digest, x.svn)) ∧ (d.vault.fuses.minSvn ≤ x.svn)) := by and_intros <;> decide +kernel

theorem witness_BootSequenceCompletes_7 :
    (let s : State := wit (fun d => (d.modFw fun f => { f with running := false }).modBoot fun b => { b with started := true, stage := 3, tried := 2 });
  let t : Nat := 0;
  let d := s.dev.begin t;
  let src : ImageTry := .noImage;
  (d.host.boot.started = true) ∧ (d.pwr.railsOk = true) ∧ (d.host.fw.running = false) ∧ (d.host.boot.stage = 3) ∧ (d.host.boot.tried = 2) ∧ (d.host.boot.posted = false)) := by decide +kernel

theorem witness_BootSequenceCompletes_8 :
    (let s : State := wit (fun d => d.modBoot fun b => { b with stage := 4 });
  let t : Nat := 0;
  let d := s.dev.begin t;
  (d.host.boot.stage = 4) ∧ (d.host.boot.stageAt + d.host.boot.waitS * Config.sec ≤ d.now)) := by decide +kernel

theorem witness_BootSequenceCompletes_9 :
    (let s : State := wit (fun d => d.modBoot fun b => { b with stage := 5 });
  let t : Nat := 0;
  let d := s.dev.begin t;
  (d.host.boot.stage = 5) ∧ (d.host.boot.recBad = false) ∧ (d.now < d.host.boot.stageAt + 2 * Config.sec)) := by decide +kernel

theorem witness_BootSequenceCompletes_10 :
    (let s : State := wit (fun d => d.modBoot fun b => { b with stage := 5 });
  let t : Nat := 2 * Config.sec;
  let d := s.dev.begin t;
  (d.host.boot.stage = 5) ∧ (d.host.boot.stageAt + 2 * Config.sec ≤ d.now)) := by decide +kernel

theorem witness_BootSequenceCompletes_11 :
    (let s : State := wit (fun d => (d.modHost fun h => { h with ready := h.ready.set {} 12 { st := 0, reason := 1 } }).modStack 0 fun m => { m with map := { m.map with active := 0 } });
  let t : Nat := 0;
  let d := s.dev.begin t;
  let f : Fin 43 := 12;
  (f.val ≠ 0) ∧ (d.host.fw.running = true) ∧ (d.isReady f.val = false) ∧ ((d.readyW f.val).st ≠ 2) ∧ (∃ n < 8, d.noRank n = true ∧ (f.val = fnDs n ∨ f.val = fnUs n))) := by decide +kernel

theorem witness_BootSequenceCompletes_12 :
    (let s : State := wit (fun d => (d.modHost fun h => { h with ready := h.ready.set {} 10 { st := 0, reason := 1 } }));
  let t : Nat := 0;
  let d := s.dev.begin t;
  let f : Fin 43 := 10;
  (f.val ≠ 0) ∧ (d.host.fw.running = true) ∧ (d.isReady f.val = false) ∧ ((d.readyW f.val).st ≠ 2) ∧ (∀ n < 8, f.val = fnDs n ∨ f.val = fnUs n → d.noRank n = false)) := by decide +kernel

theorem witness_BootSequenceCompletes_13 :
    (let s : State := wit (fun d => (d.modHost fun h => { h with ready := h.ready.set {} 10 { st := 0, reason := 1 } }));
  let t : Nat := 0;
  let d := s.dev.begin t;
  let f : Fin 43 := 10;
  (3 ≤ f.val) ∧ (f.val < 11) ∧ (d.host.fw.running = true) ∧ (d.isReady f.val = false) ∧ ((d.readyW f.val).st ≠ 2)) := by decide +kernel

theorem witness_BootSequenceCompletes_14 :
    (let s : State := wit (fun d => (d.modHost fun h => { h with ready := h.ready.set {} 2 { st := 0, reason := 1 } }));
  let t : Nat := 0;
  let d := s.dev.begin t;
  (d.host.fw.running = true) ∧ (d.isReady 2 = false) ∧ ((d.readyW 2).st ≠ 2)) := by decide +kernel

theorem witness_BootSequenceCompletes_15 :
    (let s : State := wit id;
  let t : Nat := 0;
  let d := s.dev.begin t;
  (d.host.perst = false)) := by decide +kernel

theorem witness_BootSequenceCompletes_17 :
    (let s : State := wit (fun d => d.modFw fun f => { f with running := false });
  let t : Nat := 0;
  let d := s.dev.begin t;
  (d.host.fw.running = false)) := by decide +kernel

theorem witness_BootSequenceCompletes_18 :
    (let s : State := wit (fun d => { d with recDirty := true });
  let t : Nat := 0;
  let d := s.dev.begin t;
  (d.recDirty = true) ∧ (d.host.fw.running = true) ∧ (d.flashA = none)) := by decide +kernel

theorem witness_HostInterfaceCompletes_0 :
    (let s : State := wit id;
  let t : Nat := 0;
  let rq : Req := ask [143, 4, 0, 65536];
  let d := s.dev.begin t;
  (Accepted d rq 4 [0]) ∧ (rq.prm 0 < 116 ∨ (128 ≤ rq.prm 0 ∧ rq.prm 0 < 144)) ∧ (rq.raw 1 % 4 = 0) ∧ (isPow2 (rq.prm 3) 64 65536 = true)) := by decide +kernel

theorem witness_HostInterfaceCompletes_1 :
    (let s : State := wit id;
  let t : Nat := 0;
  let rq : Req := ask [115, 4, 0, 0];
  let d := s.dev.begin t;
  (Accepted d rq 4 [0]) ∧ (rq.prm 0 < 116 ∨ (128 ≤ rq.prm 0 ∧ rq.prm 0 < 144)) ∧ (rq.raw 1 % 4 = 0) ∧ (rq.prm 3 = 0)) := by decide +kernel

theorem witness_HostInterfaceCompletes_2 :
    (let s : State := wit id;
  let t : Nat := 0;
  let rq : Req := ask [0, 63, 4096, 0, 4096, 10240, 255];
  let d := s.dev.begin t;
  (Accepted d rq 7 [0]) ∧ (rq.prm 0 = 0) ∧ (rq.prm 1 ≤ 63) ∧ (rq.raw 2 % 4096 = 0) ∧ (isPow2 (rq.prm 4) 64 4096 = true) ∧ (256 ≤ rq.prm 5) ∧ (rq.prm 5 ≤ 10240) ∧ (rq.prm 5 % 64 = 0) ∧ (rq.prm 6 ≤ 255) ∧ ((d.rxRing (rq.prm 1)).reg = false)) := by decide +kernel

theorem witness_HostInterfaceCompletes_3 :
    (let s : State := wit id;
  let t : Nat := 0;
  let rq : Req := ask [1, 63, 4096, 0, 64, 256, 255, 7];
  let d := s.dev.begin t;
  (Accepted d rq 8 [0]) ∧ (rq.prm 7 ≤ 7) ∧ ((d.isReady (fnDs (rq.prm 7)) || d.isReady (fnUs (rq.prm 7))) = true) ∧ (rq.prm 0 = 1) ∧ (rq.prm 1 ≤ 63) ∧ (rq.raw 2 % 4096 = 0) ∧ (isPow2 (rq.prm 4) 64 4096 = true) ∧ (256 ≤ rq.prm 5) ∧ (rq.prm 5 ≤ 10240) ∧ (rq.prm 5 % 64 = 0) ∧ (rq.prm 6 ≤ 255) ∧ ((d.txRing (rq.prm 1)).reg = false)) := by decide +kernel

theorem witness_HostInterfaceCompletes_4 :
    (let s : State := wit id;
  let t : Nat := 0;
  let rq : Req := ask [1, 63];
  let d := s.dev.begin t;
  (Accepted d rq 2 [0]) ∧ (rq.prm 0 ≤ 1) ∧ (rq.prm 1 ≤ 63)) := by decide +kernel

theorem witness_HostInterfaceCompletes_5 :
    (let s : State := wit id;
  let t : Nat := 0;
  let rq : Req := ask (16 :: List.replicate 16 5);
  let d := s.dev.begin t;
  (Accepted d rq (1 + rq.prm 0) [0]) ∧ (rq.prm 0 ≤ 16)) := by decide +kernel

theorem witness_HostInterfaceCompletes_6 :
    (let s : State := wit id;
  let t : Nat := 0;
  let rq : Req := ask [63];
  let d := s.dev.begin t;
  (Accepted d rq 1 [0]) ∧ (rq.prm 0 ≤ 63)) := by decide +kernel

theorem witness_HostInterfaceCompletes_10 :
    (let s : State := wit id;
  let t : Nat := 0;
  let rq : Req := ask [];
  let d := s.dev.begin t;
  let q : Fin 256 := (0 : Fin 256);
  let v : Dword := 1;
  (v.getLsbD 0 = true)) := by decide +kernel

theorem witness_HostInterfaceCompletes_14 :
    (let s : State := wit (fun d => d.modHost fun h => { h with msix := { h.msix with enable := true, due := [(5, true)], table := [(5, { masked := false })] } });
  let t : Nat := 2 * Config.us;
  let rq : Req := ask [];
  let d := s.dev.begin t;
  let vec : Fin 2048 := 5;
  (d.host.msix.enable = true) ∧ (d.host.msix.due.get false vec.val = true) ∧ (d.host.msix.isMasked vec.val = false) ∧ (d.host.msix.last.get 0 vec.val = 0 ∨ d.host.msix.last.get 0 vec.val - 1 + 2 * Config.us ≤ d.now)) := by decide +kernel

theorem witness_HostInterfaceCompletes_17 :
    (let s : State := wit id;
  let t : Nat := 0;
  let rq : Req := ask [];
  let d := s.dev.begin t;
  let c : Fin 64 := 63;
  let cause : Fin 8 := 1;
  let e := (((d.modDma c.val fun x =>
        { halted := true, cause := cause.val, halts := min 65535 (x.halts + 1) }).due (729 + c.val)).raise qCtl 0x0E 3 c.val
          [cause.val]).haltUser c.val cause.val;
  (d.causeHolds cause.val = true) ∧ (d.dmaHalted c.val = false)) := by decide +kernel

theorem witness_HostInterfaceCompletes_18 :
    (let s : State := wit (fun d => d.modDma 63 fun x => { x with halted := true, cause := 6 });
  let t : Nat := 0;
  let rq : Req := ask [];
  let d := s.dev.begin t;
  let c : Fin 64 := 63;
  (d.dmaHalted c.val = true) ∧ ((d.host.dma.get {} c.val).cause = 6) ∧ (d.host.perst = false)) := by decide +kernel

theorem witness_CommandPathAndFirmwareComplete_0 :
    (let s : State := wit (fun d => d.modMbox 15 fun m => { m with cmd := [(0, 0x0E10), (1, 9)] });
  let t : Nat := 0;
  let rq : Req := ask [];
  let d := s.dev.begin t;
  let m : Fin 16 := 15;
  let host : List (List Dword) := [];
  let c : Cmd := cmdFwStatus;
  let params := (List.range (d.mbox m.val).length).map (d.mbox m.val).param;
  let r : Req := { mb := m, tag := (d.mbox m.val).tag, params := params, host := host };
  ((d.mbox m.val).indirect = false) ∧ ((d.mbox m.val).length ≤ 1021) ∧ (commandOf s.log (d.mbox m.val).opcode = some c) ∧ (d.runsNow m.val = true)) := by and_intros <;> first | decide +kernel | rfl

theorem witness_CommandPathAndFirmwareComplete_1 :
    (let s : State := wit (fun d => ((d.modMbox 15 fun m => { m with cmd := [(0, 0x0E10), (1, 9)] }).modMbox 3 fun m => { m with busy := true, fetching := some { opcode := 0x0616, tag := 9, addr := 4096, len := 80 } }).modHost fun h => { h with turns := [3] });
  let t : Nat := 0;
  let rq : Req := ask [];
  let d := s.dev.begin t;
  let m : Fin 16 := 15;
  let host : List (List Dword) := [];
  let c : Cmd := cmdFwStatus;
  let params := (List.range (d.mbox m.val).length).map (d.mbox m.val).param;
  let r : Req := { mb := m, tag := (d.mbox m.val).tag, params := params, host := host };
  ((d.mbox m.val).indirect = false) ∧ ((d.mbox m.val).length ≤ 1021) ∧ (commandOf s.log (d.mbox m.val).opcode = some c) ∧ (d.doorbellOk m.val = true) ∧ (d.runsNow m.val = false)) := by and_intros <;> first | decide +kernel | rfl

theorem witness_CommandPathAndFirmwareComplete_2 :
    (let s : State := wit (fun d => d.modMbox 15 fun m => { m with cmd := [(0, 0x80616), (1, 9), (2, 4), (5, 65536)] });
  let t : Nat := 0;
  let rq : Req := ask [];
  let d := s.dev.begin t;
  let m : Fin 16 := 15;
  let host : List (List Dword) := [];
  let c : Cmd := cmdRuleWrite;
  let len := ((d.mbox m.val).param 2).toNat % 2 ^ 20;
  (d.doorbellOk m.val = true) ∧ ((d.mbox m.val).indirect = true) ∧ ((d.mbox m.val).length = 4) ∧ (commandOf s.log (d.mbox m.val).opcode = some c) ∧ (d.dmaHalted m.val = false) ∧ (1 ≤ len) ∧ (len ≤ 65536) ∧ (((d.mbox m.val).param 0).toNat % 4 = 0)) := by and_intros <;> first | decide +kernel | rfl

theorem witness_CommandPathAndFirmwareComplete_3 :
    (let s : State := wit (fun d => (d.modHost fun h => { h with turns := [15] }).modMbox 15 fun m => { m with busy := true, fetching := some { opcode := 0x0616, tag := 9, addr := 4096, len := 80 } });
  let t : Nat := 0;
  let rq : Req := ask [];
  let d := s.dev.begin t;
  let m : Fin 16 := 15;
  let f : Fetching := ({ opcode := 0x0616, tag := 9, addr := 4096, len := 80 } : Fetching);
  let params : List Dword := [];
  let host : List (List Dword) := [];
  let c : Cmd := cmdRuleWrite;
  let e := d.modMbox m.val fun x => { x with fetching := some { f with held := some (params.take f.len, host) } };
  let r : Req := { mb := m, tag := f.tag, params := params.take f.len, host := host };
  ((d.mbox m.val).fetching = some f) ∧ (f.held = none) ∧ (d.dmaHalted m.val = false) ∧ (commandOf s.log f.opcode = some c)) := by and_intros <;> first | decide +kernel | rfl

theorem witness_CommandPathAndFirmwareComplete_4 :
    (let s : State := wit (fun d => (d.modHost fun h => { h with turns := [15] }).modMbox 15 fun m => { m with busy := true, fetching := some { opcode := 0x0616, tag := 9, addr := 4096, len := 80 } });
  let t : Nat := 0;
  let rq : Req := ask [];
  let d := s.dev.begin t;
  let m : Fin 16 := 15;
  let f : Fetching := ({ opcode := 0x0616, tag := 9, addr := 4096, len := 80 } : Fetching);
  let params : List Dword := [];
  let host : List (List Dword) := [];
  let c : Cmd := cmdRuleWrite;
  let e := d.modMbox m.val fun x => { x with fetching := some { f with held := some (params.take f.len, host) } };
  let r : Req := { mb := m, tag := f.tag, params := params.take f.len, host := host };
  let ms := ([] : List Nat);
  ((d.mbox m.val).fetching = some f) ∧ (f.held = none) ∧ (d.dmaHalted m.val = false) ∧ (commandOf s.log f.opcode = some c) ∧ (d.host.turns = m.val :: ms)) := by and_intros <;> first | decide +kernel | rfl

theorem witness_CommandPathAndFirmwareComplete_5 :
    (let s : State := wit (fun d => ((d.modHost fun h => { h with turns := [3, 15] }).modMbox 15 fun m => { m with busy := true, fetching := some { opcode := 0x0616, tag := 9, addr := 4096, len := 80 } }).modMbox 3 fun m => { m with busy := true, fetching := some { opcode := 0x0616, tag := 9, addr := 4096, len := 80 } });
  let t : Nat := 0;
  let rq : Req := ask [];
  let d := s.dev.begin t;
  let m : Fin 16 := 15;
  let f : Fetching := ({ opcode := 0x0616, tag := 9, addr := 4096, len := 80 } : Fetching);
  let params : List Dword := [];
  let host : List (List Dword) := [];
  let c : Cmd := cmdRuleWrite;
  let e := d.modMbox m.val fun x => { x with fetching := some { f with held := some (params.take f.len, host) } };
  let r : Req := { mb := m, tag := f.tag, params := params.take f.len, host := host };
  let n := (3 : Nat);
  let f' := ({ opcode := 0x0616, tag := 9, addr := 4096, len := 80 } : Fetching);
  let ms := ([15] : List Nat);
  ((d.mbox m.val).fetching = some f) ∧ (f.held = none) ∧ (d.dmaHalted m.val = false) ∧ (commandOf s.log f.opcode = some c) ∧ (d.host.turns = n :: ms) ∧ (n ≠ m.val) ∧ ((d.mbox n).fetching = some f') ∧ (f'.held = none)) := by and_intros <;> first | decide +kernel | rfl

theorem witness_CommandPathAndFirmwareComplete_6 :
    (let s : State := wit id;
  let t : Nat := 0;
  let rq : Req := ask [];
  let d := s.dev.begin t;
  (Accepted d rq 0 [0])) := by decide +kernel

theorem witness_CommandPathAndFirmwareComplete_7 :
    (let s : State := wit id;
  let t : Nat := 0;
  let rq : Req := ask [1, 4096, 0, 32, 0];
  let d := s.dev.begin t;
  (Accepted d rq 5 [0]) ∧ (rq.prm 0 ≤ 1) ∧ (rq.raw 1 % 4 = 0) ∧ (rq.prm 3 ≤ 63) ∧ (1 ≤ rq.wide2 3) ∧ (rq.wide2 3 ≤ 33554432) ∧ (d.host.boot.source ≠ rq.prm 0) ∧ (d.host.fw.update = 0) ∧ (d.host.fw.loading = none)) := by decide +kernel

theorem witness_CommandPathAndFirmwareComplete_8 :
    (let s : State := wit id;
  let t : Nat := 0;
  let rq : Req := ask [1];
  let d := s.dev.begin t;
  (Accepted d rq 1 [0]) ∧ (d.isReady 2 = true) ∧ (rq.prm 0 ≤ 1) ∧ (d.host.fw.update = 0) ∧ (d.host.fw.loading = none) ∧ (d.anySecret = false) ∧ ((d.wake 5 causeHost).isOn (d.wake 5 causeHost).idleHalf = true)) := by decide +kernel

theorem witness_CommandPathAndFirmwareComplete_9 :
    (let s : State := wit (fun d => (d.modHost fun h => { h with jobs := [{ mb := 15, tag := 9, opcode := 0x0E11 }] }).modFw fun f => { f with loading := some 1 });
  let t : Nat := 0;
  let rq : Req := ask [];
  let d := s.dev.begin t;
  let j : Job := { mb := 15, tag := 9, opcode := 0x0E11 };
  let k : Nat := 1;
  let x : FwImage := goodImage;
  let m : Fin 16 := 15;
  let tag : Word := 9;
  ((d.host.jobs.find? fun j => j.mb == m.val && j.tag == tag && (j.opcode == 0x0E11 || j.opcode == 0x0E12)) = some j) ∧ (j.opcode = 0x0E11) ∧ (d.host.fw.loading = some k) ∧ (d.dmaHalted 60 = false) ∧ (x.verify d.vault.fuses = 1)) := by and_intros <;> first | decide +kernel | exact goodImage_verifies _ (by decide +kernel) (by decide +kernel)

theorem witness_CommandPathAndFirmwareComplete_10 :
    (let s : State := wit (fun d => (d.modHost fun h => { h with jobs := [{ mb := 15, tag := 9, opcode := 0x0E12 }] }).modFw fun f => { f with update := 2, updSlot := 1 });
  let t : Nat := 0;
  let rq : Req := ask [];
  let d := s.dev.begin t;
  let j : Job := ({ mb := 15, tag := 9, opcode := 0x0E12 } : Job);
  let x := d.snapSigned;
  let e := (((x.vaultHandover (d.host.slots.get {} d.host.fw.updSlot)).swapHalves).modFw fun f => { f with update := 0 }).bootStep fun b =>
        { b with source := d.host.fw.updSlot };
  (d.devNs % 125000 = 0) ∧ (d.host.fw.swapping = false) ∧ (d.host.fw.update = 2) ∧ (e.updateJob = some j)) := by decide +kernel

theorem witness_CommandPathAndFirmwareComplete_11 :
    (let s : State := wit (fun d => d.modHost fun h => { h with boot := { h.boot with source := 1 }, slots := [(1, { present := true })] });
  let t : Nat := 0;
  let rq : Req := ask [];
  let d := s.dev.begin t;
  let core : Fin 8 := (0 : Fin 8);
  let addr : Nat := 0;
  let page : Nat := 0;
  let sram : Option Bool := none;
  let e := match sram with | some data => d.sramBad core.val (if data then 21 else 20) (addr / 32) | none => d;
  let e := (e.modFw fun f =>
        { f with
          faults := lastN 16 (f.faults ++ [{ core := core.val, addr := addr, page := page, time := d.now, devNs := d.devNs }])
          memFault := f.memFault.set 0 core.val 0 }).raise qCtl 0x0E 4 core.val [addr / 2 ^ 20 % 2 ^ 20, addr % 2 ^ 20];
  (d.host.fw.running = true) ∧ (d.host.fw.swapping = false) ∧ (∀ f ∈ d.host.fw.faults, f.page = page → f.time + Config.sec < d.now) ∧ (d.host.boot.source < 2) ∧ ((d.host.slots.get {} d.host.boot.source).present = true)) := by decide +kernel

theorem witness_ObserveCommandsComplete_0 :
    (let s : State := wit id;
  let t : Nat := 0;
  let rq : Req := ask [7, 252, 0];
  let d := s.dev.begin t;
  let up := rq.prm 0 ≤ 7 ∧ (d.isReady (fnDs (rq.prm 0)) || d.isReady (fnUs (rq.prm 0))) = true;
  (Accepted d rq 3 []) ∧ (up) ∧ (rq.prm 1 ≤ 255) ∧ (rq.prm 1 % 4 = 0) ∧ (rq.prm 2 = 0)) := by decide +kernel

theorem witness_ObserveCommandsComplete_1 :
    (let s : State := wit id;
  let t : Nat := 0;
  let rq : Req := ask [152, 0, 1];
  let d := s.dev.begin t;
  let up := rq.prm 0 ≤ 7 ∧ (d.isReady (fnDs (rq.prm 0)) || d.isReady (fnUs (rq.prm 0))) = true;
  let c : CN := .stepsMade;
  (Accepted d rq 3 [0]) ∧ (allCounts[rq.prm 0]? = some c) ∧ (c.scope = .device) ∧ (c.inBlocks = false) ∧ (1 ≤ rq.prm 2) ∧ (rq.prm 1 + rq.prm 2 ≤ c.subs)) := by decide +kernel

theorem witness_ObserveCommandsComplete_2 :
    (let s : State := wit id;
  let t : Nat := 0;
  let rq : Req := ask [0, 0];
  let d := s.dev.begin t;
  let up := rq.prm 0 ≤ 7 ∧ (d.isReady (fnDs (rq.prm 0)) || d.isReady (fnUs (rq.prm 0))) = true;
  (Accepted d rq 2 []) ∧ (up) ∧ (rq.prm 1 ≤ 1000000)) := by decide +kernel

theorem witness_ObserveCommandsComplete_3 :
    (let s : State := wit id;
  let t : Nat := 0;
  let rq : Req := ask [0, 0, 0, 0, 0, 0, 0, 0, 0, 0, 0, 0, 0, 0, 0, 0, 0];
  let d := s.dev.begin t;
  let up := rq.prm 0 ≤ 7 ∧ (d.isReady (fnDs (rq.prm 0)) || d.isReady (fnUs (rq.prm 0))) = true;
  (Accepted d rq 17 []) ∧ (up) ∧ (∀ i < 16, (perfOf (rq.prm (1 + i))).badSel = false)) := by decide +kernel

theorem witness_ObserveCommandsComplete_4 :
    (let s : State := wit id;
  let t : Nat := 0;
  let rq : Req := ask [7, 1];
  let d := s.dev.begin t;
  let up := rq.prm 0 ≤ 7 ∧ (d.isReady (fnDs (rq.prm 0)) || d.isReady (fnUs (rq.prm 0))) = true;
  (Accepted d rq 2 []) ∧ (up) ∧ (rq.prm 1 = 1)) := by decide +kernel

theorem witness_ObserveCommandsComplete_5 :
    (let s : State := wit id;
  let t : Nat := 0;
  let rq : Req := ask [7, 1, 0, 0, 15, 1, 2, 3];
  let d := s.dev.begin t;
  let up := rq.prm 0 ≤ 7 ∧ (d.isReady (fnDs (rq.prm 0)) || d.isReady (fnUs (rq.prm 0))) = true;
  (Accepted d rq 8 []) ∧ (rq.prm 0 ≤ 7) ∧ (rq.prm 1 ≤ 1) ∧ (d.isReady (11 + 2 * rq.prm 0 + rq.prm 1) = true) ∧ (rq.prm 4 ≤ 15) ∧ (rq.wideN 4 4 ≠ 0)) := by decide +kernel

theorem witness_ObserveCommandsComplete_6 :
    (let s : State := wit id;
  let t : Nat := 0;
  let rq : Req := ask [0, 0];
  let d := s.dev.begin t;
  let up := rq.prm 0 ≤ 7 ∧ (d.isReady (fnDs (rq.prm 0)) || d.isReady (fnUs (rq.prm 0))) = true;
  (Accepted d rq 2 [0]) ∧ (d.dmaHalted rq.mb.val = false) ∧ (rq.raw 0 % 4 = 0)) := by decide +kernel

theorem witness_ObserveCommandsComplete_8 :
    (let s : State := wit id;
  let t : Nat := Config.sec;
  let rq : Req := ask [];
  let d := s.dev.begin t;
  let up := rq.prm 0 ≤ 7 ∧ (d.isReady (fnDs (rq.prm 0)) || d.isReady (fnUs (rq.prm 0))) = true;
  let n : Fin 8 := 7;
  (d.timeOn = true)) := by decide +kernel

theorem witness_ObserveCommandsComplete_9 :
    (let s : State := wit id;
  let t : Nat := 0;
  let rq : Req := ask [];
  let d := s.dev.begin t;
  let up := rq.prm 0 ≤ 7 ∧ (d.isReady (fnDs (rq.prm 0)) || d.isReady (fnUs (rq.prm 0))) = true;
  let n : Fin 8 := 7;
  let e : Dev := (wit id).dev;
  let ns : Nat := 0;
  let k := ns / e.bwNs n.val;
  (k ≤ (e.slice n.val).obs.bwWin)) := by decide +kernel

theorem witness_ObserveCommandsComplete_10 :
    (let s : State := wit id;
  let t : Nat := 0;
  let rq : Req := ask [];
  let d := s.dev.begin t;
  let up := rq.prm 0 ≤ 7 ∧ (d.isReady (fnDs (rq.prm 0)) || d.isReady (fnUs (rq.prm 0))) = true;
  let n : Fin 8 := 7;
  let e : Dev := (wit id).dev;
  let ns : Nat := 10 ^ 9;
  let k := ns / e.bwNs n.val;
  ((e.slice n.val).obs.bwWin < k)) := by decide +kernel

theorem witness_TreeAndPortCommandsComplete_0 :
    (let s : State := wit id;
  let t : Nat := 0;
  let rq : Req := ask [63, 255, 1, 4095, 7];
  let d := s.dev.begin t;
  let e := d.setTree (rq.prm 0)
        { cfg := { configured := true, first := rq.prm 1, size := rq.prm 2, expId := rq.prm 3 * 2 ^ 20 + rq.prm 4 },
          dt := (d.tree (rq.prm 0)).dt, pitches := (d.tree (rq.prm 0)).pitches.filter fun p => p.phase == 3
          il := (d.tree (rq.prm 0)).il.filter fun w =>
            (d.tree (rq.prm 0)).pitches.any fun p => p.phase == 3 && w.entry.frame == p.frame && w.entry.pid == p.pid };
  (Accepted d rq 5 [27 + rq.prm 0 / 4]) ∧ (rq.prm 0 ≤ 63) ∧ (rq.prm 1 ≤ 255) ∧ (rq.prm 2 ∈ [1, 2, 4, 8, 16]) ∧ (rq.prm 3 ≤ 4095) ∧ (rq.prm 1 % 16 % rq.prm 2 = 0) ∧ (d.groupOverlaps (rq.prm 0) (rq.prm 1) (rq.prm 2) = false) ∧ (rq.prm 1 / 16 = rq.prm 0 / 4) ∧ ((d.tree (rq.prm 0)).cfg.configured = false) ∧ (d.testNear (rq.prm 1) (rq.prm 2) = false)) := by decide +kernel

theorem witness_TreeAndPortCommandsComplete_1 :
    (let s : State := wit (fun d => d.modTree 63 fun x => { x with cfg := { x.cfg with configured := true } });
  let t : Nat := 0;
  let rq : Req := ask [63];
  let d := s.dev.begin t;
  (Accepted d rq 1 [27 + rq.prm 0 / 4]) ∧ (rq.prm 0 ≤ 63) ∧ ((d.tree (rq.prm 0)).cfg.configured = true) ∧ ((d.tree (rq.prm 0)).cfg.pair = none)) := by decide +kernel

theorem witness_TreeAndPortCommandsComplete_2 :
    (let s : State := wit (fun d => (d.modTree 0 fun x => { x with cfg := { x.cfg with configured := true } }).modTree 4 fun x => { x with cfg := { x.cfg with configured := true } });
  let t : Nat := 0;
  let rq : Req := ask [0, 4];
  let d := s.dev.begin t;
  (Accepted d rq 2 [27 + rq.prm 0 / 4, 27 + rq.prm 1 / 4]) ∧ (rq.prm 0 ≤ 63) ∧ (rq.prm 1 ≤ 63) ∧ ((d.tree (rq.prm 0)).cfg.configured = true) ∧ ((d.tree (rq.prm 1)).cfg.configured = true) ∧ (rq.prm 0 / 8 = rq.prm 1 / 8) ∧ (rq.prm 0 / 4 ≠ rq.prm 1 / 4) ∧ ((d.tree (rq.prm 0)).cfg.pair = none) ∧ ((d.tree (rq.prm 1)).cfg.pair = none)) := by decide +kernel

theorem witness_TreeAndPortCommandsComplete_3 :
    (let s : State := wit (fun d => (d.modTree 0 fun x => { x with cfg := { x.cfg with configured := true, pair := some 4, working := true } }).modTree 4 fun x => { x with cfg := { x.cfg with configured := true, pair := some 0 } });
  let t : Nat := 0;
  let rq : Req := ask [0];
  let d := s.dev.begin t;
  let o : Nat := 4;
  let off := fun x : Tree =>
        { x with cfg := { x.cfg with pair := none, working := false, selProtect := false, switching := none, differ := false } };
  (Accepted d rq 1 [27 + rq.prm 0 / 4, 27 + o / 4]) ∧ (rq.prm 0 ≤ 63) ∧ (o ≤ 63) ∧ ((d.tree (rq.prm 0)).cfg.configured = true) ∧ ((d.tree (rq.prm 0)).cfg.pair = some o) ∧ ((d.tree (rq.prm 0)).cfg.working = true)) := by decide +kernel

theorem witness_TreeAndPortCommandsComplete_4 :
    (let s : State := wit id;
  let t : Nat := 0;
  let rq : Req := ask [248, 8, 3, 1, 1];
  let d := s.dev.begin t;
  let e := (d.modSys (rq.prm 0) fun x =>
          { x with width := rq.prm 1, mode := rq.prm 2, training := rq.prm 3 == 1, enabled := true }).forEach
        (d.portLanes (rq.prm 0)) fun l d => d.laneDown l;
  (Accepted d rq 5 [11 + 2 * (rq.prm 0 / 32), 12 + 2 * (rq.prm 0 / 32)]) ∧ (rq.prm 0 ≤ 255) ∧ (rq.prm 1 ∈ [1, 2, 4, 8]) ∧ (rq.prm 2 ≤ 3) ∧ (rq.prm 3 ≤ 1) ∧ (rq.prm 4 = 1) ∧ ((d.sysPort (rq.prm 0)).enabled = false) ∧ (rq.prm 0 % 16 % rq.prm 1 = 0) ∧ (rq.prm 0 % 16 + rq.prm 1 ≤ 16) ∧ (¬(rq.prm 2 = 3 ∧ rq.prm 1 = 1)) ∧ (d.sysOverlaps (rq.prm 0) (rq.prm 1) = false)) := by decide +kernel

theorem witness_LaneCommandsComplete_0 :
    (let s : State := wit id;
  let t : Nat := 0;
  let rq : Req := ask [1023, 53272, 1, 1];
  let d := s.dev.begin t;
  let l := rq.prm 0 / 2 ^ 9 % 2 * 256 + rq.prm 0 % 256;
  let rx := rq.prm 0 / 2 ^ 8 % 2 = 0;
  let tx := rq.prm 0 / 2 ^ 8 % 2 = 1;
  let w := d.wake ((laneDoms l).getD (if tx then 0 else 1) 0) causeHost;
  let taps : Taps := { pre := rq.prm 1 / 2 ^ 15 % 2 ^ 5, main := rq.prm 1 / 2 ^ 9 % 2 ^ 6, post := rq.prm 1 / 2 ^ 3 % 2 ^ 6, source := 3 };
  (Accepted d rq 4 (laneNeed l true)) ∧ (tx) ∧ (rq.prm 2 ≤ 1) ∧ (rq.prm 3 ≤ 1) ∧ (256 ≤ l) ∧ (d.laneTrained l = false) ∧ (tapsOk taps.pre taps.main taps.post = true)) := by decide +kernel

theorem witness_LaneCommandsComplete_1 :
    (let s : State := wit id;
  let t : Nat := 0;
  let rq : Req := ask [1023, 0, 1, 1];
  let d := s.dev.begin t;
  let l := rq.prm 0 / 2 ^ 9 % 2 * 256 + rq.prm 0 % 256;
  let rx := rq.prm 0 / 2 ^ 8 % 2 = 0;
  let tx := rq.prm 0 / 2 ^ 8 % 2 = 1;
  let w := d.wake ((laneDoms l).getD (if tx then 0 else 1) 0) causeHost;
  let taps : Taps := { pre := rq.prm 1 / 2 ^ 15 % 2 ^ 5, main := rq.prm 1 / 2 ^ 9 % 2 ^ 6, post := rq.prm 1 / 2 ^ 3 % 2 ^ 6, source := 3 };
  (Accepted d rq 4 (laneNeed l true)) ∧ (tx) ∧ (rq.prm 2 ≤ 1) ∧ (rq.prm 3 ≤ 1) ∧ (256 ≤ l) ∧ (d.laneTrained l = false) ∧ (tapsOk taps.pre taps.main taps.post = false)) := by decide +kernel

theorem witness_LaneCommandsComplete_2 :
    (let s : State := wit id;
  let t : Nat := 0;
  let rq : Req := ask [511, 0, 1, 1];
  let d := s.dev.begin t;
  let l := rq.prm 0 / 2 ^ 9 % 2 * 256 + rq.prm 0 % 256;
  let rx := rq.prm 0 / 2 ^ 8 % 2 = 0;
  let tx := rq.prm 0 / 2 ^ 8 % 2 = 1;
  let w := d.wake ((laneDoms l).getD (if tx then 0 else 1) 0) causeHost;
  (Accepted d rq 4 (laneNeed l true)) ∧ (tx) ∧ (rq.prm 2 ≤ 1) ∧ (rq.prm 3 ≤ 1) ∧ (l < 256 ∨ d.laneTrained l = true)) := by decide +kernel

theorem witness_LaneCommandsComplete_3 :
    (let s : State := wit id;
  let t : Nat := 0;
  let rq : Req := ask [767, 10240];
  let d := s.dev.begin t;
  let l := rq.prm 0 / 2 ^ 9 % 2 * 256 + rq.prm 0 % 256;
  let rx := rq.prm 0 / 2 ^ 8 % 2 = 0;
  let tx := rq.prm 0 / 2 ^ 8 % 2 = 1;
  let w := d.wake ((laneDoms l).getD (if tx then 0 else 1) 0) causeHost;
  let e := w.modRx l fun x =>
        { x with
          dfeMode := rq.prm 1 / 2 ^ 12 % 4, polMode := rq.prm 1 / 2 ^ 10 % 4, precode := rq.prm 1 / 2 ^ 9 % 2 == 1
          marginMin := max 1 (rq.prm 1 % 2 ^ 5)
          polInv := if rq.prm 1 / 2 ^ 10 % 4 = 1 then false else if rq.prm 1 / 2 ^ 10 % 4 = 2 then true else x.polInv };
  (Accepted d rq 2 (laneNeed l false)) ∧ (rx) ∧ (rq.prm 1 / 2 ^ 12 % 4 ≠ 3) ∧ (rq.prm 1 / 2 ^ 10 % 4 ≠ 3)) := by decide +kernel

theorem witness_LaneCommandsComplete_4 :
    (let s : State := wit id;
  let t : Nat := 0;
  let rq : Req := ask [1023, 9, 1];
  let d := s.dev.begin t;
  let l := rq.prm 0 / 2 ^ 9 % 2 * 256 + rq.prm 0 % 256;
  let rx := rq.prm 0 / 2 ^ 8 % 2 = 0;
  let tx := rq.prm 0 / 2 ^ 8 % 2 = 1;
  let w := d.wake ((laneDoms l).getD (if tx then 0 else 1) 0) causeHost;
  let e := ((d.wakeAll (laneDoms l) causeHost).modTx l fun x => { x with pattern := rq.prm 1, cut := false }).modRx l fun x =>
        { x with
          pattern := rq.prm 1, loopback := rq.prm 2 == 1 && d.testable l, chkLock := false
          chkSymbols := 0, errSymbols := 0, errBits := 0, lockLoss := 0 };
  let f := match (if e.patternTest l ∧ 256 ≤ l then e.sysPortOfLane (l - 256) else none) with
        | some p => e.linkDown p
        | none => e;
  let g := if rq.prm 1 = 0 then f else f.injectNow l;
  (Accepted d rq 3 (laneNeed l (rq.prm 0 / 2 ^ 8 % 2 == 1))) ∧ (rq.prm 1 ≤ 9) ∧ (rq.prm 2 ≤ 1) ∧ (7 ≤ rq.prm 1 → d.laneMode l ≠ 3) ∧ (rq.prm 1 ≠ 0 → d.testable l = true)) := by decide +kernel

theorem witness_LaneCommandsComplete_5 :
    (let s : State := wit id;
  let t : Nat := 0;
  let rq : Req := ask [1023, 3, 0, 1, 15];
  let d := s.dev.begin t;
  let l := rq.prm 0 / 2 ^ 9 % 2 * 256 + rq.prm 0 % 256;
  let rx := rq.prm 0 / 2 ^ 8 % 2 = 0;
  let tx := rq.prm 0 / 2 ^ 8 % 2 = 1;
  let w := d.wake ((laneDoms l).getD (if tx then 0 else 1) 0) causeHost;
  let e := w.modTx l fun x =>
        { x with
          inject := rq.prm 1, injLen := rq.prm 2, injN := rq.prm 3, injE := rq.prm 4, injCount := 0, injFrom := w.symbolNow l };
  (Accepted d rq 5 (laneNeed l true)) ∧ (tx) ∧ (rq.prm 1 ≤ 3) ∧ (rq.prm 1 = 2 → rq.within 2 1 255) ∧ (rq.prm 1 = 3 → 1 ≤ rq.prm 3 ∧ rq.prm 4 ≤ 15)) := by decide +kernel

theorem witness_LaneCommandsComplete_6 :
    (let s : State := wit id;
  let t : Nat := 0;
  let rq : Req := ask [767, 7, 0, 63, 0, 127, 5, 4, 0];
  let d := s.dev.begin t;
  let l := rq.prm 0 / 2 ^ 9 % 2 * 256 + rq.prm 0 % 256;
  let rx := rq.prm 0 / 2 ^ 8 % 2 = 0;
  let tx := rq.prm 0 / 2 ^ 8 % 2 = 1;
  let w := d.wake ((laneDoms l).getD (if tx then 0 else 1) 0) causeHost;
  let j : Job := { mb := rq.mb.val, tag := rq.tag, opcode := 0x0214, params := rq.params.map (·.toNat), host := rq.host };
  let e : Dev := { d with
        scanQ := d.scanQ ++ [l], host := { d.host with jobs := d.host.jobs ++ [j] }
        scans := d.scans.set none l (some
          { mask := rq.prm 1, vLo := rq.prm 2, vHi := rq.prm 3, pLo := rq.prm 4, pHi := rq.prm 5, depth := rq.prm 6
            addr := rq.raw 7 + rq.raw 8 * 2 ^ 32, job := j }) };
  (Accepted d rq 9 (laneNeed l false)) ∧ (rx) ∧ (d.dmaHalted rq.mb.val = false) ∧ (1 ≤ rq.prm 1) ∧ (rq.prm 1 ≤ (if d.laneMode l = 3 then 1 else 7)) ∧ (rq.prm 2 ≤ rq.prm 3) ∧ (rq.prm 3 ≤ 63) ∧ (rq.prm 4 ≤ rq.prm 5) ∧ (rq.prm 5 ≤ 127) ∧ (rq.prm 6 ≤ 5) ∧ (rq.raw 7 % 4 = 0) ∧ (d.scans.get none l = none)) := by decide +kernel

theorem witness_LaneCommandsComplete_7 :
    (let s : State := wit (fun d => { d with scans := [(511, some { job := { mb := 0, tag := 7, opcode := 0x0214 } })] });
  let t : Nat := 0;
  let rq : Req := ask [767];
  let d := s.dev.begin t;
  let l := rq.prm 0 / 2 ^ 9 % 2 * 256 + rq.prm 0 % 256;
  let rx := rq.prm 0 / 2 ^ 8 % 2 = 0;
  let tx := rq.prm 0 / 2 ^ 8 % 2 = 1;
  let w := d.wake ((laneDoms l).getD (if tx then 0 else 1) 0) causeHost;
  (Accepted d rq 1 (laneNeed l false)) ∧ (rx) ∧ (d.scans.get none l ≠ none)) := by decide +kernel

theorem witness_LaneCommandsComplete_8 :
    (let s : State := wit id;
  let t : Nat := 0;
  let rq : Req := ask [767];
  let d := s.dev.begin t;
  let l := rq.prm 0 / 2 ^ 9 % 2 * 256 + rq.prm 0 % 256;
  let rx := rq.prm 0 / 2 ^ 8 % 2 = 0;
  let tx := rq.prm 0 / 2 ^ 8 % 2 = 1;
  let w := d.wake ((laneDoms l).getD (if tx then 0 else 1) 0) causeHost;
  (Accepted d rq 1 (laneNeed l (rq.prm 0 / 2 ^ 8 % 2 == 1)))) := by decide +kernel

theorem witness_LaneEventsComplete_0 :
    (let s : State := wit (fun d => d.modSys 0 fun x => { x with width := 1, enabled := true });
  let t : Nat := 0;
  let d := s.dev.begin t;
  let l : Fin 512 := 256;
  let e := d.modRx l.val fun x => { x with cdr := true, noSignal := false };
  ((d.rxLane l.val).cdr = false) ∧ (d.laneNeeded l.val = true) ∧ (d.isOn ((laneDoms l.val).getD 1 0) = true) ∧ ((d.rxLane l.val).openNow = 0) ∧ ((d.rxLane l.val).losNow = false)) := by decide +kernel

theorem witness_LaneEventsComplete_2 :
    (let s : State := wit id;
  let t : Nat := 0;
  let d := s.dev.begin t;
  let p : Fin 16 := (0 : Fin 16);
  ((d.port p.val).los = false)) := by decide +kernel

theorem witness_LaneEventsComplete_3 :
    (let s : State := wit (fun d => d.modPort 15 fun x => { x with los := true });
  let t : Nat := 0;
  let d := s.dev.begin t;
  let p : Fin 16 := 15;
  ((d.port p.val).los = true)) := by decide +kernel

theorem witness_LaneEventsComplete_4 :
    (let s : State := wit id;
  let t : Nat := 0;
  let d := s.dev.begin t;
  let l : Fin 512 := (0 : Fin 512);
  let leg : Fin 2 := (0 : Fin 2);
  let x : LaneTail := {};
  let e := ((d.lastTail l.val x).modRx l.val fun x =>
        { x with openNow := x.openNow + (leg.val + 1), openP := x.openP || leg.val == 0, openN := x.openN || leg.val == 1 }).noSignal l.val;
  ((d.rxLane l.val).openNow.testBit leg.val = false)) := by decide +kernel

theorem witness_LaneEventsComplete_5 :
    (let s : State := wit (fun d => d.modRx 511 fun x => { x with openNow := 2 });
  let t : Nat := 0;
  let d := s.dev.begin t;
  let l : Fin 512 := 511;
  let leg : Fin 2 := 1;
  ((d.rxLane l.val).openNow.testBit leg.val = true)) := by decide +kernel

theorem witness_LaneEventsComplete_6 :
    (let s : State := wit id;
  let t : Nat := 0;
  let d := s.dev.begin t;
  let l : Fin 512 := (0 : Fin 512);
  ((d.txLane l.val).short = false)) := by decide +kernel

theorem witness_LaneEventsComplete_7 :
    (let s : State := wit (fun d => d.modTx 511 fun x => { x with short := true });
  let t : Nat := 0;
  let d := s.dev.begin t;
  let l : Fin 512 := 511;
  ((d.txLane l.val).short = true)) := by decide +kernel

theorem witness_LaneEventsComplete_8 :
    (let s : State := wit (fun d => d.modRx 255 fun x => { x with marginMin := 5 });
  let t : Nat := 0;
  let d := s.dev.begin t;
  let l : Fin 512 := 255;
  let margin : Nat := 4;
  (l.val < 256) ∧ ((d.rxLane l.val).dfeMode = 0) ∧ (margin < (d.rxLane l.val).marginMin) ∧ ((d.rxLane l.val).dfe = false)) := by decide +kernel

theorem witness_LaneEventsComplete_9 :
    (let s : State := wit (fun d => { d with scans := [(511, some ({ mask := 1, vLo := 0, vHi := 1, pLo := 0, pHi := 0, job := { mb := 0, tag := 7, opcode := 0x0214 }, running := true } : EyeScan))] });
  let t : Nat := 0;
  let d := s.dev.begin t;
  let l : Fin 512 := 511;
  let x : EyeScan := ({ mask := 1, vLo := 0, vHi := 1, pLo := 0, pHi := 0, job := { mb := 0, tag := 7, opcode := 0x0214 }, running := true } : EyeScan);
  let errors : Nat := 64;
  let symbols : Nat := 64;
  let e := d.out (.dma x.job.mb (x.addr + 12 * x.clean.length)
        (toDwords [errors, symbols / 2 ^ 20 % 2 ^ 20, symbols % 2 ^ 20]));
  (d.scans.get none l.val = some x) ∧ (x.running = true) ∧ (x.paused = false) ∧ (errors = 64 ∧ 64 ≤ symbols ∧ symbols ≤ 3 * 10 ^ (6 + x.depth) ∨ errors < 64 ∧ symbols = 3 * 10 ^ (6 + x.depth)) ∧ (x.clean.length + 1 < x.points)) := by decide +kernel

theorem witness_LaneEventsComplete_10 :
    (let s : State := wit (fun d => { d with scans := [(511, some ({ mask := 1, vLo := 0, vHi := 1, pLo := 0, pHi := 0, job := { mb := 0, tag := 7, opcode := 0x0214 }, running := true, clean := [true] } : EyeScan))] });
  let t : Nat := 0;
  let d := s.dev.begin t;
  let l : Fin 512 := 511;
  let x : EyeScan := ({ mask := 1, vLo := 0, vHi := 1, pLo := 0, pHi := 0, job := { mb := 0, tag := 7, opcode := 0x0214 }, running := true, clean := [true] } : EyeScan);
  let errors : Nat := 0;
  let symbols : Nat := 3 * 10 ^ 9;
  let e := d.out (.dma x.job.mb (x.addr + 12 * x.clean.length)
        (toDwords [errors, symbols / 2 ^ 20 % 2 ^ 20, symbols % 2 ^ 20]));
  (d.scans.get none l.val = some x) ∧ (x.running = true) ∧ (x.paused = false) ∧ (errors = 64 ∧ 64 ≤ symbols ∧ symbols ≤ 3 * 10 ^ (6 + x.depth) ∨ errors < 64 ∧ symbols = 3 * 10 ^ (6 + x.depth)) ∧ (x.clean.length + 1 = x.points)) := by decide +kernel

theorem witness_LaneEventsComplete_11 :
    (let s : State := wit (fun d => { d with scans := [(511, some ({ mask := 1, vLo := 0, vHi := 1, pLo := 0, pHi := 0, job := { mb := 0, tag := 7, opcode := 0x0214 }, running := true, paused := true } : EyeScan))] });
  let t : Nat := Config.sec;
  let d := s.dev.begin t;
  let l : Fin 512 := 511;
  let x : EyeScan := ({ mask := 1, vLo := 0, vHi := 1, pLo := 0, pHi := 0, job := { mb := 0, tag := 7, opcode := 0x0214 }, running := true, paused := true } : EyeScan);
  (d.scans.get none l.val = some x) ∧ (x.running = true) ∧ (x.paused = true) ∧ (x.lostAt + Config.sec ≤ d.now)) := by decide +kernel

theorem witness_LaneEventsComplete_12 :
    (let s : State := wit (fun d => (d.modRx 255 fun x => { x with cdr := true }).modAlign 255 fun x => { x with st := 0 });
  let t : Nat := 0;
  let d := s.dev.begin t;
  let l : Fin 256 := 255;
  let rejected : List (List (BitVec 2)) := [List.replicate 5 1 ++ [3]];
  let headers : List (BitVec 2) := List.replicate 1024 1;
  let n := (d.align l.val).cand + rejected.length;
  let c := if (d.rxLane l.val).polMode = 1 then n % 2700 else if (d.rxLane l.val).polMode = 2 then 2700 + n % 2700 else n % 5400;
  ((d.rxLane l.val).cdr = true) ∧ ((d.align l.val).st = 0) ∧ (∀ r ∈ rejected, ∃ h ∈ r.take 1024, h = 0 ∨ h = 3) ∧ (1024 ≤ headers.length) ∧ (∀ h ∈ headers.take 1024, h = 1 ∨ h = 2)) := by decide +kernel

theorem witness_LaneEventsComplete_13 :
    (let s : State := wit (fun d => d.modAlign 255 fun x => { x with st := 1 });
  let t : Nat := 0;
  let d := s.dev.begin t;
  let l : Fin 256 := 255;
  let last : List (BitVec 2) := List.replicate 16 3;
  let x : LaneTail := {};
  ((d.align l.val).st ≠ 0) ∧ (last.length ≤ 1024) ∧ (16 ≤ (last.filter fun h => h == 0 || h == 3).length)) := by decide +kernel

theorem witness_LaneEventsComplete_14 :
    (let s : State := wit (fun d => d.modRx 511 fun x => { x with pattern := 9 });
  let t : Nat := 0;
  let d := s.dev.begin t;
  let l : Fin 512 := 511;
  let c : CheckTail := {};
  ((d.rxLane l.val).pattern ≠ 0) ∧ ((d.rxLane l.val).chkLock = false)) := by decide +kernel

theorem witness_LaneEventsComplete_15 :
    (let s : State := wit (fun d => d.modRx 511 fun x => { x with chkLock := true });
  let t : Nat := 0;
  let d := s.dev.begin t;
  let l : Fin 512 := 511;
  let errs : BitVec 64 := 0xFFFFFFFF;
  let c : CheckTail := {};
  ((d.rxLane l.val).chkLock = true) ∧ (32 ≤ ((List.range 64).filter fun i => errs.getLsbD i).length)) := by decide +kernel

theorem witness_LaneEventsComplete_16 :
    (let s : State := wit (fun d => d.modSys 255 fun x => { x with width := 1, enabled := true });
  let t : Nat := 0;
  let d := s.dev.begin t;
  let p : Fin 256 := 255;
  let lanes : List LinkLane := [];
  let e := ((d.modSys p.val fun x => { x with up := true, trained := false }).modEgress p.val fun e => { e with emptySince := d.now }).forEach
        ((d.portLanes p.val).zip (List.range 8)) fun (l, i) d =>
          ((d.cdrLock l).setPol l (lanes.getD i {}).inv).setShuffled l (lanes.getD i {}).moved;
  ((d.sysPort p.val).width ≠ 0) ∧ ((d.sysPort p.val).enabled = true) ∧ ((d.sysPort p.val).up = false) ∧ ((d.sysPort p.val).training = false) ∧ ((d.portLanes p.val).any d.patternTest = false) ∧ (∀ e ∈ (d.portLanes p.val).zip (List.range 8), polAllows (d.rxLane e.1).polMode (lanes.getD e.2 {}).inv = true)) := by decide +kernel

theorem witness_LaneEventsComplete_17 :
    (let s : State := wit (fun d => d.modSys 255 fun x => { x with up := true });
  let t : Nat := 0;
  let d := s.dev.begin t;
  let p : Fin 256 := 255;
  ((d.sysPort p.val).up = true)) := by decide +kernel

theorem witness_MemoryCommandsComplete_0 :
    (let s : State := wit id;
  let t : Nat := 0;
  let rq : Req := ask [7, 0, 0, 0];
  let d := s.dev.begin t;
  let n := rq.prm 0;
  let w := d.wake (55 + n) causeHost;
  (n ≤ 7) ∧ (w.isReady (3 + n) = true) ∧ (Accepted d rq 4 [])) := by decide +kernel

theorem witness_MemoryCommandsComplete_1 :
    (let s : State := wit id;
  let t : Nat := 0;
  let rq : Req := ask [7];
  let d := s.dev.begin t;
  let n := rq.prm 0;
  let w := d.wake (55 + n) causeHost;
  (n ≤ 7) ∧ (w.isReady (3 + n) = true) ∧ (Accepted d rq 1 [])) := by decide +kernel

theorem witness_MemoryCommandsComplete_2 :
    (let s : State := wit id;
  let t : Nat := 0;
  let rq : Req := ask [7, 3072, 0, 0, 32, 1, 1];
  let d := s.dev.begin t;
  let n := rq.prm 0;
  let w := d.wake (55 + n) causeHost;
  (n ≤ 7) ∧ (w.isReady (3 + n) = true) ∧ (Accepted d rq 7 []) ∧ (rq.prm 1 ≤ 65535) ∧ (rq.wide2 1 % 32 = 0) ∧ (rq.prm 3 ≤ 65535) ∧ (rq.wide2 3 % 32 = 0) ∧ (0 < rq.wide2 3) ∧ (rq.wide2 1 + rq.wide2 3 ≤ (if rq.prm 6 = 1 then rankBytes else 3 * rankBytes)) ∧ (rq.prm 5 ≤ 1) ∧ (rq.prm 6 ≤ 1) ∧ (rq.prm 6 = 1 → (w.stack n).map.spareValid = true) ∧ ((w.stack n).scrub = none)) := by decide +kernel

theorem witness_MemoryCommandsComplete_3 :
    (let s : State := wit (fun d => d.modStack 7 fun m => { m with scrub := some {} });
  let t : Nat := 0;
  let rq : Req := ask [7];
  let d := s.dev.begin t;
  let n := rq.prm 0;
  let w := d.wake (55 + n) causeHost;
  let x : Scrub := {};
  (n ≤ 7) ∧ (w.isReady (3 + n) = true) ∧ (Accepted d rq 1 []) ∧ ((w.stack n).scrub = some x) ∧ (x.back = none)) := by decide +kernel

theorem witness_MemoryCommandsComplete_4 :
    (let s : State := wit (fun d => d.modStack 7 fun m => { m with scrub := some { back := some true } });
  let t : Nat := 0;
  let rq : Req := ask [7];
  let d := s.dev.begin t;
  let n := rq.prm 0;
  let w := d.wake (55 + n) causeHost;
  let x : Scrub := { back := some true };
  let v := true;
  (n ≤ 7) ∧ (w.isReady (3 + n) = true) ∧ (Accepted d rq 1 []) ∧ ((w.stack n).scrub = some x) ∧ (x.back = some v)) := by decide +kernel

theorem witness_MemoryCommandsComplete_5 :
    (let s : State := wit (fun d => d.modStack 7 fun m => { m with mig := some { dst := 3 } });
  let t : Nat := 0;
  let rq : Req := ask [7, 2];
  let d := s.dev.begin t;
  let n := rq.prm 0;
  let w := d.wake (55 + n) causeHost;
  let g := ({ dst := 3 } : Migration);
  (n ≤ 7) ∧ (w.isReady (3 + n) = true) ∧ (Accepted d rq 2 []) ∧ (rq.prm 1 ≤ 2) ∧ ((w.stack n).map.inService (rq.prm 1) = true) ∧ ((w.stack n).mig = some g)) := by decide +kernel

theorem witness_MemoryCommandsComplete_6 :
    (let s : State := wit id;
  let t : Nat := 0;
  let rq : Req := ask [7, 2];
  let d := s.dev.begin t;
  let n := rq.prm 0;
  let w := d.wake (55 + n) causeHost;
  let e := (w.modStack n fun m =>
          { m with
            mig := some { logical := rq.prm 1, src := m.map.phys (rq.prm 1), dst := m.map.spare, ptr := 0 }
            scrub := m.scrub.map fun x => { x with paused := true, flying := m.scrubFlying } }).raise (72 + n) 0x0B 2 n [rq.prm 1];
  (n ≤ 7) ∧ (w.isReady (3 + n) = true) ∧ (Accepted d rq 2 []) ∧ (rq.prm 1 ≤ 2) ∧ ((w.stack n).map.inService (rq.prm 1) = true) ∧ ((w.stack n).mig = none) ∧ ((w.stack n).map.spareValid = true)) := by decide +kernel

theorem witness_MemoryCommandsComplete_7 :
    (let s : State := wit id;
  let t : Nat := 0;
  let rq : Req := ask [7, 4, 0];
  let d := s.dev.begin t;
  let n := rq.prm 0;
  let w := d.wake (55 + n) causeHost;
  (n ≤ 7) ∧ (w.isReady (3 + n) = true) ∧ (Accepted d rq 3 []) ∧ (w.dmaHalted rq.mb.val = false) ∧ (rq.raw 1 % 4 = 0)) := by decide +kernel

theorem witness_MemoryEventsComplete_1 :
    (let s : State := wit id;
  let t : Nat := Config.sec;
  let n : Fin 8 := 7;
  let d := s.dev.begin t;
  let m := d.stack n.val;
  (d.timeOn = true)) := by decide +kernel

theorem witness_MemoryEventsComplete_2 :
    (let s : State := wit id;
  let t : Nat := 0;
  let n : Fin 8 := 7;
  let d := s.dev.begin t;
  let m := d.stack n.val;
  let e : Dev := (wit id).dev;
  let k := e.devNs / 32000000;
  (k ≤ (e.stack n.val).actWin)) := by decide +kernel

theorem witness_MemoryEventsComplete_3 :
    (let s : State := wit id;
  let t : Nat := 0;
  let n : Fin 8 := 7;
  let d := s.dev.begin t;
  let m := d.stack n.val;
  let e : Dev := (wit id).dev.advance Config.sec;
  let k := e.devNs / 32000000;
  ((e.stack n.val).actWin < k)) := by decide +kernel

theorem witness_MemoryEventsComplete_5 :
    (let s : State := wit (fun d => d.modStack 7 fun m => { m with scrub := some {} });
  let t : Nat := 0;
  let n : Fin 8 := 7;
  let d := s.dev.begin t;
  let m := d.stack n.val;
  let x : Scrub := {};
  (m.scrub = some x) ∧ (x.len ≤ x.done)) := by decide +kernel

theorem witness_MemoryEventsComplete_6 :
    (let s : State := wit (fun d => d.modStack 7 fun m => { m with mig := some { dst := 3, ptr := rankBytes } });
  let t : Nat := 0;
  let n : Fin 8 := 7;
  let d := s.dev.begin t;
  let m := d.stack n.val;
  let g : Migration := { dst := 3, ptr := rankBytes };
  let e : Dev := { d.modStack n.val fun m =>
        { m with
          map := { m.map.setPhys g.logical g.dst with spareValid := false, retired := m.map.retired ||| 2 ^ g.src }
          mig := none, pend := m.pend.filter fun r => !r.mig
          scrub := m.scrub.map fun x => { x with paused := false } } with recDirty := true };
  (m.mig = some g) ∧ (rankBytes ≤ g.ptr)) := by decide +kernel

theorem witness_MemoryEventsComplete_7 :
    (let s : State := wit (fun d => d.modStack 7 fun m => { m with oneCopy := true });
  let t : Nat := 0;
  let n : Fin 8 := 7;
  let d := s.dev.begin t;
  let m := d.stack n.val;
  (m.oneCopy = true) ∧ (m.map.active = 7) ∧ (m.map.ctrlA = 0)) := by decide +kernel

theorem witness_MemoryEventsComplete_9 :
    (let s : State := wit id;
  let t : Nat := 0;
  let n : Fin 8 := 7;
  let d := s.dev.begin t;
  let m := d.stack n.val;
  let name : Nat := (blockCounts.map (·.index)).getD 0 0;
  let inst : Nat := 0;
  let l := (0 : Nat);
  let rest := ([1] : List Nat);
  (∃ c ∈ blockCounts ++ aidCounts, c.index = name) ∧ (m.map.copies = l :: rest)) := by decide +kernel

theorem witness_MemoryEventsComplete_10 :
    (let s : State := wit id;
  let t : Nat := 0;
  let n : Fin 8 := (0 : Fin 8);
  let d := s.dev.begin t;
  let m := d.stack n.val;
  let w : WordRead := { syn := 0xA5C33CA5 };
  let held : Bool := false;
  (w.syn = 0xA5C33CA5)) := by decide +kernel

theorem witness_MemoryEventsComplete_11 :
    (let s : State := wit id;
  let t : Nat := 0;
  let n : Fin 8 := (0 : Fin 8);
  let d := s.dev.begin t;
  let m := d.stack n.val;
  let w : WordRead := {};
  let held : Bool := true;
  (w.syn ≠ 0xA5C33CA5) ∧ (held = true) ∧ (w.wrong = 0)) := by decide +kernel

theorem witness_MemoryEventsComplete_12 :
    (let s : State := wit id;
  let t : Nat := 0;
  let n : Fin 8 := (0 : Fin 8);
  let d := s.dev.begin t;
  let m := d.stack n.val;
  let w : WordRead := {};
  let held : Bool := false;
  (w.syn ≠ 0xA5C33CA5) ∧ (held = false) ∧ (w.wrong = 0)) := by decide +kernel

theorem witness_MemoryEventsComplete_13 :
    (let s : State := wit id;
  let t : Nat := 0;
  let n : Fin 8 := (0 : Fin 8);
  let d := s.dev.begin t;
  let m := d.stack n.val;
  let w : WordRead := { wrong := 1 };
  let held : Bool := false;
  (w.syn ≠ 0xA5C33CA5) ∧ (held = false) ∧ (w.wrong = 1)) := by decide +kernel

theorem witness_MemoryEventsComplete_14 :
    (let s : State := wit id;
  let t : Nat := 0;
  let n : Fin 8 := (0 : Fin 8);
  let d := s.dev.begin t;
  let m := d.stack n.val;
  let w : WordRead := { wrong := 2 };
  let held : Bool := false;
  (w.syn ≠ 0xA5C33CA5) ∧ (held = false) ∧ (w.wrong = 2)) := by decide +kernel

theorem witness_MemoryEventsComplete_15 :
    (let s : State := wit (fun d => d.modStack 7 fun m => { m with pend := [({ port := 0, write := true, addr := bufferAddr 0 0, prio := 5, part := true } : MemRq)] });
  let t : Nat := 0;
  let n : Fin 8 := 7;
  let d := s.dev.begin t;
  let m := d.stack n.val;
  let addr : Nat := bufferAddr 0 0;
  let use : ReadUse := .packetWrite 0 0;
  let w : WordRead := {};
  let die : Bool := false;
  let slot : MemSlot := { at_ := 204 * Config.ns, arrived := [] };
  let r : MemRq := ({ port := 0, write := true, addr := bufferAddr 0 0, prio := 5, part := true } : MemRq);
  let e := d.forEach slot.arrived (Dev.memArrive n.val);
  let f := e.modStack n.val fun m => m.granted (e.memStood n.val) slot.at_ r;
  let phys := (f.stack n.val).map.phys (addr / rankBytes);
  let res := w.result ((f.stack n.val).poisoned phys addr);
  let g := f.access n.val use.port phys addr false;
  let g := if die then g.bump .dieCorr n.val phys else g;
  let seen := fun e : Dev => match res with
        | .ok => e
        | .corrected => e.corrected n.val phys
        | .uncorrectable => e.badRead n.val use.port addr phys false
        | .poisoned => e.badRead n.val use.port addr phys true;
  let last := fun e : Dev => (seen e).runTurns s.log (seen e).host.turns;
  let bad := res = .uncorrectable ∨ res = .poisoned;
  let p := (0 : Nat);
  let i := (0 : Nat);
  let h := (g.modStack n.val fun m => { m with pend := m.pend.replace r { r with part := false, poison := res.bad } }).bump .rmw n.val r.port;
  (d.readFits n.val addr use = true) ∧ ((e.stack n.val).pend.find? (readAsked use addr) = some r) ∧ ((e.stack n.val).grants (e.memStood n.val) slot.at_ r = true) ∧ (use = .packetWrite p i) ∧ (¬bad)) := by decide +kernel

theorem witness_MemoryEventsComplete_16 :
    (let s : State := wit (fun d => d.modStack 7 fun m => { m with pend := [({ port := 0, write := true, addr := bufferAddr 0 0, prio := 5, part := true } : MemRq)] });
  let t : Nat := 0;
  let n : Fin 8 := 7;
  let d := s.dev.begin t;
  let m := d.stack n.val;
  let addr : Nat := bufferAddr 0 0;
  let use : ReadUse := .packetWrite 0 0;
  let w : WordRead := { wrong := 2 };
  let die : Bool := false;
  let slot : MemSlot := { at_ := 204 * Config.ns, arrived := [] };
  let r : MemRq := ({ port := 0, write := true, addr := bufferAddr 0 0, prio := 5, part := true } : MemRq);
  let e := d.forEach slot.arrived (Dev.memArrive n.val);
  let f := e.modStack n.val fun m => m.granted (e.memStood n.val) slot.at_ r;
  let phys := (f.stack n.val).map.phys (addr / rankBytes);
  let res := w.result ((f.stack n.val).poisoned phys addr);
  let g := f.access n.val use.port phys addr false;
  let g := if die then g.bump .dieCorr n.val phys else g;
  let seen := fun e : Dev => match res with
        | .ok => e
        | .corrected => e.corrected n.val phys
        | .uncorrectable => e.badRead n.val use.port addr phys false
        | .poisoned => e.badRead n.val use.port addr phys true;
  let last := fun e : Dev => (seen e).runTurns s.log (seen e).host.turns;
  let bad := res = .uncorrectable ∨ res = .poisoned;
  let p := (0 : Nat);
  let i := (0 : Nat);
  let h := (g.modStack n.val fun m => { m with pend := m.pend.replace r { r with part := false, poison := res.bad } }).bump .rmw n.val r.port;
  (d.readFits n.val addr use = true) ∧ ((e.stack n.val).pend.find? (readAsked use addr) = some r) ∧ ((e.stack n.val).grants (e.memStood n.val) slot.at_ r = true) ∧ (use = .packetWrite p i) ∧ (bad)) := by decide +kernel

theorem witness_MemoryEventsComplete_17 :
    (let s : State := wit (fun d => (d.modStack 7 fun m => { m with pend := [({ port := 1, write := false, addr := bufferAddr 2 4, prio := 5 } : MemRq)] }).modTree 63 fun x => { x with pitches := [{ frame := 1, pid := 9, takes := [{ desc := { pool := 2, index := 4 }, pos := 6 }], sent := [.parcel 5 0 0 false 0 6 5 { bytes := [] }] }] });
  let t : Nat := 0;
  let n : Fin 8 := 7;
  let d := s.dev.begin t;
  let m := d.stack n.val;
  let addr : Nat := bufferAddr 2 4;
  let use : ReadUse := .commit 63 1 9 0;
  let w : WordRead := { wrong := 1 };
  let die : Bool := false;
  let slot : MemSlot := { at_ := 204 * Config.ns, arrived := [] };
  let r : MemRq := ({ port := 1, write := false, addr := bufferAddr 2 4, prio := 5 } : MemRq);
  let e := d.forEach slot.arrived (Dev.memArrive n.val);
  let f := e.modStack n.val fun m => m.granted (e.memStood n.val) slot.at_ r;
  let phys := (f.stack n.val).map.phys (addr / rankBytes);
  let res := w.result ((f.stack n.val).poisoned phys addr);
  let g := f.access n.val use.port phys addr false;
  let g := if die then g.bump .dieCorr n.val phys else g;
  let seen := fun e : Dev => match res with
        | .ok => e
        | .corrected => e.corrected n.val phys
        | .uncorrectable => e.badRead n.val use.port addr phys false
        | .poisoned => e.badRead n.val use.port addr phys true;
  let last := fun e : Dev => (seen e).runTurns s.log (seen e).host.turns;
  let bad := res = .uncorrectable ∨ res = .poisoned;
  let k := (63 : Nat);
  let frame := (1 : Nat);
  let pid := (9 : Nat);
  let item := (0 : Nat);
  (d.readFits n.val addr use = true) ∧ ((e.stack n.val).pend.find? (readAsked use addr) = some r) ∧ ((e.stack n.val).grants (e.memStood n.val) slot.at_ r = true) ∧ (use = .commit k frame pid item) ∧ (¬bad)) := by decide +kernel

theorem witness_MemoryEventsComplete_18 :
    (let s : State := wit (fun d => (d.modStack 7 fun m => { m with pend := [({ port := 1, write := false, addr := bufferAddr 2 4, prio := 5 } : MemRq)] }).modTree 63 fun x => { x with pitches := [{ frame := 1, pid := 9, takes := [{ desc := { pool := 2, index := 4 }, pos := 6 }], sent := [.parcel 5 0 0 false 0 6 5 { bytes := [] }] }] });
  let t : Nat := 0;
  let n : Fin 8 := 7;
  let d := s.dev.begin t;
  let m := d.stack n.val;
  let addr : Nat := bufferAddr 2 4;
  let use : ReadUse := .commit 63 1 9 0;
  let w : WordRead := { syn := 0xA5C33CA5 };
  let die : Bool := false;
  let slot : MemSlot := { at_ := 204 * Config.ns, arrived := [] };
  let r : MemRq := ({ port := 1, write := false, addr := bufferAddr 2 4, prio := 5 } : MemRq);
  let e := d.forEach slot.arrived (Dev.memArrive n.val);
  let f := e.modStack n.val fun m => m.granted (e.memStood n.val) slot.at_ r;
  let phys := (f.stack n.val).map.phys (addr / rankBytes);
  let res := w.result ((f.stack n.val).poisoned phys addr);
  let g := f.access n.val use.port phys addr false;
  let g := if die then g.bump .dieCorr n.val phys else g;
  let seen := fun e : Dev => match res with
        | .ok => e
        | .corrected => e.corrected n.val phys
        | .uncorrectable => e.badRead n.val use.port addr phys false
        | .poisoned => e.badRead n.val use.port addr phys true;
  let last := fun e : Dev => (seen e).runTurns s.log (seen e).host.turns;
  let bad := res = .uncorrectable ∨ res = .poisoned;
  let k := (63 : Nat);
  let frame := (1 : Nat);
  let pid := (9 : Nat);
  let item := (0 : Nat);
  (d.readFits n.val addr use = true) ∧ ((e.stack n.val).pend.find? (readAsked use addr) = some r) ∧ ((e.stack n.val).grants (e.memStood n.val) slot.at_ r = true) ∧ (use = .commit k frame pid item) ∧ (bad)) := by decide +kernel

theorem witness_MemoryEventsComplete_19 :
    (let s : State := wit (fun d => d.modStack 7 fun m => { m with pend := [({ port := 3, write := false, addr := 0x200000000, prio := 5 } : MemRq)] });
  let t : Nat := 0;
  let n : Fin 8 := 7;
  let d := s.dev.begin t;
  let m := d.stack n.val;
  let addr : Nat := 0x200000000;
  let use : ReadUse := .table 6 5;
  let w : WordRead := { wrong := 2 };
  let die : Bool := false;
  let slot : MemSlot := { at_ := 204 * Config.ns, arrived := [] };
  let r : MemRq := ({ port := 3, write := false, addr := 0x200000000, prio := 5 } : MemRq);
  let e := d.forEach slot.arrived (Dev.memArrive n.val);
  let f := e.modStack n.val fun m => m.granted (e.memStood n.val) slot.at_ r;
  let phys := (f.stack n.val).map.phys (addr / rankBytes);
  let res := w.result ((f.stack n.val).poisoned phys addr);
  let g := f.access n.val use.port phys addr false;
  let g := if die then g.bump .dieCorr n.val phys else g;
  let seen := fun e : Dev => match res with
        | .ok => e
        | .corrected => e.corrected n.val phys
        | .uncorrectable => e.badRead n.val use.port addr phys false
        | .poisoned => e.badRead n.val use.port addr phys true;
  let last := fun e : Dev => (seen e).runTurns s.log (seen e).host.turns;
  let bad := res = .uncorrectable ∨ res = .poisoned;
  let code := (6 : Nat);
  let i := (5 : Nat);
  let others := ((g.memDone n.val r).stack n.val).map.copies.filter fun l => l != addr / rankBytes;
  let l := (1 : Nat);
  let rest := ([] : List Nat);
  (d.readFits n.val addr use = true) ∧ ((e.stack n.val).pend.find? (readAsked use addr) = some r) ∧ ((e.stack n.val).grants (e.memStood n.val) slot.at_ r = true) ∧ (use = .table code i) ∧ (bad) ∧ (r.second = false) ∧ (others = l :: rest)) := by decide +kernel

theorem witness_MemoryEventsComplete_20 :
    (let s : State := wit (fun d => d.modStack 7 fun m => { m with pend := [({ port := 3, write := false, addr := 0x200000000, prio := 5, second := true } : MemRq)] });
  let t : Nat := 0;
  let n : Fin 8 := 7;
  let d := s.dev.begin t;
  let m := d.stack n.val;
  let addr : Nat := 0x200000000;
  let use : ReadUse := .table 6 5;
  let w : WordRead := { wrong := 2 };
  let die : Bool := false;
  let slot : MemSlot := { at_ := 204 * Config.ns, arrived := [] };
  let r : MemRq := ({ port := 3, write := false, addr := 0x200000000, prio := 5, second := true } : MemRq);
  let e := d.forEach slot.arrived (Dev.memArrive n.val);
  let f := e.modStack n.val fun m => m.granted (e.memStood n.val) slot.at_ r;
  let phys := (f.stack n.val).map.phys (addr / rankBytes);
  let res := w.result ((f.stack n.val).poisoned phys addr);
  let g := f.access n.val use.port phys addr false;
  let g := if die then g.bump .dieCorr n.val phys else g;
  let seen := fun e : Dev => match res with
        | .ok => e
        | .corrected => e.corrected n.val phys
        | .uncorrectable => e.badRead n.val use.port addr phys false
        | .poisoned => e.badRead n.val use.port addr phys true;
  let last := fun e : Dev => (seen e).runTurns s.log (seen e).host.turns;
  let bad := res = .uncorrectable ∨ res = .poisoned;
  let code := (6 : Nat);
  let i := (5 : Nat);
  let others := ((g.memDone n.val r).stack n.val).map.copies.filter fun l => l != addr / rankBytes;
  (d.readFits n.val addr use = true) ∧ ((e.stack n.val).pend.find? (readAsked use addr) = some r) ∧ ((e.stack n.val).grants (e.memStood n.val) slot.at_ r = true) ∧ (use = .table code i) ∧ (bad) ∧ (r.second = true ∨ others = []) ∧ (r.upd = false)) := by decide +kernel

theorem witness_MemoryEventsComplete_21 :
    (let s : State := wit (fun d => d.modStack 7 fun m => { m with pend := [({ port := 0, write := false, addr := 0, prio := 5 } : MemRq), ({ port := 1, write := false, addr := 32, prio := 3 } : MemRq)] });
  let t : Nat := 0;
  let n : Fin 8 := 7;
  let d := s.dev.begin t;
  let m := d.stack n.val;
  let stood : Ticks := 0;
  let at_ : Ticks := 0;
  let r : MemRq := ({ port := 0, write := false, addr := 0, prio := 5 } : MemRq);
  let x : MemRq := ({ port := 1, write := false, addr := 32, prio := 3 } : MemRq);
  (m.grants stood at_ r = true) ∧ ((m.granted stood at_ r).grants stood at_ x = true)) := by decide +kernel

theorem witness_MemoryEventsComplete_22 :
    (let s : State := wit (fun d => d.modStack 7 fun m => { m with pend := [({ port := 1, write := false, addr := 0, prio := 3 } : MemRq), ({ port := 0, write := false, addr := 0, prio := 5 } : MemRq)] });
  let t : Nat := 0;
  let n : Fin 8 := 7;
  let d := s.dev.begin t;
  let m := d.stack n.val;
  let stood : Ticks := 0;
  let at_ : Ticks := 0;
  let r : MemRq := ({ port := 0, write := false, addr := 0, prio := 5 } : MemRq);
  let c := m.candidates (channelOf r.addr) at_;
  let slot := m.slotAt stood at_;
  (m.grants stood at_ r = true)) := by decide +kernel

theorem witness_MemoryEventsComplete_23 :
    (let s : State := wit (fun d => d.modStack 7 fun m => { m with pend := [({ port := 0, write := false, addr := 0, prio := 7 } : MemRq), ({ port := 6, write := false, addr := 0, prio := 0 } : MemRq)] });
  let t : Nat := 0;
  let n : Fin 8 := 7;
  let d := s.dev.begin t;
  let m := d.stack n.val;
  let stood : Ticks := 0;
  let at_ : Ticks := 204 * Config.ns;
  let r : MemRq := ({ port := 6, write := false, addr := 0, prio := 0 } : MemRq);
  let c := m.candidates (channelOf r.addr) at_;
  let slot := m.slotAt stood at_;
  (m.grants stood at_ r = true) ∧ (∃ x ∈ c, m.owns slot x = true)) := by decide +kernel

theorem witness_MemoryEventsComplete_24 :
    (let s : State := wit (fun d => d.modStack 7 fun m => { m with pend := [({ port := 0, write := false, addr := 0, prio := 7 } : MemRq), ({ port := 1, write := false, addr := 0, prio := 7, cls0 := true } : MemRq)] });
  let t : Nat := 0;
  let n : Fin 8 := 7;
  let d := s.dev.begin t;
  let m := d.stack n.val;
  let stood : Ticks := 0;
  let at_ : Ticks := 0;
  let r : MemRq := ({ port := 1, write := false, addr := 0, prio := 7, cls0 := true } : MemRq);
  let c := m.candidates (channelOf r.addr) at_;
  let slot := m.slotAt stood at_;
  (m.grants stood at_ r = true) ∧ (∀ x ∈ c, m.owns slot x = false) ∧ (∃ x ∈ c, m.rank x = 7 ∧ x.cls0 = true)) := by decide +kernel

theorem witness_MemoryEventsComplete_26 :
    (let s : State := wit (fun d => d.modStack 7 fun m => { m with pend := [({ port := 1, write := false, addr := 0, prio := 3 } : MemRq), ({ port := 0, write := false, addr := 0, prio := 5 } : MemRq)] });
  let t : Nat := 0;
  let n : Fin 8 := 7;
  let d := s.dev.begin t;
  let m := d.stack n.val;
  let stood : Ticks := 0;
  let at_ : Ticks := 0;
  let r : MemRq := ({ port := 0, write := false, addr := 0, prio := 5 } : MemRq);
  let c := m.candidates (channelOf r.addr) at_;
  let slot := m.slotAt stood at_;
  let x := ({ port := 1, write := false, addr := 0, prio := 3 } : MemRq);
  (m.grants stood at_ r = true) ∧ (∀ x ∈ c, m.owns slot x = false) ∧ (∀ x ∈ c, ¬(m.rank x = 7 ∧ x.cls0 = true)) ∧ (x ∈ c)) := by decide +kernel

theorem witness_MemoryEventsComplete_27 :
    (let s : State := wit (fun d => d.modStack 7 fun m => { m with pend := [({ port := 1, write := false, addr := 0, prio := 5 } : MemRq), ({ port := 0, write := false, addr := 0, prio := 5 } : MemRq)] });
  let t : Nat := 0;
  let n : Fin 8 := 7;
  let d := s.dev.begin t;
  let m := d.stack n.val;
  let stood : Ticks := 0;
  let at_ : Ticks := 0;
  let r : MemRq := ({ port := 0, write := false, addr := 0, prio := 5 } : MemRq);
  let c := m.candidates (channelOf r.addr) at_;
  let slot := m.slotAt stood at_;
  let x := ({ port := 1, write := false, addr := 0, prio := 5 } : MemRq);
  (m.grants stood at_ r = true) ∧ (∀ x ∈ c, m.owns slot x = false) ∧ (∀ x ∈ c, ¬(m.rank x = 7 ∧ x.cls0 = true)) ∧ (x ∈ c) ∧ (m.rank x = m.rank r)) := by decide +kernel

theorem witness_TrustCommandsComplete_0 :
    (let s : State := wit id;
  let t : Nat := 0;
  let rq : Req := ask [];
  let d := s.dev.begin t;
  let w := d.wake 5 causeHost;
  (Accepted d rq 0 [2])) := by decide +kernel

theorem witness_TrustCommandsComplete_1 :
    (let s : State := wit id;
  let t : Nat := 0;
  let rq : Req := ask [4, 0];
  let d := s.dev.begin t;
  let w := d.wake 5 causeHost;
  (Accepted d rq 2 [2]) ∧ (d.dmaHalted rq.mb.val = false) ∧ (rq.raw 0 % 4 = 0)) := by decide +kernel

theorem witness_TrustCommandsComplete_2 :
    (let s : State := wit (fun d => d.modVault fun v => { v with runSvn := 1 });
  let t : Nat := 0;
  let rq : Req := ask [];
  let d := s.dev.begin t;
  let w := d.wake 5 causeHost;
  (Accepted d rq 0 [2]) ∧ (d.vault.fuses.minSvn < d.vault.runSvn) ∧ (∀ i ∈ [0, 1], (d.host.slots.get {} i).present = true → d.vault.runSvn ≤ (d.host.slots.get {} i).svn)) := by decide +kernel

theorem witness_TrustCommandsComplete_4 :
    (let s : State := wit (fun d => (d.modKey 7 fun k => { k with derivs := [{ level := 4, ctx := 32767, dir := .up, serial := 1 }] }).modVault fun v => { v with roots := [(0, { held := true, tag := v.sealTag })] });
  let t : Nat := 0;
  let rq : Req := ask [];
  let d := s.dev.begin t;
  let w := d.wake 5 causeHost;
  let n : Fin 8 := 7;
  let x : Deriv := { level := 4, ctx := 32767, dir := .up, serial := 1 };
  (nextDeriv (d.slice n.val).key.derivs = some x) ∧ ((d.vault.roots.get {} (d.keyCtx n.val x.ctx).tree).held = true) ∧ ((d.vault.roots.get {} (d.keyCtx n.val x.ctx).tree).tag = d.vault.sealTag)) := by decide +kernel

theorem witness_TrustCommandsComplete_5 :
    (let s : State := wit (fun d => (d.modKey 7 fun k => { k with derivs := [{ level := 4, ctx := 32767, dir := .up, serial := 1 }] }).modVault fun v => { v with roots := [(0, { held := true, tag := { mr0 := [1] } })] });
  let t : Nat := 0;
  let rq : Req := ask [];
  let d := s.dev.begin t;
  let w := d.wake 5 causeHost;
  let n : Fin 8 := 7;
  let x : Deriv := { level := 4, ctx := 32767, dir := .up, serial := 1 };
  (nextDeriv (d.slice n.val).key.derivs = some x) ∧ ((d.vault.roots.get {} (d.keyCtx n.val x.ctx).tree).held = true) ∧ ((d.vault.roots.get {} (d.keyCtx n.val x.ctx).tree).tag ≠ d.vault.sealTag)) := by decide +kernel

theorem witness_TrustCommandsComplete_6 :
    (let s : State := wit (fun d => d.modVault fun v => { v with doeBusy := true });
  let t : Nat := 0;
  let rq : Req := ask [];
  let d := s.dev.begin t;
  let w := d.wake 5 causeHost;
  let nonce : BitVec 256 := 0;
  let req := d.vault.doeReq;
  let r := spdmKindOf req;
  let ch := d.vault.spdm.get {} 0;
  let err := d.spdmError none ch.st r;
  let resp := d.spdmResponse 64 none ch req nonce err;
  (d.vault.doeBusy = true) ∧ (d.vault.sign.waiting 64 d.now = false)) := by decide +kernel

theorem witness_TrustCommandsComplete_7 :
    (let s : State := wit id;
  let t : Nat := 0;
  let rq : Req := ask [];
  let d := s.dev.begin t;
  let w := d.wake 5 causeHost;
  let msg : List Byte := [1, 0, 1];
  (d.vault.doeBusy = false) ∧ (msg.length ≤ 4096) ∧ (msg.take 2 = [1, 0]) ∧ (msg.getD 2 0 = 1)) := by decide +kernel

theorem witness_TrustCommandsComplete_8 :
    (let s : State := wit id;
  let t : Nat := 0;
  let rq : Req := ask [];
  let d := s.dev.begin t;
  let w := d.wake 5 causeHost;
  let msg : List Byte := [1, 0, 0];
  (d.vault.doeBusy = false) ∧ (msg.length ≤ 4096) ∧ (msg.take 2 = [1, 0]) ∧ (msg.getD 2 0 = 0)) := by decide +kernel

theorem witness_TrustCommandsComplete_10 :
    (let s : State := wit (fun d => d.modVault fun v => { v with locked := true, nonce := 77 });
  let t : Nat := 0;
  let rq : Req := ask [];
  let d := s.dev.begin t;
  let w := d.wake 5 causeHost;
  let token : UnlockToken := { digest := 1, signer := 0, serial := 0, nonce := 77 };
  (d.vault.locked = true) ∧ (token.signer = d.vault.fuses.vendorKey) ∧ (token.serial = d.vault.fuses.serial) ∧ (token.nonce = d.vault.nonce)) := by decide +kernel

theorem witness_TrustCommandsComplete_11 :
    (let s : State := wit (fun d => d.modVault fun v => { v with locked := true });
  let t : Nat := 0;
  let rq : Req := ask [];
  let d := s.dev.begin t;
  let w := d.wake 5 causeHost;
  let c : Nat := 0;
  (d.vault.locked = true)) := by decide +kernel

theorem witness_TrustCommandsComplete_12 :
    (let s : State := wit (fun d => d.forEach (List.range 16) fun p d => d.modDom (63 + p) fun x => { x with st := 2 });
  let t : Nat := 0;
  let rq : Req := ask [];
  let d := s.dev.begin t;
  let w := d.wake 5 causeHost;
  (∀ p < 16, (d.dom (63 + p)).st = 2)) := by decide +kernel

theorem witness_TrustCommandsComplete_13 :
    (let s : State := wit id;
  let t : Nat := 0;
  let rq : Req := ask [];
  let d := s.dev.begin t;
  let w := d.wake 5 causeHost;
  (∃ p < 16, (d.dom (63 + p)).st ≠ 2)) := ⟨0, by decide +kernel⟩

theorem witness_KeyCommandsComplete_0 :
    (let s : State := wit (fun d => d.modKey 7 fun k => { k with ctx := [(32767, { bound := true, ds := true, us := true, tree := 63, aid := 5 })] });
  let t : Nat := 0;
  let rq : Req := ask [7, 32767, 0, 0, 0, 0, 0, 0, 1024, 262400];
  let d := s.dev.begin t;
  let n := rq.prm 0;
  let c := rq.prm 1;
  let x := d.keyCtx n c;
  let trim := fun e : RxEpoch => { e with seen := e.seen.filter fun v => decide (e.top - v < max (rq.prm 8 % 2 ^ 11) 1) };
  let e := d.modCtx n c fun x =>
          { x with
            keyed := true
            saltDs := BitVec.ofNat 32 (rq.prm 2 % 2 ^ 16 * 65536 + rq.prm 3 % 2 ^ 16)
            saltUs := BitVec.ofNat 32 (rq.prm 4 % 2 ^ 16 * 65536 + rq.prm 5 % 2 ^ 16)
            serialHi := rq.prm 6 * 1024 + rq.prm 7 / 2 ^ 10 % 2 ^ 10, replayWin := rq.prm 8 % 2 ^ 11
            pnWarn := rq.prm 9 / 2 ^ 14 % 2 ^ 6, overlap := rq.prm 9 / 2 ^ 8 % 2 ^ 6, rx := trim x.rx, rxOld := x.rxOld.map trim };
  let e1 := if x.ds then e.startDir n c .down causeHost else e;
  (d.isReady 2 = true) ∧ (n ≤ 7) ∧ ((d.isReady (fnDs n) || d.isReady (fnUs n)) = true) ∧ (c ≤ 32767) ∧ (x.bound = true) ∧ (Accepted d rq 10 []) ∧ (rq.prm 8 % 2 ^ 11 ≤ 1024) ∧ (16 ≤ rq.prm 9 / 2 ^ 14 % 2 ^ 6) ∧ (1 ≤ rq.prm 9 / 2 ^ 8 % 2 ^ 6) ∧ (x.keyed = false)) := by decide +kernel

theorem witness_KeyCommandsComplete_1 :
    (let s : State := wit (fun d => d.modKey 7 fun k => { k with ctx := [(32767, { bound := true, ds := true, us := true, tree := 63, aid := 5, keyed := true })] });
  let t : Nat := 0;
  let rq : Req := ask [7, 32767, 0, 0, 0, 0, 0, 0, 1024, 262400];
  let d := s.dev.begin t;
  let n := rq.prm 0;
  let c := rq.prm 1;
  let x := d.keyCtx n c;
  let trim := fun e : RxEpoch => { e with seen := e.seen.filter fun v => decide (e.top - v < max (rq.prm 8 % 2 ^ 11) 1) };
  let e := d.modCtx n c fun x =>
          { x with
            keyed := true
            saltDs := BitVec.ofNat 32 (rq.prm 2 % 2 ^ 16 * 65536 + rq.prm 3 % 2 ^ 16)
            saltUs := BitVec.ofNat 32 (rq.prm 4 % 2 ^ 16 * 65536 + rq.prm 5 % 2 ^ 16)
            serialHi := rq.prm 6 * 1024 + rq.prm 7 / 2 ^ 10 % 2 ^ 10, replayWin := rq.prm 8 % 2 ^ 11
            pnWarn := rq.prm 9 / 2 ^ 14 % 2 ^ 6, overlap := rq.prm 9 / 2 ^ 8 % 2 ^ 6, rx := trim x.rx, rxOld := x.rxOld.map trim };
  let e1 := if x.ds then e.startDir n c .down causeHost else e;
  (d.isReady 2 = true) ∧ (n ≤ 7) ∧ ((d.isReady (fnDs n) || d.isReady (fnUs n)) = true) ∧ (c ≤ 32767) ∧ (x.bound = true) ∧ (Accepted d rq 10 []) ∧ (rq.prm 8 % 2 ^ 11 ≤ 1024) ∧ (16 ≤ rq.prm 9 / 2 ^ 14 % 2 ^ 6) ∧ (1 ≤ rq.prm 9 / 2 ^ 8 % 2 ^ 6) ∧ (x.keyed = true) ∧ (∀ i ∈ [2, 3, 4, 5, 6, 7], (x.words.map (·.toNat)).getD i 0 = (keyWords rq).getD (i - 2) 0)) := by decide +kernel

theorem witness_KeyCommandsComplete_2 :
    (let s : State := wit (fun d => d.modKey 7 fun k => { k with ctx := [(32767, { bound := true, ds := true, us := true, tree := 63, aid := 5 })] });
  let t : Nat := 0;
  let rq : Req := ask [7, 32767];
  let d := s.dev.begin t;
  let n := rq.prm 0;
  let c := rq.prm 1;
  let x := d.keyCtx n c;
  (d.isReady 2 = true) ∧ (n ≤ 7) ∧ ((d.isReady (fnDs n) || d.isReady (fnUs n)) = true) ∧ (c ≤ 32767) ∧ (x.bound = true) ∧ (Accepted d rq 2 [])) := by decide +kernel

theorem witness_KeyCommandsComplete_3 :
    (let s : State := wit (fun d => d.modKey 7 fun k => { k with ctx := [(32767, { bound := true, ds := true, us := true, tree := 63, aid := 5 })] });
  let t : Nat := 0;
  let rq : Req := { mb := 0, params := [7] };
  let d := s.dev.begin t;
  let n := rq.prm 0;
  let c := rq.prm 1;
  let x := d.keyCtx n c;
  (d.isReady 2 = true) ∧ (n ≤ 7) ∧ ((d.isReady (fnDs n) || d.isReady (fnUs n)) = true) ∧ (Accepted d rq 1 [])) := by decide +kernel

theorem witness_KeyCommandsComplete_4 :
    (let s : State := wit (fun d => d.modKey 7 fun k => { k with ctx := [(32767, { bound := true, ds := true, us := true, tree := 63, aid := 5 })] });
  let t : Nat := 0;
  let rq : Req := ask [63, 5];
  let d := s.dev.begin t;
  let n := rq.prm 0;
  let c := rq.prm 1;
  let x := d.keyCtx n c;
  let ctx : Nat := 32767;
  (d.isReady 2 = true) ∧ (rq.prm 0 ≤ 63) ∧ ((d.isReady (fnDs (rq.prm 0 / 8)) || d.isReady (fnUs (rq.prm 0 / 8))) = true) ∧ (Accepted d rq 2 []) ∧ (d.ctxOf (rq.prm 0 / 8) (rq.prm 0) (rq.prm 1) = some ctx)) := by decide +kernel

theorem witness_KeyCommandsComplete_5 :
    (let s : State := wit (fun d => d.modKey 7 fun k => { k with ctx := [(32767, { bound := true, ds := true, us := true, tree := 63, aid := 5, rxOld := some {} })] });
  let t : Nat := Config.us;
  let rq : Req := ask [];
  let d := s.dev.begin t;
  let n := rq.prm 0;
  let c := rq.prm 1;
  let x := d.keyCtx n c;
  let k : Fin 64 := 63;
  let aid : Word := 5;
  let ctx : Nat := 32767;
  (d.ctxOf (k.val / 8) k.val aid.toNat = some ctx) ∧ ((d.keyCtx (k.val / 8) ctx).rxOld ≠ none) ∧ ((d.keyCtx (k.val / 8) ctx).rxLeft = 0) ∧ (d.receivedAt k.val 200 ≤ d.now)) := by decide +kernel

theorem witness_KeyCommandsComplete_6 :
    (let s : State := wit (fun d => d.modKey 7 fun k => { k with ctx := [(32767, { bound := true, ds := true, us := true, tree := 63, aid := 5 })], tx := [(32767, { overlap := true })] });
  let t : Nat := Config.us;
  let rq : Req := ask [];
  let d := s.dev.begin t;
  let n := rq.prm 0;
  let c := rq.prm 1;
  let x := d.keyCtx n c;
  let k : Fin 64 := 63;
  let aid : Word := 5;
  let ctx : Nat := 32767;
  (d.ctxOf (k.val / 8) k.val aid.toNat = some ctx) ∧ ((d.txEpoch (k.val / 8) ctx).overlap = true) ∧ ((d.txEpoch (k.val / 8) ctx).left = 0) ∧ (d.receivedAt k.val 200 ≤ d.now)) := by decide +kernel

theorem witness_BufferCommandsComplete_0 :
    (let s : State := wit id;
  let t : Nat := 0;
  let rq : Req := ask [7, 31, 98304];
  let d := s.dev.begin t;
  let n := rq.prm 0;
  let w := d.wake (12 + 6 * n) causeHost;
  (n ≤ 7) ∧ ((w.isReady (fnDs n) || w.isReady (fnUs n)) = true) ∧ (Accepted d rq 3 []) ∧ (rq.prm 2 % 2 ^ 17 ≤ 98304)) := by decide +kernel

theorem witness_BufferCommandsComplete_1 :
    (let s : State := wit id;
  let t : Nat := 0;
  let rq : Req := ask [7, 255, 0, 0, 0, 0, 0, 0, 0, 0, 0, 0, 0, 0, 0, 0, 0];
  let d := s.dev.begin t;
  let n := rq.prm 0;
  let w := d.wake (12 + 6 * n) causeHost;
  let hs := (w.slice n).buf.holders.set {} (rq.prm 1) (stallholderOf rq 2);
  (n ≤ 7) ∧ ((w.isReady (fnDs n) || w.isReady (fnUs n)) = true) ∧ (Accepted d rq 17 []) ∧ (rq.prm 1 ≤ 255) ∧ ((stallholderOf rq 2).yellowPct ≤ 100) ∧ (∀ p < 6, (stallholderOf rq 2).bufMin.get 0 p ≤ (stallholderOf rq 2).bufMax.get 0 p) ∧ ((stallholderOf rq 2).cellMin ≤ (stallholderOf rq 2).cellMax) ∧ (∀ p < 6, hs.foldl (fun a e => a + e.2.minBuf p) 0 ≤ 1048576) ∧ (∀ priv, hs.foldl (fun a e => a + e.2.minCell priv) 0 ≤ bankSize priv)) := by decide +kernel

theorem witness_BufferCommandsComplete_2 :
    (let s : State := wit id;
  let t : Nat := 0;
  let rq : Req := ask [7, 16383, 0, 0, 0, 0];
  let d := s.dev.begin t;
  let n := rq.prm 0;
  let w := d.wake (12 + 6 * n) causeHost;
  (n ≤ 7) ∧ ((w.isReady (fnDs n) || w.isReady (fnUs n)) = true) ∧ (Accepted d rq 6 []) ∧ (rq.prm 1 ≤ 16383) ∧ ((w.queue n (rq.prm 1)).descs = []) ∧ (rq.bit 2 19 = false) ∧ ((w.queue n (rq.prm 1)).cfg.valid = false)) := by decide +kernel

theorem witness_BufferCommandsComplete_3 :
    (let s : State := wit id;
  let t : Nat := 0;
  let rq : Req := ask [7, 16383, 655360, 0, 0, 0];
  let d := s.dev.begin t;
  let n := rq.prm 0;
  let w := d.wake (12 + 6 * n) causeHost;
  (n ≤ 7) ∧ ((w.isReady (fnDs n) || w.isReady (fnUs n)) = true) ∧ (Accepted d rq 6 []) ∧ (rq.prm 1 ≤ 16383) ∧ ((w.queue n (rq.prm 1)).descs = []) ∧ (rq.bit 2 19 = true) ∧ (rq.bits 2 2 17 = 1) ∧ (rq.bits 2 6 7 < 32) ∧ (rq.bits 2 3 13 = 0) ∧ ((w.queue n (rq.prm 1)).cfg.valid = false)) := by decide +kernel

theorem witness_BufferCommandsComplete_4 :
    (let s : State := wit id;
  let t : Nat := 0;
  let rq : Req := ask [7, 16383];
  let d := s.dev.begin t;
  let n := rq.prm 0;
  let w := d.wake (12 + 6 * n) causeHost;
  let q := w.queue n (rq.prm 1);
  (n ≤ 7) ∧ ((w.isReady (fnDs n) || w.isReady (fnUs n)) = true) ∧ (Accepted d rq 2 []) ∧ (rq.prm 1 ≤ 16383)) := by decide +kernel

theorem witness_BufferCommandsComplete_5 :
    (let s : State := wit id;
  let t : Nat := 0;
  let rq : Req := ask [7, 16383];
  let d := s.dev.begin t;
  let n := rq.prm 0;
  let w := d.wake (12 + 6 * n) causeHost;
  let q := w.queue n (rq.prm 1);
  let e := (w.forEach q.unread fun x d => d.dropBuffer n 12 x.pool x.index 5 (q.cfg.sysPort n)).freeCells n
          (q.cells.drop (q.readPos / 3 - q.base / 3 + 1));
  (n ≤ 7) ∧ ((w.isReady (fnDs n) || w.isReady (fnUs n)) = true) ∧ (Accepted d rq 2 []) ∧ (rq.prm 1 ≤ 16383) ∧ ((w.queue n (rq.prm 1)).fault = .ok)) := by decide +kernel

theorem witness_BufferCommandsComplete_6 :
    (let s : State := wit id;
  let t : Nat := 0;
  let rq : Req := ask [7];
  let d := s.dev.begin t;
  let n := rq.prm 0;
  let w := d.wake (12 + 6 * n) causeHost;
  let b := (w.slice n).buf;
  let live := fun p => ((b.bufs.filter fun e => e.1 / 2 ^ 20 == p).filter fun e =>
          (w.stack n).map.inService (e.1 % 2 ^ 20 % 3)).length;
  (n ≤ 7) ∧ ((w.isReady (fnDs n) || w.isReady (fnUs n)) = true) ∧ (Accepted d rq 1 [])) := by decide +kernel

theorem witness_BufferCommandsComplete_7 :
    (let s : State := wit id;
  let t : Nat := 0;
  let rq : Req := ask [7, 255, 1, 4, 0];
  let d := s.dev.begin t;
  let n := rq.prm 0;
  let w := d.wake (12 + 6 * n) causeHost;
  let b := (w.slice n).buf;
  (n ≤ 7) ∧ ((w.isReady (fnDs n) || w.isReady (fnUs n)) = true) ∧ (Accepted d rq 5 []) ∧ (w.dmaHalted rq.mb.val = false) ∧ (rq.prm 1 ≤ 255) ∧ (1 ≤ rq.prm 2) ∧ (rq.prm 2 ≤ 256 - rq.prm 1) ∧ (rq.raw 3 % 4 = 0)) := by decide +kernel

theorem witness_BufferCommandsComplete_8 :
    (let s : State := wit id;
  let t : Nat := 0;
  let rq : Req := ask [7];
  let d := s.dev.begin t;
  let n := rq.prm 0;
  let w := d.wake (12 + 6 * n) causeHost;
  (n ≤ 7) ∧ ((w.isReady (fnDs n) || w.isReady (fnUs n)) = true) ∧ (Accepted d rq 1 [])) := by decide +kernel

theorem witness_BufferCommandsComplete_9 :
    (let s : State := wit (fun d => d.modBuf 7 fun b => { b with sweeping := true });
  let t : Nat := 0;
  let rq : Req := ask [];
  let d := s.dev.begin t;
  let n := rq.prm 0;
  let w := d.wake (12 + 6 * n) causeHost;
  let n : Fin 8 := 7;
  let b := (d.slice n.val).buf;
  let cells := (b.cells.map (·.1)).filter fun c =>
        !(b.queues.flatMap fun e => if e.2.cfg.valid then e.2.cells else []).contains c && !d.ending.contains (.cell n.val c);
  let bufs := (b.bufs.filter fun e =>
        (e.2.tag == 3 || e.2.tag == 4) && !(d.reachedBufs n.val).contains e.1 && !d.freeWaits n.val e.1).map (·.1);
  let e := ((d.freeCells n.val cells).forEach bufs fun k d =>
        d.dropBuffer n.val 13 (k / 2 ^ 20) (k % 2 ^ 20) 5 none).modBuf n.val fun b =>
          { b with sweeping := b.sweepAgain, sweepAgain := false };
  ((d.slice n.val).buf.sweeping = true)) := by decide +kernel

theorem witness_BufferCommandsComplete_10 :
    (let s : State := wit (fun d => d.modStack 7 fun m => { m with pend := [({ port := 5, write := true, addr := 64, prio := 5 } : MemRq)] });
  let t : Nat := 0;
  let rq : Req := ask [];
  let d := s.dev.begin t;
  let n := rq.prm 0;
  let w := d.wake (12 + 6 * n) causeHost;
  let n : Fin 8 := 7;
  let port : Fin 7 := 5;
  let addr : Nat := 64;
  let slot : MemSlot := { at_ := 204 * Config.ns, arrived := [] };
  let r : MemRq := ({ port := 5, write := true, addr := 64, prio := 5 } : MemRq);
  let e := d.forEach slot.arrived (Dev.memArrive n.val);
  let f := ((e.modStack n.val fun m => m.granted (e.memStood n.val) slot.at_ r).memDone n.val r);
  let g := f.forEach ((f.stack n.val).homes addr) fun phys d => (d.access n.val port.val phys addr true).poisonAt n.val phys addr r.poison;
  (port.val ≠ 6) ∧ ((e.stack n.val).pend.find? (fun r => r.port == port.val && r.write && !r.part && !r.mig && r.addr == addr) = some r) ∧ ((e.stack n.val).grants (e.memStood n.val) slot.at_ r = true) ∧ (port.val ≠ 0 ∨ bufferAt addr = none)) := by decide +kernel

theorem witness_BufferCommandsComplete_11 :
    (let s : State := wit (fun d => (d.setBuffer 7 0 0 { tag := 3, left := 1 }).modStack 7 fun m => { m with pend := [({ port := 0, write := true, addr := bufferAddr 0 0, prio := 5 } : MemRq)] });
  let t : Nat := 0;
  let rq : Req := ask [];
  let d := s.dev.begin t;
  let n := rq.prm 0;
  let w := d.wake (12 + 6 * n) causeHost;
  let n : Fin 8 := 7;
  let port : Fin 7 := (0 : Fin 7);
  let addr : Nat := bufferAddr 0 0;
  let slot : MemSlot := { at_ := 204 * Config.ns, arrived := [] };
  let r : MemRq := ({ port := 0, write := true, addr := bufferAddr 0 0, prio := 5 } : MemRq);
  let e := d.forEach slot.arrived (Dev.memArrive n.val);
  let f := ((e.modStack n.val fun m => m.granted (e.memStood n.val) slot.at_ r).memDone n.val r);
  let g := f.forEach ((f.stack n.val).homes addr) fun phys d => (d.access n.val port.val phys addr true).poisonAt n.val phys addr r.poison;
  let p : Nat := 0;
  let i : Nat := 0;
  (port.val ≠ 6) ∧ ((e.stack n.val).pend.find? (fun r => r.port == port.val && r.write && !r.part && !r.mig && r.addr == addr) = some r) ∧ ((e.stack n.val).grants (e.memStood n.val) slot.at_ r = true) ∧ (port.val = 0) ∧ (bufferAt addr = some (p, i)) ∧ (g.allocated n.val p i = true) ∧ ((g.buffer n.val p i).left.testBit (bufferWord p addr) = true) ∧ ((g.slice n.val).buf.direct.find? (fun x => x.1 == p && x.2.1 == i) = none)) := by decide +kernel

theorem witness_SchedulingCommandsComplete_0 :
    (let s : State := wit id;
  let t : Nat := 0;
  let rq : Req := ask [7, 65535, 1, 655360, 0, 0, 160, 0, 0, 160];
  let d := s.dev.begin t;
  let n := rq.prm 0;
  let w := d.wake (12 + 6 * n) causeHost;
  let m := fun j => meterOfWords (fun i => rq.prm (3 + 7 * j + i)) (w.cycle * Config.slicePeriod);
  (n ≤ 7) ∧ ((w.isReady (fnDs n) || w.isReady (fnUs n)) = true) ∧ (Accepted d rq (3 + 7 * rq.prm 2) []) ∧ (1 ≤ rq.prm 2) ∧ (rq.prm 2 ≤ 16) ∧ (rq.prm 1 ≤ 65536 - rq.prm 2) ∧ (∀ j < rq.prm 2, (m j).mode < 2 ∧ 160 ≤ (m j).cbs ∧ ((m j).mode = 1 → 160 ≤ (m j).ebs ∧ (m j).cir ≤ (m j).pir))) := by decide +kernel

theorem witness_SchedulingCommandsComplete_1 :
    (let s : State := wit id;
  let t : Nat := 0;
  let rq : Req := ask [7, 65535, 1, 4, 0];
  let d := s.dev.begin t;
  let n := rq.prm 0;
  let w := d.wake (12 + 6 * n) causeHost;
  (n ≤ 7) ∧ ((w.isReady (fnDs n) || w.isReady (fnUs n)) = true) ∧ (Accepted d rq 5 []) ∧ (w.dmaHalted rq.mb.val = false) ∧ (rq.prm 1 ≤ 65535) ∧ (1 ≤ rq.prm 2) ∧ (rq.prm 2 ≤ 65536 - rq.prm 1) ∧ (rq.raw 3 % 4 = 0)) := by decide +kernel

theorem witness_SchedulingCommandsComplete_2 :
    (let s : State := wit id;
  let t : Nat := 0;
  let rq : Req := ask [7, 16383, 1048575];
  let d := s.dev.begin t;
  let n := rq.prm 0;
  let w := d.wake (12 + 6 * n) causeHost;
  (n ≤ 7) ∧ ((w.isReady (fnDs n) || w.isReady (fnUs n)) = true) ∧ (Accepted d rq 3 []) ∧ (rq.prm 1 ≤ 16383) ∧ (1 ≤ rq.prm 2) ∧ (rq.prm 2 < 2 ^ 20)) := by decide +kernel

theorem witness_SchedulingCommandsComplete_3 :
    (let s : State := wit id;
  let t : Nat := 0;
  let rq : Req := ask [7];
  let d := s.dev.begin t;
  let n := rq.prm 0;
  let w := d.wake (12 + 6 * n) causeHost;
  let e := d.pwr.escale.get {} n;
  let head := if d.pwr.suspended then 15 else 15 - 15 * e.eNum / 64;
  (n ≤ 7) ∧ ((w.isReady (fnDs n) || w.isReady (fnUs n)) = true) ∧ (Accepted d rq 1 []) ∧ ((d.isReady (fnDs n) || d.isReady (fnUs n)) = true)) := by decide +kernel

theorem witness_SchedulingCommandsComplete_4 :
    (let s : State := wit (fun d => d.modSys 255 fun x => { x with width := 1 });
  let t : Nat := 0;
  let rq : Req := ask [7, 31, 0, 0, 0, 0, 0, 0, 0, 0, 0, 0];
  let d := s.dev.begin t;
  let n := rq.prm 0;
  let w := d.wake (12 + 6 * n) causeHost;
  (n ≤ 7) ∧ (Accepted d rq 12 []) ∧ (w.isReady (fnDs n) = true) ∧ (rq.prm 1 ≤ 31) ∧ ((w.sysPort (32 * n + rq.prm 1)).width ≠ 0) ∧ (∀ c < 8, rq.bit (4 + c) 19 = true → let q := (w.queue n (rq.bits (4 + c) 14 0)).cfg
        q.kind = 1 ∧ q.target = rq.prm 1 ∧ q.cls = c)) := by decide +kernel

theorem witness_SchedulingCommandsComplete_5 :
    (let s : State := wit (fun d => d.modTree 63 fun x => { x with cfg := { x.cfg with configured := true }, allocs := [(5, {})] });
  let t : Nat := 0;
  let rq : Req := ask [63, 5];
  let d := s.dev.begin t;
  let n := rq.prm 0;
  let w := d.wake (12 + 6 * n) causeHost;
  let a := (d.tree n).allocs.get {} (rq.prm 1);
  let recent := a.stdRegions.filter fun r => decide ((d.tree n).fr.fc ≤ r.1 + 64);
  let region := recent.foldl (fun m r => min m r.2.1) (2 ^ 20 - 1);
  let gap := (d.count .c0GapMax n (rq.prm 1)).val.toNat;
  let ton := cdiv ((d.port (portOfTree n)).ton * 106272) 1000;
  let c0 := d.queuesWhere (n / 8) fun _ q =>
        q.cfg.kind == 0 && q.cfg.target == d.workingTree n && q.cfg.cls == 0 && q.cfg.aid.toNat == rq.prm 1;
  let word := fun (e : Entry) i => (e.words.getD i 0).toNat;
  let named := (d.slice (n / 8)).tab.lft.filter fun e => Nat.ble (3 * 2 ^ 18) (word e.2 0) && c0.contains (word e.2 2 % 16384);
  let met := named.flatMap fun e => (d.slice (n / 8)).tab.c0Meters e.1;
  let meters := (met.filterMap id).eraseDups.map fun i => (d.slice (n / 8)).sched.meters.get {} i;
  let known := met.all (·.isSome) && meters.all (·.valid);
  let cir := meters.foldl (fun s m => s + m.cir) 0;
  let cbs := meters.foldl (fun s m => s + m.cbs * 64) 0;
  (n ≤ 63) ∧ (Accepted d rq 2 []) ∧ (chkReady d [needPortOf n, needSlice (n / 8)] = none) ∧ ((d.tree n).cfg.configured = true) ∧ (((d.tree n).allocs.find? fun e => e.1 == rq.prm 1).isSome = true)) := by decide +kernel

theorem witness_SchedulingCommandsComplete_6 :
    (let s : State := wit (fun d => (d.modSys 255 fun x => { x with width := 1, enabled := true, up := true }).modEgress 255 fun x => { x with lpiEn := true });
  let t : Nat := 10 * Config.us;
  let rq : Req := ask [];
  let d := s.dev.begin t;
  let n := rq.prm 0;
  let w := d.wake (12 + 6 * n) causeHost;
  let p : Fin 256 := 255;
  let qf : QFault := QFault.ok;
  let e := d.egress p.val;
  let sp := d.sysPort p.val;
  (d.lpiFree p.val = true)) := by decide +kernel

theorem witness_SchedulingCommandsComplete_7 :
    (let s : State := wit id;
  let t : Nat := 0;
  let rq : Req := ask [];
  let d := s.dev.begin t;
  let n := rq.prm 0;
  let w := d.wake (12 + 6 * n) causeHost;
  let p : Fin 256 := 255;
  let qf : QFault := QFault.ok;
  let e := d.egress p.val;
  let sp := d.sysPort p.val;
  (e.lpi = false) ∧ (e.wakeEnd ≤ d.now)) := by decide +kernel

theorem witness_SchedulingCommandsComplete_8 :
    (let s : State := wit (fun d => (d.modSys 255 fun x => { x with width := 1, enabled := true, up := true }).modEgress 255 fun x => { x with lpi := true });
  let t : Nat := 0;
  let rq : Req := ask [];
  let d := s.dev.begin t;
  let n := rq.prm 0;
  let w := d.wake (12 + 6 * n) causeHost;
  let p : Fin 256 := 255;
  let qf : QFault := QFault.ok;
  let e := d.egress p.val;
  let sp := d.sysPort p.val;
  (sp.width ≠ 0) ∧ (sp.enabled = true) ∧ (sp.up = true) ∧ (e.lpi = true ∨ d.now < e.busyEnd ∨ d.now < e.wakeEnd)) := by decide +kernel

theorem witness_SchedulingCommandsComplete_9 :
    (let s : State := wit (fun d => d.modStack 7 fun m => { m with map := { m.map with active := 0 } });
  let t : Nat := 0;
  let rq : Req := ask [];
  let d := s.dev.begin t;
  let n := rq.prm 0;
  let w := d.wake (12 + 6 * n) causeHost;
  let p : Fin 256 := 255;
  let qf : QFault := QFault.ok;
  let e := d.egress p.val;
  let sp := d.sysPort p.val;
  (d.noRank (p.val / 32) = true)) := by decide +kernel

theorem witness_SchedulingCommandsComplete_10 :
    (let s : State := wit (fun d => (d.modSys 255 fun x => { x with width := 1, enabled := true, up := true }).setQueue 7 5 ({ cfg := { valid := true, kind := 1, target := 31, cls := 7 }, descs := [{ length := 64, poison := false }] } : Queue));
  let t : Nat := 0;
  let rq : Req := ask [];
  let d := s.dev.begin t;
  let n := rq.prm 0;
  let w := d.wake (12 + 6 * n) causeHost;
  let p : Fin 256 := 255;
  let qf : QFault := QFault.ok;
  let e := d.egress p.val;
  let sp := d.sysPort p.val;
  let c := 7;
  let q := 5;
  let x := { length := 64, poison := false };
  let d' := (d.takeEgress p.val 7 qf).2;
  (d.noRank (p.val / 32) = false) ∧ (sp.width ≠ 0) ∧ (sp.enabled = true) ∧ (sp.up = true) ∧ (e.lpi = false) ∧ (e.busyEnd ≤ d.now) ∧ (e.wakeEnd ≤ d.now) ∧ (d.nextClass p.val true = some c) ∧ (d.takeEgress p.val c qf = (some (q, x), d')) ∧ (x.poison = false) ∧ ((d'.buffer (p.val / 32) x.pool x.index).frame.poison = false)) := by and_intros <;> first | decide +kernel | rfl

theorem witness_SchedulingCommandsComplete_11 :
    (let s : State := wit (fun d => (d.modSys 255 fun x => { x with width := 1, enabled := true, up := true }).setQueue 7 5 ({ cfg := { valid := true, kind := 1, target := 31, cls := 7 }, descs := [{ length := 64, poison := true }] } : Queue));
  let t : Nat := 0;
  let rq : Req := ask [];
  let d := s.dev.begin t;
  let n := rq.prm 0;
  let w := d.wake (12 + 6 * n) causeHost;
  let p : Fin 256 := 255;
  let qf : QFault := QFault.ok;
  let e := d.egress p.val;
  let sp := d.sysPort p.val;
  let c := 7;
  let q := 5;
  let x := { length := 64, poison := true };
  let d' := (d.takeEgress p.val 7 qf).2;
  (d.noRank (p.val / 32) = false) ∧ (sp.width ≠ 0) ∧ (sp.enabled = true) ∧ (sp.up = true) ∧ (e.lpi = false) ∧ (e.busyEnd ≤ d.now) ∧ (e.wakeEnd ≤ d.now) ∧ (d.nextClass p.val true = some c) ∧ (d.takeEgress p.val c qf = (some (q, x), d')) ∧ (x.poison = true ∨ (d'.buffer (p.val / 32) x.pool x.index).frame.poison = true)) := by and_intros <;> first | decide +kernel | rfl

theorem witness_SchedulingCommandsComplete_12 :
    (let s : State := wit (fun d => (d.modSys 255 fun x => { x with width := 1 }).setQueue 7 5 ({ cfg := { valid := true, kind := 1, target := 31, cls := 7 }, descs := [{ length := 64, poison := false }] } : Queue));
  let t : Nat := 0;
  let rq : Req := ask [];
  let d := s.dev.begin t;
  let n := rq.prm 0;
  let w := d.wake (12 + 6 * n) causeHost;
  let p : Fin 256 := 255;
  let qf : QFault := QFault.ok;
  let e := d.egress p.val;
  let sp := d.sysPort p.val;
  let c := 7;
  let q := 5;
  let x := { length := 64, poison := false };
  let d' := (d.takeEgress p.val 7 qf).2;
  (d.noRank (p.val / 32) = false) ∧ (sp.width ≠ 0) ∧ ((sp.enabled && sp.up) = false) ∧ (d.nextClass p.val false = some c) ∧ (d.takeEgress p.val c qf = (some (q, x), d'))) := by and_intros <;> first | decide +kernel | rfl

theorem witness_ClassificationCommandsComplete_0 :
    (let s : State := wit (fun d => d.modSys 255 fun x => { x with width := 1 });
  let t : Nat := 0;
  let rq : Req := ask [1, 255, 0, 0];
  let d := s.dev.begin t;
  let n := rq.prm 0;
  let k := if rq.prm 0 = 1 then rq.prm 1 / 32 else rq.prm 1 / 8;
  let p := if rq.prm 0 = 1 then rq.prm 1 % 32 else 32 + rq.prm 1 % 8;
  let up := fun e : Dev => e.wake (12 + 6 * k) causeHost;
  (rq.prm 0 = 1 ∧ rq.prm 1 < 256 ∧ (d.sysPort (rq.prm 1)).width ≠ 0 ∧ d.isReady (fnUs (rq.prm 1 / 32)) = true ∨
      rq.prm 0 = 0 ∧ rq.prm 1 < 64 ∧ (d.tree (rq.prm 1)).cfg.configured = true ∧ d.isReady (fnDs (rq.prm 1 / 8)) = true) ∧ (Accepted d rq 4 [])) := by decide +kernel

theorem witness_ClassificationCommandsComplete_1 :
    (let s : State := wit (fun d => d.modTree 63 fun x => { x with cfg := { x.cfg with configured := true } });
  let t : Nat := 0;
  let rq : Req := ask [0, 63, 63, 0, 0, 0, 0, 0];
  let d := s.dev.begin t;
  let n := rq.prm 0;
  let k := if rq.prm 0 = 1 then rq.prm 1 / 32 else rq.prm 1 / 8;
  let p := if rq.prm 0 = 1 then rq.prm 1 % 32 else 32 + rq.prm 1 % 8;
  let up := fun e : Dev => e.wake (12 + 6 * k) causeHost;
  (rq.prm 0 = 1 ∧ rq.prm 1 < 256 ∧ (d.sysPort (rq.prm 1)).width ≠ 0 ∧ d.isReady (fnUs (rq.prm 1 / 32)) = true ∨
      rq.prm 0 = 0 ∧ rq.prm 1 < 64 ∧ (d.tree (rq.prm 1)).cfg.configured = true ∧ d.isReady (fnDs (rq.prm 1 / 8)) = true) ∧ (Accepted d rq 8 []) ∧ (rq.prm 2 ≤ 63) ∧ ((rq.entry 2 3 5).bits 0 2 17 ≠ 3)) := by decide +kernel

theorem witness_ClassificationCommandsComplete_2 :
    (let s : State := wit id;
  let t : Nat := 0;
  let rq : Req := ask [7, 65535, 65535];
  let d := s.dev.begin t;
  let n := rq.prm 0;
  let up := fun e : Dev => e.wake (12 + 6 * n) causeHost;
  (n ≤ 7) ∧ ((d.isReady (fnDs n) || d.isReady (fnUs n)) = true) ∧ (Accepted d rq 3 []) ∧ (rq.prm 1 ≤ 65535) ∧ (rq.prm 2 ≤ 65535)) := by decide +kernel

theorem witness_ClassificationCommandsComplete_3 :
    (let s : State := wit id;
  let t : Nat := 0;
  let rq : Req := ask [7, 63, 0, 0, 0, 0, 0, 0, 0, 0, 0, 0, 0, 0, 0, 0, 0, 0, 0];
  let d := s.dev.begin t;
  let n := rq.prm 0;
  let up := fun e : Dev => e.wake (12 + 6 * n) causeHost;
  (n ≤ 7) ∧ ((d.isReady (fnDs n) || d.isReady (fnUs n)) = true) ∧ (Accepted d rq 19 []) ∧ (rq.prm 1 ≤ 63) ∧ ((rq.entry 4 2 17).bits 0 2 17 ≠ 3)) := by decide +kernel

theorem witness_ClassificationCommandsComplete_4 :
    (let s : State := wit id;
  let t : Nat := 0;
  let rq : Req := ask [7, 255, 0, 0, 0];
  let d := s.dev.begin t;
  let n := rq.prm 0;
  let up := fun e : Dev => e.wake (12 + 6 * n) causeHost;
  (n ≤ 7) ∧ ((d.isReady (fnDs n) || d.isReady (fnUs n)) = true) ∧ (Accepted d rq 5 []) ∧ (rq.prm 1 ≤ 255)) := by decide +kernel

theorem witness_ClassificationCommandsComplete_5 :
    (let s : State := wit id;
  let t : Nat := 0;
  let rq : Req := ask [7, 4095, 0, 0, 0, 0, 0, 0, 0, 0, 0, 0, 0, 0, 0, 0, 0, 0, 0, 0, 0, 0, 0, 0, 0];
  let d := s.dev.begin t;
  let n := rq.prm 0;
  let up := fun e : Dev => e.wake (12 + 6 * n) causeHost;
  (n ≤ 7) ∧ ((d.isReady (fnDs n) || d.isReady (fnUs n)) = true) ∧ (Accepted d rq 25 []) ∧ (rq.prm 1 ≤ 4095) ∧ (∀ b ∈ [4, 2, 0], (rq.entry 7 2 23).bits 0 2 b ≠ 3)) := by decide +kernel

theorem witness_ClassificationCommandsComplete_6 :
    (let s : State := wit id;
  let t : Nat := 0;
  let rq : Req := ask ([7, 1] ++ List.replicate 71 0 ++ [1] ++ List.replicate 4 0 ++ [1] ++ List.replicate 24 0);
  let d := s.dev.begin t;
  let n := rq.prm 0;
  let up := fun e : Dev => e.wake (12 + 6 * n) causeHost;
  let m : Nat := 1;
  let c : Option Nat := some 1;
  let a : Option Nat := some 1;
  let atC := 2 + 71 * m;
  let atA := match c with | none => atC | some c => atC + 1 + 4 * c;
  (n ≤ 7) ∧ ((d.isReady (fnDs n) || d.isReady (fnUs n)) = true) ∧ (c = none → a = none) ∧ (rq.prm 1 = m) ∧ (1 ≤ m) ∧ (m ≤ 16) ∧ (Accepted d rq (match a with | none => atA | some a => atA + 1 + 24 * a) []) ∧ (c.isSome = true → c = some (rq.prm atC)) ∧ (a.isSome = true → a = some (rq.prm atA)) ∧ (∀ j < m, rq.prm (2 + 71 * j) ≤ 4095) ∧ (∀ j < c.getD 0, rq.prm (atC + 1 + 4 * j) ≤ 255) ∧ (∀ j < a.getD 0, rq.prm (atA + 1 + 24 * j) ≤ 4095 ∧ ∀ b ∈ [4, 2, 0], (rq.entry 7 (atA + 2 + 24 * j) 23).bits 0 2 b ≠ 3)) := by and_intros <;> decide +kernel

theorem witness_ClassificationCommandsComplete_7 :
    (let s : State := wit id;
  let t : Nat := 0;
  let rq : Req := ask [7, 12, 524287, 1, 4, 0];
  let d := s.dev.begin t;
  let n := rq.prm 0;
  let up := fun e : Dev => e.wake (12 + 6 * n) causeHost;
  let size := d.tableSize n (rq.prm 1);
  (n ≤ 7) ∧ ((d.isReady (fnDs n) || d.isReady (fnUs n)) = true) ∧ (Accepted d rq 6 []) ∧ (1 ≤ rq.prm 1) ∧ (rq.prm 1 ≤ 12) ∧ (rq.prm 2 ≤ size - 1) ∧ (1 ≤ rq.prm 3) ∧ (rq.prm 3 ≤ size - rq.prm 2) ∧ (rq.raw 4 % 4 = 0) ∧ (d.dmaHalted rq.mb.val = false)) := by decide +kernel

theorem witness_ClassificationCommandsComplete_8 :
    (let s : State := wit id;
  let t : Nat := 0;
  let rq : Req := ask [7, 10, 0, 0, 524288];
  let d := s.dev.begin t;
  let n := rq.prm 0;
  let up := fun e : Dev => e.wake (12 + 6 * n) causeHost;
  (n ≤ 7) ∧ ((d.isReady (fnDs n) || d.isReady (fnUs n)) = true) ∧ (Accepted d rq (if rq.prm 1 = 10 then 5 else rq.len) []) ∧ (rq.prm 1 = 10 ∨ rq.len = 4 ∨ rq.len = 5) ∧ (1 ≤ rq.prm 1) ∧ (rq.prm 1 ≤ 11) ∧ (rq.raw 2 % 4 = 0) ∧ (rq.prm 1 = 10 → rq.prm 4 ≤ 524288)) := by decide +kernel

theorem witness_ClassificationCommandsComplete_9 :
    (let s : State := wit (fun d => d.modTab 7 fun x => { x with shadow := { x.shadow with addr := [(11, some 64)] } });
  let t : Nat := 0;
  let rq : Req := ask [7, 2048, 1];
  let d := s.dev.begin t;
  let n := rq.prm 0;
  let up := fun e : Dev => e.wake (12 + 6 * n) causeHost;
  (n ≤ 7) ∧ ((d.isReady (fnDs n) || d.isReady (fnUs n)) = true) ∧ (Accepted d rq 3 []) ∧ (2 ≤ rq.prm 1) ∧ (rq.prm 1 < 4096) ∧ (rq.prm 1 % 2 = 0) ∧ (rq.prm 2 ≤ 1) ∧ ((d.slice n).tab.shadow.running = false) ∧ (∀ c ∈ maskCodes (rq.prm 1), ((d.slice n).tab.shadow.addr.get none c).isSome = true)) := by and_intros <;> decide +kernel

theorem witness_ClassificationCommandsComplete_10 :
    (let s : State := wit id;
  let t : Nat := 0;
  let rq : Req := ask [7];
  let d := s.dev.begin t;
  let n := rq.prm 0;
  let up := fun e : Dev => e.wake (12 + 6 * n) causeHost;
  (n ≤ 7) ∧ ((d.isReady (fnDs n) || d.isReady (fnUs n)) = true) ∧ (Accepted d rq 1 [])) := by decide +kernel

theorem witness_ClassificationCommandsComplete_11 :
    (let s : State := wit (fun d => d.modTab 7 fun x => { x with shadow := { x.shadow with addr := [(6, some 64)] } });
  let t : Nat := 0;
  let rq : Req := ask [7, 6, 4095, 1];
  let d := s.dev.begin t;
  let n := rq.prm 0;
  let up := fun e : Dev => e.wake (12 + 6 * n) causeHost;
  let count := (d.slice n).tab.shadow.count;
  let size := if rq.prm 1 = 10 then count + (d.statics n).length else d.tableSize n (rq.prm 1);
  let dwords := fun j => ((rq.hostBuf 0).drop (entryWidth (rq.prm 1) * j)).take (entryWidth (rq.prm 1));
  let e := fun j => storedEntry (rq.prm 1) ((dwords j).map fun v => v.setWidth 20);
  (n ≤ 7) ∧ ((d.isReady (fnDs n) || d.isReady (fnUs n)) = true) ∧ (Accepted d rq 4 []) ∧ (1 ≤ rq.prm 1) ∧ (rq.prm 1 ≤ 10) ∧ (d.dmaHalted (52 + n) = false) ∧ (((d.slice n).tab.shadow.addr.get none (rq.prm 1)).isSome = true) ∧ (rq.prm 2 ≤ size - 1) ∧ (1 ≤ rq.prm 3) ∧ (rq.prm 3 ≤ size - rq.prm 2) ∧ (rq.prm 1 ≠ 10) ∧ (∀ j < rq.prm 3, (rq.prm 1 ≤ 2 → d.portFault n (rq.prm 1) (rq.prm 2 + j) = none) ∧ d.entryFault n (rq.prm 1) (e j) 2 = none)) := by and_intros <;> decide +kernel

theorem witness_ClassificationCommandsComplete_12 :
    (let s : State := wit (fun d => d.modTab 7 fun x => { x with shadow := { x.shadow with addr := [(10, some 64)], count := 1 } });
  let t : Nat := 0;
  let rq : Req := { ask [7, 10, 0, 1] with host := [(AddrEntry.words { valid := true, static := true, mac := 1 }).map (·.setWidth 32)] };
  let d := s.dev.begin t;
  let n := rq.prm 0;
  let up := fun e : Dev => e.wake (12 + 6 * n) causeHost;
  let count := (d.slice n).tab.shadow.count;
  let size := if rq.prm 1 = 10 then count + (d.statics n).length else d.tableSize n (rq.prm 1);
  let dwords := fun j => ((rq.hostBuf 0).drop (entryWidth (rq.prm 1) * j)).take (entryWidth (rq.prm 1));
  let key := fun j => (dwords j).map fun v => v.toNat % 2 ^ 20;
  (n ≤ 7) ∧ ((d.isReady (fnDs n) || d.isReady (fnUs n)) = true) ∧ (Accepted d rq 4 []) ∧ (1 ≤ rq.prm 1) ∧ (rq.prm 1 ≤ 10) ∧ (d.dmaHalted (52 + n) = false) ∧ (((d.slice n).tab.shadow.addr.get none (rq.prm 1)).isSome = true) ∧ (rq.prm 2 ≤ size - 1) ∧ (1 ≤ rq.prm 3) ∧ (rq.prm 3 ≤ size - rq.prm 2) ∧ (rq.prm 1 = 10) ∧ (d.staticFaults n (rq.prm 2) (rq.prm 3) count key (d.deviceOnly n (rq.hostBuf 1)) = none)) := by and_intros <;> decide +kernel

theorem witness_ClassificationCommandsComplete_13 :
    (let s : State := wit id;
  let t : Nat := 0;
  let rq : Req := ask [];
  let d := s.dev.begin t;
  let n := rq.prm 0;
  let n : Fin 8 := 7;
  let status : Fin 8 := (0 : Fin 8);
  let entry : List Dword := [];
  let raced : Bool := false;
  let sh := (d.slice n.val).tab.shadow;
  let run := Completes (.shadowFetch t n status entry raced) s;
  let words := entry.map fun v => v.toNat % 2 ^ 20;
  (sh.todo = [] ∨ sh.running = false)) := by decide +kernel

theorem witness_ClassificationCommandsComplete_14 :
    (let s : State := wit (fun d => d.modTab 7 fun x => { x with shadow := { x.shadow with todo := [6], running := true, index := 0, count := 1 } });
  let t : Nat := 0;
  let rq : Req := ask [];
  let d := s.dev.begin t;
  let n := rq.prm 0;
  let n : Fin 8 := 7;
  let status : Fin 8 := 1;
  let entry : List Dword := [];
  let raced : Bool := false;
  let sh := (d.slice n.val).tab.shadow;
  let run := Completes (.shadowFetch t n status entry raced) s;
  let words := entry.map fun v => v.toNat % 2 ^ 20;
  let c := 6;
  let rest := [];
  (sh.todo = c :: rest) ∧ (sh.running = true) ∧ (status.val ≠ 0)) := by decide +kernel

theorem witness_ClassificationCommandsComplete_15 :
    (let s : State := wit (fun d => d.modTab 7 fun x => { x with shadow := { x.shadow with todo := [6], running := true, index := 4096, count := 1 } });
  let t : Nat := 0;
  let rq : Req := ask [];
  let d := s.dev.begin t;
  let n := rq.prm 0;
  let n : Fin 8 := 7;
  let status : Fin 8 := 0;
  let entry : List Dword := [];
  let raced : Bool := false;
  let sh := (d.slice n.val).tab.shadow;
  let run := Completes (.shadowFetch t n status entry raced) s;
  let words := entry.map fun v => v.toNat % 2 ^ 20;
  let c := 6;
  let rest := [];
  (sh.todo = c :: rest) ∧ (sh.running = true) ∧ (status.val = 0) ∧ (d.shadowSize n.val c ≤ sh.index)) := by decide +kernel

theorem witness_ClassificationCommandsComplete_16 :
    (let s : State := wit (fun d => d.modTab 7 fun x => { x with shadow := { x.shadow with todo := [6], running := true, index := 4095, count := 1 } });
  let t : Nat := 0;
  let rq : Req := ask [];
  let d := s.dev.begin t;
  let n := rq.prm 0;
  let n : Fin 8 := 7;
  let status : Fin 8 := 0;
  let entry : List Dword := [];
  let raced : Bool := false;
  let sh := (d.slice n.val).tab.shadow;
  let run := Completes (.shadowFetch t n status entry raced) s;
  let words := entry.map fun v => v.toNat % 2 ^ 20;
  let c := 6;
  let rest := [];
  (sh.todo = c :: rest) ∧ (sh.running = true) ∧ (status.val = 0) ∧ (sh.index < d.shadowSize n.val c) ∧ (c ≠ 10)) := by decide +kernel

theorem witness_ClassificationCommandsComplete_17 :
    (let s : State := wit (fun d => d.modTab 7 fun x => { x with shadow := { x.shadow with todo := [10], running := true, index := 0, count := 1 } });
  let t : Nat := 0;
  let rq : Req := ask [];
  let d := s.dev.begin t;
  let n := rq.prm 0;
  let n : Fin 8 := 7;
  let status : Fin 8 := 0;
  let entry : List Dword := [];
  let raced : Bool := false;
  let sh := (d.slice n.val).tab.shadow;
  let run := Completes (.shadowFetch t n status entry raced) s;
  let words := entry.map fun v => v.toNat % 2 ^ 20;
  let c := 10;
  let rest := [];
  let key := (addrOf fun j => words.getD j 0).key;
  let d' := d.modShadow n.val fun x => { x with keys := key :: x.keys };
  (sh.todo = c :: rest) ∧ (sh.running = true) ∧ (status.val = 0) ∧ (sh.index < d.shadowSize n.val c) ∧ (c = 10)) := by decide +kernel

theorem witness_AddressCommandsComplete_0 :
    (let s : State := wit id;
  let t : Nat := 0;
  let rq : Req := ask [7, 1048575, 1, 0, 0, 0, 0, 0, 0, 0, 0];
  let d := s.dev.begin t;
  let n := rq.prm 0;
  let up := fun e : Dev => e.wake (12 + 6 * n) causeHost;
  (n ≤ 7) ∧ ((d.isReady (fnDs n) || d.isReady (fnUs n)) = true) ∧ (Accepted d rq (3 + 8 * rq.prm 2) []) ∧ (1 ≤ rq.prm 2) ∧ (rq.prm 2 ≤ 16) ∧ (rq.prm 1 ≤ 2 ^ 20 - rq.prm 2) ∧ (∀ j < rq.prm 2, let e := rq.entry 8 (3 + 8 * j) 8
          e.lftValid = true → e.bits 3 2 17 ≠ 3 ∧ (e.lftUp = true → e.lftTree / 8 = n ∧ Config.aidReserved (e.words.getD 1 0) = false ∧
            d.workingTree e.lftTree = e.lftTree))) := by decide +kernel

theorem witness_AddressCommandsComplete_1 :
    (let s : State := wit id;
  let t : Nat := 0;
  let rq : Req := ask [7, 0, 0, 4101, 524288, 0, 1];
  let d := s.dev.begin t;
  let n := rq.prm 0;
  let up := fun e : Dev => e.wake (12 + 6 * n) causeHost;
  let a := 4 * addrSet 5 1;
  let e := addrOf fun j => rq.prm (1 + j);
  (n ≤ 7) ∧ ((d.isReady (fnDs n) || d.isReady (fnUs n)) = true) ∧ (Accepted d rq 7 []) ∧ (e.valid = true) ∧ (rq.prm 6 ≤ 1) ∧ ((d.addrFind n e.vlan e.mac).isSome = true → rq.prm 6 = 1) ∧ (d.addrPlace n e = some a) ∧ (e.kind = true → (d.lft n e.lfn).lftValid = true ∧ (d.lft n e.lfn).lftUp = true)) := by decide +kernel

theorem witness_AddressCommandsComplete_2 :
    (let s : State := wit (fun d => d.setAddr 7 (4 * addrSet 5 1) { valid := true, vlan := 5, mac := 1 });
  let t : Nat := 0;
  let rq : Req := ask [7, 5, 0, 0, 1];
  let d := s.dev.begin t;
  let n := rq.prm 0;
  let up := fun e : Dev => e.wake (12 + 6 * n) causeHost;
  let a := 4 * addrSet 5 1;
  let e := { valid := true, vlan := 5, mac := 1 };
  let v := BitVec.ofNat 12 (rq.prm 1);
  (n ≤ 7) ∧ ((d.isReady (fnDs n) || d.isReady (fnUs n)) = true) ∧ (Accepted d rq 5 []) ∧ (rq.prm 1 ≤ 4095) ∧ (rq.prm 2 ≤ 255) ∧ (d.addrFind n v (rq.mac 2) = some (a, e))) := by decide +kernel

theorem witness_AddressCommandsComplete_4 :
    (let s : State := wit id;
  let t : Nat := 0;
  let rq : Req := ask [7, 2, 1048575, 1];
  let d := s.dev.begin t;
  let n := rq.prm 0;
  let up := fun e : Dev => e.wake (12 + 6 * n) causeHost;
  let gone := fun (x : Nat × AddrEntry) => x.2.valid && (!x.2.static || rq.flag 3) &&
          (rq.prm 1 == 0 || (rq.prm 1 == 1 && !x.2.kind && x.2.port == rq.prm 2) || (rq.prm 1 == 2 && x.2.kind && x.2.lfn == rq.prm 2));
  let hit := (d.slice n).tab.addr.filter gone;
  (n ≤ 7) ∧ ((d.isReady (fnDs n) || d.isReady (fnUs n)) = true) ∧ (Accepted d rq 4 []) ∧ (rq.prm 1 ≤ 2) ∧ (rq.prm 2 ≤ (if rq.prm 1 = 1 then 31 else 2 ^ 20 - 1)) ∧ (rq.prm 3 ≤ 1)) := by decide +kernel

theorem witness_AddressCommandsComplete_5 :
    (let s : State := wit id;
  let t : Nat := 0;
  let rq : Req := ask [7, 1, 1000, 0, 0];
  let d := s.dev.begin t;
  let n := rq.prm 0;
  let up := fun e : Dev => e.wake (12 + 6 * n) causeHost;
  (n ≤ 7) ∧ ((d.isReady (fnDs n) || d.isReady (fnUs n)) = true) ∧ (Accepted d rq 5 []) ∧ (rq.bits 1 16 0 ≠ 0) ∧ (rq.bits 2 11 0 ≤ 1000)) := by decide +kernel

theorem witness_AddressCommandsComplete_6 :
    (let s : State := wit (fun d => d.modTab 7 fun x => { x with agePass := true });
  let t : Nat := 0;
  let rq : Req := ask [];
  let d := s.dev.begin t;
  let n := rq.prm 0;
  let up := fun e : Dev => e.wake (12 + 6 * n) causeHost;
  let n : Fin 8 := 7;
  let x := (d.slice n.val).tab;
  (x.agePass = true ∨ d.now < x.ageAt + x.ageTick * Config.ms)) := by decide +kernel

theorem witness_AddressCommandsComplete_7 :
    (let s : State := wit id;
  let t : Nat := 3600 * Config.sec;
  let rq : Req := ask [];
  let d := s.dev.begin t;
  let n := rq.prm 0;
  let up := fun e : Dev => e.wake (12 + 6 * n) causeHost;
  let n : Fin 8 := 7;
  let x := (d.slice n.val).tab;
  (x.agePass = false) ∧ (x.ageAt + x.ageTick * Config.ms ≤ d.now)) := by decide +kernel

theorem witness_AddressCommandsComplete_8 :
    (let s : State := wit id;
  let t : Nat := 0;
  let rq : Req := ask [];
  let d := s.dev.begin t;
  let n := rq.prm 0;
  let up := fun e : Dev => e.wake (12 + 6 * n) causeHost;
  let n : Fin 8 := 7;
  let x := (d.slice n.val).tab;
  let bad := (15 : BitVec 4);
  (x.agePass = false)) := by decide +kernel

theorem witness_AddressCommandsComplete_9 :
    (let s : State := wit (fun d => d.modTab 7 fun x => { x with agePass := true });
  let t : Nat := 0;
  let rq : Req := ask [];
  let d := s.dev.begin t;
  let n := rq.prm 0;
  let up := fun e : Dev => e.wake (12 + 6 * n) causeHost;
  let n : Fin 8 := 7;
  let x := (d.slice n.val).tab;
  let bad := (15 : BitVec 4);
  (x.agePass = true)) := by decide +kernel

theorem witness_AddressCommandsComplete_10 :
    (let s : State := wit (fun d => d.modTab 7 fun x => { x with addr := [(0, { valid := true })], agePass := true, ageLim := 3, acyc := { soft := [0] } });
  let t : Nat := 0;
  let rq : Req := ask [];
  let d := s.dev.begin t;
  let n := rq.prm 0;
  let up := fun e : Dev => e.wake (12 + 6 * n) causeHost;
  let n : Fin 8 := 7;
  let x := (d.slice n.val).tab;
  let bad := (15 : BitVec 4);
  let i : Nat := 0;
  let ns : Nat := 0;
  let ue : Bool := true;
  let hit : Bool := false;
  let c := x.inCycle d.cycle;
  let e := d.addrSeen n.val i;
  let y := d.addrAt n.val i;
  let e' := (d.ageWay n.val i ns ue hit).addrAt n.val i;
  let old := min 255 (e.age + 1);
  (c.soft.contains i = true)) := by decide +kernel

theorem witness_AddressCommandsComplete_11 :
    (let s : State := wit (fun d => d.modTab 7 fun x => { x with addr := [(0, { bad := true })], agePass := true, ageLim := 3 });
  let t : Nat := 0;
  let rq : Req := ask [];
  let d := s.dev.begin t;
  let n := rq.prm 0;
  let up := fun e : Dev => e.wake (12 + 6 * n) causeHost;
  let n : Fin 8 := 7;
  let x := (d.slice n.val).tab;
  let bad := (15 : BitVec 4);
  let i : Nat := 0;
  let ns : Nat := 0;
  let ue : Bool := false;
  let hit : Bool := false;
  let c := x.inCycle d.cycle;
  let e := d.addrSeen n.val i;
  let y := d.addrAt n.val i;
  let e' := (d.ageWay n.val i ns ue hit).addrAt n.val i;
  let old := min 255 (e.age + 1);
  (c.soft.contains i = false) ∧ (ue = true ∨ e.bad = true)) := by decide +kernel

theorem witness_AddressCommandsComplete_12 :
    (let s : State := wit (fun d => d.modTab 7 fun x => { x with addr := [(0, { valid := true, static := true })], agePass := true, ageLim := 3 });
  let t : Nat := 0;
  let rq : Req := ask [];
  let d := s.dev.begin t;
  let n := rq.prm 0;
  let up := fun e : Dev => e.wake (12 + 6 * n) causeHost;
  let n : Fin 8 := 7;
  let x := (d.slice n.val).tab;
  let bad := (15 : BitVec 4);
  let i : Nat := 0;
  let ns : Nat := 0;
  let ue : Bool := false;
  let hit : Bool := false;
  let c := x.inCycle d.cycle;
  let e := d.addrSeen n.val i;
  let y := d.addrAt n.val i;
  let e' := (d.ageWay n.val i ns ue hit).addrAt n.val i;
  let old := min 255 (e.age + 1);
  (c.soft.contains i = false) ∧ (ue = false) ∧ (e.bad = false) ∧ (e.valid = false ∨ e.static = true)) := by decide +kernel

theorem witness_AddressCommandsComplete_13 :
    (let s : State := wit (fun d => d.modTab 7 fun x => { x with addr := [(0, { valid := true })], agePass := true, ageLim := 1 });
  let t : Nat := 0;
  let rq : Req := ask [];
  let d := s.dev.begin t;
  let n := rq.prm 0;
  let up := fun e : Dev => e.wake (12 + 6 * n) causeHost;
  let n : Fin 8 := 7;
  let x := (d.slice n.val).tab;
  let bad := (15 : BitVec 4);
  let i : Nat := 0;
  let ns : Nat := 0;
  let ue : Bool := false;
  let hit : Bool := true;
  let c := x.inCycle d.cycle;
  let e := d.addrSeen n.val i;
  let y := d.addrAt n.val i;
  let e' := (d.ageWay n.val i ns ue hit).addrAt n.val i;
  let old := min 255 (e.age + 1);
  (c.soft.contains i = false) ∧ (ue = false) ∧ (e.bad = false) ∧ (e.valid = true) ∧ (e.static = false) ∧ (hit = true)) := by decide +kernel

theorem witness_AddressCommandsComplete_14 :
    (let s : State := wit (fun d => d.modTab 7 fun x => { x with addr := [(0, { valid := true, age := 255 })], agePass := true, ageLim := 255 });
  let t : Nat := 0;
  let rq : Req := ask [];
  let d := s.dev.begin t;
  let n := rq.prm 0;
  let up := fun e : Dev => e.wake (12 + 6 * n) causeHost;
  let n : Fin 8 := 7;
  let x := (d.slice n.val).tab;
  let bad := (15 : BitVec 4);
  let i : Nat := 0;
  let ns : Nat := 0;
  let ue : Bool := false;
  let hit : Bool := false;
  let c := x.inCycle d.cycle;
  let e := d.addrSeen n.val i;
  let y := d.addrAt n.val i;
  let e' := (d.ageWay n.val i ns ue hit).addrAt n.val i;
  let old := min 255 (e.age + 1);
  (c.soft.contains i = false) ∧ (ue = false) ∧ (e.bad = false) ∧ (e.valid = true) ∧ (e.static = false) ∧ (hit = false) ∧ (x.ageLim ≤ old)) := by decide +kernel

theorem witness_AddressCommandsComplete_15 :
    (let s : State := wit (fun d => d.modTab 7 fun x => { x with addr := [(0, { valid := true })], agePass := true, ageLim := 2, acyc := { ups := [(0, 1, true)] } });
  let t : Nat := 0;
  let rq : Req := ask [];
  let d := s.dev.begin t;
  let n := rq.prm 0;
  let up := fun e : Dev => e.wake (12 + 6 * n) causeHost;
  let n : Fin 8 := 7;
  let x := (d.slice n.val).tab;
  let bad := (15 : BitVec 4);
  let i : Nat := 0;
  let ns : Nat := 0;
  let ue : Bool := false;
  let hit : Bool := false;
  let c := x.inCycle d.cycle;
  let e := d.addrSeen n.val i;
  let y := d.addrAt n.val i;
  let e' := (d.ageWay n.val i ns ue hit).addrAt n.val i;
  let old := min 255 (e.age + 1);
  (c.soft.contains i = false) ∧ (ue = false) ∧ (e.bad = false) ∧ (e.valid = true) ∧ (e.static = false) ∧ (hit = false) ∧ (old < x.ageLim) ∧ ((c.ups.any fun u => u.1 == i && u.2.2) = true)) := by decide +kernel

theorem witness_AddressCommandsComplete_16 :
    (let s : State := wit (fun d => d.modTab 7 fun x => { x with addr := [(0, { valid := true })], agePass := true, ageLim := 2 });
  let t : Nat := 0;
  let rq : Req := ask [];
  let d := s.dev.begin t;
  let n := rq.prm 0;
  let up := fun e : Dev => e.wake (12 + 6 * n) causeHost;
  let n : Fin 8 := 7;
  let x := (d.slice n.val).tab;
  let bad := (15 : BitVec 4);
  let i : Nat := 0;
  let ns : Nat := 0;
  let ue : Bool := false;
  let hit : Bool := false;
  let c := x.inCycle d.cycle;
  let e := d.addrSeen n.val i;
  let y := d.addrAt n.val i;
  let e' := (d.ageWay n.val i ns ue hit).addrAt n.val i;
  let old := min 255 (e.age + 1);
  (c.soft.contains i = false) ∧ (ue = false) ∧ (e.bad = false) ∧ (e.valid = true) ∧ (e.static = false) ∧ (hit = false) ∧ (old < x.ageLim) ∧ ((c.ups.any fun u => u.1 == i && u.2.2) = false)) := by decide +kernel

theorem witness_AssemblyCommandsComplete_0 :
    (let s : State := wit id;
  let t : Nat := 0;
  let rq : Req := ask [15, 1000, 1000];
  let d := s.dev.begin t;
  let n := rq.prm 0;
  (Accepted d rq 3 [fnPort n]) ∧ (n ≤ 15) ∧ (rq.prm 1 ≤ 1000) ∧ (rq.prm 2 ≤ 1000)) := by decide +kernel

theorem witness_AssemblyCommandsComplete_1 :
    (let s : State := wit id;
  let t : Nat := 0;
  let rq : Req := ask [131071, 10240];
  let d := s.dev.begin t;
  let n := rq.prm 0;
  let q := n % 16384;
  let sl := n / 16384;
  (Accepted d rq 2 [fnUs (n / 16384)]) ∧ (n ≤ 131071) ∧ (64 ≤ rq.prm 1) ∧ (rq.prm 1 ≤ 10240)) := by decide +kernel

theorem witness_AssemblyCommandsComplete_2 :
    (let s : State := wit id;
  let t : Nat := 0;
  let rq : Req := ask [7];
  let d := s.dev.begin t;
  let n := rq.prm 0;
  (Accepted d rq 1 [fnUs n]) ∧ (n ≤ 7)) := by decide +kernel

theorem witness_AssemblyCommandsComplete_3 :
    (let s : State := wit (fun d => d.modTree 63 fun x => { x with cfg := { x.cfg with configured := true } });
  let t : Nat := 0;
  let rq : Req := ask [63, 4, 0];
  let d := s.dev.begin t;
  let n := rq.prm 0;
  let f := (d.tree n).fr.fc;
  (Accepted d rq 3 [fnPort (portOfTree n), fnUs (n / 8)]) ∧ (n ≤ 63) ∧ (d.dmaHalted rq.mb.val = false) ∧ ((d.tree n).cfg.configured = true) ∧ (rq.raw 1 % 4 = 0)) := by decide +kernel

theorem witness_AssemblyCommandsComplete_4 :
    (let s : State := wit id;
  let t : Nat := 0;
  let rq : Req := ask [15];
  let d := s.dev.begin t;
  let n := rq.prm 0;
  let ts := (d.port n).lastTrips;
  (Accepted d rq 1 [fnPort n]) ∧ (n ≤ 15)) := by decide +kernel

theorem witness_AssemblyCommandsComplete_8 :
    (let s : State := wit id;
  let t : Nat := 0;
  let rq : Req := ask [];
  let d := s.dev.begin t;
  let n := rq.prm 0;
  let n : Fin 8 := 7;
  let q : Nat := 5;
  let e : Dev := (wit (fun d => { ((d.modKey 7 fun k => { k with ctx := [(32767, { keyed := true, us := true, bound := true, tree := 63, aid := 5 })] }).setQueue 7 5 { cfg := { valid := true, kind := 0, cls := 0, target := 63, aid := 5 } } : Dev) with ending := [.arrive 7 5] })).dev;
  let c := { e with ending := [] };
  let Q := c.queue n.val q;
  let k := c.carrier Q.cfg.target;
  (e.ending = [.arrive n.val q]) ∧ (Q.cfg.valid = true) ∧ (Q.cfg.kind = 0) ∧ (Q.cfg.cls = 0) ∧ (Q.cfg.target / 8 = n.val) ∧ (c.noRank n.val = false) ∧ (c.dtApplies k = false) ∧ (c.txKeyed k Q.cfg.aid.toNat = true) ∧ ((c.tree k).removing Q.cfg.aid = false)) := by decide +kernel

theorem witness_BurstEventsComplete_1 :
    (let s : State := wit id;
  let t : Nat := 0;
  let d := s.dev.begin t;
  let k : Fin 64 := 63;
  let aid : Word := 5;
  let qf : QFault := QFault.ok;
  let e : Dev := (wit (fun d => { (d.modTree 63 fun x => { x with dt := { held := true } } : Dev) with ending := [.assemble 63 5 .ok] })).dev;
  let c := { e with ending := [] };
  (e.ending = [.assemble k.val aid qf]) ∧ (c.dtApplies k.val = true)) := by decide +kernel

theorem witness_BurstEventsComplete_2 :
    (let s : State := wit id;
  let t : Nat := 0;
  let d := s.dev.begin t;
  let k : Fin 64 := 63;
  let aid : Word := 5;
  let qf : QFault := QFault.ok;
  let e : Dev := (wit (fun d => { (d.modKey 7 fun k => { k with ctx := [(32767, { keyed := true, us := true, bound := true, tree := 63, aid := 5 })] } : Dev) with ending := [.assemble 63 5 .ok] })).dev;
  let c := { e with ending := [] };
  (e.ending = [.assemble k.val aid qf]) ∧ (Config.aidReserved aid = false) ∧ (c.dtApplies k.val = false) ∧ (c.txKeyed k.val aid.toNat = true) ∧ ((c.tree k.val).removing aid = false) ∧ (c.noRank (sliceOfTree k.val) = false) ∧ (c.placedCount (sliceOfTree k.val) < Config.maxPlacedParcels) ∧ (qf ≠ .takeLog) ∧ (∀ p ∈ c.assemblies k.val aid, p.ranging = false) ∧ (∀ p ∈ c.assemblies k.val aid, p.answering = false)) := by decide +kernel

theorem witness_BurstEventsComplete_3 :
    (let s : State := wit id;
  let t : Nat := 0;
  let d := s.dev.begin t;
  let k : Fin 64 := 63;
  let aid : Word := Config.aidAnnounce;
  let qf : QFault := QFault.ok;
  let e : Dev := (wit (fun d => { (d : Dev) with ending := [.assemble 63 Config.aidAnnounce .ok] })).dev;
  let c := { e with ending := [] };
  (e.ending = [.assemble k.val aid qf]) ∧ (aid = Config.aidAnnounce) ∧ (c.dtApplies k.val = false) ∧ (∀ p ∈ c.assemblies k.val Config.aidAnnounce, p.ranging = false)) := by decide +kernel

theorem witness_BurstEventsComplete_4 :
    (let s : State := wit id;
  let t : Nat := 0;
  let d := s.dev.begin t;
  let k : Fin 64 := 63;
  let aid : Word := Config.aidMgmt;
  let qf : QFault := QFault.ok;
  let e : Dev := (wit (fun d => { (d.modTree 63 fun x => { x with cfg := { x.cfg with configured := true, size := 1, laneMap := [(0, 253)] }, fr := { x.fr with tfl := true, laneCount := 1 }, pitches := [{ frame := 1, pid := 9, aid := Config.aidMgmt, length := 5, mask := 1, opened := true }], ex := { x.ex with answers := [{}] } } : Dev) with ending := [.assemble 63 Config.aidMgmt .ok] })).dev;
  let c := { e with ending := [] };
  let p := ({ frame := 1, pid := 9, aid := Config.aidMgmt, length := 5, mask := 1, opened := true } : Pitch);
  let a := ({} : Answer);
  let rest := ([] : List Answer);
  (e.ending = [.assemble k.val aid qf]) ∧ (aid = Config.aidMgmt) ∧ (c.dtApplies k.val = false) ∧ (∀ q ∈ c.assemblies k.val Config.aidMgmt, q.ranging = false) ∧ ((c.tree k.val).ex.answers = a :: rest) ∧ (c.assemblies k.val Config.aidMgmt = [p]) ∧ (p.rng = false) ∧ (c.placedCount (sliceOfTree k.val) < Config.maxPlacedParcels) ∧ (p.placed + a.blocks ≤ (c.tree k.val).region p)) := by decide +kernel

theorem witness_BurstEventsComplete_5 :
    (let s : State := wit (fun d => d.modTree 63 fun x => { x with cfg := { x.cfg with configured := true, size := 1, laneMap := [(0, 253)] }, fr := { x.fr with tfl := true, laneCount := 1 }, pitches := [{ frame := 1, pid := 9, aid := 5, length := 5, mask := 1, opened := true, takes := [{}] }] });
  let t : Nat := Config.sec;
  let d := s.dev.begin t;
  let k : Fin 64 := 63;
  let frame : Nat := 1;
  let pid : Nat := 9;
  let p : Pitch := { frame := 1, pid := 9, aid := 5, length := 5, mask := 1, opened := true, takes := [{}] };
  let keyBad : Bool := false;
  let flaws : List (Nat × QFault) := [];
  let e := d.forEach flaws fun x d => d.damage (sliceOfTree k.val) x.1 x.2;
  let S := e.pitchS k.val p;
  let f := e.ilFreeze k.val frame pid;
  let g := f.bumpN .pitchMaskIgnored k.val 0 0;
  (e.pitch k.val frame pid = some p) ∧ (p.phase = 0) ∧ (e.pastCommit k.val p = true) ∧ (∀ q ∈ (e.tree k.val).pitches, q.phase = 0 → e.pastCommit k.val q = true → e.pitchBefore k.val q p = false) ∧ (f.dtApplies k.val = false) ∧ (p.reserved = true ∨ f.selected k.val = true) ∧ ((f.tree k.val).fr.dup = false) ∧ (p.std = false) ∧ (p.aid ≠ Config.aidAnnounce) ∧ ((f.tree k.val).newIgnored p = 0) ∧ ((f.tree k.val).namedLanes p ≠ []) ∧ (p.opened = true) ∧ (p.skips = false)) := by decide +kernel

theorem witness_BurstEventsComplete_6 :
    (let s : State := wit (fun d => d.modTree 63 fun x => { x with cfg := { x.cfg with configured := true, size := 1, laneMap := [(0, 253)] }, fr := { x.fr with tfl := true, laneCount := 1 }, pitches := [{ frame := 1, pid := 9, aid := 5, length := 5, mask := 1, opened := true, takes := [{}] }], dt := { held := true } });
  let t : Nat := Config.sec;
  let d := s.dev.begin t;
  let k : Fin 64 := 63;
  let frame : Nat := 1;
  let pid : Nat := 9;
  let p : Pitch := { frame := 1, pid := 9, aid := 5, length := 5, mask := 1, opened := true, takes := [{}] };
  let keyBad : Bool := false;
  let flaws : List (Nat × QFault) := [];
  let e := d.forEach flaws fun x d => d.damage (sliceOfTree k.val) x.1 x.2;
  let S := e.pitchS k.val p;
  let f := e.ilFreeze k.val frame pid;
  (e.pitch k.val frame pid = some p) ∧ (p.phase = 0) ∧ (e.pastCommit k.val p = true) ∧ (∀ q ∈ (e.tree k.val).pitches, q.phase = 0 → e.pastCommit k.val q = true → e.pitchBefore k.val q p = false) ∧ (f.dtApplies k.val = true) ∧ (p.std = false)) := by decide +kernel

theorem witness_BurstEventsComplete_7 :
    (let s : State := wit (fun d => d.modTree 63 fun x => { x with cfg := { x.cfg with configured := true, size := 1, laneMap := [(0, 253)] }, fr := { x.fr with tfl := true, laneCount := 1 }, pitches := [{ frame := 1, pid := 9, aid := 5, length := 5, mask := 1, opened := true, fixedS := some Config.sec, phase := 1 }] });
  let t : Nat := Config.sec;
  let d := s.dev.begin t;
  let k : Fin 64 := 63;
  let frame : Nat := 1;
  let pid : Nat := 9;
  let p : Pitch := { frame := 1, pid := 9, aid := 5, length := 5, mask := 1, opened := true, fixedS := some Config.sec, phase := 1 };
  let S := p.fixedS.getD 0;
  let port := portOfTree k.val;
  let e := d.wake (pdLtx port) causePitch;
  let errors := (p.names.getD []).map fun i => (((e.tree k.val).laneOf i).map fun l => [(e.txLane l).error]).getD [];
  let f := e.forEach p.lanes fun l d => d.modTx l fun x => { x.intoBurst with driveAt := S + p.tonUi * Config.ui };
  (d.pitch k.val frame pid = some p) ∧ (p.phase = 1) ∧ (S ≤ d.now) ∧ (d.heldOff k.val = none) ∧ (d.now < d.pitchClose k.val p)) := by decide +kernel

theorem witness_BurstEventsComplete_8 :
    (let s : State := wit (fun d => d.modTree 63 fun x => { x with cfg := { x.cfg with configured := true, size := 1, laneMap := [(0, 253)] }, fr := { x.fr with tfl := true, laneCount := 1, loss := true }, pitches := [{ frame := 1, pid := 9, aid := 5, length := 5, mask := 1, opened := true, fixedS := some Config.sec, phase := 1 }] });
  let t : Nat := Config.sec;
  let d := s.dev.begin t;
  let k : Fin 64 := 63;
  let frame : Nat := 1;
  let pid : Nat := 9;
  let p : Pitch := { frame := 1, pid := 9, aid := 5, length := 5, mask := 1, opened := true, fixedS := some Config.sec, phase := 1 };
  let S := p.fixedS.getD 0;
  let port := portOfTree k.val;
  let c := tripLost;
  (d.pitch k.val frame pid = some p) ∧ (p.phase = 1) ∧ (S ≤ d.now) ∧ (d.heldOff k.val = some c)) := by decide +kernel

theorem witness_BurstEventsComplete_9 :
    (let s : State := wit (fun d => d.modTree 63 fun x => { x with cfg := { x.cfg with configured := true, size := 1, laneMap := [(0, 253)] }, fr := { x.fr with tfl := true, laneCount := 1 }, pitches := [{ frame := 1, pid := 9, aid := 5, length := 5, mask := 1, opened := true, fixedS := some 0, phase := 1 }] });
  let t : Nat := Config.sec;
  let d := s.dev.begin t;
  let k : Fin 64 := 63;
  let frame : Nat := 1;
  let pid : Nat := 9;
  let p : Pitch := { frame := 1, pid := 9, aid := 5, length := 5, mask := 1, opened := true, fixedS := some 0, phase := 1 };
  let S := p.fixedS.getD 0;
  let port := portOfTree k.val;
  (d.pitch k.val frame pid = some p) ∧ (p.phase = 1) ∧ (S ≤ d.now) ∧ (d.heldOff k.val = none) ∧ (d.pitchClose k.val p ≤ d.now)) := by decide +kernel

theorem witness_BurstEventsComplete_10 :
    (let s : State := wit (fun d => d.modTree 63 fun x => { x with cfg := { x.cfg with configured := true, size := 1, laneMap := [(0, 253)] }, fr := { x.fr with tfl := true, laneCount := 1 }, pitches := [{ frame := 1, pid := 9, aid := 5, length := 5, mask := 1, opened := true, fixedS := some 0, phase := 3 }] });
  let t : Nat := Config.sec;
  let d := s.dev.begin t;
  let k : Fin 64 := 63;
  let frame : Nat := 1;
  let pid : Nat := 9;
  let p : Pitch := { frame := 1, pid := 9, aid := 5, length := 5, mask := 1, opened := true, fixedS := some 0, phase := 3 };
  let S := p.fixedS.getD 0;
  let port := portOfTree k.val;
  let cws := if p.answering then 1 else p.codewords;
  (d.pitch k.val frame pid = some p) ∧ (p.phase = 3) ∧ (S + (p.lead + 2700 * cws) * Config.ui ≤ d.now)) := by decide +kernel

theorem witness_BurstEventsComplete_11 :
    (let s : State := wit (fun d => d.modTree 63 fun x => { x with cfg := { x.cfg with configured := true, size := 1, laneMap := [(0, 253)] }, fr := { x.fr with tfl := true, laneCount := 1 }, pitches := [{ frame := 1, pid := 9, aid := 5, length := 5, mask := 1, opened := true, fixedS := some 0, phase := 4 }] });
  let t : Nat := Config.sec;
  let d := s.dev.begin t;
  let k : Fin 64 := 63;
  let frame : Nat := 1;
  let pid : Nat := 9;
  let p : Pitch := { frame := 1, pid := 9, aid := 5, length := 5, mask := 1, opened := true, fixedS := some 0, phase := 4 };
  let S := p.fixedS.getD 0;
  let port := portOfTree k.val;
  (d.pitch k.val frame pid = some p) ∧ (p.phase = 4) ∧ (d.pitchClose k.val p ≤ d.now)) := by decide +kernel

theorem witness_BurstEventsComplete_12 :
    (let s : State := wit (fun d => d.modTree 63 fun x => { x with pitches := [{ frame := 1, pid := 9, aid := 5, length := 5, mask := 1, opened := true, fixedS := some 0, phase := 3, takes := [{ desc := { pool := 2, index := 4 } }] }] });
  let t : Nat := 0;
  let d := s.dev.begin t;
  let n : Fin 8 := 7;
  let pool : Fin 8 := 2;
  let index : Word := 4;
  let stageBad : Bool := false;
  let k : Nat := 63;
  let p : Pitch := { frame := 1, pid := 9, aid := 5, length := 5, mask := 1, opened := true, fixedS := some 0, phase := 3, takes := [{ desc := { pool := 2, index := 4 } }] };
  let b := d.buffer n.val pool.val index.toNat;
  ((treesOf n.val).findSome? fun k => ((d.tree k).pitches.find? fun p =>
        p.phase != 0 && p.takes.any fun e => e.desc.pool == pool.val && e.desc.index == index.toNat).map fun p => (k, p)) = some (k, p) ∧ (b.frame.ts = none)) := by decide +kernel

theorem witness_BurstEventsComplete_13 :
    (let s : State := wit (fun d => (d.modTree 63 fun x => { x with pitches := [{ frame := 1, pid := 9, aid := 5, length := 5, mask := 1, opened := true, fixedS := some 0, phase := 3, takes := [{ desc := { pool := 2, index := 4 } }] }] }).setBuffer 7 2 4 { frame := { bytes := [], ts := some (1, 5) } });
  let t : Nat := 0;
  let d := s.dev.begin t;
  let n : Fin 8 := 7;
  let pool : Fin 8 := 2;
  let index : Word := 4;
  let stageBad : Bool := false;
  let k : Nat := 63;
  let p : Pitch := { frame := 1, pid := 9, aid := 5, length := 5, mask := 1, opened := true, fixedS := some 0, phase := 3, takes := [{ desc := { pool := 2, index := 4 } }] };
  let ring : Nat := 1;
  let id : Nat := 5;
  let x : Take := { desc := { pool := 2, index := 4 } };
  let b := d.buffer n.val pool.val index.toNat;
  let named := fun e : Take => e.desc.pool == pool.val && e.desc.index == index.toNat;
  let m := ((d.tree k).namedLanes p).length;
  let e := (d.waitStamp { ring := ring, id := id, stamp := b.frame.stamp, at_ := p.fixedS.getD 0 + p.blockUi m (x.pos + 1) * Config.ui,
                              done := p.itemEnd m x.pos x.blocks, tree := k, frame := p.frame, pid := p.pid }).passStamps;
  ((treesOf n.val).findSome? fun k => ((d.tree k).pitches.find? fun p => p.phase != 0 && p.takes.any named).map fun p => (k, p)) = some (k, p) ∧ (b.frame.ts = some (ring, id)) ∧ (p.takes.find? named = some x)) := by decide +kernel

theorem witness_BurstEventsComplete_14 :
    (let s : State := wit id;
  let t : Nat := 0;
  let d := s.dev.begin t;
  let n : Fin 8 := 7;
  let slice : Fin 8 := 6;
  let pool : Fin 8 := (0 : Fin 8);
  let party : Fin 16 := 10;
  let index : Word := 0;
  let stageBad : Bool := false;
  (slice ≠ n ∨ (party.val ≠ 10 ∧ party.val ≠ 11))) := by decide +kernel

theorem witness_BurstEventsComplete_15 :
    (let s : State := wit (fun d => d.modBuf 7 fun b => { b with reads := [{ port := 0, queue := 0, cls := 0, desc := { pool := 2, index := 4 } }] });
  let t : Nat := 0;
  let d := s.dev.begin t;
  let n : Fin 8 := 7;
  let pool : Fin 8 := 2;
  let index : Word := 4;
  let stageBad : Bool := false;
  (((d.slice n.val).buf.reads.any fun r => r.desc.pool == pool.val && r.desc.index == index.toNat) = true)) := by decide +kernel

theorem witness_BurstEventsComplete_16 :
    (let s : State := wit id;
  let t : Nat := 0;
  let d := s.dev.begin t;
  let p : Fin 16 := 15;
  let seen : BitVec 16 := 0;
  let outs : BitVec 4 := 0;
  let bad := ((List.range 16).map fun i => 16 * p.val + i).filter fun l =>
        (seen.getLsbD (l % 16) && !d.laneMay l) || (outs.getLsbD (l / 4 % 4) && !d.outputAllowed (l / 4));
  (bad = [])) := by decide +kernel

theorem witness_BurstEventsComplete_17 :
    (let s : State := wit id;
  let t : Nat := 0;
  let d := s.dev.begin t;
  let p : Fin 16 := 15;
  let seen : BitVec 16 := 0x1000;
  let outs : BitVec 4 := 0;
  let bad := ((List.range 16).map fun i => 16 * p.val + i).filter fun l =>
        (seen.getLsbD (l % 16) && !d.laneMay l) || (outs.getLsbD (l / 4 % 4) && !d.outputAllowed (l / 4));
  let e := d.trip p.val (((bad.filterMap d.treeOfLane).findSome? d.heldOff).getD tripWindow);
  let f := e.forEach (treesOfPort p.val) fun k d =>
          d.forEach ((d.tree k).pitches.filter fun p => p.phase == 3 && p.lanes.any bad.contains) fun p d => d.cutPitch k p;
  (bad ≠ [])) := by decide +kernel

theorem witness_BurstEventsComplete_18 :
    (let s : State := wit (fun d => d.modPwr fun w => { w with balls := [(63, true)] });
  let t : Nat := 0;
  let d := s.dev.begin t;
  let b : Fin 64 := 63;
  (d.pwr.balls.get false b.val = true)) := by decide +kernel

theorem witness_BurstEventsComplete_19 :
    (let s : State := wit id;
  let t : Nat := 0;
  let d := s.dev.begin t;
  let b : Fin 64 := 63;
  (d.pwr.balls.get false b.val = false)) := by decide +kernel

theorem witness_IngressEventsComplete_0 :
    (let s : State := wit (fun d => d.modSys 255 fun x => { x with width := 1 });
  let t : Nat := 0;
  let d := s.dev.begin t;
  let p : Fin 256 := 255;
  let f : List Byte := [];
  let stamp : Nat := 0;
  let ue : List (Nat × Nat) := [];
  let sp := d.sysPort p.val;
  let e := (d.bumpN .macRx p.val 22 f.length).bwAdd (p.val / 32) (2 * (p.val % 32)) f.length;
  (sp.width = 0 ∨ sp.enabled = false ∨ sp.up = false)) := by decide +kernel

theorem witness_IngressEventsComplete_1 :
    (let s : State := wit (fun d => d.modSys 255 fun x => { x with width := 1, enabled := true, up := true });
  let t : Nat := 0;
  let d := s.dev.begin t;
  let p : Fin 256 := 255;
  let f : List Byte := List.replicate 63 0;
  let stamp : Nat := 0;
  let ue : List (Nat × Nat) := [];
  let sp := d.sysPort p.val;
  let e := (d.bumpN .macRx p.val 22 f.length).bwAdd (p.val / 32) (2 * (p.val % 32)) f.length;
  let c := 18;
  (sp.width ≠ 0) ∧ (sp.enabled = true) ∧ (sp.up = true) ∧ (macBad f = some c)) := by decide +kernel

theorem witness_IngressEventsComplete_2 :
    (let s : State := wit (fun d => d.modSys 255 fun x => { x with width := 1, enabled := true, up := true });
  let t : Nat := 0;
  let d := s.dev.begin t;
  let p : Fin 256 := 255;
  let f : List Byte := withFcs (List.replicate 60 0);
  let stamp : Nat := 0;
  let ue : List (Nat × Nat) := [];
  let sp := d.sysPort p.val;
  let e := (d.bumpN .macRx p.val 22 f.length).bwAdd (p.val / 32) (2 * (p.val % 32)) f.length;
  let g := e.macOk .macRx p.val ((e.slice (p.val / 32)).tab.tags f).tagged f;
  (sp.width ≠ 0) ∧ (sp.enabled = true) ∧ (sp.up = true) ∧ (macBad f = none) ∧ (isPause f = false) ∧ (isPfc f = false)) := by decide +kernel

theorem witness_IngressEventsComplete_3 :
    (let s : State := wit (fun d => (d.modSys 255 fun x => { x with width := 1, enabled := true, up := true }).modEgress 255 fun x => { x with pauseEn := true });
  let t : Nat := 0;
  let d := s.dev.begin t;
  let p : Fin 256 := 255;
  let f : List Byte := withFcs (List.replicate 12 0 ++ [0x88, 0x08, 0x00, 0x01] ++ List.replicate 44 0);
  let stamp : Nat := 0;
  let ue : List (Nat × Nat) := [];
  let sp := d.sysPort p.val;
  let e := (d.bumpN .macRx p.val 22 f.length).bwAdd (p.val / 32) (2 * (p.val % 32)) f.length;
  let g := e.macOk .macRx p.val ((e.slice (p.val / 32)).tab.tags f).tagged f;
  (sp.width ≠ 0) ∧ (sp.enabled = true) ∧ (sp.up = true) ∧ (macBad f = none) ∧ (isPause f = true) ∧ ((g.egress p.val).pauseEn = true)) := by decide +kernel

theorem witness_IngressEventsComplete_4 :
    (let s : State := wit (fun d => (d.modSys 255 fun x => { x with width := 1, enabled := true, up := true }).modEgress 255 fun x => { x with pfcEn := true });
  let t : Nat := 0;
  let d := s.dev.begin t;
  let p : Fin 256 := 255;
  let f : List Byte := withFcs (List.replicate 12 0 ++ [0x88, 0x08, 0x01, 0x01] ++ List.replicate 44 0);
  let stamp : Nat := 0;
  let ue : List (Nat × Nat) := [];
  let sp := d.sysPort p.val;
  let e := (d.bumpN .macRx p.val 22 f.length).bwAdd (p.val / 32) (2 * (p.val % 32)) f.length;
  let g := e.macOk .macRx p.val ((e.slice (p.val / 32)).tab.tags f).tagged f;
  (sp.width ≠ 0) ∧ (sp.enabled = true) ∧ (sp.up = true) ∧ (macBad f = none) ∧ (isPause f = false) ∧ (isPfc f = true) ∧ ((g.egress p.val).pfcEn = true)) := by decide +kernel

theorem witness_IngressEventsComplete_5 :
    (let s : State := wit id;
  let t : Nat := 0;
  let d := s.dev.begin t;
  let p : Fin 256 := (0 : Fin 256);
  let f : List Byte := [];
  let stamp : Nat := 0;
  let ue : List (Nat × Nat) := [];
  let sp := d.sysPort p.val;
  let e := (d.bumpN .macRx p.val 22 f.length).bwAdd (p.val / 32) (2 * (p.val % 32)) f.length;
  (isPause f = false)) := by decide +kernel

theorem witness_IngressEventsComplete_6 :
    (let s : State := wit id;
  let t : Nat := 0;
  let d := s.dev.begin t;
  let p : Fin 256 := (0 : Fin 256);
  let f : List Byte := [];
  let stamp : Nat := 0;
  let ue : List (Nat × Nat) := [];
  let sp := d.sysPort p.val;
  let e := (d.bumpN .macRx p.val 22 f.length).bwAdd (p.val / 32) (2 * (p.val % 32)) f.length;
  (isPfc f = false)) := by decide +kernel

theorem witness_IngressEventsComplete_8 :
    (let s : State := wit id;
  let t : Nat := 0;
  let d := s.dev.begin t;
  let n : Fin 8 := 7;
  let b := (d.slice n.val).buf;
  (b.spills = [])) := by decide +kernel

theorem witness_IngressEventsComplete_9 :
    (let s : State := wit (fun d => d.modBuf 7 fun b => { b with spills := [{ pool := 1, party := 2, holder := 3, frame := {}, path := 0 }] });
  let t : Nat := 0;
  let d := s.dev.begin t;
  let n : Fin 8 := 7;
  let b := (d.slice n.val).buf;
  let r := { pool := 1, party := 2, holder := 3, frame := {}, path := 0 };
  let rs := [];
  (b.spills = r :: rs)) := by decide +kernel

theorem witness_IngressEventsComplete_10 :
    (let s : State := wit (fun d => d.modDisp 7 .up fun x => { x with reorder := List.replicate 4096 {} });
  let t : Nat := 0;
  let d := s.dev.begin t;
  let n : Fin 8 := 7;
  let b := (d.slice n.val).buf;
  let dir := Dir.up;
  let ue := ([] : List (Nat × Nat));
  (4096 ≤ (d.disp n.val dir).reorder.length)) := by decide +kernel

theorem witness_IngressEventsComplete_11 :
    (let s : State := wit (fun d => d.modDisp 7 .up fun x => { x with normal := [{ pool := 1, index := 2, port := 31 }] });
  let t : Nat := 0;
  let d := s.dev.begin t;
  let n : Fin 8 := 7;
  let b := (d.slice n.val).buf;
  let dir := Dir.up;
  let ue := ([] : List (Nat × Nat));
  let w := ({ pool := 1, index := 2, port := 31 } : Waiting);
  let x := d.disp n.val dir;
  let waits := fun ws : List Waiting => ws.filter fun w => !d.behind n.val dir w;
  let e := d.modDisp n.val dir fun x =>
          { x with normal := x.normal.erase w, busyAt := d.now, pipe := (x.pipe + 1) % 4, ptrNormal := (w.port + 1) % portsOf dir };
  let f := (e.perf n.val 2 dir.num 0 1).mothStage n.val (e.buffer n.val w.pool w.index).frame.moth 3;
  let r := (f.badWords n.val (ue.filter fun x => Nat.ble 4 x.1)).pipeline n.val x.pipe dir w { pool := w.pool, index := w.index, port := w.port, prio := false, pipe := x.pipe };
  (x.reorder.length < 4096) ∧ (nextHead (waits x.prio) x.ptrPrio = none) ∧ (nextHead (waits x.normal) x.ptrNormal = some w)) := by decide +kernel

theorem witness_IngressEventsComplete_12 :
    (let s : State := wit (fun d => (d.modDisp 7 .up fun x => { x with reorder := [{ port := 31, prio := true, drop := true }] }));
  let t : Nat := 0;
  let d := s.dev.begin t;
  let n : Fin 8 := 7;
  let b := (d.slice n.val).buf;
  let dir := Dir.up;
  let port : Fin 32 := 31;
  let prio := true;
  let qf := QFault.ok;
  let meterBad := false;
  let v := ({ port := 31, prio := true, drop := true } : Verdict);
  let e := d.modDisp n.val dir fun x => { x with reorder := x.reorder.erase v, busyAt := d.now };
  let b := d.buffer n.val v.pool v.index;
  (((d.disp n.val dir).reorder.find? fun v => v.port == port.val && v.prio == prio) = some v) ∧ (v.drop = true)) := by decide +kernel

theorem witness_IngressEventsComplete_13 :
    (let s : State := wit (fun d => (d.modDisp 7 .up fun x => { x with reorder := [{ port := 31, prio := true, index := 4 }] }).setBuffer 7 0 4 { left := 9 });
  let t : Nat := 0;
  let d := s.dev.begin t;
  let n : Fin 8 := 7;
  let b := (d.slice n.val).buf;
  let dir := Dir.up;
  let port : Fin 32 := 31;
  let prio := true;
  let qf := QFault.ok;
  let meterBad := false;
  let v := ({ port := 31, prio := true, index := 4 } : Verdict);
  let e := d.modDisp n.val dir fun x => { x with reorder := x.reorder.erase v, busyAt := d.now };
  let b := d.buffer n.val v.pool v.index;
  (((d.disp n.val dir).reorder.find? fun v => v.port == port.val && v.prio == prio) = some v) ∧ (v.drop = false) ∧ (b.left ≠ 0)) := by decide +kernel

theorem witness_IngressEventsComplete_14 :
    (let s : State := wit (fun d => (d.modDisp 7 .up fun x => { x with reorder := [{ port := 31, prio := true, index := 4 }] }).setBuffer 7 0 4 {});
  let t : Nat := 0;
  let d := s.dev.begin t;
  let n : Fin 8 := 7;
  let b := (d.slice n.val).buf;
  let dir := Dir.up;
  let port : Fin 32 := 31;
  let prio := true;
  let qf := QFault.ok;
  let meterBad := false;
  let v := ({ port := 31, prio := true, index := 4 } : Verdict);
  let e := d.modDisp n.val dir fun x => { x with reorder := x.reorder.erase v, busyAt := d.now };
  let b := d.buffer n.val v.pool v.index;
  let f := e.mothStage n.val b.frame.moth 4;
  (((d.disp n.val dir).reorder.find? fun v => v.port == port.val && v.prio == prio) = some v) ∧ (v.drop = false) ∧ (b.left = 0)) := by decide +kernel

theorem witness_IngressEventsComplete_15 :
    (let s : State := wit (fun d => d.modBuf 7 fun b => { b with copies := [{ ring := 1, pool := 0, index := 0, reason := 0 }] });
  let t : Nat := 0;
  let d := s.dev.begin t;
  let n : Fin 8 := 7;
  let b := (d.slice n.val).buf;
  let qf := QFault.ok;
  let stageBad := false;
  let c := ({ ring := 1, pool := 0, index := 0, reason := 0 } : RingCopy);
  let cs := ([] : List RingCopy);
  (d.noRank n.val = false) ∧ (b.copies = c :: cs)) := by decide +kernel

theorem witness_IngressEventsComplete_16 :
    (let s : State := wit (fun d => d.modTxRing 63 fun x => { x with reg := true, entries := 64, idx := { x.idx with host := 1 } });
  let t : Nat := 0;
  let d := s.dev.begin t;
  let r : Fin 64 := 63;
  let ws : List Dword := [0, 0, 59, 0];
  let bytes : List Byte := [];
  let x := d.txRing r.val;
  let e := (d.modTxRing r.val fun x => { x with idx := x.idx.push x.entries }).due (336 + r.val);
  let c := txDescOf ws;
  let body := (bytes ++ List.replicate (c.len - bytes.length) 0).take c.len;
  (x.reg = true) ∧ (x.idx.avail x.entries ≠ 0) ∧ (d.dmaHalted (32 + r.val / 4) = false) ∧ (c.bad = true)) := by decide +kernel

theorem witness_IngressEventsComplete_17 :
    (let s : State := wit (fun d => (d.modTxRing 63 fun x => { x with reg := true, entries := 64, idx := { x.idx with host := 1 } }).modTab 0 fun x => { x with ingress := [(5, { ingressReset with bad := true })] });
  let t : Nat := 0;
  let d := s.dev.begin t;
  let r : Fin 64 := 63;
  let ws : List Dword := [0, 0, 60, 2 ^ 21 + 5 * 2 ^ 16];
  let bytes : List Byte := [];
  let x := d.txRing r.val;
  let e := (d.modTxRing r.val fun x => { x with idx := x.idx.push x.entries }).due (336 + r.val);
  let c := txDescOf ws;
  let body := (bytes ++ List.replicate (c.len - bytes.length) 0).take c.len;
  let f : Frame :=
          { bytes := withFcs body, dir := if c.path = 2 then .down else .up, port := c.port, cls := c.cls
            soft := if c.path = 0 then none else some c.cls, stamp := e.devLin.toNat, arrFrc := e.time.frcNs, lastBit := e.now
            ing := (e.slice x.slice).tab.cfg (ingressNo (if c.path = 2 then .down else .up) c.port)
            ts := if c.ts then some (r, c.id) else none, ring := some r };
  (x.reg = true) ∧ (x.idx.avail x.entries ≠ 0) ∧ (d.dmaHalted (32 + r.val / 4) = false) ∧ (c.bad = false) ∧ (c.path ≠ 0) ∧ (f.ing.bad = true)) := by decide +kernel

theorem witness_IngressEventsComplete_18 :
    (let s : State := wit (fun d => (d.modTxRing 63 fun x => { x with reg := true, entries := 64, idx := { x.idx with host := 1 } }));
  let t : Nat := 0;
  let d := s.dev.begin t;
  let r : Fin 64 := 63;
  let ws : List Dword := [0, 0, 10236, 0];
  let bytes : List Byte := ([] : List Byte);
  let x := d.txRing r.val;
  let e := (d.modTxRing r.val fun x => { x with idx := x.idx.push x.entries }).due (336 + r.val);
  let c := txDescOf ws;
  let body := (bytes ++ List.replicate (c.len - bytes.length) 0).take c.len;
  let f : Frame :=
          { bytes := withFcs body, dir := if c.path = 2 then .down else .up, port := c.port, cls := c.cls
            soft := if c.path = 0 then none else some c.cls, stamp := e.devLin.toNat, arrFrc := e.time.frcNs, lastBit := e.now
            ing := (e.slice x.slice).tab.cfg (ingressNo (if c.path = 2 then .down else .up) c.port)
            ts := if c.ts then some (r, c.id) else none, ring := some r };
  (x.reg = true) ∧ (x.idx.avail x.entries ≠ 0) ∧ (d.dmaHalted (32 + r.val / 4) = false) ∧ (c.bad = false) ∧ (c.path = 0 ∨ f.ing.bad = false)) := by decide +kernel

theorem witness_DownstreamCommandsComplete_0 :
    (let s : State := wit (fun d => d.modTree 63 fun x => { x with cfg := { x.cfg with configured := true } });
  let t : Nat := 0;
  let rq : Req := ask [63, 1048544, 32, 4, 0];
  let d := s.dev.begin t;
  let k := rq.prm 0;
  let a := (d.tree k).acc;
  (Accepted d rq 5 [fnPort (portOfTree k)]) ∧ (k ≤ 63) ∧ (d.dmaHalted rq.mb.val = false) ∧ (rq.prm 1 % 32 = 0) ∧ (rq.prm 2 % 32 = 0) ∧ (rq.prm 1 + rq.prm 2 ≤ 2 ^ 20) ∧ (rq.raw 3 % 4 = 0) ∧ ((d.tree k).cfg.configured = true)) := by decide +kernel

theorem witness_DownstreamCommandsComplete_1 :
    (let s : State := wit (fun d => d.modTree 63 fun x => { x with cfg := { x.cfg with configured := true } });
  let t : Nat := 0;
  let rq : Req := ask [63];
  let d := s.dev.begin t;
  let k := rq.prm 0;
  let a := (d.tree k).acc;
  let words := ((a.bits.map (·.1) ++ a.view.map (·.1)).map (· / 32)).eraseDups;
  let r := words.foldl (fun (r : Nat × Accept) w => (r.1 + (r.2.rewrite w).1, (r.2.rewrite w).2)) (0, a);
  (Accepted d rq 1 [fnPort (portOfTree k)]) ∧ (k ≤ 63) ∧ ((d.tree k).cfg.configured = true)) := by decide +kernel

theorem witness_DownstreamCommandsComplete_2 :
    (let s : State := wit (fun d => d.modTree 63 fun x => { x with cfg := { x.cfg with configured := true } });
  let t : Nat := 0;
  let rq : Req := ask [63, 8];
  let d := s.dev.begin t;
  let k := rq.prm 0;
  (Accepted d rq 2 [fnPort (portOfTree k)]) ∧ (k ≤ 63) ∧ (2 ≤ rq.prm 1) ∧ (rq.prm 1 ≤ 8) ∧ ((d.tree k).cfg.configured = true)) := by decide +kernel

theorem witness_DownstreamCommandsComplete_3 :
    (let s : State := wit (fun d => d.modTree 63 fun x => { x with cfg := { x.cfg with configured := true } });
  let t : Nat := 0;
  let rq : Req := ask [63];
  let d := s.dev.begin t;
  let k := rq.prm 0;
  let x := d.tree k;
  (Accepted d rq 1 [fnPort (portOfTree k)]) ∧ (k ≤ 63) ∧ ((d.tree k).cfg.configured = true)) := by decide +kernel

theorem witness_LockEventsComplete_0 :
    (let s : State := wit id;
  let t : Nat := 0;
  let d := s.dev.begin t;
  let l : Fin 256 := 255;
  let arrival : Nat := 0;
  let pos : Nat := 0;
  let cw : List RxBlock := [];
  let x : LaneTail := {};
  let a := d.align l.val;
  let f := frameStartOf cw;
  let run := Completes (.frameStartDecision t l arrival pos cw x) s;
  let e := d.pmAdd l.val fun p => { p with corr := p.corr + x.corr, uncorr := p.uncorr + x.uncorr, inv := p.inv + x.inv };
  (a.st = 0)) := by decide +kernel

theorem witness_LockEventsComplete_1 :
    (let s : State := wit (fun d => d.modAlign 255 fun x => { x with st := 1 });
  let t : Nat := 0;
  let d := s.dev.begin t;
  let l : Fin 256 := 255;
  let arrival : Nat := 0;
  let pos : Nat := 0;
  let cw : List RxBlock := [];
  let x : LaneTail := {};
  let a := d.align l.val;
  let f := frameStartOf cw;
  let run := Completes (.frameStartDecision t l arrival pos cw x) s;
  let e := d.pmAdd l.val fun p => { p with corr := p.corr + x.corr, uncorr := p.uncorr + x.uncorr, inv := p.inv + x.inv };
  (a.st = 1) ∧ (f.passed = false)) := by decide +kernel

theorem witness_LockEventsComplete_2 :
    (let s : State := wit (fun d => d.modAlign 255 fun x => { x with st := 1 });
  let t : Nat := 0;
  let d := s.dev.begin t;
  let l : Fin 256 := 255;
  let arrival : Nat := 0;
  let pos : Nat := 0;
  let cw : List RxBlock := goodFrame;
  let x : LaneTail := {};
  let a := d.align l.val;
  let f := frameStartOf cw;
  let run := Completes (.frameStartDecision t l arrival pos cw x) s;
  let e := d.pmAdd l.val fun p => { p with corr := p.corr + x.corr, uncorr := p.uncorr + x.uncorr, inv := p.inv + x.inv };
  (a.st = 1) ∧ (f.passed = true)) := by decide +kernel

theorem witness_LockEventsComplete_3 :
    (let s : State := wit (fun d => d.modAlign 255 fun x => { x with st := 2 });
  let t : Nat := 0;
  let d := s.dev.begin t;
  let l : Fin 256 := 255;
  let arrival : Nat := 0;
  let pos : Nat := 196799;
  let cw : List RxBlock := goodFrame;
  let x : LaneTail := {};
  let a := d.align l.val;
  let f := frameStartOf cw;
  let run := Completes (.frameStartDecision t l arrival pos cw x) s;
  let e := d.pmAdd l.val fun p => { p with corr := p.corr + x.corr, uncorr := p.uncorr + x.uncorr, inv := p.inv + x.inv };
  (a.st = 2) ∧ (pos ≠ 196800)) := by decide +kernel

theorem witness_LockEventsComplete_4 :
    (let s : State := wit (fun d => d.modAlign 255 fun x => { x with st := 2 });
  let t : Nat := 0;
  let d := s.dev.begin t;
  let l : Fin 256 := 255;
  let arrival : Nat := 0;
  let pos : Nat := 196800;
  let cw : List RxBlock := goodFrame;
  let x : LaneTail := {};
  let a := d.align l.val;
  let f := frameStartOf cw;
  let run := Completes (.frameStartDecision t l arrival pos cw x) s;
  let e := d.pmAdd l.val fun p => { p with corr := p.corr + x.corr, uncorr := p.uncorr + x.uncorr, inv := p.inv + x.inv };
  let g := (e.countTypes l.val (wrongTypes cw)).modAlign l.val fun b =>
          { b with arrival := arrival, interval := arrival - b.arrival, fresh := true };
  let late := g.timeOn && Nat.blt (arrival + Config.cwt) (g.instantOf (g.time.second * 1000000000));
  (a.st = 2) ∧ (pos = 196800) ∧ (f.passed = true)) := by decide +kernel

theorem witness_LockEventsComplete_5 :
    (let s : State := wit (fun d => d.modAlign 255 fun x => { x with st := 2 });
  let t : Nat := 0;
  let d := s.dev.begin t;
  let l : Fin 256 := 255;
  let arrival : Nat := 0;
  let pos : Nat := 196800;
  let cw : List RxBlock := [];
  let x : LaneTail := {};
  let a := d.align l.val;
  let f := frameStartOf cw;
  let run := Completes (.frameStartDecision t l arrival pos cw x) s;
  let e := d.pmAdd l.val fun p => { p with corr := p.corr + x.corr, uncorr := p.uncorr + x.uncorr, inv := p.inv + x.inv };
  let g := (e.countTypes l.val (wrongTypes cw)).modAlign l.val fun b =>
          { b with arrival := arrival, interval := arrival - b.arrival, fresh := true };
  let late := g.timeOn && Nat.blt (arrival + Config.cwt) (g.instantOf (g.time.second * 1000000000));
  (a.st = 2) ∧ (pos = 196800) ∧ (f.passed = false)) := by decide +kernel

theorem witness_LockEventsComplete_6 :
    (let s : State := wit (fun d => d.modAlign 255 fun x => { x with st := 2, fails := 7 });
  let t : Nat := 0;
  let d := s.dev.begin t;
  let l : Fin 256 := 255;
  let blk : Block := 0;
  let a := d.align l.val;
  (a.st = 2) ∧ (a.fails < 8)) := by decide +kernel

theorem witness_LockEventsComplete_7 :
    (let s : State := wit (fun d => d.modAlign 255 fun x => { x with st := 2, fails := 8 });
  let t : Nat := 0;
  let d := s.dev.begin t;
  let l : Fin 256 := 255;
  let blk : Block := 0;
  let a := d.align l.val;
  (a.st = 2) ∧ (8 ≤ a.fails)) := by decide +kernel

theorem witness_LockEventsComplete_8 :
    (let s : State := wit (fun d => d.modAlign 255 fun x => { x with st := 2, passed := true });
  let t : Nat := 0;
  let d := s.dev.begin t;
  let l : Fin 256 := 255;
  let blk : Block := 0x2D000000000000000000000000000000;
  let a := d.align l.val;
  (fld 8 120 blk = 0x2D) ∧ (a.st = 1 ∨ a.st = 2 ∧ a.passed = true)) := by decide +kernel

theorem witness_LockEventsComplete_9 :
    (let s : State := wit id;
  let t : Nat := 0;
  let d := s.dev.begin t;
  let k : Fin 64 := 63;
  let draw : Nat := 0;
  let l : Nat := 252;
  let run := Completes (.treeFrameDecision t k draw) s;
  let d1 := (d.remap k.val).noteCount k.val;
  let x := d1.tree k.val;
  let need := x.needed (x.fr.fc + 1);
  let ls := need.filterMap x.laneOf;
  let d2 := ((d1.noteStream k.val d1.now).modPwr fun w => { w with streamCw := w.streamCw.set 0 k.val 0 }).measure k.val need;
  let a := d2.align l;
  ((d.tree k.val).cfg.configured = false)) := by decide +kernel

theorem witness_LockEventsComplete_10 :
    (let s : State := wit (fun d => d.modTree 63 fun x => { x with cfg := { x.cfg with configured := true } });
  let t : Nat := 0;
  let d := s.dev.begin t;
  let k : Fin 64 := 63;
  let draw : Nat := 0;
  let l : Nat := 252;
  let run := Completes (.treeFrameDecision t k draw) s;
  let d1 := (d.remap k.val).noteCount k.val;
  let x := d1.tree k.val;
  let need := x.needed (x.fr.fc + 1);
  let ls := need.filterMap x.laneOf;
  let d2 := ((d1.noteStream k.val d1.now).modPwr fun w => { w with streamCw := w.streamCw.set 0 k.val 0 }).measure k.val need;
  let a := d2.align l;
  ((d.tree k.val).cfg.configured = true) ∧ (d1.frameDue k.val ls = false)) := by decide +kernel

theorem witness_LockEventsComplete_11 :
    (let s : State := wit (fun d => (d.modTree 63 fun x => { x with cfg := { x.cfg with configured := true, first := 252, size := 1 }, fr := { x.fr with tfl := true, laneCount := 1 } }).modAlign 252 fun a => { a with st := 2, passed := true, fresh := true, fc := 1, arrival := 5, ident := some { treeId := 7, logical := 0, laneCount := 1, serial := 1 } });
  let t : Nat := 0;
  let d := s.dev.begin t;
  let k : Fin 64 := 63;
  let draw : Nat := 0;
  let l : Nat := 252;
  let run := Completes (.treeFrameDecision t k draw) s;
  let d1 := (d.remap k.val).noteCount k.val;
  let x := d1.tree k.val;
  let need := x.needed (x.fr.fc + 1);
  let ls := need.filterMap x.laneOf;
  let d2 := ((d1.noteStream k.val d1.now).modPwr fun w => { w with streamCw := w.streamCw.set 0 k.val 0 }).measure k.val need;
  let a := d2.align l;
  let d3 := ((d2.countFrame k.val (some a.fc)).forEach ls fun l d => d.modAlign l fun a => { a with fresh := false }).modTree k.val fun y =>
          { y with
            fr :=
              { y.fr with
                refArr := (d1.refArrival k.val).1, refInt := (d1.refArrival k.val).2, refPast := (x.fr.refArr :: x.fr.refPast).take 16
                fails := 0, listBad := false, listSeen := 0, listIds := [], listNew := [] } };
  let d4 := ((d3.modTree k.val fun y => { y with fr := y.fr.run a.sr }).overlapFrame k.val).treeTime k.val a.tod;
  ((d.tree k.val).cfg.configured = true) ∧ (d1.frameDue k.val ls = true) ∧ (x.fr.tfl = true) ∧ (d2.frameOk x need = true) ∧ (x.refLane = some l) ∧ (a.st = 2) ∧ (a.fresh = true) ∧ (a.passed = true) ∧ ((d3.tree k.val).fr.tfl = true)) := by decide +kernel

theorem witness_LockEventsComplete_12 :
    (let s : State := wit (fun d => d.modTree 63 fun x => { x with cfg := { x.cfg with configured := true, size := 1, laneMap := [(0, 253)] }, fr := { x.fr with tfl := true, laneCount := 1, fails := 8 }, join := { x.join with st := 3 } });
  let t : Nat := 0;
  let d := s.dev.begin t;
  let k : Fin 64 := 63;
  let x := d.tree k.val;
  let lost := (((((d.commitDue k.val).undoTree k.val).raise (qTree k.val) 0x01 5 k.val []).loseTree k.val).dropCommitted k.val).modTree
            k.val fun x => { x with pitches := [], il := [], cfg := { x.cfg with removed := [], changes := [] } };
  (x.fr.tfl = true) ∧ (8 ≤ x.fr.fails) ∧ (x.join.st ≠ 0)) := by decide +kernel

theorem witness_LockEventsComplete_13 :
    (let s : State := wit (fun d => d.modTree 63 fun x => { x with cfg := { x.cfg with configured := true, size := 1, laneMap := [(0, 253)] }, fr := { x.fr with tfl := true, laneCount := 1, fails := 8 } });
  let t : Nat := 0;
  let d := s.dev.begin t;
  let k : Fin 64 := 63;
  let x := d.tree k.val;
  (x.fr.tfl = true) ∧ (8 ≤ x.fr.fails) ∧ (x.join.st = 0)) := by decide +kernel

theorem witness_StreamEventsComplete_0 :
    (let s : State := wit (fun d => d.modTree 63 fun x => { x with cfg := { x.cfg with configured := true, size := 1, laneMap := [(0, 253)] }, fr := { x.fr with tfl := true, laneCount := 1, srN := 3, srRun := 3, srVal := 5 } });
  let t : Nat := 0;
  let d := s.dev.begin t;
  let k : Fin 64 := 63;
  let x := d.tree k.val;
  (x.fr.tfl = true) ∧ (x.fr.srN ≤ x.fr.srRun) ∧ (x.fr.sr ≠ some x.fr.srVal)) := by decide +kernel

theorem witness_StreamEventsComplete_1 :
    (let s : State := wit (fun d => (d.modTree 59 fun x => { x with cfg := { x.cfg with pair := some 63, switching := some true, working := true } }).modTree 63 fun x => { x with cfg := { x.cfg with pair := some 59 } });
  let t : Nat := 0;
  let d := s.dev.begin t;
  let k : Fin 64 := 63;
  let x := d.tree k.val;
  let o := 63;
  let v := true;
  let w := d.pairKey k.val;
  let off := if v then w else o;
  let c := (d.commitDue w).commitDue o;
  let e := c.modTree w fun x => { x with cfg := { x.cfg with selProtect := v, switching := none } };
  let ps := e.inOrder off ((e.tree off).pitches.filter fun p => p.phase == 0 && p.opened && !p.reserved);
  ((d.tree w).cfg.pair = some o) ∧ ((d.tree w).cfg.switching = some v)) := by decide +kernel

theorem witness_StreamEventsComplete_2 :
    (let s : State := wit (fun d => d.modTree 63 fun x => { x with cfg := { x.cfg with configured := true, size := 1, laneMap := [(0, 253)] }, fr := { x.fr with tfl := true, laneCount := 1 }, join := { x.join with leaf := some 3 }, allocs := [] });
  let t : Nat := 0;
  let d := s.dev.begin t;
  let k : Fin 64 := 63;
  let x := d.tree k.val;
  let hdr := listHdr;
  let blk := ({ ctl := false, pl := ({ aid := 5, leaf := 3, length := 5, mask := 1, pid := 9 } : Pitch).block } : RxBlock);
  let n := 1;
  let m := 0;
  let p := pitchOf blk.pl (x.fr.fc + 2);
  let e := (d.modTree k.val fun x => { x with fr := { x.fr with listSeen := x.fr.listSeen + 1 } }).modTree k.val fun x =>
          { x with fr := { x.fr with listIds := x.fr.listIds ++ [p.pid] } };
  (x.cfg.configured = true) ∧ (x.fr.tfl = true) ∧ (d.listHeader k.val hdr = some (n, m)) ∧ (x.fr.listSeen < n) ∧ (blk.unc = false) ∧ (blk.ctl = false) ∧ (blockChk blk.pl = fld 16 0 blk.pl) ∧ (x.join.leaf = some p.leaf) ∧ (p.reserved = false) ∧ (x.upAlloc p.aid = false)) := by decide +kernel

theorem witness_StreamEventsComplete_3 :
    (let s : State := wit (fun d => d.modTree 63 fun x => { x with cfg := { x.cfg with configured := true, size := 1, laneMap := [(0, 253)] }, fr := { x.fr with tfl := true, laneCount := 1 }, join := { x.join with leaf := some 3 }, allocs := [(5, { us := true })] });
  let t : Nat := 0;
  let d := s.dev.begin t;
  let k : Fin 64 := 63;
  let x := d.tree k.val;
  let hdr := listHdr;
  let blk := ({ ctl := false, pl := ({ aid := 5, leaf := 3, length := 4921, mask := 1, pid := 9 } : Pitch).block } : RxBlock);
  let n := 1;
  let m := 0;
  let p := pitchOf blk.pl (x.fr.fc + 2);
  let e := (d.modTree k.val fun x => { x with fr := { x.fr with listSeen := x.fr.listSeen + 1 } }).modTree k.val fun x =>
          { x with fr := { x.fr with listIds := x.fr.listIds ++ [p.pid] } };
  (x.cfg.configured = true) ∧ (x.fr.tfl = true) ∧ (d.listHeader k.val hdr = some (n, m)) ∧ (x.fr.listSeen < n) ∧ (blk.unc = false) ∧ (blk.ctl = false) ∧ (blockChk blk.pl = fld 16 0 blk.pl) ∧ (x.join.leaf = some p.leaf) ∧ (p.reserved = false) ∧ (x.upAlloc p.aid = true) ∧ (p.malformed = true)) := by decide +kernel

theorem witness_StreamEventsComplete_4 :
    (let s : State := wit (fun d => d.modTree 63 fun x => { x with cfg := { x.cfg with configured := true, size := 1, laneMap := [(0, 253)] }, fr := { x.fr with tfl := true, laneCount := 1, listIds := [9] }, join := { x.join with leaf := some 3 }, allocs := [(5, { us := true })] });
  let t : Nat := 0;
  let d := s.dev.begin t;
  let k : Fin 64 := 63;
  let x := d.tree k.val;
  let hdr := listHdr;
  let blk := ({ ctl := false, pl := ({ aid := 5, leaf := 3, length := 5, mask := 1, pid := 9 } : Pitch).block } : RxBlock);
  let n := 1;
  let m := 0;
  let p := pitchOf blk.pl (x.fr.fc + 2);
  let e := (d.modTree k.val fun x => { x with fr := { x.fr with listSeen := x.fr.listSeen + 1 } }).modTree k.val fun x =>
          { x with fr := { x.fr with listIds := x.fr.listIds ++ [p.pid] } };
  (x.cfg.configured = true) ∧ (x.fr.tfl = true) ∧ (d.listHeader k.val hdr = some (n, m)) ∧ (x.fr.listSeen < n) ∧ (blk.unc = false) ∧ (blk.ctl = false) ∧ (blockChk blk.pl = fld 16 0 blk.pl) ∧ (x.join.leaf = some p.leaf) ∧ (p.reserved = false) ∧ (x.upAlloc p.aid = true) ∧ (p.malformed = false) ∧ (x.fr.listIds.contains p.pid = true)) := by decide +kernel

theorem witness_StreamEventsComplete_5 :
    (let s : State := wit (fun d => d.modTree 63 fun x => { x with cfg := { x.cfg with configured := true, size := 1, laneMap := [(0, 253)] }, fr := { x.fr with tfl := true, laneCount := 1 }, join := { x.join with leaf := some 3 }, allocs := [(5, { us := true })] });
  let t : Nat := 0;
  let d := s.dev.begin t;
  let k : Fin 64 := 63;
  let x := d.tree k.val;
  let hdr := listHdr;
  let blk := ({ ctl := false, pl := ({ aid := 5, leaf := 3, length := 5, mask := 1, pid := 9 } : Pitch).block } : RxBlock);
  let n := 1;
  let m := 0;
  let p := pitchOf blk.pl (x.fr.fc + 2);
  let e := (d.modTree k.val fun x => { x with fr := { x.fr with listSeen := x.fr.listSeen + 1 } }).modTree k.val fun x =>
          { x with fr := { x.fr with listIds := x.fr.listIds ++ [p.pid] } };
  (x.cfg.configured = true) ∧ (x.fr.tfl = true) ∧ (d.listHeader k.val hdr = some (n, m)) ∧ (x.fr.listSeen < n) ∧ (blk.unc = false) ∧ (blk.ctl = false) ∧ (blockChk blk.pl = fld 16 0 blk.pl) ∧ (x.join.leaf = some p.leaf) ∧ (p.reserved = false) ∧ (x.upAlloc p.aid = true) ∧ (p.malformed = false) ∧ (x.fr.listIds.contains p.pid = false)) := by decide +kernel

theorem witness_StreamEventsComplete_6 :
    (let s : State := wit (fun d => d.modTree 63 fun x => { x with cfg := { x.cfg with configured := true, size := 1, laneMap := [(0, 253)] }, fr := { x.fr with tfl := true, laneCount := 1, listSeen := 1 } });
  let t : Nat := 0;
  let d := s.dev.begin t;
  let k : Fin 64 := 63;
  let x := d.tree k.val;
  let hdr := listHdr;
  let nm := (1, 0);
  let name := fun (xs : List (Nat × Option Nat)) => xs.map fun e => if e.2.isNone then (e.1, some (x.fr.fc + 2)) else e;
  let e := d.modTree k.val fun x =>
          { x with
            fr := { x.fr with listNew := [], listDone := ((d.now, x.fr.fc) :: x.fr.listDone).take 64 }
            eqd := { x.eqd with next := name x.eqd.next, rangeNext := name x.eqd.rangeNext, roundNext := name x.eqd.roundNext } };
  let off := if x.fr.listNew.isEmpty then [] else (e.pairLtx k.val).filter fun q => (e.dom q).st == 2;
  (x.cfg.configured = true) ∧ (x.fr.tfl = true) ∧ (d.listHeader k.val hdr = some nm) ∧ (nm.1 ≤ x.fr.listSeen)) := by decide +kernel

theorem witness_StreamEventsComplete_7 :
    (let s : State := wit (id);
  let t : Nat := 0;
  let d := s.dev.begin t;
  let k : Fin 64 := 63;
  let x := d.tree k.val;
  let item := (StreamItem.stray 0);
  let keyBad := false;
  let ue := ([] : List (Nat × Nat));
  (x.cfg.configured = false ∨ x.fr.tfl = false)) := by decide +kernel

theorem witness_StreamEventsComplete_8 :
    (let s : State := wit (fun d => d.modTree 63 fun x => { x with cfg := { x.cfg with configured := true, size := 1, laneMap := [(0, 253)] }, fr := { x.fr with tfl := true, laneCount := 1 } });
  let t : Nat := 0;
  let d := s.dev.begin t;
  let k : Fin 64 := 63;
  let x := d.tree k.val;
  let keyBad := false;
  let ue := ([] : List (Nat × Nat));
  let low := ue.filter fun e => Nat.ble e.1 2;
  let n := 0;
  (x.cfg.configured = true) ∧ (x.fr.tfl = true)) := by decide +kernel

theorem witness_StreamEventsComplete_9 :
    (let s : State := wit (fun d => d.modTree 63 fun x => { x with cfg := { x.cfg with configured := true, size := 1, laneMap := [(0, 253)] }, fr := { x.fr with tfl := true, laneCount := 1 } });
  let t : Nat := 0;
  let d := s.dev.begin t;
  let k : Fin 64 := 63;
  let x := d.tree k.val;
  let keyBad := false;
  let ue := ([] : List (Nat × Nat));
  let low := ue.filter fun e => Nat.ble e.1 2;
  let typ := (0 : Byte);
  (x.cfg.configured = true) ∧ (x.fr.tfl = true)) := by decide +kernel

theorem witness_StreamEventsComplete_10 :
    (let s : State := wit (fun d => d.modTree 63 fun x => { x with cfg := { x.cfg with configured := true, size := 1, laneMap := [(0, 253)] }, fr := { x.fr with tfl := true, laneCount := 1 } });
  let t : Nat := 0;
  let d := s.dev.begin t;
  let k : Fin 64 := 63;
  let x := d.tree k.val;
  let keyBad := false;
  let ue := ([] : List (Nat × Nat));
  let low := ue.filter fun e => Nat.ble e.1 2;
  let rest := ([] : List RxBlock);
  let stampAt := (0 : Ticks);
  let tagAt := (0 : Ticks);
  let run := Completes (.parcelReceived t k (.body rest stampAt tagAt) keyBad ue) s;
  (x.cfg.configured = true) ∧ (x.fr.tfl = true) ∧ (x.fr.recv = none)) := by decide +kernel

theorem witness_StreamEventsComplete_11 :
    (let s : State := wit (fun d => d.modTree 63 fun x => { x with cfg := { x.cfg with configured := true, size := 1, laneMap := [(0, 253)] }, fr := { x.fr with tfl := true, laneCount := 1, recv := some ({ hdr := (parHdr 5 64).pl, kept := 1 } : Reception) } });
  let t : Nat := 0;
  let d := s.dev.begin t;
  let k : Fin 64 := 63;
  let x := d.tree k.val;
  let keyBad := false;
  let ue := ([] : List (Nat × Nat));
  let low := ue.filter fun e => Nat.ble e.1 2;
  let rest := ([] : List RxBlock);
  let stampAt := (0 : Ticks);
  let tagAt := (0 : Ticks);
  let run := Completes (.parcelReceived t k (.body rest stampAt tagAt) keyBad ue) s;
  let r := ({ hdr := (parHdr 5 64).pl, kept := 1 } : Reception);
  let data := parcelData r.hdr rest;
  let e := d.modTree k.val fun y => { y with fr := { y.fr with recv := none } };
  let short := !noticeParcelOk r.hdr || decide (data.length < hdrLength r.hdr / 16 + 1);
  let last := fun f : Dev => f.bumpN .strayData k.val 0 (strayAfter r.hdr rest);
  (x.cfg.configured = true) ∧ (x.fr.tfl = true) ∧ (x.fr.recv = some r) ∧ (r.kept = 1)) := by decide +kernel

theorem witness_StreamEventsComplete_12 :
    (let s : State := wit (fun d => d.modTree 63 fun x => { x with cfg := { x.cfg with configured := true, size := 1, laneMap := [(0, 253)] }, fr := { x.fr with tfl := true, laneCount := 1, recv := some ({ hdr := (parHdr 5 64).pl, kept := 2 } : Reception) } });
  let t : Nat := 0;
  let d := s.dev.begin t;
  let k : Fin 64 := 63;
  let x := d.tree k.val;
  let keyBad := false;
  let ue := ([] : List (Nat × Nat));
  let low := ue.filter fun e => Nat.ble e.1 2;
  let rest := ([] : List RxBlock);
  let stampAt := (0 : Ticks);
  let tagAt := (0 : Ticks);
  let run := Completes (.parcelReceived t k (.body rest stampAt tagAt) keyBad ue) s;
  let r := ({ hdr := (parHdr 5 64).pl, kept := 2 } : Reception);
  let data := parcelData r.hdr rest;
  let e := d.modTree k.val fun y => { y with fr := { y.fr with recv := none } };
  let short := !noticeParcelOk r.hdr || decide (data.length < hdrLength r.hdr / 16 + 1);
  let last := fun f : Dev => f.bumpN .strayData k.val 0 (strayAfter r.hdr rest);
  (x.cfg.configured = true) ∧ (x.fr.tfl = true) ∧ (x.fr.recv = some r) ∧ (r.kept = 2)) := by decide +kernel

theorem witness_StreamEventsComplete_13 :
    (let s : State := wit (fun d => d.modTree 63 fun x => { x with cfg := { x.cfg with configured := true, size := 1, laneMap := [(0, 253)] }, fr := { x.fr with tfl := true, laneCount := 1, recv := some ({ hdr := (parHdr 5 64).pl, kept := 0 } : Reception) } });
  let t : Nat := 0;
  let d := s.dev.begin t;
  let k : Fin 64 := 63;
  let x := d.tree k.val;
  let keyBad := false;
  let ue := ([] : List (Nat × Nat));
  let low := ue.filter fun e => Nat.ble e.1 2;
  let rest := ([] : List RxBlock);
  let stampAt := (0 : Ticks);
  let tagAt := (0 : Ticks);
  let run := Completes (.parcelReceived t k (.body rest stampAt tagAt) keyBad ue) s;
  let r := ({ hdr := (parHdr 5 64).pl, kept := 0 } : Reception);
  let data := parcelData r.hdr rest;
  let e := d.modTree k.val fun y => { y with fr := { y.fr with recv := none } };
  let short := !noticeParcelOk r.hdr || decide (data.length < hdrLength r.hdr / 16 + 1);
  let last := fun f : Dev => f.bumpN .strayData k.val 0 (strayAfter r.hdr rest);
  (x.cfg.configured = true) ∧ (x.fr.tfl = true) ∧ (x.fr.recv = some r) ∧ (r.kept ≠ 1) ∧ (r.kept ≠ 2)) := by decide +kernel

theorem witness_StreamEventsComplete_14 :
    (let s : State := wit (fun d => d.modTree 63 fun x => { x with cfg := { x.cfg with configured := true, size := 1, laneMap := [(0, 253)] }, fr := { x.fr with tfl := true, laneCount := 1, resync := true } });
  let t : Nat := 0;
  let d := s.dev.begin t;
  let k : Fin 64 := 63;
  let x := d.tree k.val;
  let keyBad := false;
  let ue := ([] : List (Nat × Nat));
  let low := ue.filter fun e => Nat.ble e.1 2;
  let b := ({ ctl := true, unc := true, pl := put 128 120 0x78#8 } : RxBlock);
  let accBad := false;
  let run := Completes (.parcelReceived t k (.control b accBad) keyBad ue) s;
  let e := d.parcelOver k.val [] d.now d.now false [];
  (x.cfg.configured = true) ∧ (x.fr.tfl = true) ∧ (x.fr.resync = true) ∧ (b.ctl = false ∨ b.unc = true)) := by decide +kernel

theorem witness_StreamEventsComplete_15 :
    (let s : State := wit (fun d => d.modTree 63 fun x => { x with cfg := { x.cfg with configured := true, size := 1, laneMap := [(0, 253)] }, fr := { x.fr with tfl := true, laneCount := 1 } });
  let t : Nat := 0;
  let d := s.dev.begin t;
  let k : Fin 64 := 63;
  let x := d.tree k.val;
  let keyBad := false;
  let ue := ([] : List (Nat × Nat));
  let low := ue.filter fun e => Nat.ble e.1 2;
  let b := ({ ctl := false, pl := 0 } : RxBlock);
  let accBad := false;
  let run := Completes (.parcelReceived t k (.control b accBad) keyBad ue) s;
  let e := d.parcelOver k.val [] d.now d.now false [];
  (x.cfg.configured = true) ∧ (x.fr.tfl = true) ∧ (x.fr.resync = false) ∧ (b.ctl = false)) := by decide +kernel

theorem witness_StreamEventsComplete_16 :
    (let s : State := wit (fun d => d.modTree 63 fun x => { x with cfg := { x.cfg with configured := true, size := 1, laneMap := [(0, 253)] }, fr := { x.fr with tfl := true, laneCount := 1 } });
  let t : Nat := 0;
  let d := s.dev.begin t;
  let k : Fin 64 := 63;
  let x := d.tree k.val;
  let keyBad := false;
  let ue := ([] : List (Nat × Nat));
  let low := ue.filter fun e => Nat.ble e.1 2;
  let b := ({ ctl := true, pl := put 128 120 0xFF#8 } : RxBlock);
  let accBad := false;
  let run := Completes (.parcelReceived t k (.control b accBad) keyBad ue) s;
  let e := d.parcelOver k.val [] d.now d.now false [];
  let f := e.modTree k.val fun x => { x with fr := { x.fr with resync := false } };
  let h := b.pl;
  let len := hdrLength h;
  let e' := e.modTree k.val fun x => { x with fr := { x.fr with resync := false, recv := some { hdr := h } } };
  (x.cfg.configured = true) ∧ (x.fr.tfl = true) ∧ (b.ctl = true) ∧ (x.fr.resync = false ∨ b.unc = false) ∧ (fld 8 120 h ≠ 0x78)) := by decide +kernel

theorem witness_StreamEventsComplete_17 :
    (let s : State := wit (fun d => d.modTree 63 fun x => { x with cfg := { x.cfg with configured := true, size := 1, laneMap := [(0, 253)] }, fr := { x.fr with tfl := true, laneCount := 1 } });
  let t : Nat := 0;
  let d := s.dev.begin t;
  let k : Fin 64 := 63;
  let x := d.tree k.val;
  let keyBad := false;
  let ue := ([] : List (Nat × Nat));
  let low := ue.filter fun e => Nat.ble e.1 2;
  let b := ({ ctl := true, unc := true, pl := put 128 120 0x78#8 } : RxBlock);
  let accBad := false;
  let run := Completes (.parcelReceived t k (.control b accBad) keyBad ue) s;
  let e := d.parcelOver k.val [] d.now d.now false [];
  let f := e.modTree k.val fun x => { x with fr := { x.fr with resync := false } };
  let h := b.pl;
  let len := hdrLength h;
  let e' := e.modTree k.val fun x => { x with fr := { x.fr with resync := false, recv := some { hdr := h } } };
  (x.cfg.configured = true) ∧ (x.fr.tfl = true) ∧ (b.ctl = true) ∧ (x.fr.resync = false ∨ b.unc = false) ∧ (fld 8 120 h = 0x78) ∧ (b.unc = true ∨ blockChk h ≠ fld 16 0 h)) := by decide +kernel

theorem witness_StreamEventsComplete_18 :
    (let s : State := wit (fun d => d.modTree 63 fun x => { x with cfg := { x.cfg with configured := true, size := 1, laneMap := [(0, 253)] }, fr := { x.fr with tfl := true, laneCount := 1 } });
  let t : Nat := 0;
  let d := s.dev.begin t;
  let k : Fin 64 := 63;
  let x := d.tree k.val;
  let keyBad := false;
  let ue := ([] : List (Nat × Nat));
  let low := ue.filter fun e => Nat.ble e.1 2;
  let b := (parHdr 0xFFFFE 64 : RxBlock);
  let accBad := false;
  let run := Completes (.parcelReceived t k (.control b accBad) keyBad ue) s;
  let e := d.parcelOver k.val [] d.now d.now false [];
  let f := e.modTree k.val fun x => { x with fr := { x.fr with resync := false } };
  let h := b.pl;
  let len := hdrLength h;
  let e' := e.modTree k.val fun x => { x with fr := { x.fr with resync := false, recv := some { hdr := h } } };
  (x.cfg.configured = true) ∧ (x.fr.tfl = true) ∧ (b.ctl = true) ∧ (x.fr.resync = false ∨ b.unc = false) ∧ (fld 8 120 h = 0x78) ∧ (b.unc = false) ∧ (blockChk h = fld 16 0 h) ∧ (hdrAid h = Config.aidNotice.toNat)) := by decide +kernel

theorem witness_StreamEventsComplete_19 :
    (let s : State := wit (fun d => d.modTree 63 fun x => { x with cfg := { x.cfg with configured := true, size := 1, laneMap := [(0, 253)] }, fr := { x.fr with tfl := true, laneCount := 1 } });
  let t : Nat := 0;
  let d := s.dev.begin t;
  let k : Fin 64 := 63;
  let x := d.tree k.val;
  let keyBad := false;
  let ue := ([] : List (Nat × Nat));
  let low := ue.filter fun e => Nat.ble e.1 2;
  let b := (parHdr 0xFFFFF 64 : RxBlock);
  let accBad := false;
  let run := Completes (.parcelReceived t k (.control b accBad) keyBad ue) s;
  let e := d.parcelOver k.val [] d.now d.now false [];
  let f := e.modTree k.val fun x => { x with fr := { x.fr with resync := false } };
  let h := b.pl;
  let len := hdrLength h;
  let e' := e.modTree k.val fun x => { x with fr := { x.fr with resync := false, recv := some { hdr := h } } };
  (x.cfg.configured = true) ∧ (x.fr.tfl = true) ∧ (b.ctl = true) ∧ (x.fr.resync = false ∨ b.unc = false) ∧ (fld 8 120 h = 0x78) ∧ (b.unc = false) ∧ (blockChk h = fld 16 0 h) ∧ (hdrAid h ≠ Config.aidNotice.toNat) ∧ (Config.aidReserved (fld 20 100 h) = true)) := by decide +kernel

theorem witness_StreamEventsComplete_20 :
    (let s : State := wit (fun d => d.modTree 63 fun x => { x with cfg := { x.cfg with configured := true, size := 1, laneMap := [(0, 253)] }, fr := { x.fr with tfl := true, laneCount := 1 } });
  let t : Nat := 0;
  let d := s.dev.begin t;
  let k : Fin 64 := 63;
  let x := d.tree k.val;
  let keyBad := false;
  let ue := ([] : List (Nat × Nat));
  let low := ue.filter fun e => Nat.ble e.1 2;
  let b := (parHdr 5 63 : RxBlock);
  let accBad := false;
  let run := Completes (.parcelReceived t k (.control b accBad) keyBad ue) s;
  let e := d.parcelOver k.val [] d.now d.now false [];
  let f := e.modTree k.val fun x => { x with fr := { x.fr with resync := false } };
  let h := b.pl;
  let len := hdrLength h;
  let e' := e.modTree k.val fun x => { x with fr := { x.fr with resync := false, recv := some { hdr := h } } };
  (x.cfg.configured = true) ∧ (x.fr.tfl = true) ∧ (b.ctl = true) ∧ (x.fr.resync = false ∨ b.unc = false) ∧ (fld 8 120 h = 0x78) ∧ (b.unc = false) ∧ (blockChk h = fld 16 0 h) ∧ (hdrAid h ≠ Config.aidNotice.toNat) ∧ (Config.aidReserved (fld 20 100 h) = false) ∧ (len < 64 ∨ 10240 < len)) := by decide +kernel

theorem witness_StreamEventsComplete_21 :
    (let s : State := wit (fun d => d.modTree 63 fun x => { x with cfg := { x.cfg with configured := true, pair := some 59 }, fr := { x.fr with tfl := true } });
  let t : Nat := 0;
  let d := s.dev.begin t;
  let k : Fin 64 := 63;
  let x := d.tree k.val;
  let keyBad := false;
  let ue := ([] : List (Nat × Nat));
  let low := ue.filter fun e => Nat.ble e.1 2;
  let b := (parHdr 5 10240 : RxBlock);
  let accBad := false;
  let run := Completes (.parcelReceived t k (.control b accBad) keyBad ue) s;
  let e := d.parcelOver k.val [] d.now d.now false [];
  let f := e.modTree k.val fun x => { x with fr := { x.fr with resync := false } };
  let h := b.pl;
  let len := hdrLength h;
  let e' := e.modTree k.val fun x => { x with fr := { x.fr with resync := false, recv := some { hdr := h } } };
  (x.cfg.configured = true) ∧ (x.fr.tfl = true) ∧ (b.ctl = true) ∧ (x.fr.resync = false ∨ b.unc = false) ∧ (fld 8 120 h = 0x78) ∧ (b.unc = false) ∧ (blockChk h = fld 16 0 h) ∧ (hdrAid h ≠ Config.aidNotice.toNat) ∧ (Config.aidReserved (fld 20 100 h) = false) ∧ (64 ≤ len) ∧ (len ≤ 10240) ∧ (e'.selected k.val = false)) := by decide +kernel

theorem witness_StreamEventsComplete_22 :
    (let s : State := wit (fun d => d.modTree 63 fun x => { x with cfg := { x.cfg with configured := true, size := 1, laneMap := [(0, 253)] }, fr := { x.fr with tfl := true, laneCount := 1 } });
  let t : Nat := 0;
  let d := s.dev.begin t;
  let k : Fin 64 := 63;
  let x := d.tree k.val;
  let keyBad := false;
  let ue := ([] : List (Nat × Nat));
  let low := ue.filter fun e => Nat.ble e.1 2;
  let b := (parHdr 5 64 : RxBlock);
  let accBad := false;
  let run := Completes (.parcelReceived t k (.control b accBad) keyBad ue) s;
  let e := d.parcelOver k.val [] d.now d.now false [];
  let f := e.modTree k.val fun x => { x with fr := { x.fr with resync := false } };
  let h := b.pl;
  let len := hdrLength h;
  let e' := e.modTree k.val fun x => { x with fr := { x.fr with resync := false, recv := some { hdr := h } } };
  let g := e'.acceptBoundary k.val;
  let word := hdrAid h / 32;
  let g' := (g.sramBad (sliceOfTree k.val) 11 word).modTree k.val fun x =>
                      { x with acc := { x.acc with badWords := word :: x.acc.badWords.filter fun w => w != word } };
  let g := if accBad then g' else g;
  (x.cfg.configured = true) ∧ (x.fr.tfl = true) ∧ (b.ctl = true) ∧ (x.fr.resync = false ∨ b.unc = false) ∧ (fld 8 120 h = 0x78) ∧ (b.unc = false) ∧ (blockChk h = fld 16 0 h) ∧ (hdrAid h ≠ Config.aidNotice.toNat) ∧ (Config.aidReserved (fld 20 100 h) = false) ∧ (64 ≤ len) ∧ (len ≤ 10240) ∧ (e'.selected k.val = true) ∧ ((g.tree k.val).acc.passes (hdrAid h) = false)) := by decide +kernel

theorem witness_StreamEventsComplete_23 :
    (let s : State := wit (fun d => d.modTree 63 fun x => { x with cfg := { x.cfg with configured := true, size := 1, laneMap := [(0, 253)] }, fr := { x.fr with tfl := true, laneCount := 1 }, acc := { x.acc with bits := [(5, true)] } });
  let t : Nat := 0;
  let d := s.dev.begin t;
  let k : Fin 64 := 63;
  let x := d.tree k.val;
  let keyBad := false;
  let ue := ([] : List (Nat × Nat));
  let low := ue.filter fun e => Nat.ble e.1 2;
  let b := (parHdr 5 10240 : RxBlock);
  let accBad := false;
  let run := Completes (.parcelReceived t k (.control b accBad) keyBad ue) s;
  let e := d.parcelOver k.val [] d.now d.now false [];
  let f := e.modTree k.val fun x => { x with fr := { x.fr with resync := false } };
  let h := b.pl;
  let len := hdrLength h;
  let e' := e.modTree k.val fun x => { x with fr := { x.fr with resync := false, recv := some { hdr := h } } };
  let g := e'.acceptBoundary k.val;
  let word := hdrAid h / 32;
  let g' := (g.sramBad (sliceOfTree k.val) 11 word).modTree k.val fun x =>
                      { x with acc := { x.acc with badWords := word :: x.acc.badWords.filter fun w => w != word } };
  let g := if accBad then g' else g;
  (x.cfg.configured = true) ∧ (x.fr.tfl = true) ∧ (b.ctl = true) ∧ (x.fr.resync = false ∨ b.unc = false) ∧ (fld 8 120 h = 0x78) ∧ (b.unc = false) ∧ (blockChk h = fld 16 0 h) ∧ (hdrAid h ≠ Config.aidNotice.toNat) ∧ (Config.aidReserved (fld 20 100 h) = false) ∧ (64 ≤ len) ∧ (len ≤ 10240) ∧ (e'.selected k.val = true) ∧ ((g.tree k.val).acc.passes (hdrAid h) = true)) := by decide +kernel

theorem witness_StreamEventsComplete_25 :
    (let s : State := wit (fun d => d.modTree 63 fun x => { x with cfg := { x.cfg with configured := true, size := 1, laneMap := [(0, 253)] }, fr := { x.fr with tfl := true, laneCount := 1 }, acc := { x.acc with waiting := [{ aid := 5, val := true, frame := 2 }] } });
  let t : Nat := 0;
  let d := s.dev.begin t;
  let k : Fin 64 := 63;
  let x := d.tree k.val;
  let held := fun c : BitChange => c.val && d.keysComing k.val c.aid;
  let due := x.acc.waiting.filter fun c => d.reached k.val c.frame 200 && !held c;
  let next := if d.reached k.val x.fr.fc 200 then x.fr.fc + 1 else x.fr.fc;
  let e := d.modTree k.val fun x =>
         { x with
           acc :=
             { x.acc with
               waiting := x.acc.waiting.map fun c => if d.reached k.val c.frame 200 && held c then { c with frame := next } else c } };
  (due = [])) := by decide +kernel

theorem witness_StreamEventsComplete_26 :
    (let s : State := wit (fun d => d.modTree 63 fun x => { x with cfg := { x.cfg with configured := true, size := 1, laneMap := [(0, 253)] }, fr := { x.fr with tfl := true, laneCount := 1, fc := 1 }, acc := { x.acc with waiting := [{ aid := 5, val := true, frame := 0 }] } });
  let t : Nat := 0;
  let d := s.dev.begin t;
  let k : Fin 64 := 63;
  let x := d.tree k.val;
  let held := fun c : BitChange => c.val && d.keysComing k.val c.aid;
  let due := x.acc.waiting.filter fun c => d.reached k.val c.frame 200 && !held c;
  let next := if d.reached k.val x.fr.fc 200 then x.fr.fc + 1 else x.fr.fc;
  let e := d.modTree k.val fun x =>
         { x with
           acc :=
             { x.acc with
               waiting := x.acc.waiting.map fun c => if d.reached k.val c.frame 200 && held c then { c with frame := next } else c } };
  (due ≠ [])) := by decide +kernel

theorem witness_StreamEventsComplete_27 :
    (let s : State := wit (fun d => d.modTree 63 fun x => { x with cfg := { x.cfg with configured := true } });
  let t : Nat := 0;
  let d := s.dev.begin t;
  let k : Fin 64 := 63;
  let x := d.tree k.val;
  let word := 32767;
  (word < 32768) ∧ (x.cfg.configured = true)) := by decide +kernel

theorem witness_JoinCommandsComplete_0 :
    (let s : State := wit (fun d => d.modTree 63 fun x => { x with cfg := { x.cfg with configured := true } });
  let t : Nat := 0;
  let rq : Req := ask [63];
  let d := s.dev.begin t;
  let k := rq.prm 0;
  (k ≤ 63) ∧ ((d.tree k).cfg.configured = true) ∧ (Accepted d rq 1 [fnPort (portOfTree k)])) := by decide +kernel

theorem witness_JoinCommandsComplete_1 :
    (let s : State := wit (fun d => d.modTree 63 fun x => { x with cfg := { x.cfg with configured := true }, allocs := [(5, { us := true })] });
  let t : Nat := 0;
  let rq : Req := ask [63, 4, 5, 1, 5, 2, 5, 1, 5, 2];
  let d := s.dev.begin t;
  let k := rq.prm 0;
  (k ≤ 63) ∧ ((d.tree k).cfg.configured = true) ∧ (Accepted d rq (2 + 2 * rq.prm 1) [fnPort (portOfTree k), fnUs (k / 8)]) ∧ (1 ≤ rq.prm 1) ∧ (rq.prm 1 ≤ 4) ∧ (∀ j < rq.prm 1, 1 ≤ rq.prm (3 + 2 * j) ∧ rq.prm (3 + 2 * j) ≤ 2 ∧ ((d.tree k).allocs.get {} (rq.prm (2 + 2 * j))).us = true)) := by decide +kernel

theorem witness_JoinCommandsComplete_2 :
    (let s : State := wit (fun d => d.modTree 63 fun x => { x with cfg := { x.cfg with configured := true } });
  let t : Nat := 0;
  let rq : Req := ask [63, 4, 0];
  let d := s.dev.begin t;
  let k := rq.prm 0;
  (k ≤ 63) ∧ ((d.tree k).cfg.configured = true) ∧ (Accepted d rq 3 [fnPort (portOfTree k)]) ∧ (d.dmaHalted rq.mb.val = false) ∧ (rq.raw 1 % 4 = 0)) := by decide +kernel

theorem witness_JoinCommandsComplete_3 :
    (let s : State := wit (fun d => d.modTree 63 fun x => { x with join := { x.join with tAssign := some Config.sec } });
  let t : Nat := Config.sec;
  let rq : Req := ask [];
  let d := s.dev.begin t;
  let k := rq.prm 0;
  let k : Fin 64 := 63;
  let draw : Nat := 0;
  let x := d.tree k.val;
  let past := fun e : Option Ticks => ∃ b ∈ e, b ≤ d.now;
  (x.join.st = 0) ∧ (past x.join.tAssign)) := by decide +kernel

theorem witness_JoinCommandsComplete_4 :
    (let s : State := wit (fun d => d.modTree 63 fun x => { x with join := { x.join with st := 1, tAnnounced := some 0 } });
  let t : Nat := Config.sec;
  let rq : Req := ask [];
  let d := s.dev.begin t;
  let k := rq.prm 0;
  let k : Fin 64 := 63;
  let draw : Nat := 0;
  let x := d.tree k.val;
  let past := fun e : Option Ticks => ∃ b ∈ e, b ≤ d.now;
  (x.join.st = 1) ∧ (past x.join.tAnnounced)) := by decide +kernel

theorem witness_JoinCommandsComplete_5 :
    (let s : State := wit (fun d => d.modTree 63 fun x => { x with join := { x.join with st := 2, tRanged := some 0 } });
  let t : Nat := Config.sec;
  let rq : Req := ask [];
  let d := s.dev.begin t;
  let k := rq.prm 0;
  let k : Fin 64 := 63;
  let draw : Nat := 0;
  let x := d.tree k.val;
  let past := fun e : Option Ticks => ∃ b ∈ e, b ≤ d.now;
  (x.join.st = 2) ∧ (past x.join.tRanged)) := by decide +kernel

theorem witness_JoinCommandsComplete_6 :
    (let s : State := wit (fun d => d.modTree 63 fun x => { x with join := { x.join with tKex := some 0 } });
  let t : Nat := Config.sec;
  let rq : Req := ask [];
  let d := s.dev.begin t;
  let k := rq.prm 0;
  let k : Fin 64 := 63;
  let draw : Nat := 0;
  let x := d.tree k.val;
  let past := fun e : Option Ticks => ∃ b ∈ e, b ≤ d.now;
  (past x.join.tKex)) := by decide +kernel

theorem witness_JoinCommandsComplete_7 :
    (let s : State := wit (fun d => d.modTree 63 fun x => { x with join := { x.join with holdoff := some 0 } });
  let t : Nat := Config.sec;
  let rq : Req := ask [];
  let d := s.dev.begin t;
  let k := rq.prm 0;
  let k : Fin 64 := 63;
  let draw : Nat := 0;
  let x := d.tree k.val;
  let past := fun e : Option Ticks => ∃ b ∈ e, b ≤ d.now;
  (past x.join.holdoff)) := by decide +kernel

theorem witness_JoinCommandsComplete_8 :
    (let s : State := wit id;
  let t : Nat := 0;
  let rq : Req := ask [];
  let d := s.dev.begin t;
  let k := rq.prm 0;
  let k : Fin 64 := 63;
  let draw : Nat := 0;
  let x := d.tree k.val;
  let past := fun e : Option Ticks => ∃ b, e = some b ∧ b ≤ d.now;
  let eph := 5;
  let nonce := 0;
  (x.ex.kexShare = none ∨ x.join.st ≠ 2 ∨ d.vault.sign.waiting k.val d.now = true)) := by decide +kernel

theorem witness_JoinCommandsComplete_9 :
    (let s : State := wit (fun d => d.modTree 63 fun x => { x with join := { x.join with st := 2 }, ex := { x.ex with kexShare := some { ntype := 5, param := 1, nseq := 4, auth := true, body := [], at_ := 0, frame := 0 } } });
  let t : Nat := 0;
  let rq : Req := ask [];
  let d := s.dev.begin t;
  let k := rq.prm 0;
  let k : Fin 64 := 63;
  let draw : Nat := 0;
  let x := d.tree k.val;
  let past := fun e : Option Ticks => ∃ b, e = some b ∧ b ≤ d.now;
  let eph := 5;
  let nonce := 0;
  let q := { ntype := 5, param := 1, nseq := 4, auth := true, body := [], at_ := 0, frame := 0 };
  let share := d.kexShare k.val q eph nonce;
  (x.ex.kexShare = some q) ∧ (x.join.st = 2) ∧ (d.vault.sign.waiting k.val d.now = false)) := by decide +kernel

theorem witness_NoticesComplete_0 :
    (let s : State := wit id;
  let t : Nat := 0;
  let k : Fin 64 := 63;
  let d := s.dev.begin t;
  let x := d.tree k.val;
  let n : NoticeIn := noteIn 12 2 false true;
  let draw : Nat := 0;
  let h := n.hdr.pl;
  let v := x.fr.fc / 2 ^ 32 * 2 ^ 32 + nSeq h;
  let run := Completes (.noticeReceived t k n draw) s;
  (x.cfg.configured = false ∨ x.fr.tfl = false ∨ d.noticeStream k.val n = none)) := by decide +kernel

theorem witness_NoticesComplete_1 :
    (let s : State := wit (fun d => d.modTree 63 fun x => { x with cfg := { x.cfg with configured := true, size := 1, laneMap := [(0, 253)] }, fr := { x.fr with tfl := true, laneCount := 1 } });
  let t : Nat := 0;
  let k : Fin 64 := 63;
  let d := s.dev.begin t;
  let x := d.tree k.val;
  let n : NoticeIn := ({ noteIn 12 2 false true with off := 1 } : NoticeIn);
  let draw : Nat := 0;
  let h := n.hdr.pl;
  let v := x.fr.fc / 2 ^ 32 * 2 ^ 32 + nSeq h;
  let run := Completes (.noticeReceived t k n draw) s;
  let parcel := false;
  let key := 0;
  let blocks := 2;
  let at_ := fun next => d.modTree k.val fun x =>
          let c : NoticeCur := { key := key, next := next }
          { x with ex := if parcel then { x.ex with curParcel := some c } else { x.ex with curList := some c } };
  (x.cfg.configured = true) ∧ (x.fr.tfl = true) ∧ (d.noticeStream k.val n = some (parcel, key, blocks)) ∧ (x.ex.nextBlock parcel key ≠ some n.off ∨ blocks ≤ n.off)) := by decide +kernel

theorem witness_NoticesComplete_2 :
    (let s : State := wit (fun d => d.modTree 63 fun x => { x with cfg := { x.cfg with configured := true, size := 1, laneMap := [(0, 253)] }, fr := { x.fr with tfl := true, laneCount := 1 } });
  let t : Nat := 0;
  let k : Fin 64 := 63;
  let d := s.dev.begin t;
  let x := d.tree k.val;
  let n : NoticeIn := ({ noteIn 12 2 false true with hdr := { ctl := true, pl := 0 } } : NoticeIn);
  let draw : Nat := 0;
  let h := n.hdr.pl;
  let v := x.fr.fc / 2 ^ 32 * 2 ^ 32 + nSeq h;
  let run := Completes (.noticeReceived t k n draw) s;
  let parcel := false;
  let key := 0;
  let blocks := 2;
  let at_ := fun next => d.modTree k.val fun x =>
          let c : NoticeCur := { key := key, next := next }
          { x with ex := if parcel then { x.ex with curParcel := some c } else { x.ex with curList := some c } };
  (x.cfg.configured = true) ∧ (x.fr.tfl = true) ∧ (d.noticeStream k.val n = some (parcel, key, blocks)) ∧ (x.ex.nextBlock parcel key = some n.off) ∧ (n.off < blocks) ∧ (n.hdr.ok = false ∨ blockChk h ≠ fld 16 0 h)) := by decide +kernel

theorem witness_NoticesComplete_3 :
    (let s : State := wit (fun d => d.modTree 63 fun x => { x with cfg := { x.cfg with configured := true, size := 1, laneMap := [(0, 253)] }, fr := { x.fr with tfl := true, laneCount := 1 } });
  let t : Nat := 0;
  let k : Fin 64 := 63;
  let d := s.dev.begin t;
  let x := d.tree k.val;
  let n : NoticeIn := ({ noteIn 0 0 false true with src := .parcel (parHdr 0xFFFFE 32) 77 } : NoticeIn);
  let draw : Nat := 0;
  let h := n.hdr.pl;
  let v := x.fr.fc / 2 ^ 32 * 2 ^ 32 + nSeq h;
  let run := Completes (.noticeReceived t k n draw) s;
  let parcel := true;
  let key := 77;
  let blocks := 2;
  let at_ := fun next => d.modTree k.val fun x =>
          let c : NoticeCur := { key := key, next := next }
          { x with ex := if parcel then { x.ex with curParcel := some c } else { x.ex with curList := some c } };
  (x.cfg.configured = true) ∧ (x.fr.tfl = true) ∧ (d.noticeStream k.val n = some (parcel, key, blocks)) ∧ (x.ex.nextBlock parcel key = some n.off) ∧ (n.off < blocks) ∧ (n.hdr.ok = true) ∧ (blockChk h = fld 16 0 h) ∧ (parcel = true) ∧ (nType h = 0)) := by decide +kernel

theorem witness_NoticesComplete_4 :
    (let s : State := wit (fun d => d.modTree 63 fun x => { x with cfg := { x.cfg with configured := true, size := 1, laneMap := [(0, 253)] }, fr := { x.fr with tfl := true, laneCount := 1 } });
  let t : Nat := 0;
  let k : Fin 64 := 63;
  let d := s.dev.begin t;
  let x := d.tree k.val;
  let n : NoticeIn := ({ noteIn 1 1 false true 0 [0] with src := .list (noteHdr 2) } : NoticeIn);
  let draw : Nat := 0;
  let h := n.hdr.pl;
  let v := x.fr.fc / 2 ^ 32 * 2 ^ 32 + nSeq h;
  let run := Completes (.noticeReceived t k n draw) s;
  let parcel := false;
  let key := 0;
  let blocks := 2;
  let at_ := fun next => d.modTree k.val fun x =>
          let c : NoticeCur := { key := key, next := next }
          { x with ex := if parcel then { x.ex with curParcel := some c } else { x.ex with curList := some c } };
  (x.cfg.configured = true) ∧ (x.fr.tfl = true) ∧ (d.noticeStream k.val n = some (parcel, key, blocks)) ∧ (x.ex.nextBlock parcel key = some n.off) ∧ (n.off < blocks) ∧ (n.hdr.ok = true) ∧ (blockChk h = fld 16 0 h) ∧ (parcel = false ∨ nType h ≠ 0) ∧ (blocks < n.off + 2 + nBody h)) := by decide +kernel

theorem witness_NoticesComplete_5 :
    (let s : State := wit (fun d => d.modTree 63 fun x => { x with cfg := { x.cfg with configured := true, size := 1, laneMap := [(0, 253)] }, fr := { x.fr with tfl := true, laneCount := 1 } });
  let t : Nat := 0;
  let k : Fin 64 := 63;
  let d := s.dev.begin t;
  let x := d.tree k.val;
  let n : NoticeIn := ({ noteIn 3 2 false true with rest := [] } : NoticeIn);
  let draw : Nat := 0;
  let h := n.hdr.pl;
  let v := x.fr.fc / 2 ^ 32 * 2 ^ 32 + nSeq h;
  let run := Completes (.noticeReceived t k n draw) s;
  let parcel := false;
  let key := 0;
  let blocks := 2;
  let at_ := fun next => d.modTree k.val fun x =>
          let c : NoticeCur := { key := key, next := next }
          { x with ex := if parcel then { x.ex with curParcel := some c } else { x.ex with curList := some c } };
  (x.cfg.configured = true) ∧ (x.fr.tfl = true) ∧ (d.noticeStream k.val n = some (parcel, key, blocks)) ∧ (x.ex.nextBlock parcel key = some n.off) ∧ (n.off < blocks) ∧ (n.hdr.ok = true) ∧ (blockChk h = fld 16 0 h) ∧ (parcel = false ∨ nType h ≠ 0) ∧ (n.off + 2 + nBody h ≤ blocks) ∧ (n.trailer = none)) := by decide +kernel

theorem witness_NoticesComplete_6 :
    (let s : State := wit (fun d => d.modTree 63 fun x => { x with cfg := { x.cfg with configured := true, size := 1, laneMap := [(0, 253)] }, fr := { x.fr with tfl := true, laneCount := 1 } });
  let t : Nat := 0;
  let k : Fin 64 := 63;
  let d := s.dev.begin t;
  let x := d.tree k.val;
  let n : NoticeIn := (noteIn 16 2 false true : NoticeIn);
  let draw : Nat := 0;
  let h := n.hdr.pl;
  let v := x.fr.fc / 2 ^ 32 * 2 ^ 32 + nSeq h;
  let run := Completes (.noticeReceived t k n draw) s;
  let parcel := false;
  let key := 0;
  let blocks := 2;
  let at_ := fun next => d.modTree k.val fun x =>
          let c : NoticeCur := { key := key, next := next }
          { x with ex := if parcel then { x.ex with curParcel := some c } else { x.ex with curList := some c } };
  let tr := ((noteIn 16 2 false true).rest.getLastD { ctl := true, pl := 0 });
  let f := at_ (n.off + 2 + nBody h);
  (x.cfg.configured = true) ∧ (x.fr.tfl = true) ∧ (d.noticeStream k.val n = some (parcel, key, blocks)) ∧ (x.ex.nextBlock parcel key = some n.off) ∧ (n.off < blocks) ∧ (n.hdr.ok = true) ∧ (blockChk h = fld 16 0 h) ∧ (parcel = false ∨ nType h ≠ 0) ∧ (n.off + 2 + nBody h ≤ blocks) ∧ (n.trailer = some tr) ∧ (nType h = 0 ∨ 15 < nType h)) := by decide +kernel

theorem witness_NoticesComplete_7 :
    (let s : State := wit (fun d => d.modTree 63 fun x => { x with cfg := { x.cfg with configured := true, size := 1, laneMap := [(0, 253)] }, fr := { x.fr with tfl := true, laneCount := 1 } });
  let t : Nat := 0;
  let k : Fin 64 := 63;
  let d := s.dev.begin t;
  let x := d.tree k.val;
  let n : NoticeIn := (noteIn 2 0 false true : NoticeIn);
  let draw : Nat := 0;
  let h := n.hdr.pl;
  let v := x.fr.fc / 2 ^ 32 * 2 ^ 32 + nSeq h;
  let run := Completes (.noticeReceived t k n draw) s;
  let parcel := false;
  let key := 0;
  let blocks := 2;
  let at_ := fun next => d.modTree k.val fun x =>
          let c : NoticeCur := { key := key, next := next }
          { x with ex := if parcel then { x.ex with curParcel := some c } else { x.ex with curList := some c } };
  let tr := ((noteIn 2 0 false true).rest.getLastD { ctl := true, pl := 0 });
  let f := at_ (n.off + 2 + nBody h);
  (x.cfg.configured = true) ∧ (x.fr.tfl = true) ∧ (d.noticeStream k.val n = some (parcel, key, blocks)) ∧ (x.ex.nextBlock parcel key = some n.off) ∧ (n.off < blocks) ∧ (n.hdr.ok = true) ∧ (blockChk h = fld 16 0 h) ∧ (parcel = false ∨ nType h ≠ 0) ∧ (n.off + 2 + nBody h ≤ blocks) ∧ (n.trailer = some tr) ∧ (1 ≤ nType h) ∧ (nType h ≤ 15) ∧ (f.addressed k.val h n.body = false)) := by decide +kernel

theorem witness_NoticesComplete_8 :
    (let s : State := wit (fun d => d.modTree 63 fun x => { x with cfg := { x.cfg with configured := true, size := 1, laneMap := [(0, 253)] }, fr := { x.fr with tfl := true, laneCount := 1 } });
  let t : Nat := 0;
  let k : Fin 64 := 63;
  let d := s.dev.begin t;
  let x := d.tree k.val;
  let n : NoticeIn := (noteIn 10 2 false true : NoticeIn);
  let draw : Nat := 0;
  let h := n.hdr.pl;
  let v := x.fr.fc / 2 ^ 32 * 2 ^ 32 + nSeq h;
  let run := Completes (.noticeReceived t k n draw) s;
  let parcel := false;
  let key := 0;
  let blocks := 2;
  let at_ := fun next => d.modTree k.val fun x =>
          let c : NoticeCur := { key := key, next := next }
          { x with ex := if parcel then { x.ex with curParcel := some c } else { x.ex with curList := some c } };
  let tr := ((noteIn 10 2 false true).rest.getLastD { ctl := true, pl := 0 });
  let f := at_ (n.off + 2 + nBody h);
  let good := bodyOk (nType h) (nAddr h) ((nParam h).toNat % 4) (nBody h) = true ∧ (∀ b ∈ n.body, b.ok = true) ∧ tr.ok = true;
  let sum := crc32Blocks (h :: n.body.map (·.pl)) = fld 32 0 tr.pl;
  (x.cfg.configured = true) ∧ (x.fr.tfl = true) ∧ (d.noticeStream k.val n = some (parcel, key, blocks)) ∧ (x.ex.nextBlock parcel key = some n.off) ∧ (n.off < blocks) ∧ (n.hdr.ok = true) ∧ (blockChk h = fld 16 0 h) ∧ (parcel = false ∨ nType h ≠ 0) ∧ (n.off + 2 + nBody h ≤ blocks) ∧ (n.trailer = some tr) ∧ (1 ≤ nType h) ∧ (nType h ≤ 15) ∧ (f.addressed k.val h n.body = true) ∧ (¬ good)) := by decide +kernel

theorem witness_NoticesComplete_9 :
    (let s : State := wit (fun d => d.modTree 63 fun x => { x with cfg := { x.cfg with configured := true, size := 1, laneMap := [(0, 253)] }, fr := { x.fr with tfl := true, laneCount := 1 } });
  let t : Nat := 0;
  let k : Fin 64 := 63;
  let d := s.dev.begin t;
  let x := d.tree k.val;
  let n : NoticeIn := (noteIn 3 2 false false : NoticeIn);
  let draw : Nat := 0;
  let h := n.hdr.pl;
  let v := x.fr.fc / 2 ^ 32 * 2 ^ 32 + nSeq h;
  let run := Completes (.noticeReceived t k n draw) s;
  let parcel := false;
  let key := 0;
  let blocks := 2;
  let at_ := fun next => d.modTree k.val fun x =>
          let c : NoticeCur := { key := key, next := next }
          { x with ex := if parcel then { x.ex with curParcel := some c } else { x.ex with curList := some c } };
  let tr := ((noteIn 3 2 false false).rest.getLastD { ctl := true, pl := 0 });
  let f := at_ (n.off + 2 + nBody h);
  let good := bodyOk (nType h) (nAddr h) ((nParam h).toNat % 4) (nBody h) = true ∧ (∀ b ∈ n.body, b.ok = true) ∧ tr.ok = true;
  let sum := crc32Blocks (h :: n.body.map (·.pl)) = fld 32 0 tr.pl;
  (x.cfg.configured = true) ∧ (x.fr.tfl = true) ∧ (d.noticeStream k.val n = some (parcel, key, blocks)) ∧ (x.ex.nextBlock parcel key = some n.off) ∧ (n.off < blocks) ∧ (n.hdr.ok = true) ∧ (blockChk h = fld 16 0 h) ∧ (parcel = false ∨ nType h ≠ 0) ∧ (n.off + 2 + nBody h ≤ blocks) ∧ (n.trailer = some tr) ∧ (1 ≤ nType h) ∧ (nType h ≤ 15) ∧ (f.addressed k.val h n.body = true) ∧ (good) ∧ (nAuth h = false) ∧ (¬ sum)) := by decide +kernel

theorem witness_NoticesComplete_10 :
    (let s : State := wit (fun d => d.modTree 63 fun x => { x with cfg := { x.cfg with configured := true, size := 1, laneMap := [(0, 253)] }, fr := { x.fr with tfl := true, laneCount := 1 } });
  let t : Nat := 0;
  let k : Fin 64 := 63;
  let d := s.dev.begin t;
  let x := d.tree k.val;
  let n : NoticeIn := (noteIn 3 2 false true : NoticeIn);
  let draw : Nat := 0;
  let h := n.hdr.pl;
  let v := x.fr.fc / 2 ^ 32 * 2 ^ 32 + nSeq h;
  let run := Completes (.noticeReceived t k n draw) s;
  let parcel := false;
  let key := 0;
  let blocks := 2;
  let at_ := fun next => d.modTree k.val fun x =>
          let c : NoticeCur := { key := key, next := next }
          { x with ex := if parcel then { x.ex with curParcel := some c } else { x.ex with curList := some c } };
  let tr := ((noteIn 3 2 false true).rest.getLastD { ctl := true, pl := 0 });
  let f := at_ (n.off + 2 + nBody h);
  let good := bodyOk (nType h) (nAddr h) ((nParam h).toNat % 4) (nBody h) = true ∧ (∀ b ∈ n.body, b.ok = true) ∧ tr.ok = true;
  let sum := crc32Blocks (h :: n.body.map (·.pl)) = fld 32 0 tr.pl;
  (x.cfg.configured = true) ∧ (x.fr.tfl = true) ∧ (d.noticeStream k.val n = some (parcel, key, blocks)) ∧ (x.ex.nextBlock parcel key = some n.off) ∧ (n.off < blocks) ∧ (n.hdr.ok = true) ∧ (blockChk h = fld 16 0 h) ∧ (parcel = false ∨ nType h ≠ 0) ∧ (n.off + 2 + nBody h ≤ blocks) ∧ (n.trailer = some tr) ∧ (1 ≤ nType h) ∧ (nType h ≤ 15) ∧ (f.addressed k.val h n.body = true) ∧ (good) ∧ (nAuth h = false) ∧ (sum) ∧ (stateAllows (nType h) (nAddr h) false x.join.st = false)) := by decide +kernel

theorem witness_NoticesComplete_11 :
    (let s : State := wit (fun d => d.modTree 63 fun x => { x with cfg := { x.cfg with configured := true, size := 1, laneMap := [(0, 253)] }, fr := { x.fr with tfl := true, laneCount := 1 } });
  let t : Nat := 0;
  let k : Fin 64 := 63;
  let d := s.dev.begin t;
  let x := d.tree k.val;
  let n : NoticeIn := (noteIn 3 2 true true : NoticeIn);
  let draw : Nat := 0;
  let h := n.hdr.pl;
  let v := x.fr.fc / 2 ^ 32 * 2 ^ 32 + nSeq h;
  let run := Completes (.noticeReceived t k n draw) s;
  let parcel := false;
  let key := 0;
  let blocks := 2;
  let at_ := fun next => d.modTree k.val fun x =>
          let c : NoticeCur := { key := key, next := next }
          { x with ex := if parcel then { x.ex with curParcel := some c } else { x.ex with curList := some c } };
  let tr := ((noteIn 3 2 true true).rest.getLastD { ctl := true, pl := 0 });
  let f := at_ (n.off + 2 + nBody h);
  let good := bodyOk (nType h) (nAddr h) ((nParam h).toNat % 4) (nBody h) = true ∧ (∀ b ∈ n.body, b.ok = true) ∧ tr.ok = true;
  let sum := crc32Blocks (h :: n.body.map (·.pl)) = fld 32 0 tr.pl;
  let c := f.checkTag k.val v n tr.pl;
  (x.cfg.configured = true) ∧ (x.fr.tfl = true) ∧ (d.noticeStream k.val n = some (parcel, key, blocks)) ∧ (x.ex.nextBlock parcel key = some n.off) ∧ (n.off < blocks) ∧ (n.hdr.ok = true) ∧ (blockChk h = fld 16 0 h) ∧ (parcel = false ∨ nType h ≠ 0) ∧ (n.off + 2 + nBody h ≤ blocks) ∧ (n.trailer = some tr) ∧ (1 ≤ nType h) ∧ (nType h ≤ 15) ∧ (f.addressed k.val h n.body = true) ∧ (good) ∧ (nAuth h = true) ∧ (c.1 = .fail)) := by decide +kernel

theorem witness_NoticesComplete_12 :
    (let s : State := wit (fun d => (d.modTree 63 fun x => { x with cfg := { x.cfg with configured := true, size := 1, laneMap := [(0, 253)] }, fr := { x.fr with tfl := true, laneCount := 1 }, join := { x.join with st := 3, leaf := some 0 }, ex := { x.ex with last := [(12, some { nseq := 0, v := 0 })], vHigh := some 0 } }).modVault fun v => { v with noticeKeys := v.noticeKeys.set none 63 (some ({}, {})) });
  let t : Nat := 0;
  let k : Fin 64 := 63;
  let d := s.dev.begin t;
  let x := d.tree k.val;
  let n : NoticeIn := (noteTag 12 2 : NoticeIn);
  let draw : Nat := 0;
  let h := n.hdr.pl;
  let v := x.fr.fc / 2 ^ 32 * 2 ^ 32 + nSeq h;
  let run := Completes (.noticeReceived t k n draw) s;
  let parcel := false;
  let key := 0;
  let blocks := 2;
  let at_ := fun next => d.modTree k.val fun x =>
          let c : NoticeCur := { key := key, next := next }
          { x with ex := if parcel then { x.ex with curParcel := some c } else { x.ex with curList := some c } };
  let tr := ((noteTag 12 2).rest.getLastD { ctl := true, pl := 0 });
  let f := at_ (n.off + 2 + nBody h);
  let good := bodyOk (nType h) (nAddr h) ((nParam h).toNat % 4) (nBody h) = true ∧ (∀ b ∈ n.body, b.ok = true) ∧ tr.ok = true;
  let sum := crc32Blocks (h :: n.body.map (·.pl)) = fld 32 0 tr.pl;
  let c := f.checkTag k.val v n tr.pl;
  (x.cfg.configured = true) ∧ (x.fr.tfl = true) ∧ (d.noticeStream k.val n = some (parcel, key, blocks)) ∧ (x.ex.nextBlock parcel key = some n.off) ∧ (n.off < blocks) ∧ (n.hdr.ok = true) ∧ (blockChk h = fld 16 0 h) ∧ (parcel = false ∨ nType h ≠ 0) ∧ (n.off + 2 + nBody h ≤ blocks) ∧ (n.trailer = some tr) ∧ (1 ≤ nType h) ∧ (nType h ≤ 15) ∧ (f.addressed k.val h n.body = true) ∧ (good) ∧ (nAuth h = true) ∧ (c.1 = .again)) := by decide +kernel

theorem witness_NoticesComplete_13 :
    (let s : State := wit (fun d => d.modTree 63 fun x => { x with cfg := { x.cfg with configured := true, size := 1, laneMap := [(0, 253)] }, fr := { x.fr with tfl := true, laneCount := 1 }, join := { x.join with st := 3, leaf := some 0 } });
  let t : Nat := 0;
  let k : Fin 64 := 63;
  let d := s.dev.begin t;
  let x := d.tree k.val;
  let n : NoticeIn := (noteIn 5 2 true true 2 : NoticeIn);
  let draw : Nat := 0;
  let h := n.hdr.pl;
  let v := x.fr.fc / 2 ^ 32 * 2 ^ 32 + nSeq h;
  let run := Completes (.noticeReceived t k n draw) s;
  let parcel := false;
  let key := 0;
  let blocks := 2;
  let at_ := fun next => d.modTree k.val fun x =>
          let c : NoticeCur := { key := key, next := next }
          { x with ex := if parcel then { x.ex with curParcel := some c } else { x.ex with curList := some c } };
  let tr := ((noteIn 5 2 true true 2).rest.getLastD { ctl := true, pl := 0 });
  let f := at_ (n.off + 2 + nBody h);
  let good := bodyOk (nType h) (nAddr h) ((nParam h).toNat % 4) (nBody h) = true ∧ (∀ b ∈ n.body, b.ok = true) ∧ tr.ok = true;
  let sum := crc32Blocks (h :: n.body.map (·.pl)) = fld 32 0 tr.pl;
  let c := f.checkTag k.val v n tr.pl;
  (x.cfg.configured = true) ∧ (x.fr.tfl = true) ∧ (d.noticeStream k.val n = some (parcel, key, blocks)) ∧ (x.ex.nextBlock parcel key = some n.off) ∧ (n.off < blocks) ∧ (n.hdr.ok = true) ∧ (blockChk h = fld 16 0 h) ∧ (parcel = false ∨ nType h ≠ 0) ∧ (n.off + 2 + nBody h ≤ blocks) ∧ (n.trailer = some tr) ∧ (1 ≤ nType h) ∧ (nType h ≤ 15) ∧ (f.addressed k.val h n.body = true) ∧ (good) ∧ (nAuth h = true) ∧ (c.1 = .notNow)) := by decide +kernel

theorem witness_NoticesComplete_14 :
    (let s : State := wit (fun d => d.modTree 63 fun x => { x with cfg := { x.cfg with configured := true, size := 1, laneMap := [(0, 253)] }, fr := { x.fr with tfl := true, laneCount := 1 } });
  let t : Nat := 0;
  let k : Fin 64 := 63;
  let d := s.dev.begin t;
  let x := d.tree k.val;
  let n : NoticeIn := (noteIn 12 2 true true : NoticeIn);
  let draw : Nat := 0;
  let h := n.hdr.pl;
  let v := x.fr.fc / 2 ^ 32 * 2 ^ 32 + nSeq h;
  let run := Completes (.noticeReceived t k n draw) s;
  let parcel := false;
  let key := 0;
  let blocks := 2;
  let at_ := fun next => d.modTree k.val fun x =>
          let c : NoticeCur := { key := key, next := next }
          { x with ex := if parcel then { x.ex with curParcel := some c } else { x.ex with curList := some c } };
  let tr := ((noteIn 12 2 true true).rest.getLastD { ctl := true, pl := 0 });
  let f := at_ (n.off + 2 + nBody h);
  let good := bodyOk (nType h) (nAddr h) ((nParam h).toNat % 4) (nBody h) = true ∧ (∀ b ∈ n.body, b.ok = true) ∧ tr.ok = true;
  let sum := crc32Blocks (h :: n.body.map (·.pl)) = fld 32 0 tr.pl;
  let c := f.checkTag k.val v n tr.pl;
  (x.cfg.configured = true) ∧ (x.fr.tfl = true) ∧ (d.noticeStream k.val n = some (parcel, key, blocks)) ∧ (x.ex.nextBlock parcel key = some n.off) ∧ (n.off < blocks) ∧ (n.hdr.ok = true) ∧ (blockChk h = fld 16 0 h) ∧ (parcel = false ∨ nType h ≠ 0) ∧ (n.off + 2 + nBody h ≤ blocks) ∧ (n.trailer = some tr) ∧ (1 ≤ nType h) ∧ (nType h ≤ 15) ∧ (f.addressed k.val h n.body = true) ∧ (good) ∧ (nAuth h = true) ∧ (c.1 = .ok) ∧ (nType h = 1 → x.fr.dup = false) ∧ (nType h = 5 → (nParam h).toNat % 4 = 2) ∧ (stateAllows (nType h) (nAddr h) true x.join.st = false)) := by decide +kernel

theorem witness_NoticesComplete_15 :
    (let s : State := wit (fun d => d.modTree 63 fun x => { x with cfg := { x.cfg with configured := true, size := 1, laneMap := [(0, 253)] }, fr := { x.fr with tfl := true, laneCount := 1 }, join := { x.join with st := 1, leaf := some 0 } });
  let t : Nat := 0;
  let k : Fin 64 := 63;
  let d := s.dev.begin t;
  let x := d.tree k.val;
  let n : NoticeIn := (noteIn 12 0 true true 1 : NoticeIn);
  let draw : Nat := 0;
  let h := n.hdr.pl;
  let v := x.fr.fc / 2 ^ 32 * 2 ^ 32 + nSeq h;
  let run := Completes (.noticeReceived t k n draw) s;
  let parcel := false;
  let key := 0;
  let blocks := 2;
  let at_ := fun next => d.modTree k.val fun x =>
          let c : NoticeCur := { key := key, next := next }
          { x with ex := if parcel then { x.ex with curParcel := some c } else { x.ex with curList := some c } };
  let tr := ((noteIn 12 0 true true 1).rest.getLastD { ctl := true, pl := 0 });
  let f := at_ (n.off + 2 + nBody h);
  let good := bodyOk (nType h) (nAddr h) ((nParam h).toNat % 4) (nBody h) = true ∧ (∀ b ∈ n.body, b.ok = true) ∧ tr.ok = true;
  let sum := crc32Blocks (h :: n.body.map (·.pl)) = fld 32 0 tr.pl;
  let c := f.checkTag k.val v n tr.pl;
  (x.cfg.configured = true) ∧ (x.fr.tfl = true) ∧ (d.noticeStream k.val n = some (parcel, key, blocks)) ∧ (x.ex.nextBlock parcel key = some n.off) ∧ (n.off < blocks) ∧ (n.hdr.ok = true) ∧ (blockChk h = fld 16 0 h) ∧ (parcel = false ∨ nType h ≠ 0) ∧ (n.off + 2 + nBody h ≤ blocks) ∧ (n.trailer = some tr) ∧ (1 ≤ nType h) ∧ (nType h ≤ 15) ∧ (f.addressed k.val h n.body = true) ∧ (good) ∧ (nAuth h = true) ∧ (c.1 = .ok) ∧ (nType h = 1 → x.fr.dup = false) ∧ (nType h = 5 → (nParam h).toNat % 4 = 2) ∧ (stateAllows (nType h) (nAddr h) true x.join.st = true)) := by decide +kernel

theorem witness_NoticesComplete_16 :
    (let s : State := wit (fun d => d.modTree 63 fun x => { x with cfg := { x.cfg with configured := true, size := 1, laneMap := [(0, 253)] }, fr := { x.fr with tfl := true, laneCount := 1 } });
  let t : Nat := 0;
  let k : Fin 64 := 63;
  let d := s.dev.begin t;
  let x := d.tree k.val;
  let n : NoticeIn := (noteIn 10 2 false true 0 [0] : NoticeIn);
  let draw : Nat := 0;
  let h := n.hdr.pl;
  let v := x.fr.fc / 2 ^ 32 * 2 ^ 32 + nSeq h;
  let run := Completes (.noticeReceived t k n draw) s;
  let parcel := false;
  let key := 0;
  let blocks := 3;
  let at_ := fun next => d.modTree k.val fun x =>
          let c : NoticeCur := { key := key, next := next }
          { x with ex := if parcel then { x.ex with curParcel := some c } else { x.ex with curList := some c } };
  let tr := ((noteIn 10 2 false true 0 [0]).rest.getLastD { ctl := true, pl := 0 });
  let f := at_ (n.off + 2 + nBody h);
  let good := bodyOk (nType h) (nAddr h) ((nParam h).toNat % 4) (nBody h) = true ∧ (∀ b ∈ n.body, b.ok = true) ∧ tr.ok = true;
  let sum := crc32Blocks (h :: n.body.map (·.pl)) = fld 32 0 tr.pl;
  let rep := ((x.ex.last.get none (nType h)).map fun l => l.nseq == nSeq h).getD false;
  let q : NoticeQ :=
                      { ntype := nType h, param := nParam h, nseq := nSeq h, auth := false, body := n.body.map (·.pl), at_ := d.now
                        frame := x.fr.fc, dup := rep };
  let g := (if rep then f else f.modTree k.val fun x =>
                      { x with ex := { x.ex with last := x.ex.last.set none (nType h) (some { nseq := nSeq h, v := v }) } }).joinLog k.val
                        (nType h) (nSeq h) 0;
  (x.cfg.configured = true) ∧ (x.fr.tfl = true) ∧ (d.noticeStream k.val n = some (parcel, key, blocks)) ∧ (x.ex.nextBlock parcel key = some n.off) ∧ (n.off < blocks) ∧ (n.hdr.ok = true) ∧ (blockChk h = fld 16 0 h) ∧ (parcel = false ∨ nType h ≠ 0) ∧ (n.off + 2 + nBody h ≤ blocks) ∧ (n.trailer = some tr) ∧ (1 ≤ nType h) ∧ (nType h ≤ 15) ∧ (f.addressed k.val h n.body = true) ∧ (good) ∧ (nAuth h = false) ∧ (sum) ∧ (nType h ≠ 5) ∧ (nType h = 1 → x.fr.dup = false) ∧ (stateAllows (nType h) (nAddr h) false x.join.st = true) ∧ (nType h ≠ 0x09) ∧ (nType h ≠ 0x0C)) := by decide +kernel

theorem witness_NoticesComplete_17 :
    (let s : State := wit (fun d => d.modTree 63 fun x => { x with cfg := { x.cfg with configured := true, size := 1, laneMap := [(0, 253)] }, fr := { x.fr with tfl := true, laneCount := 1 }, join := { x.join with st := 1, leaf := some 0 } });
  let t : Nat := 0;
  let k : Fin 64 := 63;
  let d := s.dev.begin t;
  let x := d.tree k.val;
  let n : NoticeIn := (noteIn 9 0 false true 0 [0] : NoticeIn);
  let draw : Nat := 0;
  let h := n.hdr.pl;
  let v := x.fr.fc / 2 ^ 32 * 2 ^ 32 + nSeq h;
  let run := Completes (.noticeReceived t k n draw) s;
  let parcel := false;
  let key := 0;
  let blocks := 3;
  let at_ := fun next => d.modTree k.val fun x =>
          let c : NoticeCur := { key := key, next := next }
          { x with ex := if parcel then { x.ex with curParcel := some c } else { x.ex with curList := some c } };
  let tr := ((noteIn 9 0 false true 0 [0]).rest.getLastD { ctl := true, pl := 0 });
  let f := at_ (n.off + 2 + nBody h);
  let good := bodyOk (nType h) (nAddr h) ((nParam h).toNat % 4) (nBody h) = true ∧ (∀ b ∈ n.body, b.ok = true) ∧ tr.ok = true;
  let sum := crc32Blocks (h :: n.body.map (·.pl)) = fld 32 0 tr.pl;
  let rep := ((x.ex.last.get none (nType h)).map fun l => l.nseq == nSeq h).getD false;
  let q : NoticeQ :=
                      { ntype := nType h, param := nParam h, nseq := nSeq h, auth := false, body := n.body.map (·.pl), at_ := d.now
                        frame := x.fr.fc, dup := rep };
  let g := (if rep then f else f.modTree k.val fun x =>
                      { x with ex := { x.ex with last := x.ex.last.set none (nType h) (some { nseq := nSeq h, v := v }) } }).joinLog k.val
                        (nType h) (nSeq h) 0;
  (x.cfg.configured = true) ∧ (x.fr.tfl = true) ∧ (d.noticeStream k.val n = some (parcel, key, blocks)) ∧ (x.ex.nextBlock parcel key = some n.off) ∧ (n.off < blocks) ∧ (n.hdr.ok = true) ∧ (blockChk h = fld 16 0 h) ∧ (parcel = false ∨ nType h ≠ 0) ∧ (n.off + 2 + nBody h ≤ blocks) ∧ (n.trailer = some tr) ∧ (1 ≤ nType h) ∧ (nType h ≤ 15) ∧ (f.addressed k.val h n.body = true) ∧ (good) ∧ (nAuth h = false) ∧ (sum) ∧ (nType h ≠ 5) ∧ (nType h = 1 → x.fr.dup = false) ∧ (stateAllows (nType h) (nAddr h) false x.join.st = true) ∧ (nType h = 0x09)) := by decide +kernel

theorem witness_NoticesComplete_18 :
    (let s : State := wit (fun d => d.modTree 63 fun x => { x with cfg := { x.cfg with configured := true, size := 1, laneMap := [(0, 253)] }, fr := { x.fr with tfl := true, laneCount := 1 }, join := { x.join with st := 1, leaf := some 0 }, ex := { x.ex with last := [(12, some { nseq := 0, v := 0 })] } });
  let t : Nat := 0;
  let k : Fin 64 := 63;
  let d := s.dev.begin t;
  let x := d.tree k.val;
  let n : NoticeIn := (noteIn 12 0 false true 1 : NoticeIn);
  let draw : Nat := 0;
  let h := n.hdr.pl;
  let v := x.fr.fc / 2 ^ 32 * 2 ^ 32 + nSeq h;
  let run := Completes (.noticeReceived t k n draw) s;
  let parcel := false;
  let key := 0;
  let blocks := 2;
  let at_ := fun next => d.modTree k.val fun x =>
          let c : NoticeCur := { key := key, next := next }
          { x with ex := if parcel then { x.ex with curParcel := some c } else { x.ex with curList := some c } };
  let tr := ((noteIn 12 0 false true 1).rest.getLastD { ctl := true, pl := 0 });
  let f := at_ (n.off + 2 + nBody h);
  let good := bodyOk (nType h) (nAddr h) ((nParam h).toNat % 4) (nBody h) = true ∧ (∀ b ∈ n.body, b.ok = true) ∧ tr.ok = true;
  let sum := crc32Blocks (h :: n.body.map (·.pl)) = fld 32 0 tr.pl;
  let rep := ((x.ex.last.get none (nType h)).map fun l => l.nseq == nSeq h).getD false;
  let q : NoticeQ :=
                      { ntype := nType h, param := nParam h, nseq := nSeq h, auth := false, body := n.body.map (·.pl), at_ := d.now
                        frame := x.fr.fc, dup := rep };
  let g := (if rep then f else f.modTree k.val fun x =>
                      { x with ex := { x.ex with last := x.ex.last.set none (nType h) (some { nseq := nSeq h, v := v }) } }).joinLog k.val
                        (nType h) (nSeq h) 0;
  (x.cfg.configured = true) ∧ (x.fr.tfl = true) ∧ (d.noticeStream k.val n = some (parcel, key, blocks)) ∧ (x.ex.nextBlock parcel key = some n.off) ∧ (n.off < blocks) ∧ (n.hdr.ok = true) ∧ (blockChk h = fld 16 0 h) ∧ (parcel = false ∨ nType h ≠ 0) ∧ (n.off + 2 + nBody h ≤ blocks) ∧ (n.trailer = some tr) ∧ (1 ≤ nType h) ∧ (nType h ≤ 15) ∧ (f.addressed k.val h n.body = true) ∧ (good) ∧ (nAuth h = false) ∧ (sum) ∧ (nType h ≠ 5) ∧ (nType h = 1 → x.fr.dup = false) ∧ (stateAllows (nType h) (nAddr h) false x.join.st = true) ∧ (nType h = 0x0C) ∧ ((nParam h).getLsbD 0 = true) ∧ (rep = true)) := by decide +kernel

theorem witness_NoticesComplete_19 :
    (let s : State := wit (fun d => d.modTree 63 fun x => { x with cfg := { x.cfg with configured := true, size := 1, laneMap := [(0, 253)] }, fr := { x.fr with tfl := true, laneCount := 1 }, join := { x.join with st := 1, leaf := some 0 } });
  let t : Nat := 0;
  let k : Fin 64 := 63;
  let d := s.dev.begin t;
  let x := d.tree k.val;
  let n : NoticeIn := (noteIn 12 0 false true 1 : NoticeIn);
  let draw : Nat := 0;
  let h := n.hdr.pl;
  let v := x.fr.fc / 2 ^ 32 * 2 ^ 32 + nSeq h;
  let run := Completes (.noticeReceived t k n draw) s;
  let parcel := false;
  let key := 0;
  let blocks := 2;
  let at_ := fun next => d.modTree k.val fun x =>
          let c : NoticeCur := { key := key, next := next }
          { x with ex := if parcel then { x.ex with curParcel := some c } else { x.ex with curList := some c } };
  let tr := ((noteIn 12 0 false true 1).rest.getLastD { ctl := true, pl := 0 });
  let f := at_ (n.off + 2 + nBody h);
  let good := bodyOk (nType h) (nAddr h) ((nParam h).toNat % 4) (nBody h) = true ∧ (∀ b ∈ n.body, b.ok = true) ∧ tr.ok = true;
  let sum := crc32Blocks (h :: n.body.map (·.pl)) = fld 32 0 tr.pl;
  let rep := ((x.ex.last.get none (nType h)).map fun l => l.nseq == nSeq h).getD false;
  let q : NoticeQ :=
                      { ntype := nType h, param := nParam h, nseq := nSeq h, auth := false, body := n.body.map (·.pl), at_ := d.now
                        frame := x.fr.fc, dup := rep };
  let g := (if rep then f else f.modTree k.val fun x =>
                      { x with ex := { x.ex with last := x.ex.last.set none (nType h) (some { nseq := nSeq h, v := v }) } }).joinLog k.val
                        (nType h) (nSeq h) 0;
  let c := g.commitDue k.val;
  let c1 := ({ c.modTree k.val fun x => { x with dt := { held := true, treeId := x.fr.heldId } } with recDirty := true } : Dev);
  let c2 := (c1.undoTree k.val).modTree k.val fun x =>
                          { x with pitches := x.pitches.map fun p => if p.phase == 0 then { p with opened := false } else p };
  (x.cfg.configured = true) ∧ (x.fr.tfl = true) ∧ (d.noticeStream k.val n = some (parcel, key, blocks)) ∧ (x.ex.nextBlock parcel key = some n.off) ∧ (n.off < blocks) ∧ (n.hdr.ok = true) ∧ (blockChk h = fld 16 0 h) ∧ (parcel = false ∨ nType h ≠ 0) ∧ (n.off + 2 + nBody h ≤ blocks) ∧ (n.trailer = some tr) ∧ (1 ≤ nType h) ∧ (nType h ≤ 15) ∧ (f.addressed k.val h n.body = true) ∧ (good) ∧ (nAuth h = false) ∧ (sum) ∧ (nType h ≠ 5) ∧ (nType h = 1 → x.fr.dup = false) ∧ (stateAllows (nType h) (nAddr h) false x.join.st = true) ∧ (nType h = 0x0C) ∧ ((nParam h).getLsbD 0 = true) ∧ (rep = false)) := by decide +kernel

theorem witness_NoticesComplete_20 :
    (let s : State := wit (fun d => d.modTree 63 fun x => { x with cfg := { x.cfg with configured := true, size := 1, laneMap := [(0, 253)] }, fr := { x.fr with tfl := true, laneCount := 1 }, join := { x.join with st := 1, leaf := some 0 }, ex := { x.ex with last := [(12, some { nseq := 0, v := 0 })] } });
  let t : Nat := 0;
  let k : Fin 64 := 63;
  let d := s.dev.begin t;
  let x := d.tree k.val;
  let n : NoticeIn := (noteIn 12 0 false true : NoticeIn);
  let draw : Nat := 0;
  let h := n.hdr.pl;
  let v := x.fr.fc / 2 ^ 32 * 2 ^ 32 + nSeq h;
  let run := Completes (.noticeReceived t k n draw) s;
  let parcel := false;
  let key := 0;
  let blocks := 2;
  let at_ := fun next => d.modTree k.val fun x =>
          let c : NoticeCur := { key := key, next := next }
          { x with ex := if parcel then { x.ex with curParcel := some c } else { x.ex with curList := some c } };
  let tr := ((noteIn 12 0 false true).rest.getLastD { ctl := true, pl := 0 });
  let f := at_ (n.off + 2 + nBody h);
  let good := bodyOk (nType h) (nAddr h) ((nParam h).toNat % 4) (nBody h) = true ∧ (∀ b ∈ n.body, b.ok = true) ∧ tr.ok = true;
  let sum := crc32Blocks (h :: n.body.map (·.pl)) = fld 32 0 tr.pl;
  let rep := ((x.ex.last.get none (nType h)).map fun l => l.nseq == nSeq h).getD false;
  let q : NoticeQ :=
                      { ntype := nType h, param := nParam h, nseq := nSeq h, auth := false, body := n.body.map (·.pl), at_ := d.now
                        frame := x.fr.fc, dup := rep };
  let g := (if rep then f else f.modTree k.val fun x =>
                      { x with ex := { x.ex with last := x.ex.last.set none (nType h) (some { nseq := nSeq h, v := v }) } }).joinLog k.val
                        (nType h) (nSeq h) 0;
  let y := g.tree k.val;
  (x.cfg.configured = true) ∧ (x.fr.tfl = true) ∧ (d.noticeStream k.val n = some (parcel, key, blocks)) ∧ (x.ex.nextBlock parcel key = some n.off) ∧ (n.off < blocks) ∧ (n.hdr.ok = true) ∧ (blockChk h = fld 16 0 h) ∧ (parcel = false ∨ nType h ≠ 0) ∧ (n.off + 2 + nBody h ≤ blocks) ∧ (n.trailer = some tr) ∧ (1 ≤ nType h) ∧ (nType h ≤ 15) ∧ (f.addressed k.val h n.body = true) ∧ (good) ∧ (nAuth h = false) ∧ (sum) ∧ (nType h ≠ 5) ∧ (nType h = 1 → x.fr.dup = false) ∧ (stateAllows (nType h) (nAddr h) false x.join.st = true) ∧ (nType h = 0x0C) ∧ ((nParam h).getLsbD 0 = false) ∧ (rep = true)) := by decide +kernel

theorem witness_NoticesComplete_21 :
    (let s : State := wit (fun d => d.modTree 63 fun x => { x with cfg := { x.cfg with configured := true, size := 1, laneMap := [(0, 253)] }, fr := { x.fr with tfl := true, laneCount := 1 }, join := { x.join with st := 1, leaf := some 0 }, dt := { held := true } });
  let t : Nat := 0;
  let k : Fin 64 := 63;
  let d := s.dev.begin t;
  let x := d.tree k.val;
  let n : NoticeIn := (noteIn 12 0 false true : NoticeIn);
  let draw : Nat := 0;
  let h := n.hdr.pl;
  let v := x.fr.fc / 2 ^ 32 * 2 ^ 32 + nSeq h;
  let run := Completes (.noticeReceived t k n draw) s;
  let parcel := false;
  let key := 0;
  let blocks := 2;
  let at_ := fun next => d.modTree k.val fun x =>
          let c : NoticeCur := { key := key, next := next }
          { x with ex := if parcel then { x.ex with curParcel := some c } else { x.ex with curList := some c } };
  let tr := ((noteIn 12 0 false true).rest.getLastD { ctl := true, pl := 0 });
  let f := at_ (n.off + 2 + nBody h);
  let good := bodyOk (nType h) (nAddr h) ((nParam h).toNat % 4) (nBody h) = true ∧ (∀ b ∈ n.body, b.ok = true) ∧ tr.ok = true;
  let sum := crc32Blocks (h :: n.body.map (·.pl)) = fld 32 0 tr.pl;
  let rep := ((x.ex.last.get none (nType h)).map fun l => l.nseq == nSeq h).getD false;
  let q : NoticeQ :=
                      { ntype := nType h, param := nParam h, nseq := nSeq h, auth := false, body := n.body.map (·.pl), at_ := d.now
                        frame := x.fr.fc, dup := rep };
  let g := (if rep then f else f.modTree k.val fun x =>
                      { x with ex := { x.ex with last := x.ex.last.set none (nType h) (some { nseq := nSeq h, v := v }) } }).joinLog k.val
                        (nType h) (nSeq h) 0;
  let y := g.tree k.val;
  let c := ({ (g.commitDue k.val).modTree k.val fun x => { x with dt := {} } with recDirty := true } : Dev);
  (x.cfg.configured = true) ∧ (x.fr.tfl = true) ∧ (d.noticeStream k.val n = some (parcel, key, blocks)) ∧ (x.ex.nextBlock parcel key = some n.off) ∧ (n.off < blocks) ∧ (n.hdr.ok = true) ∧ (blockChk h = fld 16 0 h) ∧ (parcel = false ∨ nType h ≠ 0) ∧ (n.off + 2 + nBody h ≤ blocks) ∧ (n.trailer = some tr) ∧ (1 ≤ nType h) ∧ (nType h ≤ 15) ∧ (f.addressed k.val h n.body = true) ∧ (good) ∧ (nAuth h = false) ∧ (sum) ∧ (nType h ≠ 5) ∧ (nType h = 1 → x.fr.dup = false) ∧ (stateAllows (nType h) (nAddr h) false x.join.st = true) ∧ (nType h = 0x0C) ∧ ((nParam h).getLsbD 0 = false) ∧ (rep = false) ∧ (y.dt.held = true) ∧ (y.fr.heldId = y.dt.treeId)) := by decide +kernel

theorem witness_NoticesComplete_22 :
    (let s : State := wit (fun d => d.modTree 63 fun x => { x with cfg := { x.cfg with configured := true, size := 1, laneMap := [(0, 253)] }, fr := { x.fr with tfl := true, laneCount := 1 }, join := { x.join with st := 1, leaf := some 0 } });
  let t : Nat := 0;
  let k : Fin 64 := 63;
  let d := s.dev.begin t;
  let x := d.tree k.val;
  let n : NoticeIn := (noteIn 12 0 false true : NoticeIn);
  let draw : Nat := 0;
  let h := n.hdr.pl;
  let v := x.fr.fc / 2 ^ 32 * 2 ^ 32 + nSeq h;
  let run := Completes (.noticeReceived t k n draw) s;
  let parcel := false;
  let key := 0;
  let blocks := 2;
  let at_ := fun next => d.modTree k.val fun x =>
          let c : NoticeCur := { key := key, next := next }
          { x with ex := if parcel then { x.ex with curParcel := some c } else { x.ex with curList := some c } };
  let tr := ((noteIn 12 0 false true).rest.getLastD { ctl := true, pl := 0 });
  let f := at_ (n.off + 2 + nBody h);
  let good := bodyOk (nType h) (nAddr h) ((nParam h).toNat % 4) (nBody h) = true ∧ (∀ b ∈ n.body, b.ok = true) ∧ tr.ok = true;
  let sum := crc32Blocks (h :: n.body.map (·.pl)) = fld 32 0 tr.pl;
  let rep := ((x.ex.last.get none (nType h)).map fun l => l.nseq == nSeq h).getD false;
  let q : NoticeQ :=
                      { ntype := nType h, param := nParam h, nseq := nSeq h, auth := false, body := n.body.map (·.pl), at_ := d.now
                        frame := x.fr.fc, dup := rep };
  let g := (if rep then f else f.modTree k.val fun x =>
                      { x with ex := { x.ex with last := x.ex.last.set none (nType h) (some { nseq := nSeq h, v := v }) } }).joinLog k.val
                        (nType h) (nSeq h) 0;
  let y := g.tree k.val;
  (x.cfg.configured = true) ∧ (x.fr.tfl = true) ∧ (d.noticeStream k.val n = some (parcel, key, blocks)) ∧ (x.ex.nextBlock parcel key = some n.off) ∧ (n.off < blocks) ∧ (n.hdr.ok = true) ∧ (blockChk h = fld 16 0 h) ∧ (parcel = false ∨ nType h ≠ 0) ∧ (n.off + 2 + nBody h ≤ blocks) ∧ (n.trailer = some tr) ∧ (1 ≤ nType h) ∧ (nType h ≤ 15) ∧ (f.addressed k.val h n.body = true) ∧ (good) ∧ (nAuth h = false) ∧ (sum) ∧ (nType h ≠ 5) ∧ (nType h = 1 → x.fr.dup = false) ∧ (stateAllows (nType h) (nAddr h) false x.join.st = true) ∧ (nType h = 0x0C) ∧ ((nParam h).getLsbD 0 = false) ∧ (rep = false) ∧ (y.dt.held = false ∨ y.fr.heldId ≠ y.dt.treeId)) := by decide +kernel

theorem witness_NoticesComplete_23 :
    (let s : State := wit (fun d => d.modTree 63 fun x => { x with ex := { x.ex with queue := [{ ntype := 1, param := 0, nseq := 4, auth := true, body := [], at_ := 0, frame := 0 }] } });
  let t : Nat := 0;
  let k : Fin 64 := 63;
  let d := s.dev.begin t;
  let x := d.tree k.val;
  let q := ({ ntype := 1, param := 0, nseq := 4, auth := true, body := [], at_ := 0, frame := 0 } : NoticeQ);
  let rest := ([] : List NoticeQ);
  let e := d.modTree k.val fun x => { x with ex := { x.ex with queue := rest } };
  (x.ex.queue = q :: rest) ∧ (q.dup = false) ∧ (x.ex.busy = false) ∧ (q.ntype = 0x01)) := by decide +kernel

theorem witness_NoticesComplete_24 :
    (let s : State := wit (fun d => d.modTree 63 fun x => { x with ex := { x.ex with queue := [{ ntype := 2, param := 0, nseq := 4, auth := true, body := [], at_ := 0, frame := 0 }] } });
  let t : Nat := 0;
  let k : Fin 64 := 63;
  let d := s.dev.begin t;
  let x := d.tree k.val;
  let q := ({ ntype := 2, param := 0, nseq := 4, auth := true, body := [], at_ := 0, frame := 0 } : NoticeQ);
  let rest := ([] : List NoticeQ);
  let e := d.modTree k.val fun x => { x with ex := { x.ex with queue := rest } };
  (x.ex.queue = q :: rest) ∧ (q.dup = false) ∧ (x.ex.busy = false) ∧ (q.ntype = 0x02)) := by decide +kernel

theorem witness_NoticesComplete_25 :
    (let s : State := wit (fun d => d.modTree 63 fun x => { x with ex := { x.ex with queue := [{ ntype := 3, param := 0, nseq := 4, auth := true, body := [], at_ := 0, frame := 0 }] } });
  let t : Nat := 0;
  let k : Fin 64 := 63;
  let d := s.dev.begin t;
  let x := d.tree k.val;
  let q := ({ ntype := 3, param := 0, nseq := 4, auth := true, body := [], at_ := 0, frame := 0 } : NoticeQ);
  let rest := ([] : List NoticeQ);
  let e := d.modTree k.val fun x => { x with ex := { x.ex with queue := rest } };
  (x.ex.queue = q :: rest) ∧ (q.dup = false) ∧ (x.ex.busy = false) ∧ (q.ntype = 0x03)) := by decide +kernel

theorem witness_NoticesComplete_26 :
    (let s : State := wit (fun d => d.modTree 63 fun x => { x with ex := { x.ex with queue := [{ ntype := 4, param := 0, nseq := 4, auth := true, body := [], at_ := 0, frame := 0 }] } });
  let t : Nat := 0;
  let k : Fin 64 := 63;
  let d := s.dev.begin t;
  let x := d.tree k.val;
  let q := ({ ntype := 4, param := 0, nseq := 4, auth := true, body := [], at_ := 0, frame := 0 } : NoticeQ);
  let rest := ([] : List NoticeQ);
  let e := d.modTree k.val fun x => { x with ex := { x.ex with queue := rest } };
  (x.ex.queue = q :: rest) ∧ (q.dup = false) ∧ (x.ex.busy = false) ∧ (q.ntype = 0x04)) := by decide +kernel

theorem witness_NoticesComplete_27 :
    (let s : State := wit (fun d => d.modTree 63 fun x => { x with ex := { x.ex with queue := [{ ntype := 5, param := 0, nseq := 4, auth := true, body := [], at_ := 0, frame := 0 }] } });
  let t : Nat := 0;
  let k : Fin 64 := 63;
  let d := s.dev.begin t;
  let x := d.tree k.val;
  let q := ({ ntype := 5, param := 0, nseq := 4, auth := true, body := [], at_ := 0, frame := 0 } : NoticeQ);
  let rest := ([] : List NoticeQ);
  let e := d.modTree k.val fun x => { x with ex := { x.ex with queue := rest } };
  let certs := ([] : List CertView);
  (x.ex.queue = q :: rest) ∧ (q.dup = false) ∧ (x.ex.busy = false) ∧ (q.ntype = 0x05) ∧ (q.param.toNat % 4 = 0)) := by decide +kernel

theorem witness_NoticesComplete_28 :
    (let s : State := wit (fun d => d.modTree 63 fun x => { x with ex := { x.ex with queue := [{ ntype := 5, param := 1, nseq := 4, auth := true, body := [], at_ := 0, frame := 0 }] } });
  let t : Nat := 0;
  let k : Fin 64 := 63;
  let d := s.dev.begin t;
  let x := d.tree k.val;
  let q := ({ ntype := 5, param := 1, nseq := 4, auth := true, body := [], at_ := 0, frame := 0 } : NoticeQ);
  let rest := ([] : List NoticeQ);
  let e := d.modTree k.val fun x => { x with ex := { x.ex with queue := rest } };
  (x.ex.queue = q :: rest) ∧ (q.dup = false) ∧ (x.ex.busy = false) ∧ (q.ntype = 0x05) ∧ (q.param.toNat % 4 = 1)) := by decide +kernel

theorem witness_NoticesComplete_29 :
    (let s : State := wit (fun d => d.modTree 63 fun x => { x with ex := { x.ex with queue := [{ ntype := 5, param := 2, nseq := 4, auth := true, body := [], at_ := 0, frame := 0 }] } });
  let t : Nat := 0;
  let k : Fin 64 := 63;
  let d := s.dev.begin t;
  let x := d.tree k.val;
  let q := ({ ntype := 5, param := 2, nseq := 4, auth := true, body := [], at_ := 0, frame := 0 } : NoticeQ);
  let rest := ([] : List NoticeQ);
  let e := d.modTree k.val fun x => { x with ex := { x.ex with queue := rest } };
  (x.ex.queue = q :: rest) ∧ (q.dup = false) ∧ (x.ex.busy = false) ∧ (q.ntype = 0x05) ∧ (q.param.toNat % 4 = 2)) := by decide +kernel

theorem witness_NoticesComplete_30 :
    (let s : State := wit (fun d => d.modTree 63 fun x => { x with ex := { x.ex with queue := [{ ntype := 6, param := 0, nseq := 4, auth := true, body := [], at_ := 0, frame := 0 }] } });
  let t : Nat := 0;
  let k : Fin 64 := 63;
  let d := s.dev.begin t;
  let x := d.tree k.val;
  let q := ({ ntype := 6, param := 0, nseq := 4, auth := true, body := [], at_ := 0, frame := 0 } : NoticeQ);
  let rest := ([] : List NoticeQ);
  let e := d.modTree k.val fun x => { x with ex := { x.ex with queue := rest } };
  (x.ex.queue = q :: rest) ∧ (q.dup = false) ∧ (x.ex.busy = false) ∧ (q.ntype = 0x06)) := by decide +kernel

theorem witness_NoticesComplete_31 :
    (let s : State := wit (fun d => d.modTree 63 fun x => { x with ex := { x.ex with queue := [{ ntype := 7, param := 0, nseq := 4, auth := true, body := [], at_ := 0, frame := 0 }] } });
  let t : Nat := 0;
  let k : Fin 64 := 63;
  let d := s.dev.begin t;
  let x := d.tree k.val;
  let q := ({ ntype := 7, param := 0, nseq := 4, auth := true, body := [], at_ := 0, frame := 0 } : NoticeQ);
  let rest := ([] : List NoticeQ);
  let e := d.modTree k.val fun x => { x with ex := { x.ex with queue := rest } };
  (x.ex.queue = q :: rest) ∧ (q.dup = false) ∧ (x.ex.busy = false) ∧ (q.ntype = 0x07)) := by decide +kernel

theorem witness_NoticesComplete_32 :
    (let s : State := wit (fun d => d.modTree 63 fun x => { x with ex := { x.ex with queue := [{ ntype := 8, param := 0, nseq := 4, auth := true, body := [], at_ := 0, frame := 0 }] } });
  let t : Nat := 0;
  let k : Fin 64 := 63;
  let d := s.dev.begin t;
  let x := d.tree k.val;
  let q := ({ ntype := 8, param := 0, nseq := 4, auth := true, body := [], at_ := 0, frame := 0 } : NoticeQ);
  let rest := ([] : List NoticeQ);
  let e := d.modTree k.val fun x => { x with ex := { x.ex with queue := rest } };
  (x.ex.queue = q :: rest) ∧ (q.dup = false) ∧ (x.ex.busy = false) ∧ (q.ntype = 0x08)) := by decide +kernel

theorem witness_NoticesComplete_33 :
    (let s : State := wit (fun d => d.modTree 63 fun x => { x with ex := { x.ex with queue := [{ ntype := 10, param := 0, nseq := 4, auth := true, body := [], at_ := 0, frame := 0 }] } });
  let t : Nat := 0;
  let k : Fin 64 := 63;
  let d := s.dev.begin t;
  let x := d.tree k.val;
  let q := ({ ntype := 10, param := 0, nseq := 4, auth := true, body := [], at_ := 0, frame := 0 } : NoticeQ);
  let rest := ([] : List NoticeQ);
  let e := d.modTree k.val fun x => { x with ex := { x.ex with queue := rest } };
  (x.ex.queue = q :: rest) ∧ (q.dup = false) ∧ (x.ex.busy = false) ∧ (q.ntype = 0x0A)) := by decide +kernel

theorem witness_NoticesComplete_34 :
    (let s : State := wit (fun d => d.modTree 63 fun x => { x with ex := { x.ex with queue := [{ ntype := 11, param := 0, nseq := 4, auth := true, body := [], at_ := 0, frame := 0 }] } });
  let t : Nat := 0;
  let k : Fin 64 := 63;
  let d := s.dev.begin t;
  let x := d.tree k.val;
  let q := ({ ntype := 11, param := 0, nseq := 4, auth := true, body := [], at_ := 0, frame := 0 } : NoticeQ);
  let rest := ([] : List NoticeQ);
  let e := d.modTree k.val fun x => { x with ex := { x.ex with queue := rest } };
  (x.ex.queue = q :: rest) ∧ (q.dup = false) ∧ (x.ex.busy = false) ∧ (q.ntype = 0x0B)) := by decide +kernel

theorem witness_NoticesComplete_35 :
    (let s : State := wit (fun d => d.modTree 63 fun x => { x with ex := { x.ex with queue := [{ ntype := 13, param := 0, nseq := 4, auth := true, body := [], at_ := 0, frame := 0 }] } });
  let t : Nat := 0;
  let k : Fin 64 := 63;
  let d := s.dev.begin t;
  let x := d.tree k.val;
  let q := ({ ntype := 13, param := 0, nseq := 4, auth := true, body := [], at_ := 0, frame := 0 } : NoticeQ);
  let rest := ([] : List NoticeQ);
  let e := d.modTree k.val fun x => { x with ex := { x.ex with queue := rest } };
  let draw := 0;
  (x.ex.queue = q :: rest) ∧ (q.dup = false) ∧ (x.ex.busy = false) ∧ (q.ntype = 0x0D)) := by decide +kernel

theorem witness_NoticesComplete_36 :
    (let s : State := wit (fun d => d.modTree 63 fun x => { x with ex := { x.ex with queue := [{ ntype := 14, param := 0, nseq := 4, auth := true, body := [], at_ := 0, frame := 0 }] } });
  let t : Nat := 0;
  let k : Fin 64 := 63;
  let d := s.dev.begin t;
  let x := d.tree k.val;
  let q := ({ ntype := 14, param := 0, nseq := 4, auth := true, body := [], at_ := 0, frame := 0 } : NoticeQ);
  let rest := ([] : List NoticeQ);
  let e := d.modTree k.val fun x => { x with ex := { x.ex with queue := rest } };
  (x.ex.queue = q :: rest) ∧ (q.dup = false) ∧ (x.ex.busy = false) ∧ (q.ntype = 0x0E)) := by decide +kernel

theorem witness_NoticesComplete_37 :
    (let s : State := wit (fun d => d.modTree 63 fun x => { x with ex := { x.ex with queue := [{ ntype := 15, param := 0, nseq := 4, auth := true, body := [], at_ := 0, frame := 0 }] } });
  let t : Nat := 0;
  let k : Fin 64 := 63;
  let d := s.dev.begin t;
  let x := d.tree k.val;
  let q := ({ ntype := 15, param := 0, nseq := 4, auth := true, body := [], at_ := 0, frame := 0 } : NoticeQ);
  let rest := ([] : List NoticeQ);
  let e := d.modTree k.val fun x => { x with ex := { x.ex with queue := rest } };
  (x.ex.queue = q :: rest) ∧ (q.dup = false) ∧ (x.ex.busy = false) ∧ (q.ntype = 0x0F) ∧ ((b0 q).getLsbD 91 = false)) := by decide +kernel

theorem witness_NoticesComplete_38 :
    (let s : State := wit (fun d => d.modTree 63 fun x => { x with ex := { x.ex with queue := [{ ntype := 15, param := 0, nseq := 4, auth := true, body := [put 128 91 1#1], at_ := 0, frame := 0 }] } });
  let t : Nat := 0;
  let k : Fin 64 := 63;
  let d := s.dev.begin t;
  let x := d.tree k.val;
  let q := ({ ntype := 15, param := 0, nseq := 4, auth := true, body := [put 128 91 1#1], at_ := 0, frame := 0 } : NoticeQ);
  let rest := ([] : List NoticeQ);
  let e := d.modTree k.val fun x => { x with ex := { x.ex with queue := rest } };
  (x.ex.queue = q :: rest) ∧ (q.dup = false) ∧ (x.ex.busy = false) ∧ (q.ntype = 0x0F) ∧ ((b0 q).getLsbD 91 = true)) := by decide +kernel

end Sys2Proof.Tests
end

section
/-! The blocks of an upstream burst: HEADROOM in report B (R123, R124) and the end-of-burst block (R125). -/

namespace Sys2Proof

/-! ### HEADROOM (R124, Table 4.8) -/

theorem Dev.headroom_suspended {d : Dev} (n : Nat) (h : d.pwr.suspended = true) : d.headroom n = 15 := by
  simp [Dev.headroom, h]

theorem Dev.headroom_running {d : Dev} (n : Nat) (h : d.pwr.suspended = false) : d.headroom n = 15 - 15 * d.eNumOf n / 64 := by
  simp [Dev.headroom, h]

/-- The E-scale is E_NUM / 64, so that the floor of R124 is the division of 15 × E_NUM by 64. -/
theorem floor_fifteen_escale (e : Nat) : ⌊15 * ((e : ℚ) / 64)⌋ = ((15 * e / 64 : ℕ) : ℤ) := by
  have h := Rat.floor_natCast_div_natCast (15 * e) 64
  push_cast at h ⊢
  rw [← mul_div_assoc, h]

theorem Dev.headroom_eq_floor {d : Dev} {n : Nat} (hs : d.pwr.suspended = false) (he : d.eNumOf n ≤ 64) :
    (d.headroom n : ℤ) = 15 - ⌊15 * ((d.eNumOf n : ℚ) / 64)⌋ := by
  rw [floor_fifteen_escale, d.headroom_running n hs]
  omega

/-- The rows of Table 4.8. -/
theorem Dev.headroom_ranges {d : Dev} {n : Nat} (hs : d.pwr.suspended = false) (he : d.eNumOf n ≤ 64) :
    (d.headroom n = 0 ↔ d.eNumOf n = 64) ∧ (1 ≤ d.headroom n ∧ d.headroom n ≤ 7 ↔ 35 ≤ d.eNumOf n ∧ d.eNumOf n ≤ 63) ∧
      (8 ≤ d.headroom n ∧ d.headroom n ≤ 14 ↔ 5 ≤ d.eNumOf n ∧ d.eNumOf n ≤ 34) ∧ (d.headroom n = 15 ↔ d.eNumOf n ≤ 4) := by
  rw [d.headroom_running n hs]
  refine ⟨?_, ?_, ?_, ?_⟩ <;> omega

/-! ### The reports and the end-of-burst block (Table 4.7, R125) -/

theorem reportBlocks_carry_headroom (q : Nat → Nat) (headroom displaced rewound late : Nat) :
    ∃ a b : Block, reportBlocks q headroom displaced rewound late = [a, b] ∧
      fld 8 120 b = 0x84#8 ∧ fld 4 76 b = BitVec.ofNat 4 headroom := by
  refine ⟨_, _, rfl, ?type, ?headroom⟩
  case type =>
    simp (disch := omega) only [fld_or, fld_put_same, fld_put_apart, fld_low, BitVec.or_zero]
    rfl
  case headroom =>
    simp (disch := omega) only [fld_or, fld_put_same, fld_put_apart, fld_low, BitVec.or_zero, BitVec.zero_or]

theorem fld_endBlock {w lo : Nat} (parcels : Nat) (h : 16 ≤ lo) (h' : lo + w ≤ 128) :
    fld w lo (endBlock parcels) =
      fld w lo (put 128 120 (0x8F : BitVec 8)) ||| fld w lo (put 128 100 (BitVec.ofNat 20 parcels)) := by
  rw [endBlock, fld_withChk w lo _ h h', fld_or]

theorem endBlock_type (parcels : Nat) : fld 8 120 (endBlock parcels) = 0x8F#8 := by
  simp (disch := omega) only [fld_endBlock, fld_put_same, fld_put_apart, BitVec.or_zero]
  rfl

theorem endBlock_parcels (parcels : Nat) : fld 20 100 (endBlock parcels) = BitVec.ofNat 20 parcels := by
  simp (disch := omega) only [fld_endBlock, fld_put_same, fld_put_apart, BitVec.zero_or]

theorem endBlock_reserved (parcels : Nat) : fld 84 16 (endBlock parcels) = 0#84 := by
  simp (disch := omega) only [fld_endBlock, fld_put_apart, BitVec.or_zero]

theorem endBlock_verifies (parcels : Nat) : fld 16 0 (endBlock parcels) = blockChk (endBlock parcels) := by
  rw [endBlock, fld_check, blockChk_withChk]

/-! ### The blocks of a burst (R122) -/

theorem Dev.burstBlocks_getLast? (d : Dev) (k parcels : Nat) (p : Pitch) :
    (d.burstBlocks k p parcels).getLast? = some (endBlock parcels) :=
  List.getLast?_concat

/-- The shape of a burst: each lane's header and identifier, the same two reports on every lane, and the end-of-burst block. -/
theorem Dev.burstBlocks_shape (d : Dev) (k parcels : Nat) (p : Pitch) :
    ∃ (header laneId : Nat → Block) (q : Nat → Nat) (displaced rewound late : Nat),
      d.burstBlocks k p parcels = (((d.tree k).namedLanes p).flatMap fun i =>
        [header i, laneId i] ++ reportBlocks q (d.headroom (sliceOfTree k)) displaced rewound late) ++ [endBlock parcels] :=
  ⟨_, _, _, _, _, _, rfl⟩

theorem Dev.burstBlocks_lane_reports (d : Dev) (k parcels : Nat) (p : Pitch) :
    ∃ a b : Block, fld 8 120 b = 0x84#8 ∧ fld 4 76 b = BitVec.ofNat 4 (d.headroom (sliceOfTree k)) ∧
      ∀ i ∈ (d.tree k).namedLanes p, ∃ h id, [h, id, a, b] <:+: d.burstBlocks k p parcels := by
  obtain ⟨header, laneId, q, displaced, rewound, late, hburst⟩ := d.burstBlocks_shape k parcels p
  obtain ⟨a, b, hreports, htype, hhead⟩ := reportBlocks_carry_headroom q (d.headroom (sliceOfTree k)) displaced rewound late
  refine ⟨a, b, htype, hhead, fun i hi => ⟨header i, laneId i, ?_⟩⟩
  rw [hburst, hreports, List.flatMap_def]
  have hlane := List.infix_of_mem_flatten (List.mem_map_of_mem (f := fun i => [header i, laneId i] ++ [a, b]) hi)
  exact hlane.trans (List.prefix_append _ _).isInfix

/-- Settles O22: the floor of R124 in whole numbers, and report B of every lane read field by field. -/
theorem headroomFollowsTheEScale : Obligations.HeadroomFollowsTheEScale := by
  intro d n he
  refine ⟨d.headroom_suspended n, fun hs => ⟨d.headroom_eq_floor hs he, d.headroom_ranges hs he⟩, ?_⟩
  rintro k parcels p rfl
  exact d.burstBlocks_lane_reports k parcels p

/-- Settles O25: the fields of the end-of-burst block one by one, its check, and its place at the end of every burst. -/
theorem endOfBurstBlockLayout : Obligations.EndOfBurstBlockLayout :=
  ⟨fun parcels => ⟨endBlock_type parcels, endBlock_parcels parcels, endBlock_reserved parcels, endBlock_verifies parcels⟩,
    Dev.burstBlocks_getLast?⟩

end Sys2Proof
end

section
/-! The entries of a Pitch list while the tree has no leaf number (R95, R154, R155). -/

namespace Sys2Proof

open Machine

theorem Machine.completes_pitchListEntry {t : Nat} {k : Fin 64} {hdr blk : RxBlock} {s : State} {e : Dev}
    (h : (s.dev.begin t).listEntry k.val hdr blk = e) : Completes (.pitchListEntry t k hdr blk) s e :=
  h ▸ rfl

theorem Pitch.reserved_of_announce {p : Pitch} (h : p.aid = Config.aidAnnounce) : p.reserved = true := by
  rw [Pitch.reserved, h]
  decide

theorem Tree.usesReserved_announce {x : Tree} (h : x.join.leaf = none) : x.usesReserved Config.aidAnnounce = true := by
  simp [Tree.usesReserved, h]

theorem ble_eq_false_of_lt {m n : Nat} (h : m < n) : Nat.ble n m = false := by
  rw [← Bool.not_eq_true, Nat.ble_eq]
  omega

/-! An entry is due in the list of a tree in tree frame lock that has no leaf number. -/
section
variable {d : Dev} {k n m : Nat} {hdr blk : RxBlock}
  (hcfg : (d.tree k).cfg.configured = true) (htfl : (d.tree k).fr.tfl = true) (hhdr : d.listHeader k hdr = some (n, m))
  (hseen : (d.tree k).fr.listSeen < n) (hleaf : (d.tree k).join.leaf = none)
include hcfg htfl hhdr hseen hleaf

/-- R155: an entry of another AID is ignored and not counted, whether its own check holds or not. -/
theorem Dev.listEntry_of_not_announce (haid : fld 20 108 blk.pl ≠ Config.aidAnnounce) :
    d.listEntry k hdr blk = d.modTree k fun x => { x with fr := { x.fr with listSeen := x.fr.listSeen + 1 } } := by
  have hdue := ble_eq_false_of_lt hseen
  by_cases hbad : (blk.unc || blk.ctl || blockChk blk.pl != fld 16 0 blk.pl) = true
  · simp [Dev.listEntry, hcfg, htfl, hhdr, hdue, hleaf, hbad]
  · simp [Dev.listEntry, hcfg, htfl, hhdr, hdue, hleaf, hbad, pitchOf, haid]

/-- R154, R155: an announcement window is one the tree uses; its check, its form and its PITCH_ID are all that is asked of it. -/
theorem Dev.listEntry_of_announce {p : Pitch} (hp : pitchOf blk.pl ((d.tree k).fr.fc + 2) = p) (haid : p.aid = Config.aidAnnounce)
    (hunc : blk.unc = false) (hctl : blk.ctl = false) (hchk : blockChk blk.pl = fld 16 0 blk.pl)
    (hform : p.malformed = false) (hnew : p.pid ∉ (d.tree k).fr.listIds) :
    d.listEntry k hdr blk =
      ((d.modTree k fun x => { x with fr := { x.fr with listSeen := x.fr.listSeen + 1 } }).modTree k fun x =>
        { x with fr := { x.fr with listIds := x.fr.listIds ++ [p.pid] } }).modTree k fun x =>
          { x with fr := { x.fr with listNew := x.fr.listNew ++ [p] } } := by
  have hdue := ble_eq_false_of_lt hseen
  have hres := Pitch.reserved_of_announce haid
  have huses := Tree.usesReserved_announce hleaf
  simp [Dev.listEntry, hcfg, htfl, hhdr, hdue, hleaf, hp, haid, hunc, hctl, hchk, hres, huses, hform, hnew]

end

/-- Settles O11: without a leaf number the AID alone decides whether an entry is considered. -/
theorem noLeafConsidersAnnouncementsOnly : Obligations.NoLeafConsidersAnnouncementsOnly := by
  intro s t k hdr blk n m d x hcfg htfl hhdr hseen hleaf c
  have hdue : x.fr.listSeen < n + 1 := Nat.lt_succ_of_le hseen
  constructor
  · intro haid
    exact completes_pitchListEntry (Dev.listEntry_of_not_announce hcfg htfl hhdr hdue hleaf haid)
  · intro haid hunc hctl hchk p hform hnew e
    have hfresh : p.pid ∉ x.fr.listIds := by simpa using hnew
    exact completes_pitchListEntry (Dev.listEntry_of_announce hcfg htfl hhdr hdue hleaf rfl haid hunc hctl hchk hform hfresh)

end Sys2Proof
end

section
/-! The places of the packet buffers in the memory stacks (Table 11.1, R311, R312). -/

namespace Sys2Proof

theorem poolSize_eq_getD : ∀ p < 6, Config.poolSize p = [256, 640, 1280, 2560, 5120, 10240].getD p 0 := by decide

theorem poolOffset_eq_getD :
    ∀ p < 6, poolOffset p = [0x0, 0x5800000, 0x13000000, 0x2E000000, 0x63800000, 0xCE800000].getD p 0 := by decide

/-- The 349,526 buffers a pool has in L0 end before the share of every pool above it. -/
theorem poolShare_le_poolOffset : ∀ q < 6, ∀ p < q, poolOffset p + 349526 * Config.poolSize p ≤ poolOffset q := by decide

theorem poolShare_le_rankBytes : ∀ p < 6, poolOffset p + 349526 * Config.poolSize p ≤ rankBytes := by decide

theorem div_three_lt_of_lt_poolBuffers {i : Nat} (hi : i < Config.poolBuffers) : i / 3 < 349526 := by
  rw [Config.poolBuffers] at hi
  omega

/-- Byte r of the j-th buffer of a pool in a rank lies in the pool's share. -/
theorem poolByte_lt_poolShare {p j r : Nat} (hj : j < 349526) (hr : r < Config.poolSize p) :
    poolOffset p + (j * Config.poolSize p + r) < poolOffset p + 349526 * Config.poolSize p := by
  have hbuf : (j + 1) * Config.poolSize p ≤ 349526 * Config.poolSize p := Nat.mul_le_mul_right _ hj
  rw [Nat.succ_mul] at hbuf
  omega

theorem pools_split : ∀ p < 6, [5, 4, 3, 2, 1, 0] = (List.range' (p + 1) (5 - p)).reverse ++ p :: (List.range p).reverse := by
  decide

/-- The search of `bufferAt` from the highest pool down stops at the pool whose share begins last at or below the offset. -/
theorem find_pool_of_offset {p off : Nat} (hp : p < 6) (hle : poolOffset p ≤ off) (hlt : ∀ q < 6, p < q → off < poolOffset q) :
    [5, 4, 3, 2, 1, 0].find? (fun q => decide (poolOffset q ≤ off)) = some p := by
  refine List.find?_eq_some_iff_append.mpr ⟨decide_eq_true hle, _, _, pools_split p hp, fun q hq => ?_⟩
  have habove : p < q ∧ q < 6 := by
    rw [List.mem_reverse, List.mem_range'_1] at hq
    omega
  simpa using hlt q habove.2 habove.1

/-- R312 read backwards: byte r of the buffer's space leads to its pool and its index. -/
theorem bufferAt_bufferAddr_add {p i r : Nat} (hp : p < 6) (hi : i < Config.poolBuffers) (hr : r < Config.poolSize p) :
    bufferAt (bufferAddr p i + r) = some (p, i) := by
  have hshare := poolByte_lt_poolShare (div_three_lt_of_lt_poolBuffers hi) hr
  have hrank := hshare.trans_le (poolShare_le_rankBytes p hp)
  have hpool := find_pool_of_offset hp (Nat.le_add_right _ _) fun q hq hpq => hshare.trans_le (poolShare_le_poolOffset q hq p hpq)
  have haddr : bufferAddr p i + r = poolOffset p + (i / 3 * Config.poolSize p + r) + i % 3 * rankBytes := by
    rw [bufferAddr]
    omega
  have hoff : (bufferAddr p i + r) % rankBytes = poolOffset p + (i / 3 * Config.poolSize p + r) := by
    rw [haddr, Nat.add_mul_mod_self_right, Nat.mod_eq_of_lt hrank]
  have hlog : logicalOf (bufferAddr p i + r) = i % 3 := by
    rw [logicalOf, haddr, Nat.add_mul_div_right _ _ (by decide), Nat.div_eq_of_lt hrank, Nat.zero_add]
  have hbuf : (i / 3 * Config.poolSize p + r) / Config.poolSize p = i / 3 := by
    rw [Nat.mul_comm, Nat.mul_add_div (Nat.zero_lt_of_lt hr), Nat.div_eq_of_lt hr, Nat.add_zero]
  simp [bufferAt, hoff, hlog, hpool, hbuf, Nat.div_add_mod', hi]

theorem length_filter_mod_three (n l : Nat) :
    ((List.range n).filter fun i => i % 3 == l % 3).length = n / 3 + if l % 3 < n % 3 then 1 else 0 := by
  rw [← Nat.count_modEq_card n (by decide) l, Nat.count, List.countP_eq_length_filter]
  rfl

/-- The number of a pool's buffers in a logical rank is the one the model counts with. -/
theorem length_buffers_eq_rankBuffers {l : Nat} (hl : l < 3) :
    ((List.range Config.poolBuffers).filter fun i => i % 3 == l).length = rankBuffers l := by
  have hcount := length_filter_mod_three Config.poolBuffers l
  rw [Nat.mod_eq_of_lt hl] at hcount
  rw [hcount, rankBuffers, Config.poolBuffers]
  split <;> split <;> omega

/-- Settles O10: the offsets and sizes of the tables, every byte of a buffer's space led back to the buffer, and the buffers of each rank. -/
theorem bufferPlacement : Obligations.BufferPlacement := by
  refine ⟨fun p hp i hi => ⟨?_, fun a hlow hhigh => ?_⟩, fun l hl => length_buffers_eq_rankBuffers hl⟩
  · rw [← poolSize_eq_getD p hp, ← poolOffset_eq_getD p hp, ← Nat.add_assoc]
    rfl
  · obtain ⟨r, rfl⟩ := Nat.exists_eq_add_of_le hlow
    rw [← poolSize_eq_getD p hp] at hhigh
    exact bufferAt_bufferAddr_add hp hi (Nat.lt_of_add_lt_add_left hhigh)

end Sys2Proof
end

section
/-! The opcodes that the command tables list, and the answer to every other (R408). -/

namespace Sys2Proof

/-- Only the opcodes of the mailbox's rows have a command (R408). -/
theorem mem_mailboxRows_of_commandOf {g : EvLog} {op : Nat} {c : Cmd} (h : commandOf g op = some c) : op ∈ mailboxRows.map (·.1) := by
  unfold commandOf at h
  split at h
  -- the opcodes with no command are the last case, each listed one is a case before it
  rotate_right
  · contradiction
  all_goals decide

/-- Every opcode of the mailbox's rows has a command, whatever the event log holds. -/
theorem commandOf_isSome_of_mem {g : EvLog} {op : Nat} (h : op ∈ mailboxRows.map (·.1)) : (commandOf g op).isSome = true :=
  List.all_eq_true.mp (rfl : (mailboxRows.map (·.1)).all (fun op => (commandOf g op).isSome) = true) op h

theorem commandOf_eq_none_iff {g : EvLog} {op : Nat} : commandOf g op = none ↔ op ∉ mailboxRows.map (·.1) := by
  rw [← Option.not_isSome_iff_eq_none]
  refine not_congr ⟨fun h => ?_, commandOf_isSome_of_mem⟩
  obtain ⟨c, hc⟩ := Option.isSome_iff_exists.mp h
  exact mem_mailboxRows_of_commandOf hc

/-- R404, R408: an opcode without a command is answered UNKNOWN over the state as it is. -/
theorem Dev.runOpcode_of_commandOf_eq_none {g : EvLog} {op : Nat} (rq : Req) (d : Dev) (h : commandOf g op = none) :
    d.runOpcode g op rq = d.answer rq op { code := .unknown } := by
  rw [Dev.runOpcode, h]

/-- R408, Table 14.11: no listed opcode has a reserved low byte or a high byte that is no chapter's. -/
theorem mailboxRows_opcode_ranges : ∀ op ∈ mailboxRows.map (·.1), 0x10 ≤ op % 256 ∧ 0x01 ≤ op / 256 ∧ op / 256 ≤ 0x10 := by
  decide

/-- Settles O9: the opcodes that have a command are exactly those of the mailbox's rows. -/
theorem unlistedOpcodesAreUnknown : Obligations.UnlistedOpcodesAreUnknown :=
  ⟨fun _ _ rq d hop => d.runOpcode_of_commandOf_eq_none rq (commandOf_eq_none_iff.mpr hop), rfl,
    fun op hop => ⟨fun _ => commandOf_isSome_of_mem hop, mailboxRows_opcode_ranges op hop⟩⟩

end Sys2Proof
end

section
/-! What a command and a step do to the whole machine: the next state, the event log and its order (R463, R464). -/

namespace Sys2Proof

open Machine

/-! ### One command -/

theorem Machine.act_eq (t : Nat) (f : Dev → Dev) (s : State) : act t f s = .next (finish s (f (s.dev.begin t))) := rfl

/-- A cold start of the whole block empties the log where it acts, and does nothing where it does not. -/
theorem Machine.exec_aoColdStart_cases (t : Nat) (s : State) :
    exec (.aoColdStart t) s = .next (finish { s with log := {} } (s.dev.begin t).aoColdStart) ∨
      exec (.aoColdStart t) s = .next (finish s (s.dev.begin t)) := by
  change execAoColdStart t s = _ ∨ execAoColdStart t s = _
  unfold execAoColdStart
  split
  · exact .inl rfl
  · exact .inr rfl

theorem Machine.exec_mainRailsRestored_cases (t : Nat) (s : State) :
    exec (.mainRailsRestored t) s = .next (finish { s with log := {} } (s.dev.begin t).mainRestored) ∨
      exec (.mainRailsRestored t) s = .next (finish s (s.dev.begin t)) := by
  change execMainRailsRestored t s = _ ∨ execMainRailsRestored t s = _
  unfold execMainRailsRestored
  split
  · exact .inl rfl
  · exact .inr rfl

/-- Settles O2: every arm of the dispatch ends in `finish`; the two cold starts may begin an empty log. -/
theorem everyCommandAnswersANextState : Obligations.EveryCommandAnswersANextState := by
  intro c s
  cases c with
  | aoColdStart t =>
    rcases exec_aoColdStart_cases t s with h | h
    · exact ⟨_, .inr ⟨⟨t, .inl rfl⟩, h⟩⟩
    · exact ⟨_, .inl h⟩
  | mainRailsRestored t =>
    rcases exec_mainRailsRestored_cases t s with h | h
    · exact ⟨_, .inr ⟨⟨t, .inr rfl⟩, h⟩⟩
    · exact ⟨_, .inl h⟩
  | _ => exact ⟨_, .inl rfl⟩

/-! ### The invariant -/

theorem Machine.step_of_no_command {s : State} (h : s.pending = []) : step s = .next s := by
  simp only [step, h]

theorem Machine.step_of_command {s : State} {c : Instr} {rest : List Instr} (h : s.pending = c :: rest) :
    step s = exec c { s with pending := rest } := by
  simp only [step, h]

/-- Settles O1. -/
theorem stepRunsTheWaitingCommand : Obligations.StepRunsTheWaitingCommand :=
  fun _ _ _ => step_of_command rfl

theorem EvLog.consistent_empty : ({} : EvLog).Consistent :=
  ⟨Nat.zero_le _, by decide, Nat.zero_le _, fun h => absurd h (lt_irrefl 0), fun _ _ h => by cases h⟩

/-- Delivering events leaves those that are still to be delivered. -/
theorem drainEvents_evPend (es : List Event) (g : EvLog) (d : Dev) : (drainEvents es (g, d)).2.evPend = d.evPend := by
  obtain ⟨evq, due, pba, outs, h, -⟩ := drainEvents_spec es g d
  rw [h]

theorem Machine.finish_settled (s : State) (d : Dev) : (finish s d).Settled :=
  drainEvents_evPend _ _ _

/-- The end of a command keeps the log consistent and leaves no event behind (R463). -/
theorem Machine.finish_inv {s : State} (d : Dev) (h : s.log.Consistent) : (finish s d).Inv :=
  ⟨drainEvents_consistent _ _ _ h, finish_settled s d⟩

theorem Machine.exec_inv {c : Instr} {s s' : State} (h : s.log.Consistent) (hexec : exec c s = .next s') : s'.Inv := by
  obtain ⟨d, hnext | ⟨-, hcold⟩⟩ := everyCommandAnswersANextState c s
  · obtain rfl := Host.Outcome.next.inj (hnext.symm.trans hexec)
    exact finish_inv d h
  · obtain rfl := Host.Outcome.next.inj (hcold.symm.trans hexec)
    exact finish_inv d EvLog.consistent_empty

/-- Settles O4. -/
theorem invariantHoldsAtReset : Obligations.InvariantHoldsAtReset :=
  ⟨EvLog.consistent_empty, rfl⟩

/-- Settles O5: an idle step keeps the state, and a command keeps the invariant by the way it ends. -/
theorem stepKeepsTheInvariant : Obligations.StepKeepsTheInvariant := by
  intro s s' hinv hstep
  cases hq : s.pending with
  | nil =>
    obtain rfl := Host.Outcome.next.inj ((step_of_no_command hq).symm.trans hstep)
    exact hinv
  | cons c rest =>
    rw [step_of_command hq] at hstep
    exact exec_inv (s := { s with pending := rest }) hinv.1 hstep

/-! ### The order of the events of one instant -/

/-- Settles O15: the insertion sort of the events permutes and orders, and delivery is a fold over the sorted events. -/
theorem eventsOfOneInstantEnterInOrder : Obligations.EventsOfOneInstantEnterInOrder := by
  intro s d es
  have hsort := foldl_insertEvent_sorted d.evPend [] List.Pairwise.nil
  refine ⟨⟨hsort.1, hsort.2⟩, ?_, fun hroom => drainEvents_log es s.log _ hroom⟩
  rw [← drainEvents_fold]
  rfl

end Sys2Proof
end

section
/-! Packet numbers and the values of tagged notices: what the replay windows accept (R296, R297, R306). -/

namespace Sys2Proof

/-! ### The replay window of a receive epoch (R297) -/

/-- What a receive epoch knows of the numbers it has accepted, the latest first. -/
structure RxEpoch.Holds (e : RxEpoch) (acc : List Nat) : Prop where
  nodup : acc.Nodup
  top_eq : acc.foldl max 0 = e.top
  le_top : ∀ v ∈ acc, v ≤ e.top
  mem_seen : ∀ v, v ∈ e.seen ↔ v ∈ acc ∧ e.top - v < 1024

theorem RxEpoch.holds_empty : RxEpoch.Holds {} [] :=
  ⟨List.nodup_nil, rfl, by simp, by simp⟩

theorem RxEpoch.fresh_iff {e : RxEpoch} {win pn : Nat} :
    e.fresh win pn = true ↔ e.top < pn ∨ (pn < e.top ∧ e.top - pn < win) ∧ pn ∉ e.seen := by
  simp [RxEpoch.fresh]

/-- A number inside the widest window is fresh only if it was not accepted before. -/
theorem RxEpoch.Holds.not_mem_of_fresh {e : RxEpoch} {acc : List Nat} {win pn : Nat} (h : e.Holds acc) (hwin : win ≤ 1024)
    (hfresh : e.fresh win pn = true) : pn ∉ acc := by
  intro hacc
  have hle := h.le_top pn hacc
  rcases RxEpoch.fresh_iff.mp hfresh with habove | ⟨⟨-, hin⟩, hunseen⟩
  · omega
  · exact hunseen ((h.mem_seen pn).mpr ⟨hacc, by omega⟩)

theorem RxEpoch.Holds.accept {e : RxEpoch} {acc : List Nat} {pn : Nat} (h : e.Holds acc) (hnew : pn ∉ acc) :
    (e.accept pn).Holds (pn :: acc) where
  nodup := List.nodup_cons.mpr ⟨hnew, h.nodup⟩
  top_eq := by
    rw [List.foldl_cons, max_comm, List.foldl_assoc, h.top_eq, max_comm]
    rfl
  le_top v hv := by
    rcases List.mem_cons.mp hv with rfl | hv
    · exact le_max_right _ _
    · exact (h.le_top v hv).trans (le_max_left _ _)
  mem_seen v := by
    have hkept : max e.top pn - v < 1024 → e.top - v < 1024 := by omega
    simp only [RxEpoch.accept, List.mem_filter, List.mem_cons, h.mem_seen, decide_eq_true_eq]
    tauto

/-- One arriving number, with the list of those accepted. -/
def RxEpoch.arrive (win : Nat) (x : RxEpoch × List Nat) (pn : Nat) : RxEpoch × List Nat :=
  if x.1.fresh win pn then (x.1.accept pn, pn :: x.2) else x

theorem RxEpoch.holds_arrive {win : Nat} (hwin : win ≤ 1024) {x : RxEpoch × List Nat} (h : x.1.Holds x.2) (pn : Nat) :
    (RxEpoch.arrive win x pn).1.Holds (RxEpoch.arrive win x pn).2 := by
  unfold RxEpoch.arrive
  split
  next hfresh => exact h.accept (h.not_mem_of_fresh hwin hfresh)
  next => exact h

theorem RxEpoch.holds_foldl_arrive {win : Nat} (hwin : win ≤ 1024) (pns : List Nat) {x : RxEpoch × List Nat} (h : x.1.Holds x.2) :
    (pns.foldl (RxEpoch.arrive win) x).1.Holds (pns.foldl (RxEpoch.arrive win) x).2 := by
  induction pns generalizing x with
  | nil => exact h
  | cons pn pns ih => exact ih (RxEpoch.holds_arrive hwin h pn)

/-- With a window of 0 only a number above TOP is fresh. -/
theorem RxEpoch.pairwise_arrive_zero {x : RxEpoch × List Nat} (h : x.1.Holds x.2) (hrise : x.2.Pairwise fun later earlier => earlier < later)
    (pn : Nat) : (RxEpoch.arrive 0 x pn).2.Pairwise fun later earlier => earlier < later := by
  unfold RxEpoch.arrive
  split
  next hfresh =>
    have habove : x.1.top < pn := by simpa [RxEpoch.fresh_iff] using hfresh
    exact List.pairwise_cons.mpr ⟨fun v hv => (h.le_top v hv).trans_lt habove, hrise⟩
  next => exact hrise

theorem RxEpoch.pairwise_foldl_arrive_zero (pns : List Nat) {x : RxEpoch × List Nat} (h : x.1.Holds x.2)
    (hrise : x.2.Pairwise fun later earlier => earlier < later) :
    (pns.foldl (RxEpoch.arrive 0) x).2.Pairwise fun later earlier => earlier < later := by
  induction pns generalizing x with
  | nil => exact hrise
  | cons pn pns ih => exact ih (RxEpoch.holds_arrive (Nat.zero_le _) h pn) (RxEpoch.pairwise_arrive_zero h hrise pn)

/-- Settles O17: the window remembers every accepted number that it could take again. -/
theorem noPacketNumberIsAcceptedTwice : Obligations.NoPacketNumberIsAcceptedTwice := by
  intro win pns hwin
  have h := RxEpoch.holds_foldl_arrive hwin pns (x := ({}, [])) RxEpoch.holds_empty
  refine ⟨h.nodup, h.top_eq, ?_⟩
  rintro rfl
  exact RxEpoch.pairwise_foldl_arrive_zero pns (x := ({}, [])) RxEpoch.holds_empty List.Pairwise.nil

/-! ### The values of a tree's tagged notices (R306) -/

/-- What an exchange knows of the values it has taken. -/
structure Exchange.Holds (x : Exchange) (acc : List Nat) : Prop where
  nodup : acc.Nodup
  high : ∀ h, x.vHigh = some h → h ∈ acc ∧ ∀ v ∈ acc, v ≤ h
  none : x.vHigh = none → acc = [] ∧ x.vSeen = []
  mem_seen : ∀ h, x.vHigh = some h → ∀ v, v ∈ x.vSeen ↔ v ∈ acc ∧ h - v ≤ 63

theorem Exchange.holds_empty : Exchange.Holds {} [] := by
  constructor <;> simp

theorem Exchange.freshV_of_none {x : Exchange} {v : Nat} (h : x.vHigh = none) : x.freshV v = true := by
  simp [Exchange.freshV, h]

theorem Exchange.freshV_of_some {x : Exchange} {v h : Nat} (hx : x.vHigh = some h) :
    x.freshV v = true ↔ h < v ∨ (v < h ∧ h - v ≤ 63) ∧ v ∉ x.vSeen := by
  simp [Exchange.freshV, hx]

/-- The window test, said of the values taken before. -/
theorem Exchange.Holds.freshV_iff {x : Exchange} {acc : List Nat} (hx : x.Holds acc) (v : Nat) :
    x.freshV v = true ↔ v ∉ acc ∧ ∀ h, x.vHigh = some h → h < v ∨ (h - 63 ≤ v ∧ v ≤ h - 1) := by
  cases hh : x.vHigh with
  | none => simp [Exchange.freshV_of_none hh, (hx.none hh).1]
  | some h =>
    obtain ⟨hmem, hle⟩ := hx.high h hh
    rw [Exchange.freshV_of_some hh, hx.mem_seen h hh]
    constructor
    · rintro (habove | ⟨hin, hnew⟩)
      · exact ⟨fun hv => absurd (hle v hv) (by omega), fun _ he => by cases he; exact .inl habove⟩
      · exact ⟨fun hv => hnew ⟨hv, hin.2⟩, fun _ he => by cases he; exact .inr (by omega)⟩
    · rintro ⟨hnew, hwin⟩
      rcases hwin h rfl with habove | hbelow
      · exact .inl habove
      · have hne : v ≠ h := fun he => hnew (he ▸ hmem)
        exact .inr ⟨by omega, fun hv => hnew hv.1⟩

theorem Exchange.takeV_vHigh (x : Exchange) (v : Nat) : (x.takeV v).vHigh = some (max v (x.vHigh.getD 0)) := rfl

theorem Exchange.mem_takeV_vSeen (x : Exchange) (v w : Nat) :
    w ∈ (x.takeV v).vSeen ↔ (w = v ∨ w ∈ x.vSeen) ∧ max v (x.vHigh.getD 0) - w ≤ 63 := by
  simp [Exchange.takeV]

theorem Exchange.Holds.takeV {x : Exchange} {acc : List Nat} {v : Nat} (hx : x.Holds acc) (hnew : v ∉ acc) : (x.takeV v).Holds (v :: acc) where
  nodup := List.nodup_cons.mpr ⟨hnew, hx.nodup⟩
  high h he := by
    obtain rfl := Option.some.inj ((x.takeV_vHigh v).symm.trans he)
    cases hh : x.vHigh with
    | none => simp [(hx.none hh).1]
    | some h =>
      obtain ⟨hmem, hle⟩ := hx.high h hh
      refine ⟨?_, fun w hw => ?_⟩
      · rcases max_choice v h with hm | hm <;> simp [hm, hmem]
      · rcases List.mem_cons.mp hw with rfl | hw
        · exact le_max_left _ _
        · exact (hle w hw).trans (le_max_right _ _)
  none he := by simp [Exchange.takeV_vHigh] at he
  mem_seen h he w := by
    obtain rfl := Option.some.inj ((x.takeV_vHigh v).symm.trans he)
    rw [Exchange.mem_takeV_vSeen]
    cases hh : x.vHigh with
    | none => simp [hx.none hh]
    | some h =>
      have hkept : max v h - w ≤ 63 → h - w ≤ 63 := by omega
      simp only [Option.getD_some, List.mem_cons, hx.mem_seen h hh]
      tauto

/-- One arriving value, with the list of those found new. -/
def Exchange.arrive (x : Exchange × List Nat) (v : Nat) : Exchange × List Nat :=
  if x.1.freshV v then (x.1.takeV v, v :: x.2) else x

theorem Exchange.holds_arrive {x : Exchange × List Nat} (h : x.1.Holds x.2) (v : Nat) :
    (Exchange.arrive x v).1.Holds (Exchange.arrive x v).2 := by
  unfold Exchange.arrive
  split
  next hfresh => exact h.takeV ((h.freshV_iff v).mp hfresh).1
  next => exact h

theorem Exchange.holds_foldl_arrive (vs : List Nat) {x : Exchange × List Nat} (h : x.1.Holds x.2) :
    (vs.foldl Exchange.arrive x).1.Holds (vs.foldl Exchange.arrive x).2 := by
  induction vs generalizing x with
  | nil => exact h
  | cons v vs ih => exact ih (Exchange.holds_arrive h v)

/-- Settles O18: the exchange remembers every value that it could find new again. -/
theorem noTaggedNoticeIsAppliedTwice : Obligations.NoTaggedNoticeIsAppliedTwice := by
  intro vs
  have h := Exchange.holds_foldl_arrive vs (x := ({}, [])) Exchange.holds_empty
  exact ⟨h.nodup, h.high, h.freshV_iff⟩

/-! ### The nearest packet number (R296), and the target of a revision (R113) -/

/-- The number rebuilt from a SEQ is the one that ends in it among the 65,536 from 32,768 below TOP + 1 on, moved up where that is none. -/
theorem rebuildPn_cases (top seq : Nat) :
    ∃ p : Int, p = (top : Int) + 1 - 32768 + ((seq : Int) - ((top : Int) + 1 - 32768)) % 65536 ∧
      (p < 1 ∧ (rebuildPn top seq : Int) = p + 65536 ∨ 1 ≤ p ∧ (rebuildPn top seq : Int) = p) := by
  refine ⟨_, rfl, ?_⟩
  unfold rebuildPn
  dsimp only
  split <;> omega

/-- Settles O16. -/
theorem packetNumberIsTheNearest : Obligations.PacketNumberIsTheNearest := by
  intro top seq hseq
  refine ⟨?_, ?_, fun v hv hmod => ?_, fun pn hpn hlow hhigh => ?_⟩
  · obtain ⟨p, hp, hcase⟩ := rebuildPn_cases top seq
    omega
  · obtain ⟨p, hp, hcase⟩ := rebuildPn_cases top seq
    omega
  · obtain ⟨p, hp, hcase⟩ := rebuildPn_cases top seq
    omega
  · obtain ⟨p, hp, hcase⟩ := rebuildPn_cases top (pn % 65536)
    omega

/-- Settles O19. -/
theorem revisionTargetIsUnique : Obligations.RevisionTargetIsUnique := by
  intro f low hf hlow
  unfold revTarget
  refine ⟨by omega, by omega, by omega, fun g hlo hhi hg => by omega⟩

end Sys2Proof
end

section
/-! Meters and the deficit round robin (R261, R268). -/

namespace Sys2Proof

/-! ### A meter filled in parts (R261) -/

/-- What a fill leaves in each mode: one bucket overflows into the other, or each has its own rate. -/
theorem Meter.fill_of_mode_zero (m : Meter) (now : Ticks) (h : m.mode = 0) :
    m.fill now =
      { m with
        tokC := (fillBucket m.cir (now - m.last) m.tokC (m.cbs * 64 * 65536) m.remC).1
        tokE := min (m.ebs * 64 * 65536) (m.tokE + (fillBucket m.cir (now - m.last) m.tokC (m.cbs * 64 * 65536) m.remC).2.1)
        remC := (fillBucket m.cir (now - m.last) m.tokC (m.cbs * 64 * 65536) m.remC).2.2
        last := now } := by
  simp only [Meter.fill, if_pos h]

theorem Meter.fill_of_mode_ne_zero (m : Meter) (now : Ticks) (h : m.mode ≠ 0) :
    m.fill now =
      { m with
        tokC := (fillBucket m.cir (now - m.last) m.tokC (m.cbs * 64 * 65536) m.remC).1
        tokE := (fillBucket m.pir (now - m.last) m.tokE (m.ebs * 64 * 65536) m.remE).1
        remC := (fillBucket m.cir (now - m.last) m.tokC (m.cbs * 64 * 65536) m.remC).2.2
        remE := (fillBucket m.pir (now - m.last) m.tokE (m.ebs * 64 * 65536) m.remE).2.2
        last := now } := by
  simp only [Meter.fill, if_neg h]

/-- Settles O23: a bucket filled over two spans is filled over their sum, in each mode. -/
theorem meterFillsByElapsedTime : Obligations.MeterFillsByElapsedTime := by
  intro m a b ha hab hC hE
  have hspan : a - m.last + (b - a) = b - m.last := (Nat.add_comm _ _).trans (tsub_add_tsub_cancel hab ha)
  have hc := fillBucket_add m.cir (a - m.last) (b - a) m.tokC (m.cbs * 64 * 65536) m.remC hC
  rw [hspan] at hc
  obtain ⟨hcTok, hcOver, hcRest, -, hcCap, hcGrow⟩ := hc
  by_cases hmode : m.mode = 0
  · have hfirst := m.fill_of_mode_zero a hmode
    have hlater := (m.fill a).fill_of_mode_zero b (by rw [hfirst]; exact hmode)
    rw [m.fill_of_mode_zero b hmode]
    refine ⟨?_, hcCap, min_le_left _ _, hcGrow, le_min hE (Nat.le_add_right _ _)⟩
    rw [hlater, hfirst]
    simp only [Meter.mk.injEq, true_and, hcTok, hcRest, and_true]
    omega
  · have he := fillBucket_add m.pir (a - m.last) (b - a) m.tokE (m.ebs * 64 * 65536) m.remE hE
    rw [hspan] at he
    obtain ⟨heTok, -, heRest, -, heCap, heGrow⟩ := he
    have hfirst := m.fill_of_mode_ne_zero a hmode
    have hlater := (m.fill a).fill_of_mode_ne_zero b (by rw [hfirst]; exact hmode)
    rw [m.fill_of_mode_ne_zero b hmode]
    refine ⟨?_, hcCap, heCap, hcGrow, heGrow⟩
    rw [hlater, hfirst]
    simp only [hcTok, hcRest, heTok, heRest]

/-! ### Device time at a write of the rate (R342) -/

/-- Settles O20: two products truncated downwards differ from the truncated product of the difference by less than one. -/
theorem rateWriteKeepsDeviceTime : Obligations.RateWriteKeepsDeviceTime := by
  intro x frc r y
  refine ⟨rfl, rfl, rfl, ?_⟩
  have hsplit : (frc : Int) * (x.rho - r) = frc * x.rho - frc * r := by ring
  simp only [y, TimeSt.setRho, TimeSt.devOf, hsplit]
  generalize (frc : Int) * x.rho = p
  generalize (frc : Int) * r = q
  omega

/-! ### The deficit round robin (R268) -/

/-- A queue as a visit finds it: one whose turn begins earns its quantum. -/
def Queue.visited (Q : Queue) : Queue := if Q.turn then Q else { Q with deficit := Q.deficit + 64 * Q.quantum, turn := true }

theorem Queue.visited_eq (Q : Queue) :
    Q.visited = { Q with deficit := if Q.turn then Q.deficit else Q.deficit + 64 * Q.quantum, turn := true } := by
  unfold Queue.visited
  split
  next h => obtain ⟨⟩ := Q; simp_all
  next => rfl

/-- The model and R268's statement take the head's length as an integer. -/
theorem Queue.headLen_cast (Q : Queue) : (Q.head.map fun x => (x.length : Int)).getD 0 = (Q.headLen : Int) := by
  unfold Queue.headLen
  cases Q.head <;> rfl

/-- One visit of the search. -/
theorem drrLoop_of_some {n k ptr q : Nat} {qs : List Nat} {d : Dev} (h : atOrAfter ptr qs = some q) :
    drrLoop n qs (k + 1) ptr d =
      if ((d.queue n q).visited.headLen : Int) ≤ (d.queue n q).visited.deficit then
        (some (q, (d.queue n q).visited.deficit, ptr), ptr, d.setQueue n q (d.queue n q).visited)
      else drrLoop n qs k ((q + 1) % 16384) (d.setQueue n q { (d.queue n q).visited with turn := false }) := by
  rw [drrLoop, h, ← Queue.headLen_cast]
  rfl

theorem drrLoop_zero (n ptr : Nat) (qs : List Nat) (d : Dev) : drrLoop n qs 0 ptr d = (none, ptr, d) := rfl

theorem drrLoop_of_none {n k ptr : Nat} {qs : List Nat} {d : Dev} (h : atOrAfter ptr qs = none) :
    drrLoop n qs (k + 1) ptr d = (none, ptr, d) := by
  rw [drrLoop, h]

/-- The head of the visited queue fits: it is taken. -/
theorem drrLoop_of_fits {n k ptr q : Nat} {qs : List Nat} {d : Dev} (h : atOrAfter ptr qs = some q)
    (hfit : ((d.queue n q).visited.headLen : Int) ≤ (d.queue n q).visited.deficit) :
    drrLoop n qs (k + 1) ptr d = (some (q, (d.queue n q).visited.deficit, ptr), ptr, d.setQueue n q (d.queue n q).visited) := by
  rw [drrLoop_of_some h, if_pos hfit]

/-- It does not fit: the queue's turn ends and the search goes on behind it. -/
theorem drrLoop_of_not_fits {n k ptr q : Nat} {qs : List Nat} {d : Dev} (h : atOrAfter ptr qs = some q)
    (hfit : ¬((d.queue n q).visited.headLen : Int) ≤ (d.queue n q).visited.deficit) :
    drrLoop n qs (k + 1) ptr d =
      drrLoop n qs k ((q + 1) % 16384) (d.setQueue n q { (d.queue n q).visited with turn := false }) := by
  rw [drrLoop_of_some h, if_neg hfit]

theorem RobinKeeps.refl (n : Nat) (qs : List Nat) (d : Dev) : RobinKeeps n qs d d := ⟨fun _ => rfl, fun _ _ => rfl⟩

theorem RobinKeeps.headLen_eq {n : Nat} {qs : List Nat} {d e : Dev} (h : RobinKeeps n qs d e) (q : Nat) :
    (e.queue n q).headLen = (d.queue n q).headLen := by
  rw [h.1 q]
  rfl

theorem RobinKeeps.quantum_eq {n : Nat} {qs : List Nat} {d e : Dev} (h : RobinKeeps n qs d e) (q : Nat) :
    (e.queue n q).quantum = (d.queue n q).quantum := by
  rw [h.1 q]

theorem RobinKeeps.visit {n q : Nat} {qs : List Nat} {d : Dev} (hq : q ∈ qs) : RobinKeeps n qs d (d.setQueue n q (d.queue n q).visited) :=
  RobinKeeps.step _ hq (by rw [Queue.visited_eq])

theorem RobinKeeps.visit_end {n q : Nat} {qs : List Nat} {d : Dev} (hq : q ∈ qs) :
    RobinKeeps n qs d (d.setQueue n q { (d.queue n q).visited with turn := false }) :=
  RobinKeeps.step _ hq (by rw [Queue.visited_eq])

theorem drrLoop_keeps (n : Nat) (qs : List Nat) (k ptr : Nat) (d : Dev) : RobinKeeps n qs d (drrLoop n qs k ptr d).2.2 := by
  induction k generalizing ptr d with
  | zero => exact RobinKeeps.refl n qs d
  | succ k ih =>
    cases h : atOrAfter ptr qs with
    | none =>
      rw [drrLoop_of_none h]
      exact RobinKeeps.refl n qs d
    | some q =>
      have hq := atOrAfter_mem ptr qs q h
      by_cases hfit : ((d.queue n q).visited.headLen : Int) ≤ (d.queue n q).visited.deficit
      · rw [drrLoop_of_fits h hfit]
        exact RobinKeeps.visit hq
      · rw [drrLoop_of_not_fits h hfit]
        exact (RobinKeeps.visit_end hq).trans (ih _ _)

theorem Queue.headLen_visited (Q : Queue) : Q.visited.headLen = Q.headLen := by
  rw [Queue.visited_eq]
  rfl

theorem Queue.turn_visited (Q : Queue) : Q.visited.turn = true := by
  rw [Queue.visited_eq]

/-- The queue that the search takes is eligible, and its head fits the deficit that it is left with. -/
theorem drrLoop_takes {n : Nat} {qs : List Nat} {k ptr : Nat} {d : Dev} {q : Nat} {deficit : Int} {p : Nat}
    (h : (drrLoop n qs k ptr d).1 = some (q, deficit, p)) :
    q ∈ qs ∧ ((d.queue n q).headLen : Int) ≤ deficit ∧ ((drrLoop n qs k ptr d).2.2.queue n q).deficit = deficit ∧
      ((drrLoop n qs k ptr d).2.2.queue n q).turn = true := by
  induction k generalizing ptr d with
  | zero => simp [drrLoop_zero] at h
  | succ k ih =>
    cases hat : atOrAfter ptr qs with
    | none => simp [drrLoop_of_none hat] at h
    | some q' =>
      have hq := atOrAfter_mem ptr qs q' hat
      by_cases hfit : ((d.queue n q').visited.headLen : Int) ≤ (d.queue n q').visited.deficit
      · rw [drrLoop_of_fits hat hfit] at h ⊢
        simp only [Option.some.injEq, Prod.mk.injEq] at h
        obtain ⟨rfl, rfl, -⟩ := h
        rw [Queue.headLen_visited] at hfit
        exact ⟨hq, hfit, by rw [queue_setQueue_same], by rw [queue_setQueue_same, Queue.turn_visited]⟩
      · rw [drrLoop_of_not_fits hat hfit] at h ⊢
        have hnext := ih h
        rwa [(RobinKeeps.visit_end hq).headLen_eq q] at hnext

/-! The search ends: a visit that takes nothing brings its queue nearer to a fit, by the turn that it ends or the quantum that it earns. -/

/-- How many visits of a queue can take nothing. -/
def Queue.misses (Q : Queue) : Nat := Q.turn.toNat + ((Q.headLen : Int) - Q.deficit).toNat / (64 * max 1 Q.quantum)

theorem Queue.misses_visited_lt {Q : Queue} (hquantum : 1 ≤ Q.quantum) (hfit : ¬(Q.visited.headLen : Int) ≤ Q.visited.deficit) :
    ({ Q.visited with turn := false } : Queue).misses < Q.misses := by
  rw [Queue.headLen_visited] at hfit
  rw [Queue.visited_eq] at hfit ⊢
  change (false.toNat + ((Q.headLen : Int) - if Q.turn then Q.deficit else Q.deficit + 64 * Q.quantum).toNat / (64 * max 1 Q.quantum)) < Q.misses
  unfold Queue.misses
  have hmax : max 1 Q.quantum = Q.quantum := max_eq_right hquantum
  generalize Q.headLen = len at hfit ⊢
  cases hturn : Q.turn with
  | true => simp
  | false =>
    simp only [hturn] at hfit
    have hsub : ((len : Int) - Q.deficit).toNat = ((len : Int) - (Q.deficit + 64 * Q.quantum)).toNat + 64 * Q.quantum := by
      simp at hfit
      omega
    simp [hmax, hsub, Nat.add_div_right _ (show 0 < 64 * Q.quantum by omega)]

/-- The visits of all eligible queues that can still take nothing. -/
def drrMisses (n : Nat) (qs : List Nat) (d : Dev) : Nat := (qs.map fun q => (d.queue n q).misses).sum

theorem drrMisses_lt {n q : Nat} {qs : List Nat} {d : Dev} (hq : q ∈ qs) (hquantum : 1 ≤ (d.queue n q).quantum)
    (hfit : ¬((d.queue n q).visited.headLen : Int) ≤ (d.queue n q).visited.deficit) :
    drrMisses n qs (d.setQueue n q { (d.queue n q).visited with turn := false }) < drrMisses n qs d := by
  have hlt := Queue.misses_visited_lt hquantum hfit
  refine List.sum_lt_sum _ _ (fun x _ => ?_) ⟨q, hq, ?_⟩
  · by_cases hx : x = q
    · subst hx
      rw [queue_setQueue_same]
      exact hlt.le
    · rw [queue_setQueue_other _ _ _ _ _ hx]
  · rwa [queue_setQueue_same]

theorem atOrAfter_ne_none {ptr : Nat} {qs : List Nat} (h : qs ≠ []) : atOrAfter ptr qs ≠ none := by
  obtain ⟨q, qs, rfl⟩ := List.exists_cons_of_ne_nil h
  unfold atOrAfter
  cases (q :: qs).find? fun x => decide (ptr ≤ x) <;> simp

theorem drrLoop_isSome {n : Nat} {qs : List Nat} {k ptr : Nat} {d : Dev} (hqs : qs ≠ []) (hquantum : ∀ q ∈ qs, 1 ≤ (d.queue n q).quantum)
    (hfuel : drrMisses n qs d < k) : (drrLoop n qs k ptr d).1.isSome = true := by
  induction k generalizing ptr d with
  | zero => omega
  | succ k ih =>
    obtain ⟨q, hat⟩ := Option.ne_none_iff_exists'.mp (atOrAfter_ne_none (ptr := ptr) hqs)
    have hq := atOrAfter_mem ptr qs q hat
    by_cases hfit : ((d.queue n q).visited.headLen : Int) ≤ (d.queue n q).visited.deficit
    · rw [drrLoop_of_fits hat hfit]
      rfl
    · rw [drrLoop_of_not_fits hat hfit]
      refine ih (fun x hx => ?_) (by have := drrMisses_lt hq (hquantum q hq) hfit; omega)
      rw [(RobinKeeps.visit_end hq).quantum_eq x]
      exact hquantum x hx

theorem drrFuel_eq (n : Nat) (qs : List Nat) (d : Dev) :
    drrFuel n qs d = 2 + (qs.map fun q => (((d.queue n q).headLen : Int) - (d.queue n q).deficit).toNat /
      (64 * max 1 (d.queue n q).quantum) + 2).sum := by
  have hfold : ∀ (f : Nat → Nat) (a : Nat), qs.foldl (fun a q => a + f q + 2) a = a + (qs.map fun q => f q + 2).sum := by
    intro f
    induction qs with
    | nil => simp
    | cons q qs ih => intro a; rw [List.foldl_cons, ih, List.map_cons, List.sum_cons]; omega
  exact hfold _ 2

theorem drrMisses_lt_drrFuel (n : Nat) (qs : List Nat) (d : Dev) : drrMisses n qs d < drrFuel n qs d := by
  rw [drrFuel_eq]
  have hle : drrMisses n qs d ≤ (qs.map fun q => (((d.queue n q).headLen : Int) - (d.queue n q).deficit).toNat /
      (64 * max 1 (d.queue n q).quantum) + 2).sum := by
    refine List.sum_le_sum fun q _ => ?_
    have hturn := (d.queue n q).turn.toNat_le
    unfold Queue.misses
    omega
  omega

/-- Settles O24: the search keeps all but deficits and turns, and each visit that takes nothing uses up one of finitely many misses. -/
theorem roundRobinTakesAHeadThatFits : Obligations.RoundRobinTakesAHeadThatFits := by
  intro n ptr qs d r
  have hkeeps := drrLoop_keeps n qs (drrFuel n qs d * (qs.length + 1)) ptr d
  refine ⟨fun q deficit p h => (d.queue n q).headLen_cast ▸ drrLoop_takes h, hkeeps.1, hkeeps.2, fun hqs hquantum => drrLoop_isSome hqs hquantum ?_⟩
  exact (drrMisses_lt_drrFuel n qs d).trans_le (Nat.le_mul_of_pos_right _ (Nat.succ_pos _))

end Sys2Proof
end

section
/-! Encodings that are read back: the block of a Pitch, the words of an address entry, the symbols and the scrambling of a lane. -/

namespace Sys2Proof

/-! ### The block of a Pitch (Table 4.2) -/

theorem fld_pitchBlock (p : Pitch) {w lo : Nat} (h : 16 ≤ lo) (h' : lo + w ≤ 128) :
    fld w lo p.block =
      fld w lo (put 128 108 p.aid ||| put 128 98 (BitVec.ofNat 10 p.leaf) ||| put 128 82 p.mask ||| put 128 69 (BitVec.ofNat 13 p.start) |||
        put 128 56 (BitVec.ofNat 13 p.length) ||| put 128 52 (BitVec.ofNat 4 p.preamble) ||| put 128 47 (BitVec.ofNat 5 p.flags) |||
        put 128 35 (BitVec.ofNat 12 p.pid) ||| put 128 31 (BitVec.ofNat 4 p.rev)) :=
  fld_withChk w lo _ h h'

/-- Every field of the block answers what the Pitch has there, cut to the field's width. -/
theorem pitchOf_block (p : Pitch) (frame : Nat) :
    pitchOf p.block frame =
      { frame := frame, aid := p.aid, leaf := p.leaf % 2 ^ 10, mask := p.mask, start := p.start % 2 ^ 13, length := p.length % 2 ^ 13
        preamble := p.preamble % 2 ^ 4, flags := p.flags % 2 ^ 5, pid := p.pid % 2 ^ 12, rev := p.rev % 2 ^ 4 } := by
  unfold pitchOf
  simp (disch := omega) only [fld_pitchBlock, fld_or, fld_put_same, fld_put_apart, BitVec.or_zero, BitVec.zero_or, BitVec.toNat_ofNat]

/-- Settles O26. -/
theorem pitchBlockRoundTrip : Obligations.PitchBlockRoundTrip := by
  intro frame leaf start length preamble flags pid rev aid mask hleaf hstart hlength hpreamble hflags hpid hrev p
  refine ⟨?_, (fld_check _).trans (blockChk_withChk _).symm⟩
  rw [pitchOf_block]
  simp only [p, Nat.mod_eq_of_lt, hleaf, hstart, hlength, hpreamble, hflags, hpid, hrev]

/-! ### The words of an address entry (Table 7.3) -/

theorem AddrEntry.words_length (e : AddrEntry) : e.words.length = 5 := rfl

theorem AddrEntry.word0 (e : AddrEntry) : (e.words.getD 0 0).toNat = e.mac.toNat / 2 ^ 28 := by
  have h := e.mac.isLt
  simp only [AddrEntry.words, List.map_cons, List.getD_cons_zero, BitVec.toNat_ofNat]
  omega

theorem AddrEntry.word1 (e : AddrEntry) : (e.words.getD 1 0).toNat = e.mac.toNat / 2 ^ 8 % 2 ^ 20 := by
  simp [AddrEntry.words]

theorem AddrEntry.word2 (e : AddrEntry) : (e.words.getD 2 0).toNat = e.mac.toNat % 256 * 4096 + e.vlan.toNat := by
  have h := e.vlan.isLt
  simp only [AddrEntry.words, List.map_cons, List.getD_cons_succ, List.getD_cons_zero, BitVec.toNat_ofNat]
  omega

theorem AddrEntry.word3 (e : AddrEntry) (hage : e.age < 2 ^ 8) (hport : e.port < 2 ^ 5) :
    (e.words.getD 3 0).toNat =
      e.valid.toNat * 2 ^ 19 + e.static.toNat * 2 ^ 18 + e.kind.toNat * 2 ^ 17 + e.age * 2 ^ 9 + e.port * 16 := by
  have hv := e.valid.toNat_le
  have hs := e.static.toNat_le
  have hk := e.kind.toNat_le
  simp only [AddrEntry.words, List.map_cons, List.getD_cons_succ, List.getD_cons_zero, BitVec.toNat_ofNat]
  omega

theorem AddrEntry.word4 (e : AddrEntry) (hlfn : e.lfn < 2 ^ 20) : (e.words.getD 4 0).toNat = e.lfn := by
  simpa [AddrEntry.words] using hlfn

theorem testBit_eq_of_div {n i : Nat} {b : Bool} (h : n / 2 ^ i % 2 = b.toNat) : n.testBit i = b := by
  rw [Nat.testBit_eq_decide_div_mod_eq, h]
  cases b <;> rfl

/-- Settles O27. -/
theorem addressEntryRoundTrip : Obligations.AddressEntryRoundTrip := by
  intro e hage hport hlfn
  have hv := e.valid.toNat_le
  have hs := e.static.toNat_le
  have hk := e.kind.toNat_le
  have hw3 := e.word3 hage hport
  refine ⟨?_, by rw [hw3]; omega, e.words_length⟩
  have hmac := e.mac.isLt
  have hvlan := e.vlan.isLt
  simp only [addrOf, AddrEntry.mk.injEq]
  refine ⟨?valid, ?vlan, ?mac, ?static, ?kind, trivial, ?port, e.word4 hlfn, trivial, trivial⟩
  case valid => exact testBit_eq_of_div (by rw [hw3]; omega)
  case static => exact testBit_eq_of_div (by rw [hw3]; omega)
  case kind => exact testBit_eq_of_div (by rw [hw3]; omega)
  case port => rw [hw3]; omega
  case vlan =>
    apply BitVec.eq_of_toNat_eq
    rw [BitVec.toNat_ofNat, e.word2]
    omega
  case mac =>
    apply BitVec.eq_of_toNat_eq
    rw [BitVec.toNat_ofNat, e.word0, e.word1, e.word2]
    omega

/-! ### Gray mapping and precoding (R44, Table 2.1) -/

theorem grayBits_grayLevel : ∀ a b : Bool, grayBits (grayLevel a b) = [a, b] := by decide

theorem ofLevels_toLevels (bits : List Bool) (h : bits.length % 2 = 0) : ofLevels (toLevels bits) = bits := by
  fun_induction toLevels bits with
  | case1 a b r ih =>
    have hr : r.length % 2 = 0 := by simp only [List.length_cons] at h; omega
    simpa [ofLevels, grayBits_grayLevel] using ih hr
  | case2 bits hshort =>
    match bits, hshort, h with
    | [], _, _ => rfl
    | [a], _, h => simp at h
    | a :: b :: r, hshort, _ => exact absurd rfl (hshort a b r)

theorem unprecode_precode (y : Fin 4) (xs : List (Fin 4)) : unprecode y (precode y xs) = xs := by
  induction xs generalizing y with
  | nil => rfl
  | cons x xs ih => rw [precode, unprecode, ih, sub_add_cancel]

theorem length_unprecode (y : Fin 4) (ls : List (Fin 4)) : (unprecode y ls).length = ls.length := by
  induction ls generalizing y with
  | nil => rfl
  | cons l ls ih => rw [unprecode, List.length_cons, ih, List.length_cons]

/-- From another starting state only the first symbol differs. -/
theorem drop_one_unprecode (y z : Fin 4) (ls : List (Fin 4)) : (unprecode z ls).drop 1 = (unprecode y ls).drop 1 := by
  cases ls <;> rfl

/-- A symbol is the sum of its level and the one before it. -/
theorem getElem?_unprecode_succ (y : Fin 4) (ls : List (Fin 4)) (j : Nat) :
    (unprecode y ls)[j + 1]? = ls[j + 1]?.bind fun l => ls[j]?.map (l + ·) := by
  induction ls generalizing y j with
  | nil => rfl
  | cons l ls ih =>
    rw [unprecode]
    cases j with
    | zero => cases ls <;> simp [unprecode]
    | succ j => simpa using ih l j

theorem getElem?_unprecode_zero (y : Fin 4) (ls : List (Fin 4)) : (unprecode y ls)[0]? = ls[0]?.map (· + y) := by
  cases ls <;> rfl

/-- A wrong level corrupts the symbol in its place and the next, and no other. -/
theorem unprecode_set_ne_iff (y e : Fin 4) (ls : List (Fin 4)) (n : Nat) (hn : n < ls.length) (he : e ≠ 0) (j : Nat) (hj : j < ls.length) :
    (unprecode y (ls.set n (ls[n] + e)))[j]? ≠ (unprecode y ls)[j]? ↔ j = n ∨ j = n + 1 := by
  cases j with
  | zero =>
    rw [getElem?_unprecode_zero, getElem?_unprecode_zero]
    by_cases h0 : n = 0
    · subst h0
      simp [hn, he]
    · simp [List.getElem?_set_ne h0, Ne.symm h0]
  | succ j =>
    have hj' : j < ls.length := by omega
    rw [getElem?_unprecode_succ, getElem?_unprecode_succ]
    by_cases h1 : n = j + 1
    · subst h1
      simp [hn, hj', he]
    · by_cases h2 : n = j
      · subst h2
        simp [hj, hj', he]
      · rw [List.getElem?_set_ne h1, List.getElem?_set_ne h2]
        simp
        omega

/-! ### Scrambling (R74, R119) -/

theorem xor_twice : ∀ x a b : Bool, ((((x ^^ a) ^^ b) ^^ a) ^^ b) = x := by decide

theorem descramble_scramble (h xs : List Bool) : descramble h (scramble h xs) = xs := by
  induction xs generalizing h with
  | nil => rfl
  | cons x xs ih => rw [scramble, descramble, ih, xor_twice]

/-- Only the 58 latest bits of a history matter. -/
theorem descramble_congr {g h : List Bool} (hgh : ∀ i < 58, g.getD i false = h.getD i false) (xs : List Bool) :
    descramble g xs = descramble h xs := by
  induction xs generalizing g h with
  | nil => rfl
  | cons x xs ih =>
    rw [descramble, descramble, hgh 38 (by omega), hgh 57 (by omega)]
    refine congrArg _ (ih fun i hi => ?_)
    cases i with
    | zero => rfl
    | succ i =>
      have hi' : i < 57 := by omega
      have := hgh i (by omega)
      simpa [List.getD_eq_getElem?_getD, List.getElem?_take, hi'] using this

/-- Histories that agree on their k latest bits agree on everything from the 59th bit less k on. -/
theorem drop_descramble {g h : List Bool} {k : Nat} (hgh : ∀ i < k, g.getD i false = h.getD i false) (xs : List Bool) :
    (descramble g xs).drop (58 - k) = (descramble h xs).drop (58 - k) := by
  induction xs generalizing g h k with
  | nil => rfl
  | cons x xs ih =>
    by_cases hk : 58 ≤ k
    · rw [descramble_congr (fun i hi => hgh i (by omega))]
    · have hnext : ∀ i < k + 1, (x :: g.take 57).getD i false = (x :: h.take 57).getD i false := by
        intro i hi
        cases i with
        | zero => rfl
        | succ i =>
          have hi' : i < 57 := by omega
          have := hgh i (by omega)
          simpa [List.getD_eq_getElem?_getD, List.getElem?_take, hi'] using this
      rw [show 58 - k = 58 - (k + 1) + 1 by omega, descramble, descramble, List.drop_succ_cons, List.drop_succ_cons]
      exact ih hnext

/-- Settles O28. -/
theorem lineCodingIsUndone : Obligations.LineCodingIsUndone := by
  refine ⟨ofLevels_toLevels, unprecode_precode, fun y z xs => ?_, fun y e ls n hn he j hj => unprecode_set_ne_iff y e ls n hn he j hj,
    descramble_scramble, fun h g xs => ?_⟩
  · rw [drop_one_unprecode y z, unprecode_precode]
  · have hdrop := drop_descramble (g := g) (h := h) (k := 0) (by simp) (scramble h xs)
    rwa [descramble_scramble] at hdrop

end Sys2Proof
end

section
/-! Bytes, blocks and the cipher stream: a sealed parcel opens, and the inputs of keys and tags say their values (R286, R291, R305). -/

namespace Sys2Proof

/-! ### Numbers as bytes -/

@[simp] theorem length_bytesBE (w v : Nat) : (bytesBE w v).length = w := by simp [bytesBE]

theorem bytesBE_succ (w v : Nat) : bytesBE (w + 1) v = bytesBE w (v / 256) ++ [BitVec.ofNat 8 v] := by
  unfold bytesBE
  rw [List.range_succ, List.map_append]
  congr 1
  · refine List.map_congr_left fun i hi => ?_
    have hi' : i < w := List.mem_range.mp hi
    rw [show w + 1 - 1 - i = w - 1 - i + 1 by omega, Nat.pow_succ', Nat.div_div_eq_div_mul]
  · simp

theorem natBE_append_singleton (bs : List Byte) (b : Byte) : natBE (bs ++ [b]) = 256 * natBE bs + b.toNat := by
  simp [natBE]

theorem natBE_bytesBE (w v : Nat) : natBE (bytesBE w v) = v % 256 ^ w := by
  induction w generalizing v with
  | zero => simp [bytesBE, natBE, Nat.mod_one]
  | succ w ih => rw [bytesBE_succ, natBE_append_singleton, ih, BitVec.toNat_ofNat, Nat.pow_succ' (m := 256), Nat.mod_mul (a := 256), Nat.add_comm]

theorem bytesBE_natBE (bs : List Byte) : bytesBE bs.length (natBE bs) = bs := by
  induction bs using List.reverseRecOn with
  | nil => rfl
  | append_singleton bs b ih =>
    have hb := b.isLt
    rw [List.length_append, List.length_singleton, bytesBE_succ, natBE_append_singleton,
      show (256 * natBE bs + b.toNat) / 256 = natBE bs by omega, ih]
    congr 2
    apply BitVec.eq_of_toNat_eq
    rw [BitVec.toNat_ofNat]
    omega

theorem natBE_lt (bs : List Byte) : natBE bs < 256 ^ bs.length := by
  induction bs using List.reverseRecOn with
  | nil => decide
  | append_singleton bs b ih =>
    have hb := b.isLt
    rw [natBE_append_singleton, List.length_append, List.length_singleton, Nat.pow_succ]
    omega

/-- Two numbers within w bytes are spelt alike only if they are the same. -/
theorem bytesBE_inj {w v v' : Nat} (h : v < 256 ^ w) (h' : v' < 256 ^ w) : bytesBE w v = bytesBE w v' ↔ v = v' := by
  refine ⟨fun he => ?_, fun he => he ▸ rfl⟩
  have hn := congrArg natBE he
  rwa [natBE_bytesBE, natBE_bytesBE, Nat.mod_eq_of_lt h, Nat.mod_eq_of_lt h'] at hn

/-- Parts of a fixed length are told apart. -/
theorem bytesBE_append_inj {w v v' : Nat} {r r' : List Byte} (h : v < 256 ^ w) (h' : v' < 256 ^ w) :
    bytesBE w v ++ r = bytesBE w v' ++ r' ↔ v = v' ∧ r = r' := by
  rw [List.append_eq_append_iff_of_size_eq_left (by simp), bytesBE_inj h h']

/-! ### Lists cut into chunks of sixteen -/

/-- Element i of a list put together from chunks of sixteen. -/
theorem getElem?_flatMap_of_length {α β : Type} (f : α → List β) (hf : ∀ x, (f x).length = 16) (l : List α) (i : Nat) :
    (l.flatMap f)[i]? = l[i / 16]?.bind fun x => (f x)[i % 16]? := by
  induction l generalizing i with
  | nil => rfl
  | cons x l ih =>
    rw [List.flatMap_cons]
    by_cases hi : i < 16
    · rw [List.getElem?_append_left (by rw [hf]; exact hi), Nat.div_eq_of_lt hi, Nat.mod_eq_of_lt hi]
      rfl
    · have hdiv : i / 16 = (i - 16) / 16 + 1 := by omega
      rw [List.getElem?_append_right (by rw [hf]; omega), hf, ih, hdiv, show (i - 16) % 16 = i % 16 by omega]
      rfl

@[simp] theorem length_bytesOf (b : Block) : (bytesOf b).length = 16 := by simp [bytesOf]

theorem bytesOf_xor (a b : Block) (i : Nat) (hi : i < 16) :
    (bytesOf (a ^^^ b))[i]? = (bytesOf a)[i]?.map (· ^^^ blockByte b i) := by
  simp [bytesOf, hi, blockByte, fld, BitVec.extractLsb'_xor]

/-- The bytes of a block are those of its number. -/
theorem bytesOf_eq (b : Block) : bytesOf b = bytesBE 16 b.toNat := by
  unfold bytesOf bytesBE
  refine List.map_congr_left fun i hi => ?_
  have hi' : i < 16 := List.mem_range.mp hi
  apply BitVec.eq_of_toNat_eq
  rw [show 256 ^ (16 - 1 - i) = 2 ^ (120 - 8 * i) by rw [show 256 = 2 ^ 8 by rfl, ← Nat.pow_mul]; congr 1; omega]
  simp only [blockByte, fld, BitVec.extractLsb'_toNat, BitVec.toNat_ofNat, Nat.shiftRight_eq_div_pow]

/-- Chunk j of a byte string, filled up with zeros. -/
def paddedChunk (bs : List Byte) (j : Nat) : List Byte :=
  (bs.drop (16 * j)).take 16 ++ List.replicate (16 - ((bs.drop (16 * j)).take 16).length) 0

theorem length_paddedChunk (bs : List Byte) (j : Nat) : (paddedChunk bs j).length = 16 := by
  simp only [paddedChunk, List.length_append, List.length_replicate, List.length_take]
  omega

theorem getElem?_paddedChunk {bs : List Byte} {j i : Nat} (hi : i < 16) (hlen : 16 * j + i < bs.length) :
    (paddedChunk bs j)[i]? = bs[16 * j + i]? := by
  have hin : i < ((bs.drop (16 * j)).take 16).length := by simp only [List.length_take, List.length_drop]; omega
  rw [paddedChunk, List.getElem?_append_left hin, List.getElem?_take_of_lt hi, List.getElem?_drop]

theorem lt_cdiv_sixteen {i n : Nat} (h : i < n) : i / 16 < cdiv n 16 := by
  unfold cdiv
  omega

@[simp] theorem length_blocksOfBytes (bs : List Byte) : (blocksOfBytes bs).length = cdiv bs.length 16 := by simp [blocksOfBytes]

theorem getElem?_blocksOfBytes {bs : List Byte} {j : Nat} (h : j < cdiv bs.length 16) :
    (blocksOfBytes bs)[j]? = some (BitVec.ofNat 128 (natBE (paddedChunk bs j))) := by
  rw [blocksOfBytes, List.getElem?_map, List.getElem?_range h]
  rfl

theorem bytesOf_natBE {bs : List Byte} (h : bs.length = 16) : bytesOf (BitVec.ofNat 128 (natBE bs)) = bs := by
  have hlt : natBE bs < 2 ^ 128 := by simpa [h] using natBE_lt bs
  rw [bytesOf_eq, BitVec.toNat_ofNat, Nat.mod_eq_of_lt hlt, ← h, bytesBE_natBE]

/-- The block that holds byte i of a string holds it in its place. -/
theorem blocksOfBytes_byte {bs : List Byte} {i : Nat} (h : i < bs.length) :
    ((blocksOfBytes bs)[i / 16]?.bind fun b => (bytesOf b)[i % 16]?) = bs[i]? := by
  have hi : 16 * (i / 16) + i % 16 = i := Nat.div_add_mod i 16
  rw [getElem?_blocksOfBytes (lt_cdiv_sixteen h), Option.bind_some, bytesOf_natBE (length_paddedChunk bs _),
    getElem?_paddedChunk (Nat.mod_lt _ (by decide)) (by rwa [hi]), hi]

/-- Blocks made of bytes give them back, whatever they were filled up with. -/
theorem take_blockBytes_blocksOfBytes (bs : List Byte) : (blockBytes (blocksOfBytes bs)).take bs.length = bs := by
  refine List.ext_getElem? fun i => ?_
  by_cases hi : i < bs.length
  · rw [List.getElem?_take_of_lt hi, blockBytes, getElem?_flatMap_of_length _ (fun _ => length_bytesBE 16 _)]
    simp only [← bytesOf_eq]
    exact blocksOfBytes_byte hi
  · rw [List.getElem?_eq_none (by simp; omega), List.getElem?_eq_none (by omega)]

/-! ### The cipher stream undoes itself (R286) -/

/-- Byte i of the key stream. -/
def gcmKeyByte (key : BitVec 256) (iv : List Byte) (i : Nat) : Byte := blockByte (aes256 key (gcmCounter iv (i / 16 + 2))) (i % 16)

theorem getElem?_gcmStream {key : BitVec 256} {iv bs : List Byte} {i : Nat} (h : i < bs.length) :
    (gcmStream key iv bs)[i]? = bs[i]?.map (· ^^^ gcmKeyByte key iv i) := by
  have hblock := getElem?_blocksOfBytes (lt_cdiv_sixteen h)
  have hbyte := blocksOfBytes_byte h
  rw [hblock, Option.bind_some] at hbyte
  have hzip : ((blocksOfBytes bs).zip (List.range (cdiv bs.length 16)))[i / 16]? =
      some (BitVec.ofNat 128 (natBE (paddedChunk bs (i / 16))), i / 16) :=
    List.getElem?_zip_eq_some.mpr ⟨hblock, List.getElem?_range (lt_cdiv_sixteen h)⟩
  rw [gcmStream, List.getElem?_take_of_lt h, getElem?_flatMap_of_length _ (fun _ => length_bytesOf _), hzip, Option.bind_some,
    bytesOf_xor _ _ _ (Nat.mod_lt _ (by decide)), hbyte]
  rfl

theorem length_flatMap_sixteen {α β : Type} (f : α → List β) (hf : ∀ x, (f x).length = 16) (l : List α) : (l.flatMap f).length = 16 * l.length := by
  induction l with
  | nil => rfl
  | cons x l ih => rw [List.flatMap_cons, List.length_append, hf, ih, List.length_cons]; omega

@[simp] theorem length_gcmStream (key : BitVec 256) (iv bs : List Byte) : (gcmStream key iv bs).length = bs.length := by
  rw [gcmStream, List.length_take, length_flatMap_sixteen _ (fun _ => length_bytesOf _), List.length_zip, length_blocksOfBytes,
    List.length_range, Nat.min_self]
  unfold cdiv
  omega

theorem gcmStream_gcmStream (key : BitVec 256) (iv bs : List Byte) : gcmStream key iv (gcmStream key iv bs) = bs := by
  refine List.ext_getElem? fun i => ?_
  by_cases hi : i < bs.length
  · rw [getElem?_gcmStream (by simpa using hi), getElem?_gcmStream hi, List.getElem?_eq_getElem hi]
    simp
  · rw [List.getElem?_eq_none (by simp; omega), List.getElem?_eq_none (by omega)]

/-- R297: a parcel opens under the key, salt, number, header and tree ID that it was sealed with. -/
theorem openParcel_sealedParcel (x : CellKey) (salt : BitVec 32) (pn : Nat) (hdr : Block) (treeId : Nat) (bytes : List Byte) :
    openParcel x salt pn hdr treeId bytes.length (((sealedParcel x salt pn hdr treeId bytes).drop 1).map (·.2)) = some bytes := by
  let cipher := gcmStream x.key (parcelIv salt pn) bytes
  have hlen : cipher.length = bytes.length := length_gcmStream _ _ _
  have hdata : ((sealedParcel x salt pn hdr treeId bytes).drop 1).map (·.2) =
      blocksOfBytes cipher ++ [gcmTag x.key x.sub (parcelIv salt pn) (parcelAad hdr treeId) cipher] := by
    simp [sealedParcel, cipher, Function.comp_def]
  have hcut : cdiv bytes.length 16 = (blocksOfBytes cipher).length := by rw [length_blocksOfBytes, hlen]
  have hcipher : (blockBytes (blocksOfBytes cipher)).take bytes.length = cipher := by
    rw [← hlen, take_blockBytes_blocksOfBytes]
  have htag : (blocksOfBytes cipher ++ [gcmTag x.key x.sub (parcelIv salt pn) (parcelAad hdr treeId) cipher]).getD
      (blocksOfBytes cipher).length 0 = gcmTag x.key x.sub (parcelIv salt pn) (parcelAad hdr treeId) cipher := by
    simp [List.getD_eq_getElem?_getD]
  rw [hdata, openParcel, hcut, List.take_left, hcipher, htag, if_pos rfl, gcmStream_gcmStream]

/-! ### The inputs of keys and tags (R291, R305, Tables 10.1 and 10.3) -/

theorem Dir.num_lt (dir : Dir) : dir.num < 256 ^ 1 := by cases dir <;> decide

theorem Dir.num_inj {dir dir' : Dir} : dir.num = dir'.num ↔ dir = dir' := by cases dir <;> cases dir' <;> decide

theorem kdfContext_inj {purpose tree aid serial fc tree' aid' serial' fc' : Nat} {dir dir' : Dir} (htree : tree < 2 ^ 8)
    (htree' : tree' < 2 ^ 8) (haid : aid < 2 ^ 24) (haid' : aid' < 2 ^ 24) (hserial : serial < 2 ^ 32) (hserial' : serial' < 2 ^ 32)
    (hfc : fc < 2 ^ 64) (hfc' : fc' < 2 ^ 64) :
    kdfContext purpose dir.num tree aid serial fc = kdfContext purpose dir'.num tree' aid' serial' fc' ↔
      dir = dir' ∧ tree = tree' ∧ aid = aid' ∧ serial = serial' ∧ fc = fc' := by
  simp only [kdfContext, List.append_assoc, List.append_cancel_left_eq]
  rw [bytesBE_append_inj dir.num_lt dir'.num_lt, Dir.num_inj, bytesBE_append_inj (w := 1) htree htree',
    bytesBE_append_inj (w := 3) haid haid', bytesBE_append_inj (w := 4) hserial hserial', bytesBE_inj (w := 8) hfc hfc']

theorem kdfInput_inj {i len : Nat} {c c' : List Byte} : kdfInput i len c = kdfInput i len c' ↔ c = c' := by
  simp only [kdfInput, List.append_assoc, List.append_cancel_left_eq, List.append_cancel_right_eq]

/-- The inputs of a derivation say its context, as long as there is one. -/
theorem map_kdfInput_inj {n len : Nat} {c c' : List Byte} :
    (List.range (n + 1)).map (fun i => kdfInput (i + 1) len c) = (List.range (n + 1)).map (fun i => kdfInput (i + 1) len c') ↔ c = c' := by
  refine ⟨fun h => ?_, fun h => h ▸ rfl⟩
  rw [List.range_succ_eq_map, List.map_cons, List.map_cons] at h
  exact kdfInput_inj.mp (List.cons.inj h).1

theorem shiftRight_sixteen_inj (hdr hdr' : Block) : hdr.toNat / 2 ^ 16 = hdr'.toNat / 2 ^ 16 ↔ hdr >>> 16 = hdr' >>> 16 := by
  rw [← BitVec.toNat_inj, BitVec.toNat_ushiftRight, BitVec.toNat_ushiftRight, Nat.shiftRight_eq_div_pow, Nat.shiftRight_eq_div_pow]

theorem headerBits_lt (hdr : Block) : hdr.toNat / 2 ^ 16 < 256 ^ 14 := by
  have h := hdr.isLt
  omega

theorem blockBytes_inj {body body' : List Block} : blockBytes body = blockBytes body' ↔ body = body' := by
  refine ⟨fun h => ?_, fun h => h ▸ rfl⟩
  induction body generalizing body' with
  | nil =>
    cases body' with
    | nil => rfl
    | cons b' body' => exact absurd (congrArg List.length h) (by simp [blockBytes]; omega)
  | cons b body ih =>
    cases body' with
    | nil => exact absurd (congrArg List.length h) (by simp [blockBytes])
    | cons b' body' =>
      obtain ⟨hb, hbody⟩ := (bytesBE_append_inj (w := 16) b.isLt b'.isLt).mp h
      rw [BitVec.toNat_inj.mp hb, ih hbody]

theorem parcelIv_inj {salt salt' : BitVec 32} {pn pn' : Nat} (hpn : pn < 2 ^ 64) (hpn' : pn' < 2 ^ 64) :
    parcelIv salt pn = parcelIv salt' pn' ↔ salt = salt' ∧ pn = pn' := by
  rw [parcelIv, parcelIv, bytesBE_append_inj (w := 4) salt.isLt salt'.isLt, bytesBE_inj (w := 8) hpn hpn', BitVec.toNat_inj]

theorem parcelAad_inj {hdr hdr' : Block} {treeId treeId' : Nat} (h : treeId < 2 ^ 32) (h' : treeId' < 2 ^ 32) :
    parcelAad hdr treeId = parcelAad hdr' treeId' ↔ hdr >>> 16 = hdr' >>> 16 ∧ treeId = treeId' := by
  rw [parcelAad, parcelAad, bytesBE_append_inj (headerBits_lt hdr) (headerBits_lt hdr'), bytesBE_inj (w := 4) h h', shiftRight_sixteen_inj]

theorem noticeIv_inj {salt high seq salt' high' seq' : Nat} (hsalt : salt < 2 ^ 32) (hsalt' : salt' < 2 ^ 32) (hhigh : high < 2 ^ 32)
    (hhigh' : high' < 2 ^ 32) (hseq : seq < 2 ^ 32) (hseq' : seq' < 2 ^ 32) :
    noticeIv salt high seq = noticeIv salt' high' seq' ↔ salt = salt' ∧ high = high' ∧ seq = seq' := by
  simp only [noticeIv, List.append_assoc]
  rw [bytesBE_append_inj (w := 4) hsalt hsalt', bytesBE_append_inj (w := 4) hhigh hhigh', bytesBE_inj (w := 4) hseq hseq']

theorem noticeAad_inj {hdr hdr' : Block} {body body' : List Block} {treeId treeId' : Nat} (h : treeId < 2 ^ 32) (h' : treeId' < 2 ^ 32) :
    noticeAad hdr body treeId = noticeAad hdr' body' treeId' ↔ hdr >>> 16 = hdr' >>> 16 ∧ body = body' ∧ treeId = treeId' := by
  have hsplit : ∀ b : List Block, (b.flatMap fun x => bytesBE 16 x.toNat) = blockBytes b := fun _ => rfl
  simp only [noticeAad, List.append_assoc, hsplit]
  rw [bytesBE_append_inj (headerBits_lt hdr) (headerBits_lt hdr'), shiftRight_sixteen_inj,
    List.append_eq_append_iff_of_size_eq_right (by simp), blockBytes_inj, bytesBE_inj (w := 4) h h']

/-- Settles O30. -/
theorem sealedParcelOpensAndTagSaysEveryInput : Obligations.SealedParcelOpensAndTagSaysEveryInput := by
  refine ⟨openParcel_sealedParcel, ?kdf, ?parcel, ?notice⟩
  case kdf =>
    intro dir dir' tree tree' aid aid' serial serial' fc fc' htree htree' haid haid' hserial hserial' hfc hfc'
    refine ⟨map_kdfInput_inj.trans (kdfContext_inj htree htree' haid haid' hserial hserial' hfc hfc'), ?_⟩
    refine map_kdfInput_inj.trans ((kdfContext_inj htree htree' (by decide) (by decide) (by decide) (by decide) hfc hfc').trans ?_)
    simp
  case parcel =>
    intro salt salt' pn pn' treeId treeId' hdr hdr' hpn hpn' hid hid'
    rw [Prod.mk.injEq, parcelIv_inj hpn hpn', parcelAad_inj hid hid', and_assoc]
  case notice =>
    intro salt salt' high high' seq seq' treeId treeId' hdr hdr' body body' hsalt hsalt' hhigh hhigh' hseq hseq' hid hid'
    rw [Prod.mk.injEq, noticeIv_inj hsalt hsalt' hhigh hhigh' hseq hseq', noticeAad_inj hid hid', and_assoc, and_assoc]

end Sys2Proof
end

section
/-! Where the blocks of a burst stand on its lanes (R120, R122, R126). -/

namespace Sys2Proof

theorem length_burstLane (m c i : Nat) (answering : Bool) (header : List Block) (region : List (Bool × Block)) :
    (burstLane m c i answering header region).length = 40 * c := by
  simp [burstLane]

section
variable (m c i : Nat) (header : List Block) (region : List (Bool × Block))

/-- The block at a position of a lane of a burst that is no answer. -/
theorem burstLane_getElem? {pos : Nat} (h : pos < 40 * c) :
    (burstLane m c i false header region)[pos]? =
      some (if pos + 1 = 40 * c then (true, header.getLastD idleBlock)
        else if pos < 4 then (true, header.getD (4 * i + pos) idleBlock)
        else if pos < 40 then (true, idleBlock)
        else region.getD ((pos - 40) * m + i) (true, idleBlock)) := by
  rw [burstLane, List.getElem?_map, List.getElem?_range h]
  rfl

/-- R126: row r of the parcel region. -/
theorem burstLane_region {r : Nat} (h : 40 + r + 1 < 40 * c) :
    (burstLane m c i false header region)[40 + r]? = some (region.getD (r * m + i) (true, idleBlock)) := by
  rw [burstLane_getElem? m c i header region (by omega), if_neg (by omega), if_neg (by omega), if_neg (by omega), Nat.add_sub_cancel_left]

variable (hc : 2 ≤ c)
include hc

theorem burstLane_last : (burstLane m c i false header region)[40 * c - 1]? = some (true, header.getLastD idleBlock) := by
  rw [burstLane_getElem? m c i header region (by omega), if_pos (by omega)]

theorem burstLane_header {pos : Nat} (h : pos < 4) :
    (burstLane m c i false header region)[pos]? = some (true, header.getD (4 * i + pos) idleBlock) := by
  rw [burstLane_getElem? m c i header region (by omega), if_neg (by omega), if_pos h]

theorem burstLane_idle {pos : Nat} (h : 4 ≤ pos) (h' : pos < 40) : (burstLane m c i false header region)[pos]? = some (true, idleBlock) := by
  rw [burstLane_getElem? m c i header region (by omega), if_neg (by omega), if_neg (by omega), if_pos h']

end

/-- No two blocks of the parcel region have one place. -/
theorem stripePlace_injective {first m j1 j2 : Nat} (h : stripePlace first m j1 = stripePlace first m j2) : j1 = j2 := by
  obtain ⟨hrow, hlane⟩ := Prod.mk.inj h
  rw [← Nat.div_add_mod j1 m, ← Nat.div_add_mod j2 m, hlane, Nat.add_left_cancel hrow]

/-- Settles O29. -/
theorem burstBlocksStandInTheirPlaces : Obligations.BurstBlocksStandInTheirPlaces := by
  intro m c header region hm hc lane
  refine ⟨fun i _ => ⟨length_burstLane .., burstLane_last m c i header region hc, fun q hq => burstLane_header m c i header region hc hq,
    fun q hq hq' => burstLane_idle m c i header region hc hq hq'⟩, fun j hj => ?_, fun j1 j2 h => stripePlace_injective h⟩
  have hrow : j / m < 40 * c - 41 := Nat.div_lt_of_lt_mul hj
  refine ⟨rfl, by simp only [stripePlace]; omega, Nat.mod_lt _ hm, ?_⟩
  have hblock := burstLane_region m c (j % m) header region (r := j / m) (by omega)
  rwa [Nat.mul_comm, Nat.div_add_mod] at hblock

end Sys2Proof
end

section
/-! The path of a mailbox command given as a row of its own, and how a command completes (R400, R401, R404, R405, R407, R408). -/

namespace Sys2Proof

open Machine

/-! ### Completion -/

/-- An instruction whose arm runs f completes with what f leaves of the block at its instant. -/
theorem Machine.completes_of_act {i : Instr} {t : Nat} {f : Dev → Dev} {s : State} {d e : Dev} (hd : s.dev.begin t = d)
    (harm : exec i s = act t f s) (hf : f d = e) : Completes i s e := by
  subst hd hf
  exact harm

/-- A check passes, and so do those after it. -/
theorem passes_cons {c : Check} {cs : List Check} (hc : c = none) (hcs : ∀ x ∈ cs, x = none) : ∀ x ∈ c :: cs, x = none :=
  List.forall_mem_cons.2 ⟨hc, hcs⟩

theorem passes_nil : ∀ x ∈ ([] : List Check), x = none := List.forall_mem_nil _

theorem passes_append {cs cs' : List Check} (h : ∀ x ∈ cs, x = none) (h' : ∀ x ∈ cs', x = none) : ∀ x ∈ cs ++ cs', x = none :=
  List.forall_mem_append.2 ⟨h, h'⟩

/-- A mailbox command that runs at once and whose checks all pass completes with the answer of its last step. -/
theorem Machine.completes_of_checks {i : Instr} {t op : Nat} {c : Cmd} {rq : Req} {s : State} {d e : Dev} {cs : List Check} {k : Resp × Dev}
    {r : Resp} (hd : s.dev.begin t = d) (harm : exec i s = act t (runCmd op c rq) s) (hnow : d.runsNow rq.mb.val = true)
    (hcmd : c rq d = withChecks cs d k) (hpass : ∀ x ∈ cs, x = none) (hk : k = (r, e)) : Completes i s (e.answer rq op r) :=
  completes_of_act hd harm (by rw [runCmd_accepted hnow, hcmd, withChecks_pass hpass, hk])

/-- The same for a command over a domain, whose checks and last step see the woken block (R381). -/
theorem Machine.completes_of_domainChecks {i : Instr} {t op : Nat} {dom : Nat → Nat} {c : Cmd} {rq : Req} {s : State} {d e : Dev}
    {cs : List Check} {k : Resp × Dev} {rs : List Dword} (hd : s.dev.begin t = d)
    (harm : exec i s = act t (runCmd op (domainCmd dom c) rq) s) (hnow : d.runsNow rq.mb.val = true)
    (hcmd : c rq (d.wake (dom (rq.prm 0)) causeHost) = withChecks cs (d.wake (dom (rq.prm 0)) causeHost) k)
    (hpass : ∀ x ∈ cs, x = none) (hk : k = okWith e rs) : Completes i s (e.answer rq op { results := rs }) :=
  completes_of_act hd harm (runCmd_domain hnow (hcmd.trans ((withChecks_pass hpass).trans hk)))

/-- The checks of a command that needs function 0 alone begin with its length and readiness. -/
theorem mgmtChecks_pass {rq : Req} {d : Dev} {n : Nat} {cs : List Check} (hlen : rq.len = n) (hready : ∀ f ∈ [0], d.isReady f = true)
    (hcs : ∀ x ∈ cs, x = none) : ∀ x ∈ chkLen rq n :: chkReady d [[0]] :: cs, x = none :=
  passes_cons (chkLen_none hlen) (passes_cons (chkReady_one (hready 0 (List.mem_singleton_self 0))) hcs)

/-- A search that finds nothing names no fault. -/
theorem find?_map_none {α : Type} {l : List α} {p : α → Bool} {f : α → Resp} (h : ∀ x ∈ l, p x = false) : (l.find? p).map f = none := by
  rw [Option.map_eq_none_iff, List.find?_eq_none]
  exact fun x hx => by simp [h x hx]

/-! ### Rows of the mailboxes -/

/-- Every row of the mailboxes runs the command that its opcode names (R408). -/
theorem exec_mailboxRow {row : Nat × (Nat → Req → Instr)} (hrow : row ∈ mailboxRows) (s : State) (t : Nat) (rq : Req) :
    ∃ c, commandOf s.log row.1 = some c ∧ exec (row.2 t rq) s = act t (runCmd row.1 c rq) s := by
  revert row
  simp only [mailboxRows, List.forall_mem_cons, List.not_mem_nil, false_implies, implies_true, and_true]
  and_intros <;> exact ⟨_, rfl, rfl⟩

theorem Dev.doorbellOk_eq_false {d : Dev} {m : Nat} (h : (d.mbox m).busy = true ∨ d.isReady 0 = false) : d.doorbellOk m = false := by
  rcases h with h | h <;> simp [Dev.doorbellOk, h]

theorem Dev.doorbellOk_of_idle {d : Dev} {m : Nat} (hidle : (d.mbox m).busy = false) (hready : d.isReady 0 = true) : d.doorbellOk m = true := by
  simp [Dev.doorbellOk, hidle, hready]

/-- A doorbell that is taken runs its command at once exactly when no command before it still waits (R407). -/
theorem Dev.runsNow_iff {d : Dev} {m : Nat} (hok : d.doorbellOk m = true) : d.runsNow m = true ↔ ∀ x ∈ d.host.turns, d.isHeld x = false := by
  simp [Dev.runsNow, hok]

/-- A command that runs at once runs as its opcode. -/
theorem runCmd_eq_runOpcode {g : EvLog} {op : Nat} {c : Cmd} {rq : Req} {d : Dev} (hc : commandOf g op = some c)
    (hnow : d.runsNow rq.mb.val = true) : runCmd op c rq d = d.runOpcode g op rq := by
  rw [runCmd_accepted hnow, Dev.runOpcode, hc]

/-- Settles O7: a row runs the command of its opcode, and `runCmd` has three cases: the doorbell is ignored, the command is held, or it
runs. -/
theorem mailboxRowsRunTheirOpcodes : Obligations.MailboxRowsRunTheirOpcodes := by
  intro row hrow s t rq d waits
  obtain ⟨c, hc, harm⟩ := exec_mailboxRow hrow s t rq
  refine ⟨fun hout => completes_of_act rfl harm (runCmd_ignored (Dev.doorbellOk_eq_false hout)), fun hidle hready => ?_⟩
  have hok := Dev.doorbellOk_of_idle hidle hready
  constructor
  · rintro ⟨m, hm, hwaits⟩
    refine completes_of_act rfl harm (runCmd_held hok ?_)
    rw [Bool.eq_false_iff, ne_eq, Dev.runsNow_iff hok]
    exact fun hnone => by simp [Dev.isHeld] at hnone; simp [waits, hnone m hm] at hwaits
  · intro hnone
    exact completes_of_act rfl harm (runCmd_eq_runOpcode hc ((Dev.runsNow_iff hok).2 hnone))

end Sys2Proof
end

section
/-! A refused command changes nothing (R404, R405). -/

namespace Sys2Proof

/-- A command that answers neither OK nor ASYNC leaves the block as it was. -/
abbrev Cmd.Harmless (c : Cmd) : Prop := ∀ rq d, (c rq d).1.code = .ok ∨ (c rq d).1.code = .async ∨ (c rq d).2 = d

/-- Checks that end in a harmless step are harmless. -/
theorem withChecks_harmless {cs : List Check} {d : Dev} {k : Resp × Dev} (hk : k.1.code = .ok ∨ k.1.code = .async ∨ k.2 = d) :
    (withChecks cs d k).1.code = .ok ∨ (withChecks cs d k).1.code = .async ∨ (withChecks cs d k).2 = d := by
  unfold withChecks
  split
  · exact .inr (.inr rfl)
  · exact hk

/-- A command on a domain keeps the woken block only where its answer is OK or ASYNC (R381). -/
theorem domainCmd_harmless (dom : Nat → Nat) (c : Cmd) : (domainCmd dom c).Harmless := by
  intro rq d
  by_cases hcode : (domainCmd dom c rq d).1.code = .ok ∨ (domainCmd dom c rq d).1.code = .async
  · exact hcode.imp_right .inl
  · exact .inr (.inr (domainCmd_refused (not_or.1 hcode).1 (not_or.1 hcode).2))

theorem tablesCmd_harmless (c : Cmd) : (tablesCmd c).Harmless := domainCmd_harmless _ c
theorem memCmd_harmless (c : Cmd) : (memCmd c).Harmless := domainCmd_harmless _ c

theorem cmdAddrInsert_harmless : cmdAddrInsert.Harmless := by
  intro rq d
  refine withChecks_harmless (.inl ?_)
  split <;> rfl

theorem cmdAddrDelete_harmless : cmdAddrDelete.Harmless := by
  intro rq d
  refine withChecks_harmless (.inl ?_)
  dsimp only
  split <;> rfl

theorem cmdAddrLookup_harmless : cmdAddrLookup.Harmless := by
  intro rq d
  refine withChecks_harmless (.inl ?_)
  dsimp only
  split <;> rfl

theorem cmdKeyCtxSet_harmless : cmdKeyCtxSet.Harmless := by
  intro rq d
  refine withChecks_harmless (.inl ?_)
  dsimp only
  split <;> rfl

theorem cmdFwLoad_harmless : cmdFwLoad.Harmless := fun _ _ => withChecks_harmless (.inr (.inl rfl))
theorem cmdFwUpdate_harmless : cmdFwUpdate.Harmless := fun _ _ => withChecks_harmless (.inr (.inl rfl))
theorem cmdLaneEyeScan_harmless : cmdLaneEyeScan.Harmless := fun _ _ => withChecks_harmless (.inr (.inl rfl))

/-- The command of every opcode but two is harmless: the checks of those not named above end in an answer OK. -/
theorem commandOf_harmless {g : EvLog} {op : Nat} {c : Cmd} (hc : commandOf g op = some c) (htx : op ≠ 0x0210) (hpwr : op ≠ 0x0D11) :
    c.Harmless := by
  revert hc
  unfold commandOf
  split <;> intro hc <;> cases hc
  any_goals with_reducible exact cmdAddrInsert_harmless
  any_goals with_reducible exact cmdAddrDelete_harmless
  any_goals with_reducible exact cmdAddrLookup_harmless
  any_goals with_reducible exact cmdKeyCtxSet_harmless
  any_goals with_reducible exact cmdFwLoad_harmless
  any_goals with_reducible exact cmdFwUpdate_harmless
  any_goals with_reducible exact cmdLaneEyeScan_harmless
  any_goals with_reducible contradiction
  any_goals with_reducible exact tablesCmd_harmless _
  any_goals with_reducible exact memCmd_harmless _
  all_goals exact fun _ _ => withChecks_harmless (.inl rfl)

/-- Settles O8: what the command of the opcode leaves, and its answer. -/
theorem refusedCommandChangesNothing : Obligations.RefusedCommandChangesNothing := by
  intro g op c rq d hc htx hpwr hok hasync
  have hsame : (c rq d).2 = d := ((commandOf_harmless hc htx hpwr rq d).resolve_left hok).resolve_left hasync
  refine ⟨hsame, ?_⟩
  unfold Dev.runOpcode
  simp only [hc, hsame]

end Sys2Proof
end

section
/-! A write to one slice leaves every other slice and the shared state (R381 for the wake of its tables). -/

namespace Sys2Proof

/-- The command leaves what lies outside the slice that its dword 0 names. -/
abbrev Cmd.StaysInSlice (c : Cmd) : Prop := ∀ rq d, rq.prm 0 ≤ 7 → outside (rq.prm 0) (c rq d).2 = outside (rq.prm 0) d

theorem withChecks_outside {n : Nat} {cs : List Check} {d : Dev} {k : Resp × Dev} (h : outside n k.2 = outside n d) :
    outside n (withChecks cs d k).2 = outside n d :=
  withChecks_keeps (outside n) h

theorem tablesCmd_staysInSlice {c : Cmd} (h : ∀ rq d, outside (rq.prm 0) (c rq d).2 = outside (rq.prm 0) d) : (tablesCmd c).StaysInSlice :=
  fun rq _ hn => outside_tablesCmd hn (h rq)

/-! ### The commands that write tables, with the wake of the slice's TABLES domain -/

theorem cmdTpidSet_staysInSlice : cmdTpidSet.StaysInSlice := fun _ _ hn =>
  withChecks_outside ((outside_modTab ..).trans (outside_wakeTables _ hn _))

theorem writeOne_staysInSlice (code width top : Nat) : (writeOne code width top).StaysInSlice := fun _ _ hn =>
  withChecks_outside ((outside_writeEntry ..).trans (outside_wakeTables _ hn _))

theorem cmdRuleWrite_staysInSlice : cmdRuleWrite.StaysInSlice := fun _ _ hn =>
  withChecks_outside ((outside_forEach _ _ _ (fun _ _ => outside_writeEntry ..) _).trans (outside_wakeTables _ hn _))

theorem cmdLftWrite_staysInSlice : cmdLftWrite.StaysInSlice := fun _ _ hn =>
  withChecks_outside ((outside_modTab ..).trans (outside_wakeTables _ hn _))

/-- An address entry is written and its key forgotten by the learn filter. -/
theorem outside_setAddr_forgetKey (n i : Nat) (e : AddrEntry) (v : BitVec 12) (m : BitVec 48) (d : Dev) :
    outside n ((d.setAddr n i e).forgetKey n v m) = outside n d :=
  (outside_forgetKey ..).trans (outside_setAddr ..)

theorem cmdAddrInsert_staysInSlice : cmdAddrInsert.StaysInSlice := by
  intro rq d hn
  refine withChecks_outside ?_
  split
  · rfl
  · exact (outside_setAddr_forgetKey ..).trans (outside_wakeTables _ hn _)

theorem cmdAddrDelete_staysInSlice : cmdAddrDelete.StaysInSlice := by
  intro rq d hn
  refine withChecks_outside ?_
  dsimp only
  split
  · rfl
  · exact (outside_setAddr_forgetKey ..).trans (outside_wakeTables _ hn _)

theorem cmdAddrFlush_staysInSlice : cmdAddrFlush.StaysInSlice := fun _ _ hn =>
  withChecks_outside ((outside_forEach _ _ _ (fun _ _ => outside_setAddr_forgetKey ..) _).trans (outside_wakeTables _ hn _))

theorem cmdLearnCfgSet_staysInSlice : cmdLearnCfgSet.StaysInSlice := fun _ _ hn =>
  withChecks_outside ((outside_modTab ..).trans (outside_wakeTables _ hn _))

theorem cmdShadowSet_staysInSlice : cmdShadowSet.StaysInSlice := fun _ _ _ => withChecks_outside (outside_modTab ..)

/-! ### The commands that run on the woken TABLES domain -/

theorem cmdBufCfgSet_staysInSlice : (tablesCmd cmdBufCfgSet).StaysInSlice :=
  tablesCmd_staysInSlice fun _ _ => withChecks_outside (outside_modBuf ..)

theorem cmdStallholderSet_staysInSlice : (tablesCmd cmdStallholderSet).StaysInSlice :=
  tablesCmd_staysInSlice fun _ _ => withChecks_outside (outside_modBuf ..)

theorem cmdMeterWrite_staysInSlice : (tablesCmd cmdMeterWrite).StaysInSlice :=
  tablesCmd_staysInSlice fun _ _ => withChecks_outside (outside_modSched ..)

theorem cmdSchedSet_staysInSlice : (tablesCmd cmdSchedSet).StaysInSlice :=
  tablesCmd_staysInSlice fun _ _ => withChecks_outside (outside_modSlice ..)

/-! ### The commands that configure what a slice observes -/

theorem cmdCountWindowSet_staysInSlice : cmdCountWindowSet.StaysInSlice := fun _ _ _ => withChecks_outside (outside_modObs ..)
theorem cmdBwCfgSet_staysInSlice : cmdBwCfgSet.StaysInSlice := fun _ _ _ => withChecks_outside (outside_modObs ..)
theorem cmdPerfCfgSet_staysInSlice : cmdPerfCfgSet.StaysInSlice := fun _ _ _ => withChecks_outside (outside_modObs ..)

/-- The opcodes of the commands that write a table or a configuration of one slice. -/
theorem commandOf_staysInSlice {g : EvLog} {op : Nat} {c : Cmd} (hc : commandOf g op = some c)
    (hop : op ∈ [0x0611, 0x0613, 0x0614, 0x0615, 0x0616, 0x0710, 0x0711, 0x0712, 0x0714, 0x0715, 0x0716, 0x0810, 0x0811, 0x0910, 0x0912, 0x1010,
      0x1012, 0x1013]) : c.StaysInSlice := by
  simp only [List.mem_cons, List.not_mem_nil, or_false] at hop
  rcases hop with rfl | rfl | rfl | rfl | rfl | rfl | rfl | rfl | rfl | rfl | rfl | rfl | rfl | rfl | rfl | rfl | rfl | rfl <;> cases hc
  exacts [cmdTpidSet_staysInSlice, writeOne_staysInSlice _ _ _, writeOne_staysInSlice _ _ _, writeOne_staysInSlice _ _ _, cmdRuleWrite_staysInSlice,
    cmdLftWrite_staysInSlice, cmdAddrInsert_staysInSlice, cmdAddrDelete_staysInSlice, cmdAddrFlush_staysInSlice, cmdLearnCfgSet_staysInSlice,
    cmdShadowSet_staysInSlice, cmdBufCfgSet_staysInSlice, cmdStallholderSet_staysInSlice, cmdMeterWrite_staysInSlice, cmdSchedSet_staysInSlice,
    cmdCountWindowSet_staysInSlice, cmdBwCfgSet_staysInSlice, cmdPerfCfgSet_staysInSlice]

/-- What `outside` keeps, part by part. -/
theorem outside_eq {n : Nat} {d e : Dev} (h : outside n e = outside n d) :
    (∀ m, m ≠ n → e.slice m = d.slice m) ∧ (∀ k, e.tree k = d.tree k) ∧ (∀ l, e.txLane l = d.txLane l ∧ e.rxLane l = d.rxLane l) ∧
    (∀ p, e.port p = d.port p) ∧ (∀ m, (e.stack m).map = (d.stack m).map) ∧ e.vault = d.vault ∧ e.time = d.time ∧ e.now = d.now := by
  simp only [outside, Prod.mk.injEq] at h
  obtain ⟨hslice, htree, hlane, hport, hmap, hvault, htime, hnow⟩ := h
  refine ⟨fun m hm => ?_, congrFun htree, fun l => ?_, congrFun hport, congrFun hmap, hvault, htime, hnow⟩
  · simpa [hm] using congrFun hslice m
  · simpa using congrFun hlane l

/-- Settles O32. -/
theorem sliceWritesStayInTheirSlice : Obligations.SliceWritesStayInTheirSlice :=
  fun _ _ _ rq d hc hn hop => outside_eq (commandOf_staysInSlice hc hop rq d hn)

end Sys2Proof
end

section
/-! Readiness settles by the dependencies of Table 14.3 (R396, R397), and the persistent records come back from flash (R395). -/

namespace Sys2Proof

/-! ### Readiness -/

/-- All that function f depends on is ready, and the firmware runs where f is function 0. -/
def Dev.depsOk (d : Dev) (f : Nat) : Bool := (depsOf f).all d.isReady && (f != 0 || d.host.fw.running)

/-- Function f settles once the functions before it have. -/
def Dev.settleOne (d : Dev) (f : Nat) : Dev :=
  if d.isReady f && !d.depsOk f then d.setReady f { st := 0, reason := 2 }
  else if !d.isReady f && d.depsOk f && d.host.initDone.get false f then d.setReady f { st := 1, reason := 0 }
  else d

theorem Dev.settleReady_eq (d : Dev) : d.settleReady = (List.range 43).foldl Dev.settleOne d := rfl

theorem Dev.depsOk_iff {d : Dev} {f : Nat} :
    d.depsOk f = true ↔ (∀ g ∈ depsOf f, d.isReady g = true) ∧ (f = 0 → d.host.fw.running = true) := by
  simp only [Dev.depsOk, Bool.and_eq_true, List.all_eq_true, Bool.or_eq_true, bne_iff_ne, ne_eq, imp_iff_not_or]

/-- A function depends on functions of lower numbers only. -/
theorem depsOf_lt {f g : Nat} (hg : g ∈ depsOf f) : g < f := by
  unfold depsOf at hg
  split at hg
  · simp at hg
  · split at hg
    · simp at hg; omega
    · split at hg
      · simp at hg; omega
      · simp at hg; omega

theorem Dev.depsOk_congr {d e : Dev} {f : Nat} (hready : ∀ g < f, e.isReady g = d.isReady g) (hfw : e.host.fw = d.host.fw) :
    e.depsOk f = d.depsOk f := by
  rw [Bool.eq_iff_iff, Dev.depsOk_iff, Dev.depsOk_iff, hfw]
  exact and_congr_left' (forall₂_congr fun g hg => by rw [hready g (depsOf_lt hg)])

theorem Dev.settleOne_host (d : Dev) (f : Nat) : (d.settleOne f).host.fw = d.host.fw ∧ (d.settleOne f).host.initDone = d.host.initDone := by
  unfold Dev.settleOne
  split
  · exact setReady_fw ..
  · split
    · exact setReady_fw ..
    · exact ⟨rfl, rfl⟩

theorem Dev.settleOne_other {d : Dev} {f g : Nat} (h : f ≠ g) : (d.settleOne f).isReady g = d.isReady g := by
  unfold Dev.settleOne
  split
  · exact setReady_other _ _ _ _ h
  · split
    · exact setReady_other _ _ _ _ h
    · rfl

/-- Function f is ready after its turn only with its dependencies, and only if it was or its own initialisation has completed. -/
theorem Dev.settleOne_ready {d : Dev} {f : Nat} (h : (d.settleOne f).isReady f = true) :
    d.depsOk f = true ∧ (d.isReady f = true ∨ d.host.initDone.get false f = true) := by
  unfold Dev.settleOne at h
  split at h
  · simp [setReady_same] at h
  · next hstay =>
    split at h
    · next hup =>
      simp only [Bool.and_eq_true] at hup
      exact ⟨hup.1.2, .inr hup.2⟩
    · exact ⟨by simpa [h] using hstay, .inl h⟩

/-- A ready function with its dependencies stays ready. -/
theorem Dev.settleOne_stays {d : Dev} {f : Nat} (hready : d.isReady f = true) (hdeps : d.depsOk f = true) : (d.settleOne f).isReady f = true := by
  simp [Dev.settleOne, hready, hdeps]

/-- The functions below n have settled: what the readiness of d has become in e. -/
structure Dev.Settled (d : Dev) (n : Nat) (e : Dev) : Prop where
  fw : e.host.fw = d.host.fw
  initDone : e.host.initDone = d.host.initDone
  untouched : ∀ f, n ≤ f → e.isReady f = d.isReady f
  onlyWithDeps : ∀ f < n, e.isReady f = true → e.depsOk f = true ∧ (d.isReady f = true ∨ d.host.initDone.get false f = true)
  staysWithDeps : ∀ f < n, d.isReady f = true → e.depsOk f = true → e.isReady f = true

theorem Dev.Settled.step {d e : Dev} {n : Nat} (h : d.Settled n e) : d.Settled (n + 1) (e.settleOne n) := by
  obtain ⟨hfw, hinit⟩ := Dev.settleOne_host e n
  have hdeps : ∀ f ≤ n, (e.settleOne n).depsOk f = e.depsOk f := fun f hf =>
    Dev.depsOk_congr (fun g hg => Dev.settleOne_other (by omega)) hfw
  refine ⟨hfw.trans h.fw, hinit.trans h.initDone, fun f hf => ?_, fun f hf hready => ?_, fun f hf hready hok => ?_⟩
  · exact (Dev.settleOne_other (by omega)).trans (h.untouched f (by omega))
  · rw [hdeps f (by omega)]
    rcases Nat.lt_succ_iff_lt_or_eq.1 hf with hlt | rfl
    · rw [Dev.settleOne_other (by omega)] at hready
      exact h.onlyWithDeps f hlt hready
    · have := Dev.settleOne_ready hready
      rwa [h.untouched f le_rfl, h.initDone] at this
  · rw [hdeps f (by omega)] at hok
    rcases Nat.lt_succ_iff_lt_or_eq.1 hf with hlt | rfl
    · rw [Dev.settleOne_other (by omega)]
      exact h.staysWithDeps f hlt hready hok
    · exact Dev.settleOne_stays (by rwa [h.untouched f le_rfl]) hok

theorem Dev.settled_range (d : Dev) (n : Nat) : d.Settled n ((List.range n).foldl Dev.settleOne d) := by
  induction n with
  | zero => exact ⟨rfl, rfl, fun _ _ => rfl, fun f hf => absurd hf (by omega), fun f hf => absurd hf (by omega)⟩
  | succ n ih =>
    rw [List.range_succ, List.foldl_append]
    exact ih.step

/-- Settles O12, by the invariant of the functions settled so far. -/
theorem readyOnlyAfterItsDependencies : Obligations.ReadyOnlyAfterItsDependencies := by
  intro d e
  have h : d.Settled 43 e := d.settled_range 43
  refine ⟨fun f hf hready => ?_, fun f hf hready hdeps hfw => ?_, fun f _ g hg => depsOf_lt hg⟩
  · obtain ⟨hok, hwas⟩ := h.onlyWithDeps f hf hready
    rw [Dev.depsOk_iff, h.fw] at hok
    exact ⟨hok.1, hok.2, hwas⟩
  · exact h.staysWithDeps f hf hready (Dev.depsOk_iff.2 ⟨hdeps, by rwa [h.fw]⟩)

/-! ### The persistent records -/

/-- What every round of a loop keeps, the loop keeps. -/
theorem Dev.forEach_keeps {α β : Type} (P : Dev → β) {f : α → Dev → Dev} (h : ∀ x e, P (f x e) = P e) (l : List α) (d : Dev) :
    P (d.forEach l f) = P d := by
  unfold Dev.forEach
  induction l generalizing d with
  | nil => rfl
  | cons a l ih => rw [List.foldl_cons, ih, h]

theorem Dev.tree_forEach_modStack (g : Nat → Stack → Stack) (l : List Nat) (d : Dev) (k : Nat) :
    (d.forEach l fun n d => d.modStack n (g n)).tree k = d.tree k :=
  Dev.forEach_keeps (fun e => e.tree k) (f := fun n d => d.modStack n (g n)) (fun _ _ => rfl) l d

theorem Dev.restoreRecords_dt (dt : Tab DtRec) (maps : Tab RankMap) (d : Dev) {k : Nat} (hk : k < 64) :
    ((d.restoreRecords dt maps).tree k).dt = dt.get {} k := by
  unfold Dev.restoreRecords
  dsimp only
  rw [Dev.tree_forEach_modStack, tree_dt_forEach, if_pos (List.mem_range.2 hk)]

theorem Dev.restoreRecords_map (dt : Tab DtRec) (maps : Tab RankMap) (d : Dev) {n : Nat} (hn : n < 8) :
    ((d.restoreRecords dt maps).stack n).map = maps.get {} n := by
  unfold Dev.restoreRecords
  dsimp only
  rw [stack_map_forEach maps _ (fun _ _ => rfl), if_pos (List.mem_range.2 hn)]

/-- The flash from which the boot ROM takes the records of d. -/
theorem Dev.loadRecords_of_bestCopy {d e : Dev} {g : Nat} (h : e.bestCopy = some (g, d.dtRecords, d.rankMaps)) :
    (∀ k < 64, ((e.loadRecords false).tree k).dt = (d.tree k).dt) ∧ (∀ n < 8, ((e.loadRecords false).stack n).map = (d.stack n).map) ∧
    e.loadRecords true = e := by
  have hcold : e.loadRecords false = e.restoreRecords d.dtRecords d.rankMaps := by simp [Dev.loadRecords, h]
  rw [hcold]
  refine ⟨fun k hk => ?_, fun n hn => ?_, by simp [Dev.loadRecords, h]⟩
  · rw [Dev.restoreRecords_dt _ _ _ hk]
    exact Tab.get_foldl_set _ (fun k => (d.tree k).dt) 64 k hk
  · rw [Dev.restoreRecords_map _ _ _ hn]
    exact Tab.get_foldl_set _ (fun n => (d.stack n).map) 8 n hn

/-- The write gives the copy that it makes a higher generation than the other copy's, and leaves the other alone. -/
theorem Dev.writeRecords_cases {d : Dev} (hdirty : d.recDirty = true) (hruns : d.host.fw.running = true)
    (hA : ∀ x, d.flashA = some x → x.1 + 1 < 2 ^ 32) (hB : ∀ x, d.flashB = some x → x.1 + 1 < 2 ^ 32) :
    ∃ g, (d.writeRecords = { d with recDirty := false, flashA := some (g, d.dtRecords, d.rankMaps) } ∧ ∀ b, d.flashB = some b → b.1 < g) ∨
      (d.writeRecords = { d with recDirty := false, flashB := some (g, d.dtRecords, d.rankMaps) } ∧ ∃ a, d.flashA = some a ∧ a.1 < g) := by
  unfold Dev.writeRecords
  rw [if_pos (by simp [hdirty, hruns])]
  refine ⟨(max ((d.flashA.map (·.1)).getD 0) ((d.flashB.map (·.1)).getD 0) + 1) % 2 ^ 32, ?_⟩
  dsimp only
  cases ha : d.flashA with
  | none =>
    refine .inl ⟨rfl, fun b hb => ?_⟩
    have hgen := hB b hb
    rw [hb]
    change b.1 < (max 0 b.1 + 1) % 2 ^ 32
    omega
  | some a =>
    have hgen := hA a ha
    cases hb : d.flashB with
    | none =>
      refine .inr ⟨rfl, a, rfl, ?_⟩
      change a.1 < (max a.1 0 + 1) % 2 ^ 32
      omega
    | some b =>
      have hgen' := hB b hb
      have hlt : a.1 < (max a.1 b.1 + 1) % 2 ^ 32 ∧ b.1 < (max a.1 b.1 + 1) % 2 ^ 32 := by
        rw [Nat.mod_eq_of_lt (by omega)]
        omega
      by_cases hle : a.1 ≤ b.1
      · refine .inl ⟨by simp [hle], ?_⟩
        rintro _ ⟨⟩
        exact hlt.2
      · exact .inr ⟨by simp [hle], a, rfl, hlt.1⟩

/-- The boot ROM takes the copy that was written. -/
theorem Dev.writeRecords_copies {d : Dev} (hdirty : d.recDirty = true) (hruns : d.host.fw.running = true)
    (hA : ∀ x, d.flashA = some x → x.1 + 1 < 2 ^ 32) (hB : ∀ x, d.flashB = some x → x.1 + 1 < 2 ^ 32) :
    d.writeRecords.recDirty = false ∧ (d.writeRecords.flashA = d.flashA ∨ d.writeRecords.flashB = d.flashB) ∧
    ∃ g, d.writeRecords.bestCopy = some (g, d.dtRecords, d.rankMaps) := by
  obtain ⟨g, ⟨hw, hb⟩ | ⟨hw, a, ha, hlt⟩⟩ := Dev.writeRecords_cases hdirty hruns hA hB <;> rw [hw]
  · refine ⟨rfl, .inr rfl, g, ?_⟩
    cases hfb : d.flashB with
    | none => simp [Dev.bestCopy]
    | some b => simp [Dev.bestCopy, (hb b hfb).le]
  · exact ⟨rfl, .inl rfl, g, by simp [Dev.bestCopy, ha, hlt]⟩

/-- Settles O14. -/
theorem persistentRecordsComeBack : Obligations.PersistentRecordsComeBack := by
  intro d hdirty hruns hA hB w
  obtain ⟨hclean, hone, g, hbest⟩ := Dev.writeRecords_copies hdirty hruns hA hB
  refine ⟨hclean, hone, fun e heA heB => Dev.loadRecords_of_bestCopy (g := g) ?_⟩
  rw [← hbest]
  unfold Dev.bestCopy
  rw [heA, heB]

end Sys2Proof
end

section
/-! What reset leaves: every table of the state is empty, so each of its entries has the value of its kind's default. -/

namespace Sys2Proof

open Machine

/-- A tree that has accepted nothing passes no AID. -/
theorem Accept.passes_reset (aid : Nat) : ({} : Accept).passes aid = false := by
  change (!List.contains [] (aid / 32) && false) = false
  exact Bool.and_false _

/-- The ingress configuration of a port before any write: DEFAULT_CLASS is 7 (Table 6.2). -/
theorem Tables.cfg_reset (p : Nat) : (({} : Tables).cfg p).bits 0 3 11 = 7 := by
  change ingressReset.bits 0 3 11 = 7
  decide

/-- Settles O3. -/
theorem resetLeavesTheStatedValues : Obligations.ResetLeavesTheStatedValues := by
  unfold Obligations.ResetLeavesTheStatedValues
  exact ⟨rfl, rfl, ⟨rfl, rfl, rfl, rfl, rfl, rfl, rfl, rfl⟩, fun _ _ => ⟨rfl, rfl⟩, rfl, fun _ => rfl, fun _ => ⟨rfl, rfl, rfl⟩,
    fun _ => ⟨rfl, rfl, rfl, rfl, rfl, rfl, rfl, rfl, Accept.passes_reset⟩,
    fun _ => ⟨rfl, rfl, Tables.cfg_reset, rfl, rfl, rfl, fun _ => ⟨rfl, rfl⟩, fun _ => ⟨rfl, rfl, rfl, rfl, rfl, rfl⟩,
      fun _ => ⟨rfl, rfl, rfl, rfl, rfl⟩, rfl⟩, rfl, rfl, fun _ => rfl⟩

end Sys2Proof
end

section
/-! The commands and the events of the timebase (chapter 12). -/

namespace Sys2Proof

open Machine

/-! ### Commands of Table 12.10 -/

/-- The length and the readiness of a time command pass. -/
theorem timeChecks_pass {rq : Req} {d : Dev} {n : Nat} (hlen : rq.len = n) (hready : ∀ f ∈ [1], d.isReady f = true) :
    ∀ x ∈ timeChecks rq d n, x = none :=
  passes_cons (chkLen_none hlen) (passes_cons (chkReady_one (hready 1 (List.mem_singleton_self 1))) passes_nil)

/-- Settles O33. -/
theorem timeCommandsComplete : Obligations.TimeCommandsComplete := by
  intro s t rq d w
  have hd : s.dev.begin t = d := rfl
  clear_value d
  refine ⟨?_, ?_, ?_, ?_, ?_, ?_, ?_, fun v => ?_⟩
  · intro ⟨hnow, hlen, hready⟩ h0 h1 h2 h3
    refine completes_of_checks hd rfl hnow rfl
      (passes_append (timeChecks_pass hlen hready) (passes_cons (chkRange_none (by simp; omega)) passes_nil)) ?_
    refine congrArg (fun f => okDone (w.modTime f)) (funext fun x => ?_)
    split <;> rfl
  · intro ⟨hnow, hlen, hready⟩ hsource
    exact completes_of_checks hd rfl hnow rfl
      (passes_append (timeChecks_pass hlen hready) (passes_cons (failIf_false _ _ (by simp [hsource])) passes_nil)) rfl
  · intro ⟨hnow, hlen, hready⟩ h0 hsource harmed
    exact completes_of_checks hd rfl hnow rfl
      (passes_append (timeChecks_pass hlen hready) (passes_cons (chkRange_none (by simp; omega))
        (passes_cons (failIf_false _ _ (by simp [hsource])) (passes_cons (failIf_false _ _ (by simp [harmed])) passes_nil)))) rfl
  · intro ⟨hnow, hlen, hready⟩
    exact completes_of_checks hd rfl hnow rfl (timeChecks_pass hlen hready) rfl
  · intro ⟨hnow, hlen, hready⟩ h0 h1 h2
    exact completes_of_checks hd rfl hnow rfl
      (passes_append (timeChecks_pass hlen hready) (passes_cons (chkRange_none (by simp; omega)) passes_nil)) rfl
  · intro ⟨hnow, hlen, hready⟩ h0 hslice
    exact completes_of_checks hd rfl hnow rfl
      (passes_cons (chkLen_none hlen) (passes_cons (chkReady_two (hready 1 (List.mem_singleton_self 1)) h0 hslice)
        (passes_cons (chkRange_none (by simp; omega)) passes_nil))) rfl
  · exact completes_of_act (f := fun d => d.modTime fun x => { x with snap := d.devLin.toNat, frcSnap := d.frcLin }) hd rfl rfl
  · refine completes_of_act hd rfl ?_
    cases hv : v.getLsbD 6 <;> simp [Dev.modTime, hd]

/-! ### Events -/

theorem Dev.ppsEdge_early {d : Dev} {frac : Nat} {l : Int} (hon : d.timeOn = true) (hlast : d.time.ppsInLast = some l)
    (hearly : ((d.frcLin + frac % 65536 / 512 * 512 : Nat) : Int) - l < 100000000 * 65536) :
    d.ppsEdge frac = (d.modTime fun x => { x with ppsGlitch := true }).bump .ppsIgnored 0 0 := by
  unfold Dev.ppsEdge
  simp only [hon, Bool.not_true, Bool.false_eq_true, if_false, hlast]
  rw [if_pos (decide_eq_true hearly)]

theorem Dev.ppsEdge_accepted {d : Dev} {frac : Nat} (hon : d.timeOn = true)
    (hlate : ∀ l, d.time.ppsInLast = some l → 100000000 * 65536 ≤ ((d.frcLin + frac % 65536 / 512 * 512 : Nat) : Int) - l) :
    d.ppsEdge frac = (let frc := d.frcLin + frac % 65536 / 512 * 512
      d.modTime fun x => { x with ppsIn := x.ppsIn.set 0 (x.ppsInNext % 16) (x.devOf frc).toNat, ppsInNext := (x.ppsInNext + 1) % 16,
                                  ppsInLast := some frc }.ppsSource frc).bump .ppsAccepted 0 0 := by
  unfold Dev.ppsEdge
  simp only [hon, Bool.not_true, Bool.false_eq_true, if_false]
  cases hlast : d.time.ppsInLast with
  | none => rfl
  | some l =>
    dsimp only
    rw [if_neg]
    simpa using hlate l hlast


/-! The REF inputs (R365): a validity changes nothing else of the AO timekeeping. -/

section
variable (a : TimeAo) (i : Nat) (v : Bool)

@[simp] theorem TimeAo.setRef_refActive : (a.setRef i v).refActive = a.refActive := by unfold TimeAo.setRef; split <;> rfl
@[simp] theorem TimeAo.setRef_refHoldover : (a.setRef i v).refHoldover = a.refHoldover := by unfold TimeAo.setRef; split <;> rfl
@[simp] theorem TimeAo.setRef_refUnc : (a.setRef i v).refUnc = a.refUnc := by unfold TimeAo.setRef; split <;> rfl
@[simp] theorem TimeAo.setRef_refLostAt : (a.setRef i v).refLostAt = a.refLostAt := by unfold TimeAo.setRef; split <;> rfl
@[simp] theorem TimeAo.setRef_saved : (a.setRef i v).saved = a.saved := by unfold TimeAo.setRef; split <;> rfl

end

theorem Dev.refValid_setRef_other (d : Dev) (i : Fin 2) (v : Bool) :
    (d.modAo fun a => a.setRef i.val v).refValid (1 - i.val) = d.refValid (1 - i.val) := by
  match i with
  | 0 => rfl
  | 1 => rfl

/-- The active input is lost and the other is valid. -/
theorem Dev.refLost_switches {d : Dev} {i : Fin 2} (hvalid : d.refValid i.val = true) (hactive : d.ao.refActive = i.val)
    (hhold : d.ao.refHoldover = false) (hother : d.refValid (1 - i.val) = true) :
    d.refLost i.val = (d.modAo fun a => { a.setRef i.val false with refActive := 1 - i.val }).raise qPower 0x0D 2 i.val [1 - i.val, 0] := by
  unfold Dev.refLost
  simp only [hvalid, if_true, Dev.refValid_setRef_other, hother]
  simp [Dev.modAo, hactive, hhold]

/-- The active input is lost and the other is not valid. -/
theorem Dev.refLost_holdsOver {d : Dev} {i : Fin 2} (hvalid : d.refValid i.val = true) (hactive : d.ao.refActive = i.val)
    (hhold : d.ao.refHoldover = false) (hother : d.refValid (1 - i.val) = false) :
    d.refLost i.val = (d.modAo fun a => { a.setRef i.val false with refHoldover := true, refLostAt := d.now, refUnc := false }).raise
      qPower 0x0D 2 i.val [i.val, 1] := by
  unfold Dev.refLost
  simp only [hvalid, if_true, Dev.refValid_setRef_other, hother]
  simp [Dev.modAo, hactive, hhold]

/-- The bound that grew with the loss of both inputs (Table 12.3). -/
theorem Dev.errBound_of_lost {d : Dev} (hunc : d.ao.refUnc = true) (hhold : d.ao.refHoldover = true) :
    d.errBound = some (40 + cdiv ((d.now - d.ao.refLostAt) / Config.ns) 1000000) := by
  simp [Dev.errBound, hunc, hhold]

/-- Both inputs have been lost for 1 ms: device time is uncertain from here on, and the bound grows. -/
theorem Dev.refUncertain_due {d : Dev} (hhold : d.ao.refHoldover = true) (hunc : d.ao.refUnc = false)
    (hdue : d.ao.refLostAt + Config.ms ≤ d.now) :
    d.refUncertain = ({ d with
      ao := { d.ao with refUnc := true, saved := if d.timeOn then d.ao.saved else { d.ao.saved with uncertain := true, armed := true } }
      time := { d.time with
        uncertain := true, armed := true
        errNs := some (40 + cdiv ((d.now - d.ao.refLostAt) / Config.ns) 1000000) } } : Dev).raise qTime 0x0C 1 0 [] := by
  have hstep : d.refUncertain = (d.modAo fun a => { a with refUnc := true }).raiseUncertain (d.modAo fun a => { a with refUnc := true }).errBound :=
    if_pos (by simp [hhold, hunc, hdue])
  have hbound := Dev.errBound_of_lost (d := d.modAo fun a => { a with refUnc := true }) rfl hhold
  rw [hstep, hbound]
  unfold Dev.raiseUncertain
  rw [show (d.modAo fun a => { a with refUnc := true }).timeOn = d.timeOn from rfl]
  cases d.timeOn <;> rfl

/-- An input is valid again after both were lost for more than 1 ms: it becomes the active one. -/
theorem Dev.refRestored_ends {d : Dev} {i : Nat} (hvalid : d.refValid i = false) (hhold : d.ao.refHoldover = true) (hunc : d.ao.refUnc = true) :
    d.refRestored i = ({ d with
      ao := { d.ao.setRef i true with refActive := i, refHoldover := false, refUnc := false }
      time := { d.time with errNs := some (40 + cdiv ((d.now - d.ao.refLostAt) / Config.ns) 1000000) } } : Dev).raise
        qPower 0x0D 2 i [i, 0] := by
  have hbound : (d.modAo fun a => a.setRef i true).errBound = some (40 + cdiv ((d.now - d.ao.refLostAt) / Config.ns) 1000000) := by
    rw [Dev.errBound_of_lost] <;> simp [Dev.modAo, hhold, hunc]
  unfold Dev.refRestored
  rw [if_neg (by simp [hvalid])]
  dsimp only
  rw [if_pos (by simpa [Dev.modAo] using hhold), if_pos (by simpa [Dev.modAo] using hunc), hbound]
  rfl

/-- A whole second of device time with no tails and no modelled energy: the servo and PPS_OUT. -/
theorem Dev.secondEdge_zero {d : Dev} (hon : d.timeOn = true) (hpulse : d.time.pulse < d.time.second) :
    d.secondEdge 0 [] = (d.modTime fun x => { x with pulse := x.second }).servo.ppsRise := by
  unfold Dev.secondEdge
  rw [if_pos (by simp [hon, hpulse])]
  unfold Dev.wholeSecond
  exact if_pos (by simp [hon, hpulse, Dev.forEach])

/-- Settles O34. -/
theorem timeEventsComplete : Obligations.TimeEventsComplete := by
  intro s t d
  have hd : s.dev.begin t = d := rfl
  clear_value d
  refine ⟨?_, ?_, ?_, ?_, ?_, ?_, ?_, ?_, ?_, ?_, ?_⟩
  · intro sec hon htod hdue
    exact completes_of_act hd rfl (by simp [Dev.todSend, hon, htod, hdue, Dev.modTime, Dev.out])
  · intro hout hdue
    exact completes_of_act hd rfl (by simp [Dev.ppsFall, hout, hdue, Dev.modTime, Dev.out])
  · intro frac hon frc
    constructor
    · rintro ⟨l, hl, hearly⟩
      exact completes_of_act hd rfl (Dev.ppsEdge_early hon hl hearly)
    · intro hlate
      refine completes_of_act hd rfl ((Dev.ppsEdge_accepted hon hlate).trans ?_)
      refine congrArg (fun f => (d.modTime f).bump .ppsAccepted 0 0) (funext fun x => ?_)
      simp [TimeSt.ppsSource, TimeSt.devOf, frc]
  · intro hsource hdue
    exact completes_of_act hd rfl (by simp [Dev.sourceHoldover, hsource, hdue, Dev.modTime])
  · intro i hvalid hactive hhold hother
    exact completes_of_act hd rfl (Dev.refLost_switches hvalid hactive hhold hother)
  · intro i hvalid hactive hhold hother
    exact completes_of_act hd rfl (Dev.refLost_holdsOver hvalid hactive hhold hother)
  · intro hhold hunc hdue
    exact completes_of_act hd rfl (Dev.refUncertain_due hhold hunc hdue)
  · intro i hvalid hhold hunc
    exact completes_of_act hd rfl (Dev.refRestored_ends hvalid hhold hunc)
  · intro hfb
    exact completes_of_act (f := fun d => if d.ao.fallback then d else d.aoSwitch true) hd rfl ((if_neg (by simp [hfb])).trans rfl)
  · intro hfb
    exact completes_of_act (f := fun d => if d.ao.fallback then d.aoSwitch false else d) hd rfl ((if_pos hfb).trans rfl)
  · intro hon hpulse
    exact completes_of_act hd rfl (Dev.secondEdge_zero hon hpulse)

end Sys2Proof
end

section
/-! The commands of the power page (Table 13.13). -/

namespace Sys2Proof

open Machine

/-- The checks of `power_enter` pass: its last step decides. -/
theorem cmdPowerEnter_accepted {rq : Req} {d : Dev} (hlen : rq.len = 2) (hready : ∀ f ∈ [0], d.isReady f = true) (hdom : rq.prm 0 ≤ 126)
    (htarget : rq.prm 1 ≤ 2) :
    cmdPowerEnter rq d =
      if rq.prm 1 = 0 then okDone (d.wake (rq.prm 0) causeHost)
      else if (d.dom (rq.prm 0)).st = rq.prm 1 then okDone d
      else if (d.dom (rq.prm 0)).st = 3 then ({ code := .busy }, d)
      else if d.neededNow (rq.prm 0) then ({ code := .aborted, detail := 0x10 }, d.entryLost (rq.prm 0))
      else
        let e := if rq.prm 1 = 1 ∧ (d.dom (rq.prm 0)).st = 2 then d.wake (rq.prm 0) causeHost else d
        match e.refusers (rq.prm 0) (rq.prm 1) true with
        | [] => ({ later := true }, (e.beginEntry (rq.prm 0) (rq.prm 1)).modDom (rq.prm 0) fun x => { x with asker := some (rq.mb.val, rq.tag) })
        | r :: rs => ({ code := .refused, detail := rs.foldl min r }, e.refuse (rq.prm 0) (r :: rs)) := by
  refine (withChecks_pass (mgmtChecks_pass hlen hready (passes_cons (chkRange_none (by simp; omega)) passes_nil))).trans ?_
  simp only [Bool.and_eq_true, decide_eq_true_eq] <;> rfl

/-- Settles O35. -/
theorem powerCommandsComplete : Obligations.PowerCommandsComplete := by
  intro s t rq d
  have hd : s.dev.begin t = d := rfl
  clear_value d
  refine ⟨?_, ?_, ?_, ?_, ?_, ?_, ?_, ?_, ?_, ?_⟩
  · intro ⟨hnow, hlen, hready⟩ h0 h1 e
    refine completes_of_checks hd rfl hnow rfl (mgmtChecks_pass hlen hready (passes_cons (chkRange_none (by simp; omega)) passes_nil)) ?_
    simp [okDone, e]
  · intro ⟨hnow, hlen, hready⟩ h0 h1
    exact completes_of_act hd rfl (by rw [runCmd_accepted hnow, cmdPowerEnter_accepted hlen hready h0 (by omega), if_pos h1]; rfl)
  · intro ⟨hnow, hlen, hready⟩ h0 h1
    dsimp only
    have hcmd := cmdPowerEnter_accepted hlen hready h0 (by omega)
    rw [if_neg (by omega)] at hcmd
    refine ⟨?_, ?_, ?_⟩
    · intro hst
      exact completes_of_act hd rfl (by rw [runCmd_accepted hnow, hcmd, if_pos hst]; rfl)
    · intro hst
      exact completes_of_act hd rfl (by rw [runCmd_accepted hnow, hcmd, if_neg (by omega), if_pos hst])
    · intro hne hne3
      rw [if_neg hne, if_neg hne3] at hcmd
      refine ⟨?_, ?_, ?_⟩
      · intro hneed
        exact completes_of_act hd rfl (by rw [runCmd_accepted hnow, hcmd, if_pos hneed])
      · intro hneed href
        rw [if_neg (Bool.eq_false_iff.1 hneed)] at hcmd
        dsimp only at hcmd
        rw [href] at hcmd
        exact completes_of_act hd rfl (by rw [runCmd_accepted hnow, hcmd])
      · intro r rs hneed href
        rw [if_neg (Bool.eq_false_iff.1 hneed)] at hcmd
        dsimp only at hcmd
        rw [href] at hcmd
        exact completes_of_act hd rfl (by rw [runCmd_accepted hnow, hcmd])
  · intro ⟨hnow, hlen, hready⟩
    exact completes_of_checks hd rfl hnow rfl (mgmtChecks_pass hlen hready passes_nil) rfl
  · intro ⟨hnow, hlen, hready⟩ h0
    exact completes_of_checks hd rfl hnow rfl (mgmtChecks_pass hlen hready (passes_cons (chkRange_none (by simp; omega)) passes_nil)) rfl
  · intro ⟨hnow, hlen, hready⟩ h0
    exact completes_of_checks hd rfl hnow rfl (mgmtChecks_pass hlen hready (passes_cons (chkRange_none (by simp; omega)) passes_nil)) rfl
  · intro ⟨hnow, hlen, hready⟩ hlo hhi hef hrails hsupply
    refine completes_of_checks hd rfl hnow rfl (mgmtChecks_pass hlen hready
      (passes_cons (failIf_false _ _ (by simp; omega)) (passes_cons (failIf_false _ _ (by simp; omega))
        (passes_cons (find?_map_none fun r hr => ?_) passes_nil)))) rfl
    have := hsupply r (List.mem_range.1 hr)
    rw [Bool.eq_false_iff]
    simp [Nat.blt_eq]
    omega
  · intro ⟨hnow, hlen, hready⟩
    exact completes_of_checks hd rfl hnow rfl (mgmtChecks_pass hlen hready passes_nil) rfl
  · intro p v hv
    exact completes_of_act (f := fun d => if v.getLsbD 15 then d.modDom p.val fun x => { x with woke := false } else d) hd rfl (if_pos hv)
  · intro p v hv
    exact completes_of_act (f := fun d => if v.getLsbD 15 then d.modDom p.val fun x => { x with woke := false } else d) hd rfl
      (if_neg (Bool.eq_false_iff.1 hv))

end Sys2Proof
end

section
/-! Entries, exits and wakes of the power domains between commands, the PCIe link and the core rails (R367 to R375, R480). -/

namespace Sys2Proof

open Machine

/-- The Barrow of a slice whose assemblies are not built keeps the sequencer from its entry to retention; nothing else does (R375). -/
theorem Dev.domainEntry_eq_seqEntry {d : Dev} {p target : Nat}
    (hbuilt : target = 1 → ∀ n < 8, p = pdBarrow n → d.barrowBuilt n = true) : d.domainEntry p target = d.seqEntry p target := by
  refine if_neg ?_
  simp only [Bool.and_eq_true, beq_iff_eq, Nat.ble_eq, Nat.blt_eq, Bool.not_eq_true', not_and, Bool.not_eq_false]
  intro ⟨⟨⟨htarget, hlo⟩, hhi⟩, hbarrow⟩
  exact hbuilt htarget _ (by omega) (by unfold pdBarrow; omega)

/-- An entry that the sequencer wants, of a domain that is there to enter it. -/
theorem Dev.seqEntry_of_wants {d : Dev} {p target : Nat} (htarget : target ≠ 0) (hallowed : stateAllowed p target = true)
    (h3 : (d.dom p).st ≠ 3) (h2 : (d.dom p).st ≠ 2) (hst : (d.dom p).st ≠ target) (hwants : d.seqWants p target = true) :
    d.seqEntry p target = if d.neededNow p then d.entryLost p
      else match d.refusers p target false with
        | [] => d.beginEntry p target
        | rs => d.refuse p rs :=
  if_neg (by simp [htarget, hallowed, h3, h2, hst, hwants])

/-- The image that TABLES writes on its way to off wakes its stack (R377, R378). -/
theorem Dev.beginEntry_eq (d : Dev) (p target : Nat) :
    d.beginEntry p target = (let e := match (if target = 2 then tablesSlice p else none) with
        | some n => d.wake (55 + n) causeTraffic
        | none => d
      e.setDom p fun x => { x.settle e.devNs with leftSt := (x.settle e.devNs).st, st := 3, target := target }) := rfl

/-- An entry under way that no refuser has aborted ends. -/
theorem Dev.entryComplete_ends {d : Dev} {p : Nat} (hst : (d.dom p).st = 3) (htarget : (d.dom p).target ≠ 0)
    (hno : d.refusers p (d.dom p).target (d.dom p).asker.isSome = []) :
    d.entryComplete p = if (d.dom p).target = 2 then (d.endEntry p).lostAtOff p else d.endEntry p := by
  unfold Dev.entryComplete
  rw [if_pos ⟨hst, htarget⟩, hno]

/-- An entry under way that a dependency aborts (R369). -/
theorem Dev.entryComplete_aborts {d : Dev} {p r : Nat} {rs : List Nat} (hst : (d.dom p).st = 3) (htarget : (d.dom p).target ≠ 0)
    (href : d.refusers p (d.dom p).target (d.dom p).asker.isSome = r :: rs) :
    d.entryComplete p = (let e := (r :: rs).foldl (fun d r => d.bump .pdAborted p r) d
      (e.setDom p fun x => { x.settle e.devNs with st := 0, target := 0, lastRef := (r :: rs).foldl min 255 }).entryAnswer p
        { code := .aborted, detail := (r :: rs).foldl min 255 }) := by
  unfold Dev.entryComplete
  rw [if_pos ⟨hst, htarget⟩, href]

/-- The end of an entry to retention: neither device time nor an image is saved. -/
theorem Dev.endEntry_retention {d : Dev} {p : Nat} (hp : p ≠ 1) (htarget : (d.dom p).target = 1) :
    d.endEntry p = (d.modDom p fun x => { x.settle d.devNs with
      st := x.target, target := 0, stopAt := d.now, entries := satInc 1023 (x.settle d.devNs).entries }).entryAnswer p {} := by
  unfold Dev.endEntry
  simp only [if_neg hp, htarget, Nat.reduceEqDiff, if_false]

/-- Settles O36. -/
theorem powerEventsComplete : Obligations.PowerEventsComplete := by
  intro s t d
  have hd : s.dev.begin t = d := rfl
  clear_value d
  refine ⟨?_, ?_, ?_, ?_, ?_, ?_, ?_, ?_, ?_, ?_⟩
  · intro p g hg hallowed h3 h2 hst hbuilt hwants
    have hentry := (Dev.domainEntry_eq_seqEntry hbuilt).trans (Dev.seqEntry_of_wants hg hallowed h3 h2 hst hwants)
    refine ⟨?_, ?_, ?_⟩
    · intro hneed
      exact completes_of_act hd rfl (hentry.trans (if_pos hneed))
    · intro hneed href e
      rw [if_neg (Bool.eq_false_iff.1 hneed), href] at hentry
      exact completes_of_act hd rfl (hentry.trans (Dev.beginEntry_eq ..))
    · intro r rs hneed href
      rw [if_neg (Bool.eq_false_iff.1 hneed), href] at hentry
      exact completes_of_act hd rfl hentry
  · intro p hst htarget hp hno
    refine completes_of_act hd rfl ((Dev.entryComplete_ends hst (by omega) (by rwa [htarget])).trans ?_)
    rw [if_neg (by omega), Dev.endEntry_retention hp htarget]
    rfl
  · intro p hst htarget hno
    refine completes_of_act hd rfl ((Dev.entryComplete_ends hst (by omega) (by rwa [htarget])).trans ?_)
    rw [if_pos htarget]
  · intro p r rs hst htarget href e
    exact completes_of_act hd rfl (Dev.entryComplete_aborts hst htarget href)
  · intro p hst hdue e
    exact completes_of_act hd rfl ((if_pos hdue).trans (if_pos hst))
  · intro p hst htarget hdue
    exact completes_of_act hd rfl ((if_pos hdue).trans ((if_neg (by omega)).trans (if_pos ⟨hst, htarget⟩)))
  · intro p hst htarget hhalf hvault
    refine completes_of_act hd rfl ?_
    unfold Dev.wakeComplete
    simp [hst, htarget, hhalf, hvault]
  · intro l hneeded
    exact completes_of_act hd rfl (if_pos hneeded)
  · intro st e
    refine ⟨?_, ?_, ?_⟩
    · intro hperst hst
      exact completes_of_act hd rfl (by simp [Dev.pcieLink, hperst, hst, e, Dev.modHost])
    · intro hperst hst hdom
      refine completes_of_act hd rfl ?_
      simp only [Dev.pcieLink, hperst, hst, Bool.false_eq_true, if_false, reduceIte, Nat.reduceEqDiff]
      exact if_neg hdom
    · intro hperst hdom
      refine completes_of_act hd rfl ?_
      simp only [Dev.pcieLink, hperst, reduceIte, Nat.reduceEqDiff]
      exact if_neg hdom
  · intro east mv ch hready hlo hhi hmove hch
    refine completes_of_act hd rfl ((if_pos ?_).trans ?_)
    · cases east <;> simp_all
    · simp [Dev.setCore, hch]

end Sys2Proof
end

section
/-! The budget controller in exact fractions (R384, R385), the rail channels, the budget frame and the thermal trip. -/

namespace Sys2Proof

open Machine

/-! ### The controller's fractions

The model keeps its energies as natural numbers of 1/4096 uJ over a common denominator; the rule speaks of fractions. -/

/-- A rail channel whose current is over its limit. -/
def Rail.over (c : Rail) : Bool := c.iLimit != 0 && Nat.blt c.iLimit c.iNow

theorem Rail.over_iff {c : Rail} : c.over = true ↔ c.iLimit ≠ 0 ∧ c.iLimit < c.iNow := by
  simp [Rail.over, Nat.blt_eq]

/-- The denominator of the pool is positive. -/
theorem den_pos (cs : List Rail) (h : ∀ c ∈ cs, 0 < c.iNow) (a : Nat) (ha : 0 < a) : 0 < cs.foldl (fun a c => a * c.iNow) a := by
  induction cs generalizing a with
  | nil => exact ha
  | cons c cs ih => exact ih (fun x hx => h x (List.mem_cons_of_mem _ hx)) _ (Nat.mul_pos ha (h c (List.mem_cons_self ..)))

/-- The pool of R385, channel by channel, is the model's numerator over its denominator. -/
theorem pool_eq (cs : List Rail) (p : ℚ) (num : Int) (den : Nat) (hden : 0 < den) (hp : p = num / (den * 4096 : Nat)) :
    cs.foldl (fun (a : ℚ) c => if c.iLimit ≠ 0 ∧ c.iLimit < c.iNow then a * c.iLimit / c.iNow else a) p =
      ((cs.filter Rail.over).foldl (fun (a : Int) c => a * c.iLimit) num : Int) /
        (((cs.filter Rail.over).foldl (fun a c => a * c.iNow) den * 4096 : Nat) : ℚ) := by
  induction cs generalizing p num den with
  | nil => exact hp
  | cons c cs ih =>
    rw [List.foldl_cons]
    by_cases hover : c.over = true
    · have hover' := Rail.over_iff.1 hover
      have hnow : 0 < c.iNow := by omega
      rw [List.filter_cons_of_pos hover, List.foldl_cons, List.foldl_cons, if_pos hover']
      refine ih _ _ _ (Nat.mul_pos hden hnow) ?_
      rw [hp]
      push_cast
      field_simp
    · rw [List.filter_cons_of_neg hover, if_neg (fun h => hover (Rail.over_iff.2 h))]
      exact ih _ _ _ hden hp

/-- The floor of a fraction of an integer over a natural number. -/
theorem floor_int_div (num : Int) (den : Nat) : ⌊(num : ℚ) / (den : ℚ)⌋₊ = num.toNat / den := by
  rcases le_total 0 num with h | h
  · lift num to Nat using h
    rw [Int.toNat_natCast, Int.cast_natCast]
    exact Nat.floor_div_eq_div num den
  · rw [Int.toNat_of_nonpos h, Nat.zero_div, Nat.floor_eq_zero]
    refine lt_of_le_of_lt ?_ one_pos
    exact div_nonpos_of_nonpos_of_nonneg (by exact_mod_cast h) (Nat.cast_nonneg _)

theorem max_zero_int_div (num : Int) (den : Nat) : max 0 ((num : ℚ) / (den : ℚ)) = (num.toNat : ℚ) / den := by
  rcases le_total 0 num with h | h
  · lift num to Nat using h
    rw [Int.toNat_natCast, Int.cast_natCast]
    exact max_eq_right (by positivity)
  · rw [Int.toNat_of_nonpos h, Nat.cast_zero, zero_div]
    exact max_eq_left (div_nonpos_of_nonpos_of_nonneg (by exact_mod_cast h) (Nat.cast_nonneg _))

/-- E_NUM as the model takes it from natural numbers is E_NUM as the rule takes it from fractions. -/
theorem eNum_eq (lo hi part unit : Nat) (hunit : 0 < unit) :
    (if Nat.ble ((hi - lo) * unit) part then 64 else 64 * part / ((hi - lo) * unit)) =
      (if (hi / 4096 : ℚ) - lo / 4096 ≤ (part : ℚ) / (unit * 4096 : Nat) then 64
        else ⌊64 * ((part : ℚ) / (unit * 4096 : Nat)) / (hi / 4096 - lo / 4096)⌋₊) := by
  have hu : (0 : ℚ) < unit := by exact_mod_cast hunit
  rcases le_total lo hi with hle | hle
  · have hdiff : (hi / 4096 : ℚ) - lo / 4096 = ((hi - lo : Nat) : ℚ) / 4096 := by
      push_cast [hle]
      ring
    have hcond : (hi / 4096 : ℚ) - lo / 4096 ≤ (part : ℚ) / (unit * 4096 : Nat) ↔ (hi - lo) * unit ≤ part := by
      rw [hdiff, div_le_div_iff₀ (by norm_num) (by push_cast; positivity)]
      rw [← Nat.cast_le (α := ℚ)]
      push_cast
      constructor <;> intro h <;> nlinarith
    rw [hdiff] at hcond ⊢
    by_cases hfit : (hi - lo) * unit ≤ part
    · rw [if_pos (Nat.ble_eq.symm ▸ hfit), if_pos (hcond.2 hfit)]
    · rw [if_neg (fun h => hfit (Nat.le_of_ble_eq_true h)), if_neg (fun h => hfit (hcond.1 h))]
      rw [← Nat.floor_div_eq_div (K := ℚ)]
      congr 1
      push_cast
      field_simp
  · have hneg : (hi / 4096 : ℚ) - lo / 4096 ≤ 0 := by
      have : (hi : ℚ) ≤ lo := by exact_mod_cast hle
      linarith
    rw [if_pos (by simp [Nat.sub_eq_zero_of_le hle]), if_pos (hneg.trans (by positivity))]

/-- A slice's share of what is spare: none where no slice has a weight. -/
theorem share_eq (spare den wt sum : Nat) (hwt : sum = 0 → wt = 0) :
    (spare : ℚ) / (den * 4096 : Nat) * wt / sum = (spare * wt : Nat) / (den * max 1 sum * 4096 : Nat) := by
  rcases Nat.eq_zero_or_pos sum with h | h
  · simp [hwt h, h]
  · rw [max_eq_right h]
    push_cast
    field_simp

/-- The sum over the slices, as the controller folds it. -/
theorem foldl_add_eq_sum (f : Nat → Nat) (ns : List Nat) : ns.foldl (fun a n => a + f n) 0 = (ns.map f).sum := by
  rw [List.sum_eq_foldl, List.foldl_map]

theorem sum_map_cast_div (f : Nat → Nat) (ns : List Nat) : (ns.map fun n => (f n : ℚ) / 4096).sum = ((ns.map f).sum : Nat) / 4096 := by
  induction ns with
  | nil => simp
  | cons n ns ih =>
    rw [List.map_cons, List.sum_cons, ih, List.map_cons, List.sum_cons]
    push_cast
    ring

theorem sum_eq_zero_of_mem {f : Nat → Nat} {ns : List Nat} {n : Nat} (hn : n ∈ ns) (h : (ns.map f).sum = 0) : f n = 0 :=
  Nat.eq_zero_of_le_zero (h ▸ List.le_sum_of_mem (List.mem_map_of_mem hn))

/-- The model's controller run, as the rule states it. -/
theorem Dev.budgetRun_eq {d : Dev} (model : List (Nat × Nat)) (shared : Nat) (hruns : d.host.fw.running = true)
    (hswap : d.host.fw.swapping = false) :
    let cal : ℚ := d.pwr.cal / 4096
    let pool : ℚ := (List.range d.pwr.cfg.rails).foldl (fun (a : ℚ) r =>
      let c := d.pwr.railCh.get {} r
      if c.iLimit ≠ 0 ∧ c.iLimit < c.iNow then a * c.iLimit / c.iNow else a) (d.pwr.cfg.pLimit * 125 - cal * shared)
    let lo : Nat → ℚ := fun n => cal * (model.getD n (0, 0)).1
    let hi : Nat → ℚ := fun n => cal * (model.getD n (0, 0)).2
    let spare : ℚ := max 0 (pool - ((List.range 8).map lo).sum)
    let share : Nat → ℚ := fun n => spare * d.pwr.cfg.weight.get 16 n / ((List.range 8).map fun n => d.pwr.cfg.weight.get 16 n).sum
    let e := d.modPwr fun w => { w with last := ⌊pool⌋₊ :: (List.range 8).flatMap fun n => [⌊lo n⌋₊, ⌊hi n⌋₊, ⌊share n⌋₊] }
    d.budgetRun model shared = if d.devNs % 125000 ≤ 115000 then e.modPwr fun w =>
      { w with escale := (List.range 8).foldl (fun m n => m.upd {} n fun x =>
          { x with newBudget := some (if hi n - lo n ≤ share n then 64 else ⌊64 * share n / (hi n - lo n)⌋₊) }) w.escale } else e := by
  intro cal pool lo hi spare share e
  let cs := (List.range d.pwr.cfg.rails).map fun r => d.pwr.railCh.get {} r
  let num : Int := (cs.filter Rail.over).foldl (fun (a : Int) c => a * c.iLimit)
    ((d.pwr.cfg.pLimit * 125 * 4096 : Nat) - ((d.pwr.cal * shared : Nat) : Int))
  let den := (cs.filter Rail.over).foldl (fun a c => a * c.iNow) 1
  have hden : 0 < den := den_pos _ (fun c hc => by
    have := Rail.over_iff.1 (List.mem_filter.1 hc).2
    omega) 1 one_pos
  let loN := fun n => d.pwr.cal * (model.getD n (0, 0)).1
  let hiN := fun n => d.pwr.cal * (model.getD n (0, 0)).2
  let wt := fun n => d.pwr.cfg.weight.get 16 n
  let spareN := (num - (den * (List.range 8).foldl (fun a n => a + loN n) 0 : Nat)).toNat
  let unit := den * max 1 ((List.range 8).foldl (fun a n => a + wt n) 0)
  have hunit : 0 < unit := Nat.mul_pos hden (by omega)
  have hpool : pool = num / (den * 4096 : Nat) := by
    refine (List.foldl_map (f := fun r => d.pwr.railCh.get {} r)).symm.trans (pool_eq cs _ _ 1 one_pos ?_)
    push_cast
    ring
  have hlo : ∀ n, lo n = (loN n : ℚ) / 4096 := fun n => by simp only [lo, loN, cal]; push_cast; ring
  have hhi : ∀ n, hi n = (hiN n : ℚ) / 4096 := fun n => by simp only [hi, hiN, cal]; push_cast; ring
  have hspare : spare = (spareN : ℚ) / (den * 4096 : Nat) := by
    have hsum : ((List.range 8).map lo).sum = ((List.range 8).foldl (fun a n => a + loN n) 0 : Nat) / 4096 := by
      rw [foldl_add_eq_sum, ← sum_map_cast_div]
      exact congrArg List.sum (List.map_congr_left fun n _ => hlo n)
    have hq : (den : ℚ) ≠ 0 := by exact_mod_cast hden.ne'
    simp only [spare, spareN]
    rw [hsum, hpool, ← max_zero_int_div]
    congr 1
    push_cast
    field_simp
  have hshare : ∀ n ∈ List.range 8, share n = (spareN * wt n : Nat) / (unit * 4096 : Nat) := by
    intro n hn
    simp only [share, unit]
    rw [hspare, foldl_add_eq_sum]
    exact share_eq spareN den (wt n) _ (sum_eq_zero_of_mem (f := wt) hn)
  have hlast : (num.toNat / (den * 4096) :: (List.range 8).flatMap fun n => [loN n / 4096, hiN n / 4096, spareN * wt n / (unit * 4096)]) =
      ⌊pool⌋₊ :: (List.range 8).flatMap fun n => [⌊lo n⌋₊, ⌊hi n⌋₊, ⌊share n⌋₊] := by
    refine congrArg₂ List.cons (by rw [hpool, floor_int_div]) (List.flatMap_congr fun n hn => ?_)
    rw [hshare n hn, hlo, hhi, Nat.floor_div_eq_div]
    have hfloor : ∀ m : Nat, ⌊(m : ℚ) / 4096⌋₊ = m / 4096 := fun m => by exact_mod_cast Nat.floor_div_eq_div (K := ℚ) m 4096
    rw [hfloor, hfloor]
  have hnum : ∀ n ∈ List.range 8, (if Nat.ble ((hiN n - loN n) * unit) (spareN * wt n) then 64
        else 64 * (spareN * wt n) / ((hiN n - loN n) * unit)) =
      if hi n - lo n ≤ share n then 64 else ⌊64 * share n / (hi n - lo n)⌋₊ := by
    intro n hn
    rw [hshare n hn, hlo, hhi]
    exact eNum_eq _ _ _ _ hunit
  have hescale : ∀ m : Tab Escale, ((List.range 8).foldl (fun m n => m.upd {} n fun x => { x with newBudget := (some (
        if hi n - lo n ≤ share n then 64 else ⌊64 * share n / (hi n - lo n)⌋₊)) }) m) =
      (List.range 8).foldl (fun m n => m.upd {} n fun x => { x with newBudget := (some (
        if Nat.ble ((hiN n - loN n) * unit) (spareN * wt n) then 64 else 64 * (spareN * wt n) / ((hiN n - loN n) * unit))) }) m :=
    fun m => List.foldl_ext _ _ m fun m n hn => by rw [hnum n hn]
  unfold Dev.budgetRun
  rw [if_neg (by simp [hruns, hswap])]
  simp only [e, hescale]
  rw [← hlast]
  exact if_congr (iff_of_eq Nat.ble_eq) rfl rfl

/-- Settles O37. -/
theorem budgetEventsComplete : Obligations.BudgetEventsComplete := by
  intro s t d
  have hd : s.dev.begin t = d := rfl
  clear_value d
  refine ⟨?_, ?_, ?_, ?_, ?_, ?_, ?_⟩
  · intro model shared hruns hswap
    exact completes_of_act hd rfl (Dev.budgetRun_eq model shared hruns hswap)
  · intro ch cur mv hch
    exact completes_of_act hd rfl (if_pos hch)
  · intro ch hch hlate hdue
    exact completes_of_act hd rfl (if_pos (by simp [hch, hlate, Nat.ble_eq, hdue]))
  · intro temps hon hframe e f
    exact completes_of_act hd rfl (if_pos (by simp [hon, hframe]))
  · intro temps htrip hhot
    exact completes_of_act hd rfl (if_neg (by simp [htrip, hhot]))
  · intro temps hcool
    exact completes_of_act hd rfl (if_pos (by simp [hcool]))
  · intro htrip hheld
    exact completes_of_act hd rfl (if_pos (by simp [htrip, hheld]))

end Sys2Proof
end

section
/-! Supplies, the boot ROM and readiness (O38; R390 to R397, R439, R484, R485). -/

namespace Sys2Proof

open Machine

/-- The AO domain's cold start leaves every register at its reset value, but for what lies outside the die; device time is uncertain (R340). -/
theorem Dev.aoColdStart_eq (d : Dev) : d.aoColdStart =
    { now := d.now, free := d.free, outs := d.outs, flashA := d.flashA, flashB := d.flashB
      host := { perst := d.host.perst, slots := d.host.slots }, vault := { fuses := d.vault.fuses }
      ao := { cold := true }, time := { uncertain := true, armed := true, errNs := none }
      mems := (List.range 8).foldl (fun m n => m.set {} n (Stack.start {} d.now)) []
      evPend := [{ queue := 112, source := 0x0C, code := 1, object := 0, detail := [], time := 0 }] } := by
  let c := (d.coldDev.modAo fun a => { a with cold := true }).modTime fun x => { x with uncertain := true, armed := true, errNs := none }
  have hraise : d.aoColdStart = c.raise qTime 0x0C 1 0 [] := rfl
  have hns : c.devNs = 0 := by
    unfold Dev.devNs Dev.devLin
    simp [c, TimeSt.devOf, Dev.frcLin, Dev.coldDev, Dev.modAo, Dev.modTime]
  rw [hraise, Dev.raise, hns]
  rfl

/-- An image that meets every condition of R391 and R425 verifies. -/
theorem FwImage.verify_of_valid {x : FwImage} {f : Fuses} (hlen : x.image.length ≤ 25165824)
    (hdigest : x.digest = (sha384 (x.image ++ x.blob)).toNat) (hsigner : x.signer = f.vendorKey) (hsigned : x.signed = (x.digest, x.svn))
    (hsvn : f.minSvn ≤ x.svn) : x.verify f = 1 := by
  unfold FwImage.verify
  rw [if_neg (by rw [Nat.blt_eq]; omega), if_neg (by simp [hdigest]), if_neg]
  simp [hsigner, hsigned, Nat.blt_eq, hsvn]

/-- The boot ROM finds a valid image in slot 0: it is measured, and starts. -/
theorem Dev.bootAttempt_slot0 {d : Dev} {x : FwImage} (hstart : d.host.boot.started = true) (hok : d.pwr.railsOk = true)
    (hfw : d.host.fw.running = false) (hstage : d.host.boot.stage = 1) (htried : d.host.boot.tried = 0)
    (hverify : x.verify d.vault.fuses = 1) :
    d.bootAttempt (.found x) =
      ({ d with
          host := { d.host with
            boot := { d.host.boot with attempts := min (2 ^ 20 - 1) (d.host.boot.attempts + 1) }
            slots := d.host.slots.set {} 0 x.slot }
          vault := d.vault.measure x.slot } : Dev).bootStep fun b =>
            { b with resSlot0 := 1, source := 0, stage := 5, posted := b.posted } := by
  unfold Dev.bootAttempt
  rw [if_neg (by simp [hstart, hok, hfw, hstage])]
  have hread : ∀ e : Dev, e.sourceRead 0 (.found x) = .found x := fun _ => rfl
  have hresult : ImageTry.result d.vault.fuses (.found x) = 1 := hverify
  conv_lhs => simp only [htried, reduceIte, hread, Dev.modBoot_vault, hresult, show ((0 : Nat) != 2) = true from rfl, Bool.and_true]
  rfl

/-- No host image is posted: after the third source the boot ROM waits. -/
theorem Dev.bootAttempt_noHost {d : Dev} {src : ImageTry} (hstart : d.host.boot.started = true) (hok : d.pwr.railsOk = true)
    (hfw : d.host.fw.running = false) (hstage : d.host.boot.stage = 3) (htried : d.host.boot.tried = 2) (hposted : d.host.boot.posted = false) :
    d.bootAttempt src = d.bootStep fun b =>
      { b with resHost := 2, stage := 4, tried := 0, waitS := Config.bootWait b.waits, waits := b.waits + 1 } := by
  unfold Dev.bootAttempt
  rw [if_neg (by simp [hstart, hok, hfw, hstage])]
  have hread : d.sourceRead 2 src = .noImage := if_pos (by simp [hposted])
  simp only [htried, reduceIte, Nat.reduceEqDiff, hread]
  rfl

/-- Settles O38. -/
theorem bootSequenceCompletes : Obligations.BootSequenceCompletes := by
  intro s t d
  have hd : s.dev.begin t = d := rfl
  clear_value d
  refine ⟨?_, ?_, ?_, ?_, ?_, ?_, ?_, ?_, ?_, ?_, ?_, ?_, ?_, ?_, ?_, ?_, ?_, ?_⟩
  · intro h
    have : (s.dev.pwr.aoDown || !s.dev.ao.cold) = true := by simpa using h
    have hexec : ∀ g : EvLog, exec (.aoColdStart t) { s with log := g } = act t Dev.aoColdStart { s with log := {} } := fun _ => if_pos this
    exact ⟨completes_of_act hd (hexec {}) (Dev.aoColdStart_eq d), (hexec s.log).trans (hexec {}).symm⟩
  · intro rail hlo hhi hok
    refine completes_of_act hd rfl ?_
    unfold Dev.railExcursion
    rw [if_neg (by omega)]
    simp [hok, show ¬ 19 ≤ rail.val by omega]
  · intro rail hlo hok
    refine completes_of_act hd rfl ?_
    unfold Dev.railExcursion
    rw [if_neg (by omega)]
    simp [hok, hlo, show ¬ rail.val = 17 by omega]
  · intro hok hao
    have hexec : exec (.mainRailsRestored t) s = act t Dev.mainRestored { s with log := {} } := if_pos (by simp [hok, hao])
    rw [hexec, Machine.act_eq, hd]
  · intro hperst hok hstart
    exact completes_of_act hd rfl (by simp [Dev.perstRelease, hperst, hok, hstart, Dev.modHost])
  · intro x hstart hok hfw hstage htried hlen hdig hsig hsigned hsvn mi mb
    exact completes_of_act hd rfl (Dev.bootAttempt_slot0 hstart hok hfw hstage htried
      (FwImage.verify_of_valid hlen hdig hsig hsigned hsvn))
  · intro src hstart hok hfw hstage htried hpost
    exact completes_of_act hd rfl (Dev.bootAttempt_noHost hstart hok hfw hstage htried hpost)
  · intro hstage hdue
    exact completes_of_act hd rfl (if_pos (by simp [hstage, Nat.ble_eq, hdue]))
  · intro hstage hbad hlate
    refine completes_of_act hd rfl ((if_pos ?_).trans ?_)
    · simp only [hstage, Dev.startedLate, Bool.and_eq_true, beq_self_eq_true, Bool.not_eq_true', true_and]
      rw [Bool.eq_false_iff, ne_eq, Nat.ble_eq]
      exact not_le.2 hlate
    · simp [hbad]
  · intro hstage hlate
    exact completes_of_act hd rfl (if_pos (by simp [hstage, Dev.startedLate, Nat.ble_eq, hlate]))
  · intro f hf hfw hready hst hrank
    refine completes_of_act hd rfl ?_
    unfold Dev.functionReady
    rw [if_neg (by simp [hfw, hready, hst]), if_pos]
    simpa using hrank
  · intro f hf hfw hready hst hrank
    refine completes_of_act hd rfl ?_
    unfold Dev.functionReady
    rw [if_neg (by simp [hfw, hready, hst]), if_neg, if_pos rfl]
    · dsimp only
      rw [if_neg (by simp [hf])]
      rfl
    · simp only [Bool.true_and, List.any_eq_true, List.mem_range, Bool.and_eq_true, Bool.or_eq_true, beq_iff_eq, not_exists, not_and]
      exact fun n hn hno hf => by simp [hrank n hn hf] at hno
  · intro f hlo hhi hfw hready hst
    refine completes_of_act hd rfl ?_
    unfold Dev.functionReady
    rw [if_neg (by simp [hfw, hready, hst]), if_neg (by simp), if_neg (by simp), if_neg (by omega)]
    simp [failReason, hlo, hhi]
  · intro hfw hready hst
    refine completes_of_act hd rfl ?_
    unfold Dev.functionReady
    rw [if_neg (by simp [hfw, hready, hst]), if_neg (by simp), if_neg (by simp)]
    exact if_pos rfl
  · intro hperst
    exact completes_of_act hd rfl (if_neg (by simp [hperst]))
  · intro hperst
    exact completes_of_act hd rfl (if_neg (by simp [hperst]))
  · intro hfw
    exact completes_of_act hd rfl (if_pos (by simp [hfw]))
  · intro hdirty hfw hA
    refine completes_of_act hd rfl ?_
    simp [Dev.writeRecords, hdirty, hfw, hA]

end Sys2Proof
end

section
/-! Registration, the index page, vectors and registers (R392, R398, R399, R409, R413 to R420). -/

namespace Sys2Proof

open Machine

/-- The records of the event queues stand at offset 0x800 of the index page (Table 14.14). -/
theorem Dev.modIdx_evq (q : Fin 256) (f : Nat → Idx → Idx) (d : Dev) :
    d.modIdx (0x800 + 16 * q.val) f = d.modHost fun h => { h with evq := h.evq.upd {} q.val fun x => { x with idx := f x.entries x.idx } } := by
  unfold Dev.modIdx
  rw [if_neg (by omega), if_neg (by omega), if_pos (by omega), show (0x800 + 16 * q.val - 0x800) / 16 = q.val by omega]

/-- Dword i of a mailbox's command area (R399). -/
theorem Dev.regWrite_mailbox (m : Fin 16) (i : Fin 1024) (v : Dword) (d : Dev) :
    d.regWrite 2 (0x4000 * m.val + 4 * i.val) v = d.modMbox m.val fun x => { x with cmd := x.cmd.set 0 i.val v } := by
  refine (if_pos (by omega)).trans ?_
  rw [show (0x4000 * m.val + 4 * i.val) / 0x4000 = m.val by omega, show (0x4000 * m.val + 4 * i.val) % 0x4000 / 4 = i.val by omega]

/-- Settles O39. -/
theorem hostInterfaceCompletes : Obligations.HostInterfaceCompletes := by
  intro s t rq d
  have hd : s.dev.begin t = d := rfl
  clear_value d
  refine ⟨?_, ?_, ?_, ?_, ?_, ?_, ?_, ?_, ?_, ?_, ?_, ?_, ?_, ?_, ?_, ?_, ?_, ?_, ?_, ?_⟩
  · intro ⟨hnow, hlen, hready⟩ hq haddr hpow
    refine completes_of_checks hd rfl hnow rfl (mgmtChecks_pass hlen hready
      (passes_cons (failIf_false _ _ (by simp; omega)) (passes_cons (failIf_false _ _ (by simp [haddr]))
        (passes_cons (failIf_false _ _ (by simp [hpow])) passes_nil)))) ?_
    have hn : rq.prm 3 ≠ 0 := by rintro h0; simp [h0, isPow2] at hpow
    simp [hn, okDone, Req.addr]
  · intro ⟨hnow, hlen, hready⟩ hq haddr hn
    refine completes_of_checks hd rfl hnow rfl (mgmtChecks_pass hlen hready
      (passes_cons (failIf_false _ _ (by simp; omega)) (passes_cons (failIf_false _ _ (by simp [haddr]))
        (passes_cons (failIf_false _ _ (by simp [hn])) passes_nil)))) ?_
    simp [hn, okDone]
  · intro ⟨hnow, hlen, hready⟩ h0 h1 h2 hpow h5 h5' h5'' h6 hreg
    have htx : rq.flag 0 = false := by simp [Req.flag, h0]
    refine completes_of_checks hd rfl hnow rfl ?_ ?_
    · refine passes_cons (chkLen_none (by simp [htx, hlen])) (passes_cons ?_ (passes_cons (chkRange_none (by simp; omega))
        (passes_cons (failIf_false _ _ (by simp [h2])) (passes_cons (failIf_false _ _ (by simp [hpow]))
          (passes_cons (failIf_false _ _ (by simp; omega)) (passes_cons (chkRange_none (by simp; omega)) (passes_cons ?_
            (passes_cons (failIf_false _ _ ?_) passes_nil))))))))
      · simpa [htx] using chkReady_one (hready 0 (List.mem_singleton_self 0))
      · simp [htx]
      · simp [htx, hreg]
    · simp [okDone, htx, Req.addr]
  · intro ⟨hnow, hlen, hready⟩ h7 hslice h0 h1 h2 hpow h5 h5' h5'' h6 hreg
    have htx : rq.flag 0 = true := by simp [Req.flag, h0]
    refine completes_of_checks hd rfl hnow rfl ?_ ?_
    · refine passes_cons (chkLen_none (by simp [htx, hlen])) (passes_cons ?_ (passes_cons (chkRange_none (by simp; omega))
        (passes_cons (failIf_false _ _ (by simp [h2])) (passes_cons (failIf_false _ _ (by simp [hpow]))
          (passes_cons (failIf_false _ _ (by simp; omega)) (passes_cons (chkRange_none (by simp; omega)) (passes_cons ?_
            (passes_cons (failIf_false _ _ ?_) passes_nil))))))))
      · simpa [htx] using chkReady_two (hready 0 (List.mem_singleton_self 0)) h7 hslice
      · simpa [htx] using chkRange_none (by simp; omega)
      · simp [htx, hreg]
    · simp [okDone, htx, Req.addr]
  · intro ⟨hnow, hlen, hready⟩ h0 h1
    refine completes_of_checks hd rfl hnow rfl
      (mgmtChecks_pass hlen hready (passes_cons (chkRange_none (by simp; omega)) passes_nil)) ?_
    simp [okDone, Req.flag]
  · intro ⟨hnow, hlen, hready⟩ h0
    refine completes_of_checks hd rfl hnow rfl ?_ rfl
    exact passes_cons (failIf_false _ _ (by simp [hlen])) (passes_cons (chkReady_one (hready 0 (List.mem_singleton_self 0)))
      (passes_cons (chkRange_none (by simp; omega)) passes_nil))
  · intro ⟨hnow, hlen, hready⟩ h0
    exact completes_of_checks hd rfl hnow rfl (mgmtChecks_pass hlen hready (passes_cons (chkRange_none (by simp; omega)) passes_nil)) rfl
  · intro r idx addrs
    exact completes_of_act hd rfl rfl
  · intro r idx
    exact completes_of_act hd rfl rfl
  · intro q v
    exact completes_of_act hd rfl (Dev.modIdx_evq ..)
  · intro q v hv
    refine completes_of_act hd rfl ((Dev.modIdx_evq ..).trans ?_)
    simp only [hv, if_true]
  · intro v
    exact completes_of_act hd rfl rfl
  · intro m i v
    exact completes_of_act hd rfl (Dev.regWrite_mailbox ..)
  · intro v
    exact completes_of_act hd rfl rfl
  · intro vec hen hdue hmask hlast
    refine completes_of_act hd rfl ?_
    unfold Dev.msixSignal
    dsimp only
    rw [if_neg (by simp [hen, hdue]), if_neg (by simp [hmask]), if_pos (by simpa using hlast)]
    rfl
  · intro v
    exact completes_of_act hd rfl rfl
  · intro m v
    exact completes_of_act hd rfl rfl
  · intro c cause hholds hhalted e
    refine completes_of_act (f := Dev.thenTurns s.log fun d => if d.causeHolds cause.val then d.dmaHalt c.val cause.val else d) hd rfl ?_
    have he : (if d.causeHolds cause.val then d.dmaHalt c.val cause.val else d) = e :=
      (if_pos hholds).trans (if_neg (Bool.eq_false_iff.1 hhalted))
    exact congrArg (fun x : Dev => x.runTurns s.log x.host.turns) he
  · intro c hhalted hcause hperst
    exact completes_of_act hd rfl (if_pos (by simp [show (d.host.dma.get {} c.val).halted = true from hhalted, hcause, hperst]))
  · intro c
    exact completes_of_act hd rfl rfl

end Sys2Proof
end

section
/-! The command path and the firmware (R399 to R408, R421 to R425, R434). -/

namespace Sys2Proof

open Machine

/-! ### Doorbells and held commands -/

/-- A doorbell whose command runs at once. -/
theorem Dev.doorbell_runs {d : Dev} {g : EvLog} {m : Fin 16} {host : List (List Dword)} (hdirect : (d.mbox m.val).indirect = false)
    (hlen : (d.mbox m.val).length ≤ 1021) (hnow : d.runsNow m.val = true) :
    d.doorbell g m 1 host = d.runOpcode g (d.mbox m.val).opcode
      { mb := m, tag := (d.mbox m.val).tag, params := (List.range (d.mbox m.val).length).map (d.mbox m.val).param, host := host } := by
  unfold Dev.doorbell
  simp [Dev.runsNow_ok hnow, hdirect, hnow, not_lt.2 hlen]

/-- A doorbell whose command waits behind another (R407). -/
theorem Dev.doorbell_holds {d : Dev} {g : EvLog} {m : Fin 16} {host : List (List Dword)} (hdirect : (d.mbox m.val).indirect = false)
    (hlen : (d.mbox m.val).length ≤ 1021) (hok : d.doorbellOk m.val = true) (hnow : d.runsNow m.val = false) :
    d.doorbell g m 1 host = d.hold m.val
      { opcode := (d.mbox m.val).opcode, tag := (d.mbox m.val).tag, addr := 0, len := (d.mbox m.val).length,
        held := some ((List.range (d.mbox m.val).length).map (d.mbox m.val).param, host) } := by
  unfold Dev.doorbell
  simp [hok, hdirect, hnow, not_lt.2 hlen]

/-- A doorbell of an indirect command, whose block is to be fetched (R403). -/
theorem Dev.doorbell_fetches {d : Dev} {g : EvLog} {m : Fin 16} {host : List (List Dword)} {c : Cmd} (hok : d.doorbellOk m.val = true)
    (hindirect : (d.mbox m.val).indirect = true) (hlen : (d.mbox m.val).length = 4) (hc : commandOf g (d.mbox m.val).opcode = some c)
    (hdma : d.dmaHalted m.val = false) (hlo : 1 ≤ ((d.mbox m.val).param 2).toNat % 2 ^ 20)
    (hhi : ((d.mbox m.val).param 2).toNat % 2 ^ 20 ≤ 65536) (haddr : ((d.mbox m.val).param 0).toNat % 4 = 0) :
    d.doorbell g m 1 host = d.hold m.val
      { opcode := (d.mbox m.val).opcode, tag := (d.mbox m.val).tag,
        addr := ((d.mbox m.val).param 0).toNat + ((d.mbox m.val).param 1).toNat * 2 ^ 32, len := ((d.mbox m.val).param 2).toNat % 2 ^ 20 } := by
  have hrun : d.doorbell g m 1 host = d.runIndirect g m := by
    unfold Dev.doorbell
    simp [hok, hindirect]
  rw [hrun, Dev.runIndirect]
  dsimp only
  rw [if_neg (by simp [hc]), if_neg (by simp [hlen]; omega), if_neg (Bool.eq_false_iff.1 hdma), if_neg (by simp [haddr])]

/-- The block of an indirect command has arrived. -/
theorem Dev.indirectFetch_arrives {d : Dev} {m : Fin 16} {f : Fetching} {params : List Dword} {host : List (List Dword)}
    (hfetch : (d.mbox m.val).fetching = some f) (hheld : f.held = none) (hdma : d.dmaHalted m.val = false) :
    d.indirectFetch m true params host =
      d.modMbox m.val fun x => { x with fetching := some { f with held := some (params.take f.len, host) } } := by
  unfold Dev.indirectFetch
  simp [hfetch, hheld, hdma]

/-- The held command at the front, whose parameters are at hand, runs. -/
theorem Dev.runTurns_runs {g : EvLog} {d : Dev} {m : Fin 16} {ms : List Nat} {f : Fetching} {ps : List Dword} {host : List (List Dword)} {c : Cmd}
    (hfetch : (d.mbox m.val).fetching = some f) (hheld : f.held = some (ps, host)) (hc : commandOf g f.opcode = some c) :
    d.runTurns g (m.val :: ms) =
      (let r : Req := { mb := m, tag := f.tag, params := ps, host := host }
       ((c r d).2.answer r f.opcode (c r d).1).runTurns g ms) := by
  rw [Dev.runTurns, hfetch]
  dsimp only
  rw [hheld]
  dsimp only
  rw [show Fin.ofNat 16 m.val = m from Fin.ext (Nat.mod_eq_of_lt m.isLt), Dev.runOpcode, hc]

/-- Nothing runs while the command at the front waits for its block. -/
theorem Dev.runTurns_waits {g : EvLog} {d : Dev} {n : Nat} {ms : List Nat} {f : Fetching} (hfetch : (d.mbox n).fetching = some f)
    (hheld : f.held = none) : d.runTurns g (n :: ms) = d := by
  rw [Dev.runTurns, hfetch]
  dsimp only
  rw [hheld]

/-! ### Firmware -/

/-- An image is loaded and verified: the slot takes it (R422, R425). -/
theorem Dev.asyncDone_loaded {d : Dev} {j : Job} {k : Nat} {x : FwImage} {m : Nat} {tag : Word}
    (hjob : (d.host.jobs.find? fun j => j.mb == m && j.tag == tag && (j.opcode == 0x0E11 || j.opcode == 0x0E12)) = some j)
    (hop : j.opcode = 0x0E11) (hload : d.host.fw.loading = some k) (hdma : d.dmaHalted 60 = false) (hverify : x.verify d.vault.fuses = 1) :
    d.asyncDone m tag true (.found x) =
      ((d.modHost fun h => { h with slots := h.slots.set {} k x.slot }).modFw fun f => { f with loading := none }).endJob j .ok := by
  unfold Dev.asyncDone
  rw [hjob]
  have hresult : ImageTry.result d.vault.fuses (.found x) = 1 := hverify
  simp only [hop, hdma, hload, Nat.reduceEqDiff, if_false, Bool.not_true, Bool.or_self, Bool.false_eq_true, hresult]

/-- What the vault keeps of its signed responses is no matter of the host or of time. -/
theorem Dev.snapSigned_keeps {β : Type} (P : Dev → β) (hP : ∀ f (e : Dev), P (e.modVault f) = P e) (d : Dev) : P d.snapSigned = P d := by
  unfold Dev.snapSigned
  refine Dev.forEach_keeps P (fun x e => ?_) _ _
  split
  · rfl
  · exact hP _ _

/-- The handover of an update whose new half has started (R423). -/
theorem Dev.handover_update {d : Dev} {j : Job} (hframe : d.devNs % 125000 = 0) (hswap : d.host.fw.swapping = false) (hupd : d.host.fw.update = 2)
    (hjob : ((((d.snapSigned.vaultHandover (d.host.slots.get {} d.host.fw.updSlot)).swapHalves).modFw fun f =>
      { f with update := 0 }).bootStep fun b => { b with source := d.host.fw.updSlot }).updateJob = some j) :
    d.handover = ((((d.snapSigned.vaultHandover (d.host.slots.get {} d.host.fw.updSlot)).swapHalves).modFw fun f =>
      { f with update := 0 }).bootStep fun b => { b with source := d.host.fw.updSlot }).endJob j .ok := by
  have hhost := Dev.snapSigned_keeps Dev.host (fun _ _ => rfl) d
  have hns := Dev.snapSigned_keeps Dev.devNs (fun _ _ => rfl) d
  unfold Dev.handover
  simp only [hhost, hns, hframe, hswap, hupd, bne_self_eq_false, Bool.false_eq_true, if_false, if_true]
  rw [hjob]

theorem Dev.sramBad_host (d : Dev) (n memory entry : Nat) : (d.sramBad n memory entry).host = d.host := by
  change (d.bump .sramUe n 0).host = d.host
  simp only [Dev.bump, Dev.bumpN]
  split <;> rfl

/-- A trap of a core that runs, of a page that has not trapped within 1 s, reloaded from the running image (R421). -/
theorem Dev.firmwareTrap_reloads {d : Dev} {core addr page : Nat} {sram : Option Bool} (hrun : d.host.fw.running = true)
    (hswap : d.host.fw.swapping = false) (hfaults : ∀ f ∈ d.host.fw.faults, f.page = page → f.time + Config.sec < d.now)
    (hsource : d.host.boot.source < 2) (hpresent : (d.host.slots.get {} d.host.boot.source).present = true) :
    d.firmwareTrap core addr page sram none true false =
      (let e := match sram with | some data => d.sramBad core (if data then 21 else 20) (addr / 32) | none => d
       (e.modFw fun f =>
        { f with
          faults := lastN 16 (f.faults ++ [{ core := core, addr := addr, page := page, time := d.now, devNs := d.devNs }])
          memFault := f.memFault.set 0 core 0 }).raise qCtl 0x0E 4 core [addr / 2 ^ 20 % 2 ^ 20, addr % 2 ^ 20]) := by
  have hagain : (d.host.fw.faults.any fun f => f.page == page && decide (d.now ≤ f.time + Config.sec)) = false := by
    rw [List.any_eq_false]
    intro f hf
    simpa using fun hp => hfaults f hf hp
  unfold Dev.firmwareTrap
  rw [if_neg (by simp [hrun, hswap])]
  dsimp only
  refine if_pos ?_
  rw [Bool.and_eq_true, Bool.and_eq_true, Bool.and_eq_true, Bool.not_eq_true', Nat.blt_eq]
  cases sram with
  | none => exact ⟨⟨rfl, hsource, hpresent⟩, hagain⟩
  | some data =>
    have hhost := Dev.sramBad_host d core (if data then 21 else 20) (addr / 32)
    refine ⟨⟨rfl, ?_, ?_⟩, hagain⟩
    · change (d.sramBad core (if data then 21 else 20) (addr / 32)).host.boot.source < 2
      rwa [hhost]
    · change ((d.sramBad core (if data then 21 else 20) (addr / 32)).host.slots.get {}
        (d.sramBad core (if data then 21 else 20) (addr / 32)).host.boot.source).present = true
      rwa [hhost]

/-- Settles O40. -/
theorem commandPathAndFirmwareComplete : Obligations.CommandPathAndFirmwareComplete := by
  intro s t rq d
  have hd : s.dev.begin t = d := rfl
  clear_value d
  refine ⟨?_, ?_, ?_, ?_, ?_, ?_, ?_, ?_, ?_⟩
  · intro m host c hdirect hlen hc params r
    refine ⟨fun hnow => ?_, fun hok hnow => ?_⟩
    · refine completes_of_act hd rfl ((Dev.doorbell_runs hdirect hlen hnow).trans ?_)
      rw [Dev.runOpcode, hc]
    · exact completes_of_act hd rfl (Dev.doorbell_holds hdirect hlen hok hnow)
  · intro m host c hok hindirect hlen hc hdma len hlo hhi haddr
    exact completes_of_act hd rfl (Dev.doorbell_fetches hok hindirect hlen hc hdma hlo hhi haddr)
  · intro m f params host c hfetch hheld hdma hc e r
    have harrives : d.indirectFetch m true params host = e := Dev.indirectFetch_arrives hfetch hheld hdma
    have hturns : Dev.thenTurns s.log (Dev.indirectFetch m true params host) d = e.runTurns s.log d.host.turns := by
      rw [Dev.thenTurns, harrives]
      rfl
    have hmine : (e.mbox m.val).fetching = some { f with held := some (params.take f.len, host) } := by simp [e]
    refine ⟨?_, ?_, ?_⟩
    · exact completes_of_act hd rfl hturns
    · intro ms hms
      exact completes_of_act hd rfl (by rw [hturns, hms, Dev.runTurns_runs hmine rfl hc])
    · intro n f' ms hms hne hfetch' hheld'
      refine completes_of_act hd rfl ?_
      rw [hturns, hms, Dev.runTurns_waits (f := f') _ hheld']
      rwa [Dev.mbox_modMbox_other _ _ hne.symm]
  · intro ⟨hnow, hlen, hready⟩
    exact completes_of_checks hd rfl hnow rfl (mgmtChecks_pass hlen hready passes_nil) rfl
  · intro ⟨hnow, hlen, hready⟩ h0 h1 h3 hlo hhi hsource hupd hload
    exact completes_of_checks hd rfl hnow rfl (mgmtChecks_pass hlen hready (passes_cons (chkRange_none (by simp; omega))
      (passes_cons (failIf_false _ _ (by simp [h1])) (passes_cons (chkRange_none (by simp; omega))
        (passes_cons (failIf_false _ _ (by simp; omega)) (passes_cons (failIf_false _ _ (by simp [hsource]))
          (passes_cons (failIf_false _ _ (by simp [hupd, hload])) passes_nil))))))) rfl
  · intro ⟨hnow, hlen, hready⟩ hvault h0 hupd hload hsecret hon
    refine completes_of_checks hd rfl hnow rfl ?_ ?_
    · refine passes_cons (chkLen_none hlen) (passes_cons (chkReady_none ?_) (passes_cons (chkRange_none (by simp; omega))
        (passes_cons (failIf_false _ _ (by simp [hupd])) (passes_cons (failIf_false _ _ (by simp [hload]))
          (passes_cons (failIf_false _ _ (by simp [hsecret])) passes_nil)))))
      simp [hready 0, fnVault, hvault]
    · simp [hon]
  · intro j k x m tag hjob hop hload hdma hverify
    exact completes_of_act hd rfl (Dev.asyncDone_loaded hjob hop hload hdma hverify)
  · intro j hframe hswap hupd x e hjob
    exact completes_of_act hd rfl (Dev.handover_update hframe hswap hupd hjob)
  · intro core addr page sram hrun hswap hfaults hsource hpresent e1 e2
    exact completes_of_act hd rfl (congrArg (fun x : Dev => x.runTurns s.log x.host.turns)
      (Dev.firmwareTrap_reloads hrun hswap hfaults hsource hpresent))

end Sys2Proof
end

section
/-! Counts, bandwidth windows, performance counters, the Moth and the event log (R443, R451, R453 to R458, R463, R466). -/

namespace Sys2Proof

open Machine

/-- The checks of a command that needs either direction of its slice begin with its length, readiness and range. -/
theorem obsChecks_pass {rq : Req} {d : Dev} {n : Nat} (hlen : rq.len = n) (hslice : rq.prm 0 ≤ 7)
    (hready : (d.isReady (fnDs (rq.prm 0)) || d.isReady (fnUs (rq.prm 0))) = true) : ∀ x ∈ obsChecks rq d n, x = none :=
  passes_cons (chkLen_none hlen) (passes_cons (chkReady_slice hslice hready) (passes_cons (chkRange_none (by simp; omega)) passes_nil))

/-- The counts of a lane's checker are no counts of the device. -/
theorem CN.checker_of_device {c : CN} (h : c.scope = .device) : c.checker = false := by
  rw [Bool.eq_false_iff]
  intro hc
  simp only [CN.checker, Bool.or_eq_true, beq_iff_eq] at hc
  rcases hc with ((rfl | rfl) | rfl) | rfl <;> cases h

/-- A count of the device outside the blocks is cleared in its own place (R446). -/
theorem Dev.clearInstance_device {c : CN} (hscope : c.scope = .device) (hblocks : c.inBlocks = false) (i : Nat) (d : Dev) :
    d.clearInstance c i = d.clearCount c (i / c.subs) (i % c.subs) := by
  have haid : aidCounts.contains c = false := (Bool.or_eq_false_iff.1 hblocks).2
  unfold Dev.clearInstance
  rw [if_neg (Bool.eq_false_iff.1 haid), if_neg (Bool.eq_false_iff.1 hblocks), if_neg (Bool.eq_false_iff.1 (CN.checker_of_device hscope))]

/-- The checks of `count_clear` for a count of the device outside the blocks. -/
theorem cmdCountClear_device {rq : Req} {d : Dev} {c : CN} (hlen : rq.len = 3) (hready : ∀ f ∈ [0], d.isReady f = true)
    (hc : allCounts[rq.prm 0]? = some c) (hscope : c.scope = .device) (hblocks : c.inBlocks = false) (hn : 1 ≤ rq.prm 2)
    (hlast : rq.prm 1 + rq.prm 2 ≤ c.subs) :
    cmdCountClear rq d = okDone (d.forEach (List.range (rq.prm 2)) fun j d => d.clearInstance c (rq.prm 1 + j)) := by
  have hknown : rq.prm 0 < allCounts.length := (List.getElem?_eq_some_iff.1 hc).1
  have hget : allCounts.getD (rq.prm 0) .pitchMaskIgnored = c := by rw [List.getD_eq_getElem?_getD, hc]; rfl
  have hinst : c.instances = c.subs := by simp [CN.instances, hblocks, hscope, Scope.owners]
  unfold cmdCountClear
  dsimp only
  rw [hget]
  refine withChecks_pass (passes_cons (chkLen_none hlen) (passes_cons ?_ (passes_cons (failIf_false _ _ (by simp [hknown]))
    (passes_cons (failIf_false _ _ (by simp [hinst]; omega)) (passes_cons (failIf_false _ _ (by simp [hinst]; omega)) passes_nil)))))
  rw [if_pos (by simpa using hknown), hblocks]
  refine chkReady_none fun g hg => ?_
  simp only [Bool.false_eq_true, if_false, hscope, List.mem_map] at hg
  obtain ⟨o, -, rfl⟩ := hg
  simp [Scope.needs, hready 0]

/-- Settles O41. -/
theorem observeCommandsComplete : Obligations.ObserveCommandsComplete := by
  intro s t rq d up
  have hopen := fun n hn => begin_windows_open t n hn s.dev
  have hd : s.dev.begin t = d := rfl
  rw [hd] at hopen
  clear_value d
  refine ⟨?_, ?_, ?_, ?_, ?_, ?_, ?_, ?_, ?_⟩
  · intro ⟨hnow, hlen, _⟩ ⟨hslice, hup⟩ h1 h1' h2
    refine completes_of_checks hd rfl hnow rfl (passes_append (obsChecks_pass hlen hslice hup)
      (passes_cons (chkRange_none (by simp; omega)) (passes_cons (failIf_false _ _ (by simp [h1']))
        (passes_cons (chkRange_none (by simp; omega)) passes_nil)))) ?_
    simp [okDone, Req.wide2, h2]
  · intro c ⟨hnow, hlen, hready⟩ hc hscope hblocks hn hlast
    refine completes_of_act hd rfl ?_
    rw [runCmd_accepted hnow, cmdCountClear_device hlen hready hc hscope hblocks hn hlast]
    simp only [Dev.clearInstance_device hscope hblocks]
    rfl
  · intro ⟨hnow, hlen, _⟩ ⟨hslice, hup⟩ h1
    exact completes_of_checks hd rfl hnow rfl (passes_append (obsChecks_pass hlen hslice hup)
      (passes_cons (chkRange_none (by simp; omega)) passes_nil)) rfl
  · intro ⟨hnow, hlen, _⟩ ⟨hslice, hup⟩ hsel
    refine completes_of_checks hd rfl hnow rfl (passes_append (obsChecks_pass hlen hslice hup) (passes_cons ?_ passes_nil)) rfl
    rw [List.findSome?_eq_none_iff]
    exact fun i hi => failIf_false _ _ (hsel i (List.mem_range.1 hi))
  · intro ⟨hnow, hlen, _⟩ ⟨hslice, hup⟩ h1
    refine completes_of_checks hd rfl hnow rfl (passes_append (obsChecks_pass hlen hslice hup)
      (passes_cons (chkRange_none (by simp; omega)) passes_nil)) ?_
    simp [okWith, Req.flag, h1, List.flatMap_map]
  · intro ⟨hnow, hlen, _⟩ h0 h1 hready h4 hseed
    refine completes_of_checks hd rfl hnow rfl (passes_cons (chkLen_none hlen) (passes_cons ?_
      (passes_cons (chkRange_none (by simp; omega)) passes_nil))) ?_
    · have hfn : (if rq.prm 0 < 8 then fnDir (rq.prm 0) (if rq.flag 1 then .up else .down) else 99) = 11 + 2 * rq.prm 0 + rq.prm 1 := by
        rcases Nat.le_one_iff_eq_zero_or_eq_one.1 h1 with h | h <;> simp [Req.flag, h, fnDir, Dir.num, Nat.lt_succ_of_le h0]
      rw [hfn]
      exact chkReady_one hready
    · simp [okDone, hseed]
  · intro ⟨hnow, hlen, hready⟩ hdma haddr
    refine completes_of_checks hd rfl hnow rfl (passes_cons (chkLen_none hlen) (passes_cons (failIf_false _ _ hdma)
      (passes_cons (chkReady_one (hready 0 (List.mem_singleton_self 0))) (passes_cons (failIf_false _ _ (by simp [haddr])) passes_nil)))) rfl
  · intro n
    refine ⟨completes_of_act hd rfl ?_, fun hon => (hopen n.val n.isLt hon).1⟩
    unfold Dev.bwWindowEnd
    split
    · next hon => exact if_pos (Nat.ble_eq.mpr (hopen n.val n.isLt hon).1)
    · rfl
  · intro n e ns k
    exact ⟨fun h => if_pos (Nat.ble_eq.mpr h), fun h => if_neg (by rw [Nat.ble_eq]; exact not_le.2 h)⟩

end Sys2Proof
end

section
/-! Tree slots, protection pairs and system ports (R19, R37, R39, R410 to R412). -/

namespace Sys2Proof

open Machine

/-- The line port of tree k is ready. -/
theorem chkReady_port {d : Dev} {k : Nat} (hk : k ≤ 63) (h : d.isReady (27 + k / 4) = true) : chkReady d [needPortOf k] = none := by
  refine chkReady_none fun g hg => ?_
  rw [List.mem_singleton.1 hg]
  simpa [needPortOf, fnPort, portOfTree, Nat.lt_succ_of_le hk] using .inr h

/-- The line ports of two trees are ready. -/
theorem chkReady_ports {d : Dev} {k o : Nat} (hk : k ≤ 63) (ho : o ≤ 63) (h : d.isReady (27 + k / 4) = true) (h' : d.isReady (27 + o / 4) = true) :
    chkReady d [needPortOf k, needPortOf o] = none := by
  refine chkReady_none fun g hg => ?_
  simp only [List.mem_cons, List.not_mem_nil, or_false] at hg
  rcases hg with rfl | rfl <;> simp [needPortOf, fnPort, portOfTree, Nat.lt_succ_of_le hk, Nat.lt_succ_of_le ho, h, h']

/-- The checks of a command on a configured tree. -/
theorem treeChecks_pass {rq : Req} {d : Dev} {n : Nat} (hlen : rq.len = n) (hk : rq.prm 0 ≤ 63) (hready : d.isReady (27 + rq.prm 0 / 4) = true)
    (hcfg : (d.tree (rq.prm 0)).cfg.configured = true) : ∀ x ∈ treeChecks rq d n, x = none :=
  passes_cons (chkLen_none hlen) (passes_cons (chkReady_port hk hready) (passes_cons (chkRange_none (by simp; omega))
    (passes_cons (failIf_false _ _ (by simp [hcfg])) passes_nil)))

/-- Settles O42. -/
theorem treeAndPortCommandsComplete : Obligations.TreeAndPortCommandsComplete := by
  intro s t rq d
  have hd : s.dev.begin t = d := rfl
  clear_value d
  refine ⟨?_, ?_, ?_, ?_, ?_⟩
  · intro ⟨hnow, hlen, hready⟩ h0 h1 hsize h3 halign hoverlap hport hcfg htest e
    refine completes_of_checks hd rfl hnow rfl (passes_cons (chkLen_none hlen) (passes_cons (chkReady_port h0 (hready _ (List.mem_singleton_self _)))
      (passes_cons (chkRange_none (by simp; omega)) (passes_cons (failIf_false _ _ ?_) (passes_cons (chkRange_none (by simp; omega))
        (passes_cons (failIf_false _ _ (by simp [halign])) (passes_cons (failIf_false _ _ hoverlap)
          (passes_cons (failIf_false _ _ (by simp [portOfTree, hport])) (passes_cons (failIf_false _ _ hcfg)
            (passes_cons (failIf_false _ _ htest) passes_nil)))))))))) ?_
    · simp only [List.mem_cons, List.not_mem_nil, or_false] at hsize
      simp [sizeOk]
      omega
    · simp only [List.any_filter, IlWindow.is, ← Bool.and_assoc]
      rfl
  · intro ⟨hnow, hlen, hready⟩ h0 hcfg hpair
    exact completes_of_checks hd rfl hnow rfl (passes_append (treeChecks_pass hlen h0 (hready _ (List.mem_singleton_self _)) hcfg)
      (passes_cons (failIf_false _ _ (by simp [hpair])) passes_nil)) rfl
  · intro ⟨hnow, hlen, hready⟩ h0 h1 hcfg hcfg' hslice hport hpair hpair'
    exact completes_of_checks hd rfl hnow rfl (passes_cons (chkLen_none hlen)
      (passes_cons (chkReady_ports h0 h1 (hready _ (by simp)) (hready _ (by simp))) (passes_cons (chkRange_none (by simp; omega))
        (passes_cons (failIf_false _ _ (by simp [hcfg])) (passes_cons (failIf_false _ _ (by simp [hcfg']))
          (passes_cons (failIf_false _ _ (by simp [sliceOfTree, portOfTree, hslice, hport])) (passes_cons (failIf_false _ _ (by simp [hpair, hpair']))
            passes_nil))))))) rfl
  · intro o ⟨hnow, hlen, hready⟩ h0 ho hcfg hpair hwork off
    have hother : (d.tree (rq.prm 0)).cfg.pair.getD (rq.prm 0) = o := by rw [hpair]; rfl
    refine completes_of_checks hd rfl hnow rfl (passes_cons (chkLen_none hlen) (passes_cons ?_ (passes_cons (chkRange_none (by simp; omega))
      (passes_cons (failIf_false _ _ (by simp [hcfg])) (passes_cons (failIf_false _ _ (by simp [hpair, hwork])) passes_nil))))) ?_
    · rw [hother]
      exact chkReady_ports h0 ho (hready _ (by simp)) (hready _ (by simp))
    · rw [hother]
      rfl
  · intro ⟨hnow, hlen, hready⟩ h0 h1 h2 h3 h4 hen halign hfit hmode hoverlap e
    have htrain : rq.flag 4 = true := by simp [Req.flag, h4]
    refine completes_of_checks hd rfl hnow rfl (passes_cons (chkLen_none hlen) (passes_cons (chkReady_none ?_) (passes_cons (chkRange_none (by simp; omega))
      (passes_cons (failIf_false _ _ ?_) (passes_cons (chkRange_none (by simp; omega)) (passes_cons (failIf_false _ _ (by simp [hen]))
        (passes_cons (failIf_false _ _ (by simp [halign, hfit])) (passes_cons (failIf_false _ _ (by simpa using hmode))
          (passes_cons (failIf_false _ _ hoverlap) passes_nil))))))))) ?_
    · simp [fnDs, fnUs, hready, Nat.lt_succ_of_le h0]
    · simp only [List.mem_cons, List.not_mem_nil, or_false] at h1
      simp
      omega
    · simp only [htrain, if_true]
      rfl

end Sys2Proof
end

section
/-! Lane commands and the lane status page (R50, R52 to R66, R72, Tables 2.3, 2.9 to 2.13). -/

namespace Sys2Proof

open Machine

/-- The one function of a lane and a direction is ready. -/
theorem chkReady_lane {d : Dev} {l : Nat} {tx : Bool} (h : ∀ f ∈ laneNeed l tx, d.isReady f = true) : chkReady d [laneNeed l tx] = none := by
  refine chkReady_none fun g hg => ?_
  rw [List.mem_singleton.1 hg]
  unfold laneNeed at h ⊢
  split at h <;> split <;> simp_all

/-- The length of a lane command and the readiness that it needs. -/
theorem laneChecks_pass {rq : Req} {d : Dev} {n : Nat} {tx : Bool} {l : Nat} (hl : selLane (rq.prm 0) = l) (htx : selTx (rq.prm 0) = tx)
    (hlen : rq.len = n) (hready : ∀ f ∈ laneNeed l tx, d.isReady f = true) : ∀ x ∈ laneChecks rq d n, x = none := by
  subst hl htx
  exact passes_cons (chkLen_none hlen) (passes_cons (chkReady_lane hready) passes_nil)

theorem selTx_eq_true {v : Nat} (h : v / 2 ^ 8 % 2 = 1) : selTx v = true := by simp only [selTx, h]; rfl

theorem selTx_eq_false {v : Nat} (h : v / 2 ^ 8 % 2 = 0) : selTx v = false := by simp only [selTx, h]; rfl

theorem wrongDir_none {rq : Req} {tx : Bool} (h : selTx (rq.prm 0) = tx) : wrongDir rq tx = none := failIf_false _ _ (by simp [h])

/-- A command on the transmitter wakes the first domain of its lane. -/
theorem Dev.laneWakes_tx {rq : Req} {d : Dev} (h : rq.prm 0 / 2 ^ 8 % 2 = 1) :
    d.laneWakes rq = d.wake ((laneDoms (selLane (rq.prm 0))).getD 0 0) causeHost := by
  simp only [Dev.laneWakes, selTx_eq_true h, if_true]

/-- A command on the receiver wakes the second domain of its lane. -/
theorem Dev.laneWakes_rx {rq : Req} {d : Dev} (h : rq.prm 0 / 2 ^ 8 % 2 = 0) :
    d.laneWakes rq = d.wake ((laneDoms (selLane (rq.prm 0))).getD 1 0) causeHost := by
  simp only [Dev.laneWakes, selTx_eq_false h, Bool.false_eq_true, if_false]

/-- Settles O43. -/
theorem laneCommandsComplete : Obligations.LaneCommandsComplete := by
  intro s t rq d l rx tx w
  have hd : s.dev.begin t = d := rfl
  clear_value d
  have hwtx : tx → d.laneWakes rq = w := fun h => (Dev.laneWakes_tx h).trans (by simp only [w, if_pos h]; rfl)
  have hwrx : rx → d.laneWakes rq = w := fun h => (Dev.laneWakes_rx h).trans (by
    have : ¬ tx := by simp only [tx, rx] at h ⊢; omega
    simp only [w, if_neg this]; rfl)
  have hsel : selLane (rq.prm 0) = l := rfl
  clear_value w l
  have htx : tx → selTx (rq.prm 0) = true := selTx_eq_true
  have hrx : rx → selTx (rq.prm 0) = false := selTx_eq_false
  have hprm : ∀ i, rq.prm i < 2 ^ 20 := fun i => Nat.mod_lt _ (by decide)
  refine ⟨?_, ?_, ?_, ?_, ?_, ?_, ?_, ?_, ?_, ?_, ?_⟩
  · intro ⟨hnow, hlen, hready⟩ ht h2 h3 hl htrain taps
    have hpass := passes_append (laneChecks_pass hsel (htx ht) hlen hready)
      (passes_cons (chkRange_none (rq := rq) (l := [(2, 0, 1), (3, 0, 1)]) (by simp; omega)) (passes_cons (wrongDir_none (htx ht)) passes_nil))
    have hown : (decide (l < 256) || d.laneTrained l) = false := by simp [htrain, hl]
    refine ⟨fun hok => ?_, fun hbad => ?_⟩
    · refine completes_of_checks hd rfl hnow rfl hpass ((if_neg ?_).trans ?_)
      · rw [hsel, hown, show tapsOk (rq.bits 1 5 15) (rq.bits 1 6 9) (rq.bits 1 6 3) = true from hok]
        decide
      · rw [hsel, hown, hwtx ht]
        rfl
    · refine completes_of_checks hd rfl hnow rfl hpass ((if_pos ?_).trans ?_)
      · rw [hsel, hown, show tapsOk (rq.bits 1 5 15) (rq.bits 1 6 9) (rq.bits 1 6 3) = false from hbad]
        decide
      · rw [hsel, hwtx ht]
        simp only [satInc]
  · intro ⟨hnow, hlen, hready⟩ ht h2 h3 hown
    have hown : (decide (l < 256) || d.laneTrained l) = true := by simpa using hown
    refine completes_of_checks hd rfl hnow rfl (passes_append (laneChecks_pass hsel (htx ht) hlen hready)
      (passes_cons (chkRange_none (by simp; omega)) (passes_cons (wrongDir_none (htx ht)) passes_nil))) ((if_neg ?_).trans ?_)
    · rw [hsel, hown]
      simp
    · rw [hsel, hown, hwtx ht]
      rfl
  · intro ⟨hnow, hlen, hready⟩ hr hdfe hpol e
    refine completes_of_checks hd rfl hnow rfl (passes_append (laneChecks_pass hsel (hrx hr) hlen hready)
      (passes_cons (failIf_false _ _ (by simpa [Req.bits] using ⟨hdfe, hpol⟩)) (passes_cons (wrongDir_none (hrx hr)) passes_nil))) ?_
    rw [hsel, hwrx hr]
    have h12 : rq.bits 1 2 12 = rq.prm 1 / 2 ^ 12 % 4 := rfl
    have h10 : rq.bits 1 2 10 = rq.prm 1 / 2 ^ 10 % 4 := rfl
    have h0 : rq.bits 1 5 0 = rq.prm 1 % 2 ^ 5 := by simp [Req.bits]
    simp only [h12, h10, h0, e]
    generalize rq.prm 1 / 2 ^ 12 % 4 = dfe at hdfe ⊢
    generalize rq.prm 1 / 2 ^ 10 % 4 = pol at hpol ⊢
    rcases pol with _ | _ | _ | pol <;> rcases dfe with _ | _ | _ | dfe <;> rfl
  · intro ⟨hnow, hlen, hready⟩ h1 h2 hmode htest e f g
    refine completes_of_checks hd rfl hnow rfl (passes_append (laneChecks_pass hsel rfl hlen hready)
      (passes_cons (chkRange_none (by simp; omega)) (passes_cons (failIf_false _ _ ?_) (passes_cons (failIf_false _ _ ?_) passes_nil)))) ?_
    · rw [hsel]
      simpa using hmode
    · rw [hsel]
      simpa using htest
    · rw [hsel]
      simp only [g, f, e, Bool.and_eq_true, decide_eq_true_eq]
      rfl
  · intro ⟨hnow, hlen, hready⟩ ht h1 hburst hrate e
    refine completes_of_checks hd rfl hnow rfl (passes_append (laneChecks_pass hsel (htx ht) hlen hready)
      (passes_cons (chkRange_none (by simp; omega)) (passes_cons ?_ (passes_cons ?_ (passes_cons (wrongDir_none (htx ht)) passes_nil))))) ?_
    · split
      next h => exact chkRange_none (by simpa [Req.within] using hburst h)
      next => rfl
    · split
      next h => exact chkRange_none (by have := hprm 3; have := hrate h; simp; omega)
      next => rfl
    · rw [hsel, hwtx ht]
      rfl
  · intro ⟨hnow, hlen, hready⟩ hr hdma h1 h1' h2 h3 h4 h5 h6 halign hnone j e
    refine completes_of_checks hd rfl hnow rfl (passes_append (passes_append (passes_cons (chkLen_none hlen) (passes_cons (failIf_false _ _ hdma) passes_nil))
      fun x hx => laneChecks_pass hsel (hrx hr) hlen hready x (List.mem_of_mem_drop hx))
      (passes_cons (chkRange_none ?_) (passes_cons (failIf_false _ _ (by simp [halign])) (passes_cons (wrongDir_none (hrx hr))
        (passes_cons (failIf_false _ _ (by simp [hsel, hnone])) passes_nil))))) ?_
    · rw [hsel]
      simp
      omega
    · rw [hsel]
      rfl
  · intro ⟨hnow, hlen, hready⟩ hr hsome
    refine completes_of_checks hd rfl hnow rfl (passes_append (laneChecks_pass hsel (hrx hr) hlen hready)
      (passes_cons (failIf_false _ _ ?_) (passes_cons (wrongDir_none (hrx hr)) passes_nil))) ?_
    · rw [hsel]
      simpa [Option.isSome_iff_ne_none] using hsome
    · rw [hsel]
      rfl
  · intro ⟨hnow, hlen, hready⟩
    refine completes_of_checks hd rfl hnow rfl (laneChecks_pass hsel rfl hlen hready) ?_
    rw [hsel]
    simp only [selTx, beq_iff_eq, tx]
    rfl
  · intro l v
    exact completes_of_act hd rfl rfl
  · intro l
    exact completes_of_act hd rfl rfl
  · intro l v
    exact completes_of_act hd rfl rfl

end Sys2Proof
end

section
/-! What happens to a lane (R45 to R47, R52 to R54, R58, R59, R63 to R70, R78, R79, R490, Tables 2.4, 2.8). -/

namespace Sys2Proof

open Machine

/-! ### The hunt for block lock (R70, R78) -/

theorem huntFrom_eq (mode c : Nat) :
    huntFrom mode c = if mode = 1 then c % 2700 else if mode = 2 then 2700 + c % 2700 else c % 5400 := by
  unfold huntFrom
  split <;> simp_all

/-- The hunt goes on with the candidate after the last. -/
theorem huntNext_huntFrom (mode c : Nat) : huntNext mode (huntFrom mode c) = huntFrom mode (c + 1) := by
  unfold huntNext
  by_cases h1 : mode = 1
  · subst h1
    simp only [huntFrom_eq, reduceIte, and_true, Nat.reduceEqDiff, and_false]
    split <;> omega
  · by_cases h2 : mode = 2
    · subst h2
      simp only [huntFrom_eq, reduceIte, and_true, Nat.reduceEqDiff, and_false]
      split <;> omega
    · simp only [huntFrom_eq, h1, h2, and_false, reduceIte]
      omega

theorem headerValid_iff {h : BitVec 2} : headerValid h = true ↔ h = 1 ∨ h = 2 := by simp [headerValid]

theorem not_headerValid_iff {h : BitVec 2} : headerValid h = false ↔ h = 0 ∨ h = 3 := by
  revert h
  decide

/-- Headers with an invalid one among the first 1,024 reject their candidate. -/
theorem hunt_rejected {mode c : Nat} {r : List (BitVec 2)} {rest : List (List (BitVec 2))} (hr : ∃ h ∈ r.take 1024, h = 0 ∨ h = 3) :
    hunt mode c (r :: rest) = hunt mode (huntNext mode c) rest := by
  obtain ⟨h, hmem, hbad⟩ := hr
  rw [← not_headerValid_iff] at hbad
  have htake : (r.take 1024).all headerValid = false := List.all_eq_false.2 ⟨h, hmem, by simp [hbad]⟩
  have hall : r.all headerValid = false := List.all_eq_false.2 ⟨h, List.mem_of_mem_take hmem, by simp [hbad]⟩
  simp [hunt, htake, hall]

/-- The hunt locks at the candidate that follows the rejected ones. -/
theorem hunt_locks {mode : Nat} {headers : List (BitVec 2)} (hlen : 1024 ≤ headers.length) (hvalid : ∀ h ∈ headers.take 1024, h = 1 ∨ h = 2)
    (rejected : List (List (BitVec 2))) (c : Nat) (hrej : ∀ r ∈ rejected, ∃ h ∈ r.take 1024, h = 0 ∨ h = 3) :
    hunt mode (huntFrom mode c) (rejected ++ [headers]) = some (huntFrom mode (c + rejected.length)) := by
  induction rejected generalizing c with
  | nil =>
    have hall : (headers.take 1024).all headerValid = true := List.all_eq_true.2 fun h hh => headerValid_iff.2 (hvalid h hh)
    simp [hunt, hlen, hall]
  | cons r rs ih =>
    rw [List.cons_append, hunt_rejected (hrej r List.mem_cons_self), huntNext_huntFrom, ih (c + 1) fun x hx => hrej x (List.mem_cons_of_mem _ hx),
      List.length_cons]
    congr 2
    omega

/-! ### Eye scans (R63) -/

theorem EyeScan.pointOver_iff {x : EyeScan} {errors symbols : Nat} : x.pointOver errors symbols = true ↔
    errors = 64 ∧ 64 ≤ symbols ∧ symbols ≤ 3 * 10 ^ (6 + x.depth) ∨ errors < 64 ∧ symbols = 3 * 10 ^ (6 + x.depth) := by
  unfold EyeScan.pointOver EyeScan.target
  split <;> simp_all

/-- A point that is over writes its record and marks it, and ends the scan if it was the last. -/
theorem Dev.scanPoint_over {d : Dev} {l errors symbols : Nat} {x : EyeScan} (hscan : d.scans.get none l = some x) (hrun : x.running = true)
    (hpause : x.paused = false) (hover : x.pointOver errors symbols = true) :
    d.scanPoint l errors symbols =
      let e := d.out (.dma x.job.mb (x.addr + 12 * x.clean.length) (toDwords [errors, symbols / 2 ^ 20 % 2 ^ 20, symbols % 2 ^ 20]))
      let f := { e with scans := d.scans.set none l (some { x with clean := x.clean ++ [errors == 0] }) }
      if x.points ≤ x.clean.length + 1 then f.endScan l 0 .ok else f := by
  simp only [Dev.scanPoint, hscan, hrun, hpause, hover, Bool.not_true, Bool.or_self, Bool.false_eq_true, if_false, List.length_append,
    List.length_singleton]
  rfl

/-- Settles O44. -/
theorem laneEventsComplete : Obligations.LaneEventsComplete := by
  intro s t d
  have hd : s.dev.begin t = d := rfl
  clear_value d
  refine ⟨?_, ?_, ?_, ?_, ?_, ?_, ?_, ?_, ?_, ?_, ?_, ?_, ?_, ?_, ?_, ?_, ?_, ?_⟩
  · intro l hcdr hneed hon hopen hlos e
    exact completes_of_act hd rfl (if_neg (by simp only [hcdr, hneed, hon, hopen, hlos]; decide))
  · intro l x
    refine completes_of_act hd rfl ?_
    simp only [Dev.signalLost, Dev.lastTail, Bool.and_eq_true, decide_eq_true_eq, bne_iff_ne]
  · intro p hlos
    exact completes_of_act hd rfl (if_neg (by simp [hlos]))
  · intro p hlos
    exact completes_of_act hd rfl (if_neg (by simp [hlos]))
  · intro l leg x hleg e
    exact completes_of_act hd rfl (if_neg (by simp [hleg]))
  · intro l leg hleg
    exact completes_of_act hd rfl (if_neg (by simp [hleg]))
  · intro l hshort
    exact completes_of_act hd rfl (if_neg (by simp [hshort]))
  · intro l hshort
    exact completes_of_act hd rfl (if_neg (by simp [hshort]))
  · intro l margin hl hmode hmargin hdfe
    refine completes_of_act hd rfl ((if_pos (by simp [hl, hmode, hmargin])).trans ((if_neg (by simp [hdfe])).trans rfl))
  · intro l x errors symbols hscan hrun hpause hover hmore e
    exact completes_of_act hd rfl ((Dev.scanPoint_over hscan hrun hpause (EyeScan.pointOver_iff.2 hover)).trans (if_neg (by omega)))
  · intro l x errors symbols hscan hrun hpause hover hlast e
    exact completes_of_act hd rfl ((Dev.scanPoint_over hscan hrun hpause (EyeScan.pointOver_iff.2 hover)).trans (if_pos (by omega)))
  · intro l x hscan hrun hpause hdue
    exact completes_of_act hd rfl (by simp [Dev.scanTimeout, hscan, hrun, hpause, hdue])
  · intro l rejected headers hcdr hst hrej hlen hvalid n c
    refine completes_of_act hd rfl ?_
    simp only [Dev.blockLock, hcdr, hst, hunt_locks hlen hvalid rejected _ hrej, bne_self_eq_false, Bool.not_true, Bool.or_self,
      Bool.false_eq_true, if_false]
    rw [huntFrom_eq]
    rfl
  · intro l last x hst hlen hbad
    refine completes_of_act hd rfl (if_neg ?_)
    have hinvalid : (fun h => !headerValid h) = fun h => h == 0 || h == 3 := by
      funext h
      revert h
      decide
    rw [hinvalid]
    simp only [hst, decide_eq_false (Nat.not_lt.2 hlen), decide_eq_false (Nat.not_lt.2 hbad)]
    decide
  · intro l c hpat hlock
    exact completes_of_act hd rfl (by simp [Dev.checkerOn, hpat, hlock])
  · intro l errs c hlock hbad
    exact completes_of_act hd rfl (if_pos (by simp [hlock, hbad]))
  · intro p lanes hwidth hen hup htrain htest hpol e
    refine completes_of_act hd rfl ((if_neg ?_).trans ?_)
    · have hpins : ((d.portLanes p.val).zip (List.range 8)).any (fun e => !polAllows (d.rxLane e.1).polMode (lanes.getD e.2 {}).inv) = false :=
        List.any_eq_false.2 fun x hx => by simpa using hpol x hx
      simp only [hwidth, hen, hup, htest, hpins]
      decide
    · simp only [Bool.and_false, Bool.not_false]
      rfl
  · intro p hup
    exact completes_of_act hd rfl (if_pos hup)

end Sys2Proof
end

section
/-! Memory commands (R314, R326 to R331, R335, R337, R381, R404, Tables 11.2, 11.8, 11.9). -/

namespace Sys2Proof

open Machine

/-- A command over a domain whose checks pass answers, with OK or ASYNC, on the woken block (R381). -/
theorem Machine.completes_of_domainAnswer {i : Instr} {t op : Nat} {dom : Nat → Nat} {c : Cmd} {rq : Req} {s : State} {d w e : Dev}
    {cs : List Check} {k : Resp × Dev} {r : Resp} (hd : s.dev.begin t = d) (hw : d.wake (dom (rq.prm 0)) causeHost = w)
    (harm : exec i s = act t (runCmd op (domainCmd dom c) rq) s) (hnow : d.runsNow rq.mb.val = true) (hcmd : c rq w = withChecks cs w k)
    (hpass : ∀ x ∈ cs, x = none) (hk : k = (r, e)) (hcode : r.code = .ok ∨ r.code = .async) : Completes i s (e.answer rq op r) := by
  subst hw
  refine completes_of_act hd harm ?_
  rw [runCmd_accepted hnow, domainCmd_state, domainCmd_resp, hcmd, withChecks_pass hpass, hk, if_pos hcode]

/-- Checks that pass leave the decision to those after them. -/
theorem firstFail_append {cs cs' : List Check} (h : ∀ x ∈ cs, x = none) : firstFail (cs ++ cs') = firstFail cs' := by
  induction cs with
  | nil => rfl
  | cons c cs ih =>
    rw [h c List.mem_cons_self, List.cons_append, firstFail]
    exact ih fun x hx => h x (List.mem_cons_of_mem _ hx)

/-- A command over a domain that a check refuses leaves even the wake undone (R404). -/
theorem Machine.completes_of_domainRefused {i : Instr} {t op : Nat} {dom : Nat → Nat} {c : Cmd} {rq : Req} {s : State} {d w : Dev}
    {cs : List Check} {k : Resp × Dev} {r : Resp} (hd : s.dev.begin t = d) (hw : d.wake (dom (rq.prm 0)) causeHost = w)
    (harm : exec i s = act t (runCmd op (domainCmd dom c) rq) s) (hnow : d.runsNow rq.mb.val = true) (hcmd : c rq w = withChecks cs w k)
    (hfail : firstFail cs = some r) (hcode : ¬(r.code = .ok ∨ r.code = .async)) : Completes i s (d.answer rq op r) := by
  subst hw
  refine completes_of_act hd harm ?_
  rw [runCmd_accepted hnow, domainCmd_state, domainCmd_resp, hcmd, withChecks_fail hfail, if_neg hcode]

/-- The checks that every memory command begins with. -/
theorem memChecks_pass {rq : Req} {d : Dev} {n : Nat} (hlen : rq.len = n) (hn : rq.prm 0 ≤ 7) (hready : d.isReady (3 + rq.prm 0) = true) :
    ∀ x ∈ memChecks rq d n, x = none :=
  passes_cons (chkLen_none hlen) (passes_cons (chkReady_one (by rw [if_pos (by omega)]; exact hready))
    (passes_cons (chkRange_none (by simp; omega)) passes_nil))

/-- Settles O45. -/
theorem memoryCommandsComplete : Obligations.MemoryCommandsComplete := by
  intro s t rq d n w hn hmem
  have hd : s.dev.begin t = d := rfl
  have hw : d.wake (pdMem (rq.prm 0)) causeHost = w := rfl
  clear_value d w
  refine ⟨?_, ?_, ?_, ?_, ?_, ?_⟩
  · intro ⟨hnow, hlen, _⟩
    exact completes_of_domainAnswer hd hw rfl hnow rfl (memChecks_pass hlen hn hmem) rfl (.inl rfl)
  · intro ⟨hnow, hlen, _⟩
    exact completes_of_domainAnswer hd hw rfl hnow rfl (memChecks_pass hlen hn hmem) rfl (.inl rfl)
  · intro ⟨hnow, hlen, _⟩ h1 halign h3 halign' hpos hlimit h5 h6 hspare hnone
    refine completes_of_domainAnswer hd hw rfl hnow rfl (passes_append (memChecks_pass hlen hn hmem)
      (passes_cons (chkRange_none (by simp; omega)) (passes_cons (failIf_false _ _ (by simp [halign]))
        (passes_cons (chkRange_none (by simp; omega)) (passes_cons (failIf_false _ _ ?_) (passes_cons (chkRange_none (by simp; omega))
          (passes_cons (failIf_false _ _ ?_) (passes_cons (failIf_false _ _ (by simp [n, ← hnone])) passes_nil)))))))) rfl (.inr rfl)
    · have hlim : ¬(if rq.flag 6 = true then rankBytes else 3 * rankBytes) < rq.wide2 1 + rq.wide2 3 := by
        simpa [Req.flag] using hlimit
      simp [halign', decide_eq_false hlim, Nat.pos_iff_ne_zero.1 hpos]
    · simpa [Req.flag] using hspare
  · intro x ⟨hnow, hlen, _⟩ hscrub
    have hpass := passes_append (memChecks_pass hlen hn hmem)
      (passes_cons (failIf_false .notFound 0 (b := (w.stack (rq.prm 0)).scrub.isNone) (by simp [n] at hscrub; simp [hscrub])) passes_nil)
    refine ⟨fun hback => ?_, fun v hback => ?_⟩
    · refine completes_of_domainAnswer hd hw rfl hnow rfl hpass ((if_neg ?_).trans ?_) (.inl rfl)
      · simp only [n] at hscrub
        simp [hscrub, hback]
      · simp only [n] at hscrub
        simp only [hscrub]
        rfl
    · refine completes_of_domainAnswer hd hw rfl hnow rfl hpass ((if_pos ?_).trans rfl) (.inl rfl)
      simp only [n] at hscrub
      simp [hscrub, hback]
  · intro ⟨hnow, hlen, _⟩ h1 hserve
    have hrange : chkRange rq [(1, 0, 2)] = none := chkRange_none (by simp; omega)
    have hfound : failIf (!(w.stack (rq.prm 0)).map.inService (rq.prm 1)) .notFound = none := failIf_false _ _ (by simpa using hserve)
    refine ⟨fun g hmig => ?_, fun hmig hspare => ?_⟩
    · refine completes_of_domainRefused hd hw rfl hnow rfl ((firstFail_append (memChecks_pass hlen hn hmem)).trans ?_) (by decide)
      simp only [n] at hmig
      simp only [hrange, hfound, hmig]
      rfl
    · simp only [n] at hmig hspare
      exact completes_of_domainAnswer hd hw rfl hnow rfl (passes_append (memChecks_pass hlen hn hmem)
        (passes_cons hrange (passes_cons hfound (passes_cons (failIf_false _ _ (by simp [hmig]))
          (passes_cons (failIf_false _ _ (by simp [hspare])) passes_nil))))) rfl (.inl rfl)
  · intro ⟨hnow, hlen, _⟩ hdma halign
    exact completes_of_domainAnswer hd hw rfl hnow rfl (passes_append (passes_append (passes_cons (chkLen_none hlen) (passes_cons (failIf_false _ _ hdma) passes_nil))
      fun x hx => memChecks_pass hlen hn hmem x (List.mem_of_mem_drop hx)) (passes_cons (failIf_false _ _ (by simp [halign])) passes_nil)) rfl (.inl rfl)

end Sys2Proof
end

section
/-! What happens to a memory stack (R313 to R315, R319, R320, R322 to R327, R330, R334, R446, Tables 11.3 to 11.5). -/

namespace Sys2Proof

open Machine

theorem ReadResult.bad_iff {r : ReadResult} : r.bad = true ↔ r = .uncorrectable ∨ r = .poisoned := by cases r <;> simp [ReadResult.bad]

/-! ### The arbiter (R314, R315) -/

theorem Stack.grants_iff {m : Stack} {stood at_ : Ticks} {r : MemRq} : m.grants stood at_ r = true ↔
    m.lastSlot.get 0 (channelOf r.addr) ≤ m.slotNo stood at_ ∧ r ∈ m.contenders (channelOf r.addr) (m.slotAt stood at_) at_ ∧
    (∀ x ∈ m.contenders (channelOf r.addr) (m.slotAt stood at_) at_, m.turns (channelOf r.addr) r.port ≤ m.turns (channelOf r.addr) x.port) ∧
    (((m.contenders (channelOf r.addr) (m.slotAt stood at_) at_).takeWhile (· != r)).all fun x => x.port != r.port || (!r.write && x.write)) = true := by
  simp only [Stack.grants, Bool.and_eq_true, Nat.ble_eq, List.contains_iff_mem, List.all_eq_true (p := fun x => Nat.ble _ _), and_assoc]

/-- A channel that has had its slot gets no second grant in it. -/
theorem Stack.granted_once {m : Stack} {stood at_ : Ticks} {r x : MemRq} (h : (m.granted stood at_ r).grants stood at_ x = true) :
    channelOf x.addr ≠ channelOf r.addr := by
  intro hch
  obtain ⟨hslot, -⟩ := Stack.grants_iff.1 h
  have hlast : (m.granted stood at_ r).lastSlot.get 0 (channelOf x.addr) = m.slotNo stood at_ + 1 := by
    rw [hch, Stack.granted, Tab.get_set_same]
  have hno : (m.granted stood at_ r).slotNo stood at_ = m.slotNo stood at_ := rfl
  omega

theorem le_foldl_max {f : MemRq → Nat} (l : List MemRq) (a : Nat) :
    a ≤ l.foldl (fun a r => max a (f r)) a ∧ ∀ x ∈ l, f x ≤ l.foldl (fun a r => max a (f r)) a := by
  induction l generalizing a with
  | nil => simp
  | cons y ys ih =>
    obtain ⟨hacc, hall⟩ := ih (max a (f y))
    refine ⟨le_trans (le_max_left ..) hacc, List.forall_mem_cons.2 ⟨le_trans (le_max_right ..) hacc, hall⟩⟩

/-- Whom the pointer decides between: the slot's owners; without one, class 0 at priority 7; without that, the highest priority (R315). -/
theorem Stack.mem_contenders {m : Stack} {ch slot : Nat} {at_ : Ticks} {r : MemRq} (hr : r ∈ m.contenders ch slot at_) :
    r ∈ m.candidates ch at_ ∧ ((∃ x ∈ m.candidates ch at_, m.owns slot x = true) → m.owns slot r = true) ∧
    ((∀ x ∈ m.candidates ch at_, m.owns slot x = false) →
      ((∃ x ∈ m.candidates ch at_, m.rank x = 7 ∧ x.cls0 = true) → m.rank r = 7 ∧ r.cls0 = true) ∧
      ((∀ x ∈ m.candidates ch at_, ¬(m.rank x = 7 ∧ x.cls0 = true)) →
        ∀ x ∈ m.candidates ch at_, m.rank x ≤ m.rank r ∧ (m.rank x = m.rank r → x ∈ m.contenders ch slot at_))) := by
  obtain ⟨hzero, htop⟩ := le_foldl_max (f := m.rank) (m.candidates ch at_) 0
  unfold Stack.contenders at hr ⊢
  dsimp only at hr ⊢
  by_cases hrefresh : m.refreshSlot slot = true
  · rw [if_pos hrefresh] at hr
    exact absurd hr List.not_mem_nil
  rw [if_neg hrefresh] at hr ⊢
  by_cases hown : ∃ x ∈ m.candidates ch at_, m.owns slot x = true
  · have hne : (!((m.candidates ch at_).filter (m.owns slot)).isEmpty) = true := by
      simpa [List.filter_eq_nil_iff] using hown
    rw [if_pos hne] at hr
    obtain ⟨hcand, hmine⟩ := List.mem_filter.1 hr
    obtain ⟨x, hx, hxown⟩ := hown
    exact ⟨hcand, fun _ => hmine, fun hno => absurd (hno x hx) (by simp [hxown])⟩
  have hempty : ¬(!((m.candidates ch at_).filter (m.owns slot)).isEmpty) = true := by
    simpa [List.filter_eq_nil_iff] using hown
  rw [if_neg hempty] at hr ⊢
  by_cases hurgent : ∃ x ∈ m.candidates ch at_, m.rank x = 7 ∧ x.cls0 = true
  · have hne : (!((m.candidates ch at_).filter fun r => m.rank r == 7 && r.cls0).isEmpty) = true := by
      simpa [List.filter_eq_nil_iff] using hurgent
    rw [if_pos hne] at hr
    obtain ⟨hcand, hrank⟩ := List.mem_filter.1 hr
    obtain ⟨x, hx, hxurgent⟩ := hurgent
    exact ⟨hcand, fun h => absurd h hown, fun _ => ⟨fun _ => by simpa using hrank, fun hno => absurd hxurgent (hno x hx)⟩⟩
  have hempty' : ¬(!((m.candidates ch at_).filter fun r => m.rank r == 7 && r.cls0).isEmpty) = true := by
    simpa [List.filter_eq_nil_iff] using hurgent
  rw [if_neg hempty'] at hr ⊢
  obtain ⟨hcand, hrank⟩ := List.mem_filter.1 hr
  refine ⟨hcand, fun h => absurd h hown, fun _ => ⟨fun h => absurd h hurgent, fun _ x hx => ?_⟩⟩
  rw [beq_iff_eq] at hrank
  exact ⟨hrank ▸ htop x hx, fun heq => List.mem_filter.2 ⟨hx, by rw [heq, hrank]; exact beq_self_eq_true _⟩⟩

/-- What runs for a request that the arbiter grants its slot. -/
theorem Dev.arbitrate_granted {d e : Dev} {n : Nat} {asked : MemRq → Bool} {slot : MemSlot} {k : MemRq → Dev → Dev} {r : MemRq}
    (he : d.forEach slot.arrived (Dev.memArrive n) = e) (hfind : (e.stack n).pend.find? asked = some r)
    (hgrant : (e.stack n).grants (e.memStood n) slot.at_ r = true) :
    d.arbitrate n asked slot k = k r (e.modStack n fun m => m.granted (e.memStood n) slot.at_ r) := by
  subst he
  simp only [Dev.arbitrate, hfind, hgrant, if_true]

/-! ### Reads of the control regions (R313) -/

/-- A bad word is read from another copy. -/
theorem Dev.controlRead_other {d : Dev} {n addr l : Nat} {use : ReadUse} {r : MemRq} {res : ReadResult} {rest : List Nat} (hbad : res.bad = true)
    (hsecond : r.second = false) (hothers : ((d.stack n).map.copies.filter fun l => l != logicalOf addr) = l :: rest) :
    d.controlRead n addr use r res =
      d.memAsk n { port := use.port, write := false, addr := l * rankBytes + addr % rankBytes, prio := 0, second := true, upd := r.upd } := by
  simp only [Dev.controlRead, hothers, hbad, hsecond, Bool.not_false, Bool.and_true, if_true]

/-- A word that is bad in the last copy has its effect. -/
theorem Dev.controlRead_bad {d : Dev} {n addr : Nat} {use : ReadUse} {r : MemRq} {res : ReadResult} (hbad : res.bad = true)
    (hlast : r.second = true ∨ ((d.stack n).map.copies.filter fun l => l != logicalOf addr) = []) (hupd : r.upd = false) :
    d.controlRead n addr use r res = d.badEffect n use := by
  have hnone : (if (res.bad && !r.second) = true then ((d.stack n).map.copies.filter fun l => l != logicalOf addr) else []) = [] := by
    rcases hlast with h | h <;> simp [h]
  simp only [Dev.controlRead, hnone]
  simp only [hbad, hupd, Bool.not_true, Bool.and_false, Bool.false_eq_true, if_false, if_true]

/-- Settles O46. -/
theorem memoryEventsComplete : Obligations.MemoryEventsComplete := by
  intro s t n d m
  have hd : s.dev.begin t = d := rfl
  have hopen : d.timeOn = true → d.ActOpen n.val := fun h => (begin_windows_open t n.val n.isLt s.dev h).2
  clear_value d
  refine ⟨?_, ?_, ?_, ?_, ?_, ?_, ?_, ?_, ?_, ?_, ?_, ?_⟩
  · refine ⟨?_, hopen⟩
    refine completes_of_act (f := fun d => if d.timeOn then d.passActivation n.val else d) hd rfl ?_
    split
    next h => exact if_pos (Nat.ble_eq_true_of_le (hopen h))
    next => rfl
  · intro e k
    exact ⟨fun h => if_pos (Nat.ble_eq_true_of_le h), fun h => if_neg (by rw [Nat.ble_eq]; exact Nat.not_le.2 h)⟩
  · intro temp
    exact completes_of_act hd rfl rfl
  · intro x hscrub hdone
    have harm : exec (.scrubPassEnd t n) s =
      act t (fun d => if ((d.stack n.val).scrub.map fun x => Nat.ble x.len x.done).getD false then d.endScrub n.val 0 .ok else d) s := rfl
    refine completes_of_act hd harm (if_pos ?_)
    rw [show (d.stack n.val).scrub = some x from hscrub]
    exact Nat.ble_eq_true_of_le hdone
  · intro g hmig hptr e
    refine completes_of_act hd rfl ?_
    simp only [m] at hmig
    simp only [Dev.endMigration, hmig, Option.filter_some, Nat.ble_eq_true_of_le hptr, if_true]
    rfl
  · intro hone hactive hctrl
    refine completes_of_act hd rfl ((if_pos hone).trans ?_)
    simp only [m] at hactive hctrl ⊢
    simp only [RankMap.inService, hactive, hctrl]
    rfl
  · exact completes_of_act hd rfl rfl
  · intro name inst hname l rest hcopies
    obtain ⟨c, hc, hindex⟩ := hname
    refine completes_of_act hd rfl ?_
    obtain ⟨c', hfind⟩ := Option.isSome_iff_exists.1 ((List.find?_isSome (p := fun x : CN => x.index == name)).2 ⟨c, hc, beq_iff_eq.2 hindex⟩)
    simp only [m] at hcopies
    simp only [Dev.blockUpdate, hfind, hcopies]
    rfl
  · intro w held
    refine ⟨fun h => if_pos h, fun h => ⟨fun hheld hwrong => ?_, fun hheld hwrong => ?_, fun hheld hwrong => ?_, fun hheld hwrong => ?_⟩⟩ <;>
      exact (if_neg h).trans (by rw [hheld, hwrong]; rfl)
  · intro addr use w die slot r e hfits hfind hgrant f phys res g g' seen last bad
    have hread : Completes (.hbmReadComplete t n addr w use die slot) s
        ((f.hbmRead n.val addr w use die r).runTurns s.log (f.hbmRead n.val addr w use die r).host.turns) := by
      refine completes_of_act hd rfl (congrArg (fun x : Dev => x.runTurns s.log x.host.turns) ((if_pos hfits).trans (Dev.arbitrate_granted rfl hfind hgrant)))
    have hbad : res.bad = true ↔ bad := ReadResult.bad_iff
    clear_value f
    refine ⟨?_, ?_, ?_⟩
    · intro p i huse h
      have hseen : f.hbmRead n.val addr w use die r = seen (if res.bad then h.modFrame n.val p i fun f => { f with poison := true } else h) := by
        subst huse
        rfl
      rw [hseen] at hread
      exact ⟨fun hb => by rwa [if_neg (mt hbad.1 hb)] at hread, fun hb => by rwa [if_pos (hbad.2 hb)] at hread⟩
    · intro k frame pid item huse
      have hseen : f.hbmRead n.val addr w use die r = seen (if res.bad then (g'.memDone n.val r).poisonItem k frame pid item else g'.memDone n.val r) := by
        subst huse
        rfl
      rw [hseen] at hread
      exact ⟨fun hb => by rwa [if_neg (mt hbad.1 hb)] at hread, fun hb => by rwa [if_pos (hbad.2 hb)] at hread⟩
    · intro code i huse others
      have hseen : f.hbmRead n.val addr w use die r = seen ((g'.memDone n.val r).controlRead n.val addr use r res) := by
        subst huse
        rfl
      rw [hseen] at hread
      refine ⟨fun l rest hb hsecond hothers => ?_, fun hb hlast hupd => ?_⟩
      · rw [Dev.controlRead_other (hbad.2 hb) hsecond hothers] at hread
        subst huse
        exact hread
      · rw [Dev.controlRead_bad (hbad.2 hb) hlast hupd] at hread
        subst huse
        exact hread
  · intro stood at_ r x _ h
    exact Stack.granted_once h
  · intro stood at_ r h c slot
    obtain ⟨-, hr, hturn, -⟩ := Stack.grants_iff.1 h
    obtain ⟨hcand, hown, hrest⟩ := Stack.mem_contenders hr
    refine ⟨hcand, hown, fun hno => ⟨(hrest hno).1, fun hnone x hx => ?_⟩⟩
    obtain ⟨hle, hcont⟩ := (hrest hno).2 hnone x hx
    exact ⟨hle, fun heq => hturn x (hcont heq)⟩

end Sys2Proof
end

section
/-! Trust commands and the debug port (R430, R436 to R438, R441, Tables 15.1, 15.4). -/

namespace Sys2Proof

open Machine

/-- The checks of every trust command. -/
theorem trustChecks_pass {rq : Req} {d : Dev} {n : Nat} (hlen : rq.len = n) (hready : ∀ f ∈ [2], d.isReady f = true) :
    ∀ x ∈ trustChecks rq d n, x = none :=
  passes_cons (chkLen_none hlen) (passes_cons (chkReady_one (hready 2 (List.mem_singleton_self 2))) passes_nil)

/-- The TAP holds the instruction that the lock lets it execute. -/
theorem Dev.jtagInstruction_eq {d : Dev} {i j : TapInstr} (h : d.tapAllowed i = j) :
    d.jtagInstruction i = { d with vault := { d.vault with tap := j } } := by
  subst h
  rfl

/-- Settles O47. -/
theorem trustCommandsComplete : Obligations.TrustCommandsComplete := by
  intro s t rq d w
  have hd : s.dev.begin t = d := rfl
  clear_value d
  refine ⟨?_, ?_, ?_, ?_, ?_, ?_, ?_, ?_, ?_, ?_, ?_, ?_, ?_, ?_⟩
  · intro ⟨hnow, hlen, hready⟩
    exact completes_of_checks hd rfl hnow rfl (trustChecks_pass hlen hready) rfl
  · intro ⟨hnow, hlen, hready⟩ hdma halign
    exact completes_of_checks hd rfl hnow rfl (passes_append (passes_append (passes_cons (chkLen_none hlen) (passes_cons (failIf_false _ _ hdma) passes_nil))
      fun x hx => trustChecks_pass hlen hready x (List.mem_of_mem_drop hx)) (passes_cons (failIf_false _ _ (by simp [halign])) passes_nil)) rfl
  · intro ⟨hnow, hlen, hready⟩ hsvn hslots
    refine completes_of_checks hd rfl hnow rfl (passes_append (trustChecks_pass hlen hready) (passes_cons (failIf_false _ _ (by simp [hsvn]))
      (passes_cons (failIf_false _ _ ?_) passes_nil))) rfl
    refine List.any_eq_false.2 fun i hi => ?_
    have := hslots i hi
    simpa using this
  · intro ⟨hnow, hlen, hready⟩
    refine completes_of_checks hd rfl hnow rfl (trustChecks_pass hlen hready) rfl
  · intro n x hnext hheld htag
    refine completes_of_act hd rfl ?_
    simp [Dev.deriveDone, hnext, hheld, htag]
  · intro n x hnext hheld htag
    refine completes_of_act hd rfl ?_
    simp [Dev.deriveDone, hnext, hheld, htag]
  · intro nonce hbusy hwait req r ch err resp
    have harm : exec (.spdmResponseReady t 64 nonce) s =
      act t (fun d => if (64 : Fin 65).val < 64 then d.attestReady (64 : Fin 65).val nonce else d.doeReady nonce) s := rfl
    exact completes_of_act hd harm ((if_neg (by decide)).trans (if_neg (by simp [hbusy, hwait])))
  · intro msg hbusy hlen hvendor htype
    refine completes_of_act hd rfl ((if_neg (by simp [hbusy, hlen])).trans ((if_neg (by simp [hvendor])).trans ?_))
    rw [htype]
    rfl
  · intro msg hbusy hlen hvendor htype
    refine completes_of_act hd rfl ((if_neg (by simp [hbusy, hlen])).trans ((if_neg (by simp [hvendor])).trans ?_))
    rw [htype]
    rfl
  · exact completes_of_act hd rfl rfl
  · intro token hlocked hsigner hserial hnonce
    exact completes_of_act hd rfl (if_pos (by simp [Dev.tokenOk, hlocked, hsigner, hserial, hnonce]))
  · intro c hlocked
    exact completes_of_act hd rfl (Dev.jtagInstruction_eq (if_pos hlocked))
  · intro hdoms
    have hoff : d.linesOff = true := by simpa [Dev.linesOff, pdLtx] using hdoms
    exact completes_of_act hd rfl (Dev.jtagInstruction_eq (if_pos hoff))
  · intro hdoms
    have hon : d.linesOff = false := by simpa [Dev.linesOff, pdLtx] using hdoms
    exact completes_of_act hd rfl (Dev.jtagInstruction_eq (if_neg (Bool.eq_false_iff.1 hon)))

end Sys2Proof
end

section
/-! Key contexts (R288, R301, R308, Tables 10.2, 10.6). -/

namespace Sys2Proof

open Machine

theorem Req.bits_zero (rq : Req) (i w : Nat) : rq.bits i w 0 = rq.prm i % 2 ^ w := by simp [Req.bits]

/-- The checks that every command on the keys of a slice begins with. -/
theorem keyChecks_pass {rq : Req} {d : Dev} {n : Nat} (hlen : rq.len = n) (hvault : d.isReady 2 = true) (hn : rq.prm 0 ≤ 7)
    (hslice : (d.isReady (fnDs (rq.prm 0)) || d.isReady (fnUs (rq.prm 0))) = true) : ∀ x ∈ keyChecks rq d n, x = none :=
  passes_cons (chkLen_none hlen) (passes_cons (chkReady_two hvault hn hslice) (passes_cons (chkRange_none (by simp; omega)) passes_nil))

/-- Settles O48. -/
theorem keyCommandsComplete : Obligations.KeyCommandsComplete := by
  intro s t rq d n c x
  have hd : s.dev.begin t = d := rfl
  clear_value d
  refine ⟨?_, ?_, ?_, ?_, ?_⟩
  · intro hvault hn hslice hc hbound
    refine ⟨?_, ?_⟩
    · intro ⟨hnow, hlen, _⟩ hwin hwarn hoverlap trim e e1
      have hcs : ∀ last : Check, last = none → ∀ y ∈ keyChecks rq d 10 ++ [chkRange rq [(1, 0, 32767)],
          failIf (decide (1024 < rq.bits 8 11 0)) .range 8, failIf (decide (rq.bits 9 6 14 < 16 ∨ rq.bits 9 6 8 < 1)) .range 9,
          failIf (!x.bound) .notFound, last], y = none := by
        intro last hlast
        refine passes_append (keyChecks_pass hlen hvault hn hslice) (passes_cons (chkRange_none (by simp; omega)) (passes_cons (failIf_false _ _ ?_)
          (passes_cons (failIf_false _ _ ?_) (passes_cons (failIf_false _ _ (by simp [hbound])) (passes_cons hlast passes_nil)))))
        · rw [Req.bits_zero]
          exact decide_eq_false (by omega)
        · exact decide_eq_false (by unfold Req.bits; omega)
      refine ⟨fun hnew => ?_, fun hkeyed hsame => ?_⟩
      · have hnew' : ¬(d.keyCtx (rq.prm 0) (rq.prm 1)).keyed = true := Bool.eq_false_iff.1 hnew
        refine completes_of_checks hd rfl hnow rfl (hcs _ (if_neg hnew')) ((if_neg hnew').trans ?_)
        simp only [Req.bits_zero]
        rfl
      · have hkeyed' : (d.keyCtx (rq.prm 0) (rq.prm 1)).keyed = true := hkeyed
        refine completes_of_checks hd rfl hnow rfl (hcs _ ((if_pos hkeyed').trans (find?_map_none fun i hi => ?_))) ((if_pos hkeyed').trans ?_)
        · simpa using hsame i hi
        · simp only [Req.bits_zero]
          rfl
    · intro ⟨hnow, hlen, _⟩
      exact completes_of_checks hd rfl hnow rfl (passes_append (keyChecks_pass hlen hvault hn hslice) (passes_cons (chkRange_none (by simp; omega))
        (passes_cons (failIf_false _ _ (by simp [x, n, c] at hbound; simp [hbound])) passes_nil))) rfl
  · intro hvault hn hslice ⟨hnow, hlen, _⟩
    refine completes_of_checks hd rfl hnow rfl (keyChecks_pass hlen hvault hn hslice) ?_
    simp only [List.flatMap_cons, List.flatMap_nil, List.append_nil, ← List.append_assoc]
    rfl
  · intro ctx hvault hk hslice ⟨hnow, hlen, _⟩ hctx
    refine completes_of_checks hd rfl hnow rfl (passes_cons (chkLen_none hlen) (passes_cons (chkReady_two hvault (by omega) hslice)
      (passes_cons (chkRange_none (by simp; omega)) (passes_cons (failIf_false _ _ ?_) passes_nil)))) ?_
    · rw [show d.ctxOf (sliceOfTree (rq.prm 0)) (rq.prm 0) (rq.prm 1) = some ctx from hctx]
      rfl
    · rw [show d.ctxOf (sliceOfTree (rq.prm 0)) (rq.prm 0) (rq.prm 1) = some ctx from hctx]
      rfl
  · intro k aid ctx hctx hold hleft hwait
    refine completes_of_act hd rfl ?_
    simp only [Dev.overlapEnd, show d.ctxOf (sliceOfTree k.val) k.val aid.toNat = some ctx from hctx]
    refine if_pos ?_
    simpa [sliceOfTree, Option.isSome_iff_ne_none, hleft, hwait] using hold
  · intro k aid ctx hctx hover hleft hwait
    refine completes_of_act hd rfl ?_
    simp only [Dev.overlapEnd, show d.ctxOf (sliceOfTree k.val) k.val aid.toNat = some ctx from hctx]
    refine if_pos ?_
    simpa [sliceOfTree, hleft, hwait] using hover

end Sys2Proof
end

section
/-! Buffers, stallholders and queues (R234, R236, R238, R239, R247, R248, R251, R254, R259, R269, R274, R317, R370, R377, Tables 8.3, 8.11). -/

namespace Sys2Proof

open Machine

/-- A queue without a fault passes its check unchanged. -/
theorem Dev.checkQueue_ok {d : Dev} {n q : Nat} (h : (d.queue n q).fault = .ok) : d.checkQueue n q .ok = d := by
  have hsound : d.damage n q .ok = d := if_pos (.inl rfl)
  simp only [Dev.checkQueue, hsound, h]

/-- A write of any port but the scrub port writes its word in each of its homes. -/
theorem Dev.writePerformed_eq {d : Dev} {n port addr : Nat} {r : MemRq} (hport : port ≠ 6) :
    d.writePerformed n port addr r = (d.memDone n r).writeWord n port addr r.poison := if_neg hport

/-- A write outside the packet buffers ends with its word. -/
theorem Dev.written_noBuffer {d : Dev} {n port addr : Nat} {r : MemRq} (hport : port ≠ 6) (h : port ≠ 0 ∨ bufferAt addr = none) :
    d.written n port addr r = (d.memDone n r).writeWord n port addr r.poison := by
  have hnone : (if port = 0 then bufferAt addr else none) = none := by
    rcases h with h | h <;> simp [h]
  simp only [Dev.written, hnone, Dev.writePerformed_eq hport]

theorem Dev.direct_setBuffer (d : Dev) (n p i : Nat) (b : Buffer) :
    ((d.setBuffer n p i b).slice n).buf.direct = (d.slice n).buf.direct := by
  simp only [Dev.setBuffer, Dev.slice_modBuf]

/-- A packet write to an allocated buffer that no frame waits for strikes one word off it. -/
theorem Dev.written_buffer {d e : Dev} {n port addr p i : Nat} {r : MemRq} (he : (d.memDone n r).writeWord n port addr r.poison = e) (hport : port = 0)
    (hbuf : bufferAt addr = some (p, i)) (halloc : e.allocated n p i = true) (hleft : (e.buffer n p i).left.testBit (bufferWord p addr) = true)
    (hdirect : (e.slice n).buf.direct.find? (fun x => x.1 == p && x.2.1 == i) = none) :
    d.written n port addr r = e.setBuffer n p i { e.buffer n p i with left := (e.buffer n p i).left - 2 ^ bufferWord p addr } := by
  subst hport
  have hperformed : d.writePerformed n 0 addr r = e := (Dev.writePerformed_eq (by decide)).trans he
  simp only [Dev.written, hperformed, hbuf, halloc, hleft, Dev.direct_setBuffer, hdirect, if_true, Bool.and_self]

/-- Settles O49. -/
theorem bufferCommandsComplete : Obligations.BufferCommandsComplete := by
  intro s t rq d n w
  have hd : s.dev.begin t = d := rfl
  have hw : d.wake (pdTables (rq.prm 0)) causeHost = w := rfl
  clear_value d w
  refine ⟨?_, ?_, ?_⟩
  · intro hn hslice
    refine ⟨?_, ?_, ?_, ?_, ?_, ?_, ?_, ?_, ?_⟩
    · intro ⟨hnow, hlen, _⟩ hreserve
      exact completes_of_domainAnswer hd hw rfl hnow rfl (passes_append (sliceChecks_pass hlen hn hslice)
        (passes_cons (failIf_false _ _ (by rw [Req.bits_zero]; exact decide_eq_false (by omega))) passes_nil))
        (by simp only [Req.bits_zero]; rfl) (.inl rfl)
    · intro ⟨hnow, hlen, _⟩ h1 hyellow hbuf hcell hs hbufs hcells
      refine completes_of_domainAnswer hd hw rfl hnow rfl (passes_append (sliceChecks_pass hlen hn hslice)
        (passes_cons (chkRange_none (by simp; omega)) (passes_cons (failIf_false _ _ (decide_eq_false (by omega)))
          (passes_cons (find?_map_none fun p hp => ?_) (passes_cons (failIf_false _ _ (decide_eq_false (by omega)))
            (passes_cons (find?_map_none fun p hp => ?_) (passes_cons (failIf_false _ _ ?_) passes_nil))))))) rfl (.inl rfl)
      · have := hbuf p (List.mem_range.1 hp)
        exact decide_eq_false (by omega)
      · have := hbufs p (List.mem_range.1 hp)
        exact decide_eq_false (Nat.not_lt.2 this)
      · exact Bool.or_eq_false_iff.2 ⟨decide_eq_false (Nat.not_lt.2 (hcells false)), decide_eq_false (Nat.not_lt.2 (hcells true))⟩
    · intro ⟨hnow, hlen, _⟩ h1 hempty hinvalid hwas
      refine completes_of_domainAnswer hd hw rfl hnow rfl (passes_append (sliceChecks_pass hlen hn hslice)
        (passes_cons (chkRange_none (by simp; omega)) (passes_cons (failIf_false _ _ (by simp [hinvalid]))
          (passes_cons (failIf_false _ _ ?_) (passes_cons (failIf_false _ _ (by simp [hinvalid])) passes_nil))))) ?_ (.inl rfl)
      · simpa using hempty
      · simp only [hinvalid, show (w.queue (rq.prm 0) (rq.prm 1)).cfg.valid = false from hwas, Bool.false_and, Bool.false_eq_true, if_false]
        rfl
    · intro ⟨hnow, hlen, _⟩ h1 hempty hvalid hkind htarget hcls hwas
      refine completes_of_domainAnswer hd hw rfl hnow rfl (passes_append (sliceChecks_pass hlen hn hslice)
        (passes_cons (chkRange_none (by simp; omega)) (passes_cons (failIf_false _ _ (by simp [hkind]))
          (passes_cons (failIf_false _ _ ?_) (passes_cons (failIf_false _ _ (by simp [hkind, htarget])) passes_nil))))) ?_ (.inl rfl)
      · simpa using hempty
      · simp only [hvalid, hkind, hcls, show (w.queue (rq.prm 0) (rq.prm 1)).cfg.valid = false from hwas, Bool.false_and, Bool.false_eq_true, if_false,
          beq_self_eq_true, Nat.le_refl, decide_true, Bool.and_self, if_true]
        rfl
    · intro ⟨hnow, hlen, _⟩ h1 q
      exact completes_of_domainAnswer hd hw rfl hnow rfl (passes_append (sliceChecks_pass hlen hn hslice)
        (passes_cons (chkRange_none (by simp; omega)) passes_nil)) rfl (.inl rfl)
    · intro ⟨hnow, hlen, _⟩ h1 hfault q e
      refine completes_of_domainAnswer hd hw rfl hnow rfl (passes_append (sliceChecks_pass hlen hn hslice)
        (passes_cons (chkRange_none (by simp; omega)) passes_nil)) ?_ (.inl rfl)
      simp only [Dev.flush, Dev.checkQueue_ok (show (w.queue (rq.prm 0) (rq.prm 1)).fault = .ok from hfault)]
      rfl
    · intro ⟨hnow, hlen, _⟩ b live
      exact completes_of_domainAnswer hd hw rfl hnow rfl (sliceChecks_pass hlen hn hslice) rfl (.inl rfl)
    · intro ⟨hnow, hlen, _⟩ hdma h1 h2 h2' halign b
      exact completes_of_domainAnswer hd hw rfl hnow rfl (passes_append (passes_append (passes_cons (chkLen_none hlen)
        (passes_cons (failIf_false _ _ hdma) passes_nil)) fun x hx => sliceChecks_pass hlen hn hslice x (List.mem_of_mem_drop hx))
        (passes_cons (chkRange_none (by simp; omega)) (passes_cons (failIf_false _ _ (by simp [halign])) passes_nil))) rfl (.inl rfl)
    · intro ⟨hnow, hlen, _⟩
      exact completes_of_domainAnswer hd hw rfl hnow rfl (sliceChecks_pass hlen hn hslice) rfl (.inl rfl)
  · intro n hsweep b cells bufs e
    exact completes_of_act hd rfl (if_neg (by simp [hsweep]))
  · intro n port addr slot r hport e hfind hgrant f g
    have hasked : (fun r : MemRq => r.port == port.val && r.write && !r.part && r.mig == false && r.addr == addr) =
        fun r => r.port == port.val && r.write && !r.part && !r.mig && r.addr == addr := by
      funext r
      cases r.mig <;> rfl
    have hwritten : Completes (.hbmWritePerformed t n port addr slot) s
        ((e.modStack n.val fun m => m.granted (e.memStood n.val) slot.at_ r).written n.val port.val addr r) := by
      refine completes_of_act hd rfl ?_
      simp only [beq_eq_false_iff_ne.2 hport, Bool.false_and, hasked]
      exact Dev.arbitrate_granted rfl hfind hgrant
    refine ⟨fun hnone => ?_, fun p i h0 hbuf halloc hleft hdirect => ?_⟩
    · rwa [Dev.written_noBuffer hport hnone] at hwritten
    · rwa [Dev.written_buffer rfl h0 hbuf halloc hleft hdirect] at hwritten

end Sys2Proof
end

section
/-! Meters, quanta, system port egress, low-power idle, the escale status and the class-0 report (R123, R124, R260, R261, R265, R268, R271, R272, R274,
R282, Tables 9.1, 9.4, 9.5, 9.10). -/

namespace Sys2Proof

open Machine

/-! ### Meter records (R260) -/

theorem Meter.range_none {m : Meter} (i : Nat) (hmode : m.mode < 2) (hcbs : 160 ≤ m.cbs) (htwo : m.mode = 1 → 160 ≤ m.ebs ∧ m.cir ≤ m.pir) :
    m.range i = none := by
  refine firstFail_none (passes_cons (failIf_false _ _ (decide_eq_false (by omega))) (passes_cons (failIf_false _ _ (decide_eq_false (by omega)))
    (passes_cons (failIf_false _ _ ?_) passes_nil)))
  by_cases h : m.mode = 1
  · rw [decide_eq_false (Nat.not_lt.2 (htwo h).1), Bool.and_false]
  · rw [beq_eq_false_iff_ne.2 h, Bool.false_and]

theorem Meter.refused_none {m : Meter} (i : Nat) (htwo : m.mode = 1 → 160 ≤ m.ebs ∧ m.cir ≤ m.pir) : m.refused i = none := by
  refine failIf_false _ _ ?_
  by_cases h : m.mode = 1
  · rw [decide_eq_false (Nat.not_lt.2 (htwo h).2), Bool.and_false]
  · rw [beq_eq_false_iff_ne.2 h, Bool.false_and]

/-! ### The start of a frame at a system port (R265, R274) -/

/-- A port that is up and in low-power idle, sending or waking starts no frame. -/
theorem Dev.frameStartSys_busy {d : Dev} {p : Nat} {qf : QFault} (h : d.noRank (p / 32) = true ∨ (d.sysPort p).enabled = true ∧ (d.sysPort p).up = true ∧
    ((d.egress p).lpi = true ∨ d.now < (d.egress p).busyEnd ∨ d.now < (d.egress p).wakeEnd)) : d.frameStartSys p qf = d := by
  refine if_pos ?_
  rcases h with h | ⟨hen, hup, hwait⟩
  · simp [h]
  · rcases hwait with h | h | h <;> simp [hen, hup, h]

/-- A port that is up and free sends the frame that it takes, or drops it as poisoned. -/
theorem Dev.frameStartSys_up {d d' : Dev} {p c q : Nat} {x : Desc} {qf : QFault} (hrank : d.noRank (p / 32) = false) (hwidth : (d.sysPort p).width ≠ 0)
    (hen : (d.sysPort p).enabled = true) (hup : (d.sysPort p).up = true) (hlpi : (d.egress p).lpi = false) (hbusy : (d.egress p).busyEnd ≤ d.now)
    (hwake : (d.egress p).wakeEnd ≤ d.now) (hcls : d.nextClass p true = some c) (htake : d.takeEgress p c qf = (some (q, x), d')) :
    d.frameStartSys p qf = if x.poison || (d'.buffer (p / 32) x.pool x.index).frame.poison then (d'.bump .poisonDrop (p / 32) q).dropEgress p 4 x
      else d'.sendFrame p c q x := by
  unfold Dev.frameStartSys
  simp only [hrank, hwidth, hen, hup, hlpi, decide_eq_false (Nat.not_lt.2 hbusy), decide_eq_false (Nat.not_lt.2 hwake), Bool.and_self, Bool.or_self,
    Bool.and_false, decide_false, Bool.false_eq_true, if_false, Bool.not_true, hcls, htake]

/-- A port that is down drops the frame that it takes (R45). -/
theorem Dev.frameStartSys_down {d d' : Dev} {p c q : Nat} {x : Desc} {qf : QFault} (hrank : d.noRank (p / 32) = false) (hwidth : (d.sysPort p).width ≠ 0)
    (hdown : ((d.sysPort p).enabled && (d.sysPort p).up) = false) (hcls : d.nextClass p false = some c)
    (htake : d.takeEgress p c qf = (some (q, x), d')) : d.frameStartSys p qf = (d'.bump .macTx p 16).dropEgress p 5 x := by
  unfold Dev.frameStartSys
  simp only [hrank, hwidth, hdown, Bool.false_and, decide_false, Bool.or_self, Bool.false_eq_true, if_false, Bool.not_false, if_true, hcls, htake]

/-- Settles O50. -/
theorem schedulingCommandsComplete : Obligations.SchedulingCommandsComplete := by
  intro s t rq d n w
  have hd : s.dev.begin t = d := rfl
  have hw : d.wake (pdTables (rq.prm 0)) causeHost = w := rfl
  clear_value d w
  have hprm : ∀ i, rq.prm i < 2 ^ 20 := fun i => Nat.mod_lt _ (by decide)
  refine ⟨?_, ?_, ?_, ?_⟩
  · intro hn hslice
    have hrest : ∀ k, ∀ x ∈ (sliceChecks rq w k).drop 1, x = none := fun k x hx =>
      sliceChecks_pass (n := rq.len) rfl hn hslice x (List.mem_of_mem_drop (i := 1) hx)
    refine ⟨?_, ?_, ?_, ?_⟩
    · intro ⟨hnow, hlen, _⟩ h2 h2' h1 m hm
      refine completes_of_domainAnswer hd hw rfl hnow rfl (passes_append (passes_append (passes_cons (failIf_false _ _ (by simp [hlen])) passes_nil)
        (hrest 0)) (passes_cons (chkRange_none (by simp; omega)) (passes_cons (List.findSome?_eq_none_iff.2 fun j hj => ?_)
          (passes_cons (List.findSome?_eq_none_iff.2 fun j hj => ?_) passes_nil)))) rfl (.inl rfl)
      · obtain ⟨hmode, hcbs, htwo⟩ := hm j (List.mem_range.1 hj)
        exact Meter.range_none _ hmode hcbs htwo
      · obtain ⟨-, -, htwo⟩ := hm j (List.mem_range.1 hj)
        exact Meter.refused_none _ htwo
    · intro ⟨hnow, hlen, _⟩ hdma h1 h2 h2' halign
      exact completes_of_domainAnswer hd hw rfl hnow rfl (passes_append (passes_append (passes_cons (chkLen_none hlen)
        (passes_cons (failIf_false _ _ hdma) passes_nil)) (hrest 5)) (passes_cons (chkRange_none (by simp; omega))
          (passes_cons (failIf_false _ _ (by simp [halign])) passes_nil))) rfl (.inl rfl)
    · intro ⟨hnow, hlen, _⟩ h1 h2 h2'
      exact completes_of_domainAnswer hd hw rfl hnow rfl (passes_append (sliceChecks_pass hlen hn hslice)
        (passes_cons (chkRange_none (by simp; omega)) passes_nil)) rfl (.inl rfl)
    · intro ⟨hnow, hlen, _⟩ hready e head
      exact completes_of_checks hd rfl hnow rfl (sliceChecks_pass hlen hn hready) rfl
  · intro hn ⟨hnow, hlen, _⟩ hready h1 hwidth hqueues
    refine completes_of_domainAnswer hd hw rfl hnow rfl (passes_cons (chkLen_none hlen) (passes_cons (chkReady_one ?_)
      (passes_cons (chkRange_none (by simp; omega)) (passes_cons (failIf_false _ _ ?_) (passes_cons (find?_map_none fun c hc => ?_) passes_nil))))) ?_ (.inl rfl)
    · rw [if_pos (by omega)]
      exact hready
    · simpa using hwidth
    · by_cases hbit : rq.bit (4 + c) 19 = true
      · obtain ⟨hkind, htarget, hcls⟩ := hqueues c (List.mem_range.1 hc) hbit
        simp only [n] at hkind htarget hcls
        simp [hkind, htarget, hcls]
      · rw [Bool.eq_false_iff.2 hbit, Bool.false_and]
    · rfl
  · intro hn ⟨hnow, hlen, _⟩ hready hcfg halloc
    dsimp only
    refine completes_of_checks hd rfl hnow rfl (passes_cons (chkLen_none hlen) (passes_cons ?_
      (passes_cons (chkRange_none (by simp; omega)) (passes_cons (failIf_false _ _ ?_) (passes_cons (failIf_false _ _ ?_) passes_nil))))) ?_
    · rw [if_pos (by omega)]
      exact hready
    · simpa using hcfg
    · simpa [Option.isNone_iff_eq_none, Option.isSome_iff_ne_none] using halloc
    · rfl
  · intro p qf e sp
    refine ⟨?_, ?_, ?_, ?_, ?_, ?_⟩
    · intro hfree
      exact completes_of_act hd rfl (if_pos hfree)
    · intro hlpi hwake
      simp only [e] at hlpi hwake
      exact completes_of_act hd rfl (if_pos (by simp [hlpi, hwake]))
    · intro _ hen hup hwait
      exact completes_of_act hd rfl (Dev.frameStartSys_busy (.inr ⟨hen, hup, hwait⟩))
    · intro hrank
      exact completes_of_act hd rfl (Dev.frameStartSys_busy (.inl hrank))
    · intro c q x d' hrank hwidth hen hup hlpi hbusy hwake hcls htake
      have hstart := Dev.frameStartSys_up hrank hwidth hen hup hlpi hbusy hwake hcls htake
      exact ⟨fun hx hbuf => completes_of_act hd rfl (hstart.trans (if_neg (by simp [hx, hbuf]))),
        fun hbad => completes_of_act hd rfl (hstart.trans (if_pos (by simpa using hbad)))⟩
    · intro c q x d' hrank hwidth hdown hcls htake
      exact completes_of_act hd rfl (Dev.frameStartSys_down hrank hwidth hdown hcls htake)

end Sys2Proof
end

section
/-! The tables of classification and their shadow (R186, R187, R188, R190, R192, R196, R207, R225 to R228, R230, Tables 6.12 and 7.9). -/

namespace Sys2Proof

open Machine

/-- The checks of the commands that name an ingress port, of a configured port whose direction is ready. -/
theorem ingressChecks_pass {rq : Req} {d : Dev} {k : Nat} {more : List Check} (hlen : rq.len = k)
    (hport : rq.prm 0 = 1 ∧ rq.prm 1 < 256 ∧ (d.sysPort (rq.prm 1)).width ≠ 0 ∧ d.isReady (fnUs (rq.prm 1 / 32)) = true ∨
      rq.prm 0 = 0 ∧ rq.prm 1 < 64 ∧ (d.tree (rq.prm 1)).cfg.configured = true ∧ d.isReady (fnDs (rq.prm 1 / 8)) = true)
    (hmore : ∀ x ∈ more, x = none) : ∀ x ∈ ingressChecks rq d k more, x = none := by
  rcases hport with ⟨hup, hp, hcfg, hready⟩ | ⟨hdown, hp, hcfg, hready⟩
  · refine passes_append (passes_append (passes_cons (chkLen_none hlen) (passes_cons (chkReady_one ?_)
      (passes_cons (chkRange_none ?_) passes_nil))) hmore) (passes_cons (failIf_false _ _ ?_) passes_nil)
    · simpa [hup, hp] using hready
    · simp [hup]
      omega
    · simpa [hup] using hcfg
  · refine passes_append (passes_append (passes_cons (chkLen_none hlen) (passes_cons (chkReady_one ?_)
      (passes_cons (chkRange_none ?_) passes_nil))) hmore) (passes_cons (failIf_false _ _ ?_) passes_nil)
    · simpa [hdown, hp] using hready
    · simp [hdown]
      omega
    · simpa [hdown] using hcfg

/-! ### The arrival of a shadow entry (R226) -/

/-- What the arrival of a shadow entry does while a pass runs. -/
theorem Dev.shadowFetch_cons {d : Dev} {n status code : Nat} {entry : List Dword} {raced : Bool} {rest : List Nat}
    (htodo : (d.slice n).tab.shadow.todo = code :: rest) (hrun : (d.slice n).tab.shadow.running = true) :
    d.shadowFetch n status entry raced =
      let s := (d.slice n).tab.shadow
      let sh := entry.map fun v => v.toNat % 2 ^ 20
      let key := (addrOf fun j => sh.getD j 0).key
      if status != 0 then (d.raise (qSlice n) 0x07 4 code [status]).shadowEnd n code
      else if decide (d.shadowSize n code ≤ s.index) then d.shadowNext n code
      else
        let unsorted := code == 10 && (s.keys.head?.map fun k => decide (key ≤ k)).getD false
        let d := if code == 10 then d.modShadow n fun s => { s with keys := key :: s.keys } else d
        if unsorted then (d.raise (qSlice n) 0x07 4 code [0]).shadowEnd n code
        else if raced then ((d.bump .shcSkip n 0).modShadow n fun s => { s with skips := s.skips + 1 }).shadowNext n code
        else
          let d := d.modShadow n fun s => { s with compared := s.compared + 1 }
          (if code = 10 then d.shadowStatic n s.index sh else d.shadowEntry n code s.index sh).shadowNext n code := by
  simp only [Dev.shadowFetch, htodo, hrun, Bool.not_true, Bool.false_eq_true, if_false]

/-! ### The three lists of `rule_write` (R207, R402) -/

/-- A fold that changes one part of a state changes that part by its own fold. -/
theorem foldl_part {α σ τ : Type} {get : σ → τ} {put : τ → σ → σ} (hid : ∀ s, put (get s) s = s) (hget : ∀ r s, get (put r s) = r)
    (hput : ∀ r r' s, put r (put r' s) = put r s) (f : α → τ → τ) (l : List α) (s : σ) :
    l.foldl (fun s j => put (f j (get s)) s) s = put (l.foldl (fun r j => f j r) (get s)) s := by
  induction l generalizing s with
  | nil => exact (hid s).symm
  | cons x xs ih => rw [List.foldl_cons, ih, hget, hput, List.foldl_cons]

theorem Dev.forEach_append {α : Type} (l l' : List α) (f : α → Dev → Dev) (d : Dev) : d.forEach (l ++ l') f = (d.forEach l f).forEach l' f :=
  List.foldl_append

theorem Dev.forEach_map {α β : Type} (g : α → β) (l : List α) (f : β → Dev → Dev) (d : Dev) :
    d.forEach (l.map g) f = d.forEach l fun x => f (g x) := List.foldl_map

/-- Writes of one slice's tables after a first one are one write. -/
theorem Dev.modTab_forEach {α : Type} (n : Nat) (g : α → Tables → Tables) (l : List α) (f : Tables → Tables) (d : Dev) :
    (d.modTab n f).forEach l (fun x d => d.modTab n (g x)) = d.modTab n fun t => l.foldl (fun t x => g x t) (f t) := by
  induction l generalizing f with
  | nil => rfl
  | cons x xs ih => exact (congrArg (fun e : Dev => e.forEach xs _) (Dev.modTab_modTab n f (g x) d)).trans (ih _)

/-- Writes of one slice's tables, at least one, are one write. -/
theorem Dev.forEach_modTab {α : Type} (n : Nat) (g : α → Tables → Tables) {l : List α} (hl : l ≠ []) (d : Dev) :
    d.forEach l (fun x d => d.modTab n (g x)) = d.modTab n fun t => l.foldl (fun t x => g x t) t := by
  cases l with
  | nil => exact absurd rfl hl
  | cons x xs => exact Dev.modTab_forEach n g xs (g x) d

/-- The entries of m rules, c comparators and a action sets: table code, dword of the index, words, highest index. -/
def ruleEntries (m c a atC atA : Nat) : List (Nat × Nat × Nat × Nat) :=
  ((List.range m).map fun j => (6, 2 + 71 * j, 70, 4095)) ++ ((List.range c).map fun j => (5, atC + 1 + 4 * j, 3, 255)) ++
    (List.range a).map fun j => (7, atA + 1 + 24 * j, 23, 4095)

/-- `rule_write` once the counts of its lists are known. -/
theorem cmdRuleWrite_eq {rq : Req} {d : Dev} {m c a atA : Nat} (hm : rq.prm 1 = m) (hc : (if 2 + 71 * m < rq.len then rq.prm (2 + 71 * m) else 0) = c)
    (hatA : (if 2 + 71 * m < rq.len then 2 + 71 * m + 1 + 4 * c else 2 + 71 * m) = atA) (ha : (if atA < rq.len then rq.prm atA else 0) = a) :
    cmdRuleWrite rq d = withChecks ([chkLenIf (rq.len == if atA < rq.len then atA + 1 + 24 * a else atA)] ++ (sliceChecks rq d 0).drop 1 ++
      [chkRange rq [(1, 1, 16)], (ruleEntries m c a (2 + 71 * m) atA).findSome? fun x => firstFail [chkRange rq [(x.2.1, 0, x.2.2.2)],
        d.entryFault (rq.prm 0) x.1 (rq.entry x.1 (x.2.1 + 1) x.2.2.1) (x.2.1 + 1)]]) d
      (okDone ((d.wakeTables (rq.prm 0)).forEach (ruleEntries m c a (2 + 71 * m) atA) fun x d =>
        d.writeEntry (rq.prm 0) x.1 (rq.prm x.2.1) (rq.entry x.1 (x.2.1 + 1) x.2.2.1))) := by
  subst hm hc hatA ha
  rfl

/-- What the entries of the three lists leave of the tables. -/
theorem Dev.writeRuleEntries (rq : Req) (n : Nat) {m : Nat} (hm : 1 ≤ m) (c a atC atA : Nat) (d : Dev) :
    d.forEach (ruleEntries m c a atC atA) (fun x d => d.writeEntry n x.1 (rq.prm x.2.1) (rq.entry x.1 (x.2.1 + 1) x.2.2.1)) =
      d.modTab n fun t =>
        { t with
          rules := (List.range m).foldl (fun r j => r.set {} (rq.prm (2 + 71 * j)) (rq.entry 6 (3 + 71 * j) 70)) t.rules
          ranges := (List.range c).foldl (fun r j => r.set {} (rq.prm (atC + 1 + 4 * j)) (rq.entry 5 (atC + 2 + 4 * j) 3)) t.ranges
          actions := (List.range a).foldl (fun r j => r.set {} (rq.prm (atA + 1 + 24 * j)) (rq.entry 7 (atA + 2 + 24 * j) 23)) t.actions } := by
  have hne : List.range m ≠ [] := by simp; omega
  have hword : ∀ j, 2 + 71 * j + 1 = 3 + 71 * j := fun j => by omega
  have hword' : ∀ j, atC + 1 + 4 * j + 1 = atC + 2 + 4 * j := fun j => by omega
  have hword'' : ∀ j, atA + 1 + 24 * j + 1 = atA + 2 + 24 * j := fun j => by omega
  have hwrites := Dev.forEach_modTab n (fun j t => { t with rules := t.rules.set {} (rq.prm (2 + 71 * j)) (rq.entry 6 (3 + 71 * j) 70) }) hne d
  have hrule := fun u => foldl_part (get := Tables.rules) (put := fun r u => { u with rules := r }) (fun _ => rfl) (fun _ _ => rfl) (fun _ _ _ => rfl)
    (fun j r => r.set {} (rq.prm (2 + 71 * j)) (rq.entry 6 (3 + 71 * j) 70)) (List.range m) u
  have hcomp := fun u => foldl_part (get := Tables.ranges) (put := fun r u => { u with ranges := r }) (fun _ => rfl) (fun _ _ => rfl) (fun _ _ _ => rfl)
    (fun j r => r.set {} (rq.prm (atC + 1 + 4 * j)) (rq.entry 5 (atC + 2 + 4 * j) 3)) (List.range c) u
  have hact := fun u => foldl_part (get := Tables.actions) (put := fun r u => { u with actions := r }) (fun _ => rfl) (fun _ _ => rfl) (fun _ _ _ => rfl)
    (fun j r => r.set {} (rq.prm (atA + 1 + 24 * j)) (rq.entry 7 (atA + 2 + 24 * j) 23)) (List.range a) u
  rw [ruleEntries, Dev.forEach_append, Dev.forEach_append, Dev.forEach_map, Dev.forEach_map, Dev.forEach_map]
  simp only [Dev.writeEntry, hword, hword', hword'']
  rw [hwrites, Dev.modTab_forEach, Dev.modTab_forEach]
  congr 1
  funext t
  rw [hrule, hcomp, hact]

/-- Settles O51. -/
theorem classificationCommandsComplete : Obligations.ClassificationCommandsComplete := by
  intro s t rq d n
  have hd : s.dev.begin t = d := rfl
  clear_value d
  have hprm : ∀ i, rq.prm i < 2 ^ 20 := fun i => Nat.mod_lt _ (by decide)
  refine ⟨?_, ?_, ?_⟩
  · intro hport k p up
    refine ⟨?_, ?_⟩
    · intro ⟨hnow, hlen, _⟩
      exact completes_of_checks hd rfl hnow rfl (ingressChecks_pass hlen hport passes_nil) rfl
    · intro ⟨hnow, hlen, _⟩ h2 haction
      exact completes_of_checks hd rfl hnow rfl (ingressChecks_pass hlen hport (passes_cons (chkRange_none (by simp; omega))
        (passes_cons (failIf_false _ _ (beq_eq_false_iff_ne.2 haction)) passes_nil))) rfl
  · intro hn hslice up
    have hrest : ∀ k, ∀ x ∈ (sliceChecks rq d k).drop 1, x = none := fun k x hx =>
      sliceChecks_pass (n := rq.len) rfl hn hslice x (List.mem_of_mem_drop (i := 1) hx)
    refine ⟨?_, ?_, ?_, ?_, ?_, ?_, ?_, ?_, ?_, ?_⟩
    · intro ⟨hnow, hlen, _⟩ h1 h2
      exact completes_of_checks hd rfl hnow rfl (passes_append (sliceChecks_pass hlen hn hslice) (passes_cons (chkRange_none (by simp; omega)) passes_nil)) rfl
    · intro ⟨hnow, hlen, _⟩ h1 hprof
      exact completes_of_checks hd rfl hnow rfl (passes_append (sliceChecks_pass hlen hn hslice) (passes_cons (chkRange_none (by simp; omega))
        (passes_cons (failIf_false _ _ (beq_eq_false_iff_ne.2 hprof)) passes_nil))) rfl
    · intro ⟨hnow, hlen, _⟩ h1
      exact completes_of_checks hd rfl hnow rfl (passes_append (sliceChecks_pass hlen hn hslice) (passes_cons (chkRange_none (by simp; omega))
        (passes_cons rfl passes_nil))) rfl
    · intro ⟨hnow, hlen, _⟩ h1 hfields
      refine completes_of_checks hd rfl hnow rfl (passes_append (sliceChecks_pass hlen hn hslice) (passes_cons (chkRange_none (by simp; omega))
        (passes_cons (failIf_false _ _ ?_) passes_nil))) rfl
      simpa [and_assoc] using hfields
    · intro m c a hca hm h1 h16 atC atA ⟨hnow, hlen, _⟩ hc ha hrules hcomps hacts
      have hlists : 2 + 71 * m < rq.len ∧ c = some (rq.prm (2 + 71 * m)) ∨ rq.len = 2 + 71 * m ∧ c = none := by
        cases c with
        | none =>
          obtain rfl := hca rfl
          exact .inr ⟨hlen, rfl⟩
        | some v =>
          refine .inl ⟨?_, hc rfl⟩
          cases a <;> simp only [atA, atC] at hlen <;> omega
      have hlists' : atA < rq.len ∧ a = some (rq.prm atA) ∧ rq.len = atA + 1 + 24 * a.getD 0 ∨ rq.len = atA ∧ a = none := by
        cases a with
        | none => exact .inr ⟨hlen, rfl⟩
        | some v => exact .inl ⟨by simp only at hlen; omega, ha rfl, hlen⟩
      have hcount : (if 2 + 71 * m < rq.len then rq.prm (2 + 71 * m) else 0) = c.getD 0 := by
        rcases hlists with ⟨h, hv⟩ | ⟨h, hv⟩ <;> simp [h, hv]
      have hatA : (if 2 + 71 * m < rq.len then 2 + 71 * m + 1 + 4 * c.getD 0 else 2 + 71 * m) = atA := by
        rcases hlists with ⟨h, hv⟩ | ⟨h, hv⟩ <;> simp [h, hv, atA, atC]
      have hcount' : (if atA < rq.len then rq.prm atA else 0) = a.getD 0 := by
        rcases hlists' with ⟨h, hv, -⟩ | ⟨h, hv⟩ <;> simp [h, hv]
      have hend : (if atA < rq.len then atA + 1 + 24 * a.getD 0 else atA) = rq.len := by
        rcases hlists' with ⟨h, -, hv⟩ | ⟨h, hv⟩
        · rw [if_pos h, hv]
        · rw [if_neg (by omega), h]
      refine completes_of_checks hd rfl hnow (cmdRuleWrite_eq hm hcount hatA hcount') (passes_append (passes_append (passes_cons (failIf_false _ _ ?_) passes_nil)
        (hrest 0)) (passes_cons (chkRange_none (by simp; omega)) (passes_cons (List.findSome?_eq_none_iff.2 fun x hx => ?_) passes_nil))) ?_
      · simp [hend]
      · simp only [ruleEntries, List.mem_append, List.mem_map, List.mem_range] at hx
        rcases hx with (⟨j, hj, rfl⟩ | ⟨j, hj, rfl⟩) | ⟨j, hj, rfl⟩
        · exact firstFail_none (passes_cons (chkRange_none (by simpa using hrules j hj)) (passes_cons rfl passes_nil))
        · exact firstFail_none (passes_cons (chkRange_none (by simpa using hcomps j hj)) (passes_cons rfl passes_nil))
        · obtain ⟨hindex, hfields⟩ := hacts j hj
          refine firstFail_none (passes_cons (chkRange_none (by simpa using hindex)) (passes_cons (failIf_false _ _ ?_) passes_nil))
          have hword : atA + 1 + 24 * j + 1 = atA + 2 + 24 * j := by omega
          rw [hword]
          simpa [and_assoc] using hfields
      · rw [Dev.writeRuleEntries rq _ h1]
        rfl
    · intro ⟨hnow, hlen, _⟩ h1 h1' size h2 h3 h3' halign hdma
      have hsize : d.tableSize (rq.prm 0) (rq.prm 1) = size := rfl
      exact completes_of_checks hd rfl hnow rfl (passes_append (passes_append (passes_cons (chkLen_none hlen) passes_nil) (hrest 6))
        (passes_cons (chkRange_none (by simp; omega)) (passes_cons (failIf_false _ _ (by simp [halign])) (passes_cons (failIf_false _ _ hdma) passes_nil)))) rfl
    · intro ⟨hnow, hlen, _⟩ hlens h1 h1' halign hcount
      refine completes_of_checks hd rfl hnow rfl (passes_append (passes_append (passes_cons (failIf_false _ _ ?_) passes_nil) (hrest 0))
        (passes_cons (chkRange_none (by simp; omega)) (passes_cons (failIf_false _ _ (by simp [halign])) (passes_cons (failIf_false _ _ ?_) passes_nil)))) rfl
      · rcases hlens with h | h | h
        · simp [hlen, h]
        · by_cases h10 : rq.prm 1 = 10
          · simp [hlen, h10]
          · simp [h, h10]
        · simp [h]
      · by_cases h10 : rq.prm 1 = 10
        · rw [decide_eq_false (Nat.not_lt.2 (hcount h10)), Bool.and_false]
        · rw [beq_eq_false_iff_ne.2 h10, Bool.false_and]
    · intro ⟨hnow, hlen, _⟩ h1 h1' heven h2 hrun haddr
      refine completes_of_checks hd rfl hnow rfl (passes_append (sliceChecks_pass hlen hn hslice) (passes_cons (failIf_false _ _ ?_)
        (passes_cons (chkRange_none (by simp; omega)) (passes_cons (failIf_false _ _ ?_) (passes_cons (failIf_false _ _ hrun) passes_nil))))) rfl
      · simp [heven]
        omega
      · refine List.any_eq_false.2 fun c hc => ?_
        have hsome := haddr c hc
        simpa [Option.isSome_iff_ne_none] using hsome
    · intro ⟨hnow, hlen, _⟩
      exact completes_of_checks hd rfl hnow rfl (sliceChecks_pass hlen hn hslice) rfl
    · intro ⟨hnow, hlen, _⟩ h1 h1' hdma haddr count size dwords h2 h3 h3'
      have hsize : (if rq.prm 1 = 10 then (d.slice (rq.prm 0)).tab.shadow.count + (d.statics (rq.prm 0)).length
          else d.tableSize (rq.prm 0) (rq.prm 1)) = size := rfl
      have hcs : ∀ last : Check, last = none → ∀ x ∈ sliceChecks rq d 4 ++ [chkRange rq [(1, 1, 11), (2, 0, size - 1), (3, 1, size - rq.prm 2)],
          failIf (d.dmaHalted (52 + rq.prm 0)) .dmaError (52 + rq.prm 0),
          failIf ((d.slice (rq.prm 0)).tab.shadow.addr.get none (rq.prm 1)).isNone .notFound, failIf (rq.prm 1 == 11) .refused 1, last], x = none := by
        intro last hlast
        refine passes_append (sliceChecks_pass hlen hn hslice) (passes_cons (chkRange_none (by simp; omega)) (passes_cons (failIf_false _ _ hdma)
          (passes_cons (failIf_false _ _ ?_) (passes_cons (failIf_false _ _ (beq_eq_false_iff_ne.2 (by omega))) (passes_cons hlast passes_nil)))))
        simpa [Option.isSome_iff_ne_none] using haddr
      refine ⟨?_, ?_⟩
      · intro hcode e hfaults
        refine completes_of_checks hd rfl hnow rfl (hcs _ ((if_neg hcode).trans (List.findSome?_eq_none_iff.2 fun j hj => ?_))) ?_
        · obtain ⟨hport, hentry⟩ := hfaults j (List.mem_range.1 hj)
          refine firstFail_none (passes_cons ?_ (passes_cons hentry passes_nil))
          split
          next h => exact hport h
          next => rfl
        · simp only [if_neg hcode]
          rfl
      · intro hcode key hfaults
        refine completes_of_checks hd rfl hnow rfl (hcs _ ((if_pos hcode).trans hfaults)) ?_
        simp only [if_pos hcode]
        rfl
  · intro n status entry raced sh run words
    have hrun : ∀ {e : Dev}, d.shadowFetch n.val status.val entry raced = e → run e := fun h => completes_of_act hd rfl h
    refine ⟨fun hidle => hrun ?_, fun c rest htodo hrunning => ?_⟩
    · simp only [sh] at hidle
      unfold Dev.shadowFetch
      rcases hidle with h | h
      · simp only [h]
      · simp only [h, Bool.not_false, if_true]
        split <;> rfl
    · have hfetch := Dev.shadowFetch_cons (status := status.val) (entry := entry) (raced := raced) htodo hrunning
      refine ⟨fun hbad => hrun (hfetch.trans (if_pos (bne_iff_ne.2 hbad))), fun hok hend => hrun (hfetch.trans ?_), fun hok hmore hc => hrun (hfetch.trans ?_),
        ?_⟩
      · exact (if_neg (by simp [hok])).trans (if_pos (decide_eq_true hend))
      · refine (if_neg (by simp [hok])).trans ((if_neg (by simpa using hmore)).trans ?_)
        simp only [beq_eq_false_iff_ne.2 hc, hc, Bool.false_and, Bool.false_eq_true, if_false]
        rfl
      · intro hok hmore hc key d'
        subst hc
        refine hrun (hfetch.trans ((if_neg (by simp [hok])).trans ((if_neg (by simpa using hmore)).trans ?_)))
        simp only [beq_self_eq_true, Bool.true_and, if_true]
        rfl

end Sys2Proof
end

section
/-! The Local Flow Table, the address table, learning and aging (R212, R214 to R221, R230, R402, Tables 7.3, 7.4 and 7.9). -/

namespace Sys2Proof

open Machine

/-! ### The visit of the age scanner (R221, R223) -/

theorem Dev.slice_bump (d : Dev) (c : CN) (i j n : Nat) : (d.bump c i j).slice n = d.slice n := by
  simp only [Dev.bump, Dev.bumpN]
  split <;> rfl

theorem Dev.addrAt_bump (d : Dev) (c : CN) (j k n i : Nat) : (d.bump c j k).addrAt n i = d.addrAt n i := by
  simp only [Dev.addrAt, Dev.slice_bump]

/-- A learn notice leaves the address table as it is. -/
theorem Dev.addrAt_learnNotice (d : Dev) (n kind : Nat) (dir : Dir) (port : Nat) (mac : BitVec 48) (vlan : BitVec 12) (aid ns : Nat) (p : Prev) (i : Nat) :
    (d.learnNotice n kind dir port mac vlan aid ns p).addrAt n i = d.addrAt n i := by
  simp only [Dev.learnNotice]
  split
  · rw [Dev.addrAt_bump]
    simp only [Dev.addrAt, Dev.slice_modTab]
  · simp only [Dev.addrAt, Dev.slice_of_due, Dev.slice_modTab]

theorem Dev.addrAt_removedNotice (d : Dev) (n kind ns : Nat) (e : AddrEntry) (i : Nat) : (d.removedNotice n kind ns e).addrAt n i = d.addrAt n i :=
  Dev.addrAt_learnNotice ..

/-- A write of the scanner changes its entry unless software has changed it in this cycle. -/
theorem Dev.addrAt_put (d : Dev) (n i : Nat) (soft : Bool) (f : AddrEntry → AddrEntry) :
    (if soft then d else d.modTab n fun t => { t with addr := t.addr.set {} i (f (t.addr.get {} i)) }).addrAt n i =
      if soft then d.addrAt n i else f (d.addrAt n i) := by
  split
  · rfl
  · simp only [Dev.addrAt, Dev.slice_modTab, Tab.get_set_same]

/-- What a visit leaves of entry i. -/
theorem Dev.addrAt_ageWay (d : Dev) (n i ns : Nat) (ue hit : Bool) :
    (d.ageWay n i ns ue hit).addrAt n i =
      let x := (d.slice n).tab
      let c := x.inCycle d.cycle
      let e := d.addrSeen n i
      let y := d.addrAt n i
      let old := min 255 (e.age + 1)
      if ue || e.bad then if c.soft.contains i then y else { y with valid := false, bad := false }
      else if e.valid && !e.static then
        if hit then if c.soft.contains i then y else { y with age := 0 }
        else if x.ageLim ≤ old then if c.soft.contains i then y else { y with valid := false }
        else if c.ups.any fun u => u.1 == i && u.2.2 then y
        else if c.soft.contains i then y else { y with age := old }
      else y := by
  simp only [Dev.ageWay]
  split
  · exact (Dev.addrAt_removedNotice ..).trans (Dev.addrAt_put d n i _ fun e => { e with valid := false, bad := false })
  split
  · split
    · exact Dev.addrAt_put d n i _ fun e => { e with age := 0 }
    split
    · exact (Dev.addrAt_removedNotice ..).trans ((Dev.addrAt_bump ..).trans (Dev.addrAt_put d n i _ fun e => { e with valid := false }))
    split
    · rfl
    · exact Dev.addrAt_put d n i _ fun e => { e with age := min 255 ((d.addrSeen n i).age + 1) }
  · rfl

/-- Settles O52. -/
theorem addressCommandsComplete : Obligations.AddressCommandsComplete := by
  intro s t rq d n up
  have hd : s.dev.begin t = d := rfl
  clear_value d
  have hprm : ∀ i, rq.prm i < 2 ^ 20 := fun i => Nat.mod_lt _ (by decide)
  refine ⟨?_, ?_⟩
  · intro hn hslice
    have hrest : ∀ k, ∀ x ∈ (sliceChecks rq d k).drop 1, x = none := fun k x hx =>
      sliceChecks_pass (n := rq.len) rfl hn hslice x (List.mem_of_mem_drop (i := 1) hx)
    refine ⟨?_, ?_, ?_, ?_, ?_⟩
    · intro ⟨hnow, hlen, _⟩ h2 h2' h1 hentries
      refine completes_of_checks hd rfl hnow rfl (passes_append (passes_append (passes_cons (failIf_false _ _ (by simp [hlen])) passes_nil) (hrest 0))
        (passes_cons (chkRange_none (by simp; omega)) (passes_cons (List.findSome?_eq_none_iff.2 fun j hj => ?_)
          (passes_cons (List.findSome?_eq_none_iff.2 fun j hj => ?_) passes_nil)))) rfl
      · unfold lftRange
        split
        next hvalid => exact failIf_false _ _ (beq_eq_false_iff_ne.2 (hentries j (List.mem_range.1 hj) hvalid).1)
        next => rfl
      · unfold Dev.lftRefused
        split
        next => rfl
        next hboth =>
          simp only [Bool.or_eq_true, Bool.not_eq_true', not_or, Bool.not_eq_false] at hboth
          obtain ⟨hvalid, hup⟩ := hboth
          obtain ⟨htree, haid, hwork⟩ := (hentries j (List.mem_range.1 hj) hvalid).2 hup
          exact firstFail_none (passes_cons (failIf_false _ _ (bne_eq_false_iff_eq.2 htree)) (passes_cons (failIf_false _ _ haid)
            (passes_cons (failIf_false _ _ (bne_eq_false_iff_eq.2 hwork)) passes_nil)))
    · intro a e ⟨hnow, hlen, _⟩ hvalid h6 hexists hplace hkind
      have hplace' : d.addrPlace (rq.prm 0) (addrOf fun i => rq.prm (1 + i)) = some a := hplace
      refine completes_of_checks hd rfl hnow rfl (passes_append (sliceChecks_pass hlen hn hslice) (passes_cons (failIf_false _ _ ?_)
        (passes_cons (chkRange_none (by simp; omega)) (passes_cons (failIf_false _ _ ?_) (passes_cons (failIf_false _ _ ?_)
          (passes_cons (failIf_false _ _ ?_) passes_nil)))))) ?_
      · exact Bool.not_eq_false' .. ▸ hvalid
      · by_cases h : (d.addrFind n e.vlan e.mac).isSome = true
        · have hflag : rq.flag 6 = true := by simp [Req.flag, hexists h]
          rw [hflag, Bool.not_true, Bool.and_false]
        · exact Bool.and_eq_false_iff.2 (.inl (Bool.eq_false_iff.2 h))
      · rw [hplace']
        rfl
      · by_cases h : e.kind = true
        · obtain ⟨hv, hu⟩ := hkind h
          have hentry : ((d.lft n e.lfn).lftValid && (d.lft n e.lfn).lftUp) = true := by rw [hv, hu]; rfl
          exact Bool.and_eq_false_iff.2 (.inr (congrArg (!·) hentry))
        · exact Bool.and_eq_false_iff.2 (.inl (Bool.eq_false_iff.2 h))
      · simp only [hplace']
        rfl
    · intro a e v ⟨hnow, hlen, _⟩ h1 h2 hfind
      have hfind' : d.addrFind (rq.prm 0) (BitVec.ofNat 12 (rq.prm 1)) (rq.mac 2) = some (a, e) := hfind
      have hcs : ∀ x ∈ addrKeyChecks rq d, x = none := passes_append (sliceChecks_pass hlen hn hslice) (passes_cons (chkRange_none (by simp; omega))
        (passes_cons (failIf_false _ _ (by rw [hfind']; rfl)) passes_nil))
      refine ⟨?_, ?_⟩
      · refine completes_of_checks hd rfl hnow rfl hcs ?_
        simp only [hfind']
        rfl
      · refine completes_of_checks hd rfl hnow rfl hcs ?_
        simp only [hfind']
        rfl
    · intro ⟨hnow, hlen, _⟩ h1 h2 h3 gone hit
      refine completes_of_checks hd rfl hnow rfl (passes_append (sliceChecks_pass hlen hn hslice) (passes_cons (chkRange_none ?_) passes_nil)) ?_
      · simp only [List.forall_mem_cons, List.not_mem_nil, false_implies, implies_true, and_true]
        omega
      · rcases (show rq.prm 1 = 0 ∨ rq.prm 1 = 1 ∨ rq.prm 1 = 2 by omega) with h | h | h <;>
          (simp only [hit, gone, h, beq_self_eq_true, Bool.true_and, Bool.false_and, Bool.or_false, Bool.false_or, Bool.and_assoc,
            Nat.reduceBEq]; rfl)
    · intro ⟨hnow, hlen, _⟩ h1 h2
      refine completes_of_checks hd rfl hnow rfl (passes_append (sliceChecks_pass hlen hn hslice) (passes_cons (failIf_false _ _ (beq_eq_false_iff_ne.2 h1))
        (passes_cons (failIf_false _ _ (decide_eq_false (Nat.not_lt.2 h2))) passes_nil))) rfl
  · intro n x
    refine ⟨fun h => completes_of_act hd rfl (if_pos ?_), fun hpass hdue => completes_of_act hd rfl (if_neg ?_), fun bad => ⟨fun hpass => ?_, fun hpass => ?_, ?_⟩, ?_⟩
    · rcases h with h | h
      · simp only [x] at h
        rw [h, Bool.true_or]
      · rw [show Nat.blt d.now _ = true from Nat.ble_eq_true_of_le h, Bool.or_true]
    · simp only [x] at hpass
      rw [hpass, Bool.false_or, Nat.blt_eq]
      exact Nat.not_lt.2 hdue
    · exact completes_of_act hd rfl (if_pos (by simp only [x] at hpass; simp [hpass]))
    · exact completes_of_act hd rfl (if_neg (by simp only [x] at hpass; simp [hpass]))
    · intro i ns ue hit c e y e' old
      have hway : e' = _ := Dev.addrAt_ageWay d n.val i ns ue hit
      dsimp only at hway
      refine ⟨fun hsoft => ?_, fun hsoft => ⟨fun hbad => ?_, fun hue hgood => ?_⟩⟩
      · simp only [c, x] at hsoft
        simpa only [hsoft, if_true, ite_self] using hway
      · simp only [c, x] at hsoft
        rw [hway, hsoft]
        exact (if_pos (by simpa using hbad)).trans (if_neg Bool.false_ne_true)
      · simp only [c, x] at hsoft
        have hsound : ¬(ue || (d.addrSeen n.val i).bad) = true := by simp [hue, show (d.addrSeen n.val i).bad = false from hgood]
        rw [hsoft, if_neg hsound] at hway
        refine ⟨fun hkeep => ?_, fun hv hs => ?_⟩
        · exact hway.trans (if_neg (by simp only [e] at hkeep; rcases hkeep with h | h <;> simp [h]))
        · have hlive : ((d.addrSeen n.val i).valid && !(d.addrSeen n.val i).static) = true := by
            rw [show (d.addrSeen n.val i).valid = true from hv, show (d.addrSeen n.val i).static = false from hs]
            rfl
          rw [if_pos hlive] at hway
          refine ⟨fun hhit => ?_, fun hhit hold => ?_, fun hhit hold hmove => ?_, fun hhit hold hmove => ?_⟩
          · exact hway.trans ((if_pos hhit).trans (if_neg Bool.false_ne_true))
          · exact hway.trans ((if_neg (Bool.eq_false_iff.1 hhit)).trans ((if_pos hold).trans (if_neg Bool.false_ne_true)))
          · exact hway.trans ((if_neg (Bool.eq_false_iff.1 hhit)).trans ((if_neg (Nat.not_le.2 hold)).trans (if_pos hmove)))
          · exact hway.trans ((if_neg (Bool.eq_false_iff.1 hhit)).trans ((if_neg (Nat.not_le.2 hold)).trans
              ((if_neg (Bool.eq_false_iff.1 hmove)).trans (if_neg Bool.false_ne_true))))
    · exact completes_of_act hd rfl rfl

end Sys2Proof
end

section
/-! Assembly and the transmit interlock as the host and the wires act on them (R115, R116, R130, R134, R140, R142, R144, Tables 4.2, 4.12 and 4.14). -/

namespace Sys2Proof

open Machine

/-- The one function that a command names, by a parameter in its range, is ready. -/
theorem chkReady_inRange {d : Dev} {p : Prop} [Decidable p] {f : Nat} (hp : p) (h : d.isReady f = true) : chkReady d [[if p then f else 99]] = none := by
  rw [if_pos hp]
  exact chkReady_one h

/-- The one arrival of a cycle at the Barrow takes effect as the cycle ends (R135). -/
theorem Dev.endBarrow_arrive {e : Dev} {n q : Nat} (h : e.ending = [.arrive n q]) : e.endBarrow = { e with ending := [] }.class0Arrival n q := by
  simp only [Dev.endBarrow, Dev.takeEnding, h]
  rfl

/-- A frame of class 0 whose queue may send sets every parcel of its queue that no Pitch holds in its place (R134). -/
theorem Dev.class0Arrival_places {d : Dev} {n q : Nat}
    (hvalid : (d.queue n q).cfg.valid = true) (hkind : (d.queue n q).cfg.kind = 0) (hcls : (d.queue n q).cfg.cls = 0)
    (hslice : (d.queue n q).cfg.target / 8 = n) (hrank : d.noRank n = false) (hdt : d.dtApplies (d.carrier (d.queue n q).cfg.target) = false)
    (hkeyed : d.txKeyed (d.carrier (d.queue n q).cfg.target) (d.queue n q).cfg.aid.toNat = true)
    (hremoving : (d.tree (d.carrier (d.queue n q).cfg.target)).removing (d.queue n q).cfg.aid = false) :
    d.class0Arrival n q = (d.wake (pdBarrow n) causeTraffic).placeAllC0 (d.carrier (d.queue n q).cfg.target) q (d.queue n q).cfg.aid
      (d.queue n q).unread.length :=
  if_neg (by simp [hvalid, hkind, hcls, sliceOfTree, hslice, hrank, hdt, hkeyed, hremoving])

/-- Settles O53. -/
theorem assemblyCommandsComplete : Obligations.AssemblyCommandsComplete := by
  intro s t rq d n
  have hd : s.dev.begin t = d := rfl
  clear_value d
  have hprm : ∀ i, rq.prm i < 2 ^ 20 := fun i => Nat.mod_lt _ (by decide)
  refine ⟨?_, ?_, ?_, ?_, ?_, ?_, ?_, ?_⟩
  · intro ⟨hnow, hlen, hready⟩ hn h1 h2
    exact completes_of_checks hd rfl hnow rfl (passes_cons (chkLen_none hlen) (passes_cons
      (chkReady_inRange (Nat.lt_succ_of_le hn) (hready _ (List.mem_singleton_self _))) (passes_cons (chkRange_none (by simp; omega)) passes_nil))) rfl
  · intro ⟨hnow, hlen, hready⟩ hn h1 h1' q sl
    exact completes_of_checks hd rfl hnow rfl (passes_cons (chkLen_none hlen) (passes_cons
      (chkReady_inRange (by omega) (hready _ (List.mem_singleton_self _))) (passes_cons (chkRange_none (by simp; omega)) passes_nil))) rfl
  · intro ⟨hnow, hlen, hready⟩ hn
    exact completes_of_checks hd rfl hnow rfl (passes_cons (chkLen_none hlen) (passes_cons
      (chkReady_inRange (Nat.lt_succ_of_le hn) (hready _ (List.mem_singleton_self _))) (passes_cons (chkRange_none (by simp; omega)) passes_nil))) rfl
  · intro ⟨hnow, hlen, hready⟩ hn hdma hcfg halign f
    refine completes_of_checks hd rfl hnow rfl (passes_cons (chkLen_none hlen) (passes_cons (failIf_false _ _ hdma) (passes_cons (chkReady_none ?_)
      (passes_cons (chkRange_none (by simp; omega)) (passes_cons (failIf_false _ _ (by simpa using hcfg))
        (passes_cons (failIf_false _ _ (by simp [halign])) passes_nil)))))) rfl
    have hk : rq.prm 0 < 64 := Nat.lt_succ_of_le hn
    have hport := hready (fnPort (portOfTree n)) (by simp)
    have hslice := hready (fnUs (n / 8)) (by simp)
    simp only [n] at hport hslice
    simp [needPortOf, hk, hport, hslice]
  · intro ⟨hnow, hlen, hready⟩ hn ts
    exact completes_of_checks hd rfl hnow rfl (passes_cons (chkLen_none hlen) (passes_cons
      (chkReady_inRange (Nat.lt_succ_of_le hn) (hready _ (List.mem_singleton_self _))) (passes_cons (chkRange_none (by simp; omega)) passes_nil))) rfl
  · intro p v
    refine ⟨completes_of_act hd rfl rfl, ?_⟩
    have harm : exec (.ilStatusWrite t p v) s =
      act t (fun d => if v.getLsbD 10 then d.modPort p.val fun x => { x with tripSeen := false } else d) s := rfl
    exact completes_of_act hd harm rfl
  · intro n q qf e
    exact completes_of_act hd rfl rfl
  · intro n q e hending c Q k hvalid hkind hcls hslice hrank hdt hkeyed hremoving
    exact (Dev.endBarrow_arrive hending).trans (Dev.class0Arrival_places hvalid hkind hcls hslice hrank hdt hkeyed hremoving)

end Sys2Proof
end

section
/-! Assembly, commit, burst, close, transmit reads and the interlock (R23, R115, R127, R128, R130, R131, R136, R138, R139, R142, R144, R152, R154,
R158, R265, R494, Tables 4.9 to 4.11). -/

namespace Sys2Proof

open Machine

/-! ### A step of normal assembly (R131, R152) -/

/-- The one step of assembly of a cycle is taken as the cycle ends (R135). -/
theorem Dev.endBarrow_assemble {e : Dev} {k : Nat} {aid : Word} {qf : QFault} (h : e.ending = [.assemble k aid qf]) :
    e.endBarrow = { e with ending := [] }.barrowStep k aid qf := by
  simp only [Dev.endBarrow, Dev.takeEnding, h]
  rfl

section
variable {d : Dev} {k : Nat} {aid : Word} {qf : QFault}

/-- Where no disable-transmit record applies and no Pitch of the AID is one for ranging, the step is that of the AID's kind. -/
theorem Dev.barrowStep_eq (hdt : d.dtApplies k = false) (hranging : ∀ p ∈ d.assemblies k aid, p.ranging = false) :
    d.barrowStep k aid qf =
      if aid = Config.aidAnnounce then d.placeSerial k
      else if aid = Config.aidMgmt then d.placeAnswer k
      else if Config.aidReserved aid then d
      else if (d.tree k).removing aid then d
      else d.assemble k aid qf := by
  have hnone : (d.assemblies k aid).filter Pitch.ranging = [] := List.filter_eq_nil_iff.2 fun p hp => by simp [hranging p hp]
  simp only [Dev.barrowStep, hdt, hnone, Bool.false_eq_true, if_false]
  rfl

/-- An AID that carries traffic takes its next parcel. -/
theorem Dev.barrowStep_serves (haid : Config.aidReserved aid = false) (hdt : d.dtApplies k = false) (hkeyed : d.txKeyed k aid.toNat = true)
    (hremoving : (d.tree k).removing aid = false) (hrank : d.noRank (sliceOfTree k) = false)
    (hroom : d.placedCount (sliceOfTree k) < Config.maxPlacedParcels) (hlog : qf ≠ .takeLog)
    (hranging : ∀ p ∈ d.assemblies k aid, p.ranging = false) (hanswering : ∀ p ∈ d.assemblies k aid, p.answering = false) :
    d.barrowStep k aid qf = (d.wake (pdBarrow (sliceOfTree k)) causePitch).serveFirst k qf (d.assemblies k aid) := by
  have hann : aid ≠ Config.aidAnnounce := fun h => absurd (h ▸ haid) (by decide)
  have hmgmt : aid ≠ Config.aidMgmt := fun h => absurd (h ▸ haid) (by decide)
  have hfull : d.barrowFull (sliceOfTree k) = false := Bool.eq_false_iff.2 fun h => absurd (Nat.le_of_ble_eq_true h) (Nat.not_le.2 hroom)
  have hall : (d.assemblies k aid).filter (fun p => !p.answering) = d.assemblies k aid :=
    List.filter_eq_self.2 fun p hp => by simp [hanswering p hp]
  rw [Dev.barrowStep_eq hdt hranging, if_neg hann, if_neg hmgmt, if_neg (by simp [haid]), if_neg (by simp [hremoving])]
  simp only [Dev.assemble, hrank, hdt, hkeyed, hfull, hlog, hall, Bool.not_true, Bool.or_self, Bool.false_eq_true, if_false]

/-- The answer at the head goes into the one management Pitch that has room for it. -/
theorem Dev.placeAnswer_only {p : Pitch} {a : Answer} {rest : List Answer} (hanswers : (d.tree k).ex.answers = a :: rest)
    (hone : d.assemblies k Config.aidMgmt = [p]) (hrng : p.rng = false) (hroom : d.placedCount (sliceOfTree k) < Config.maxPlacedParcels)
    (hfits : p.placed + a.blocks ≤ (d.tree k).region p) :
    d.placeAnswer k = (d.modPitch k p.frame p.pid fun p => { p with answers := p.answers ++ [a] }).modTree k fun x =>
      { x with ex := { x.ex with answers := rest } } := by
  have hfull : d.barrowFull (sliceOfTree k) = false := Bool.eq_false_iff.2 fun h => absurd (Nat.le_of_ble_eq_true h) (Nat.not_le.2 hroom)
  have hself : d.pitchBefore k p p = false := by simp [Dev.pitchBefore]
  simp [Dev.placeAnswer, hanswers, hone, hrng, hfull, hself, hfits]

end

/-! ### The commit instant (R127, R136) -/

section
variable {d : Dev} {k frame pid : Nat} {p : Pitch} {keyBad : Bool}

/-- A Pitch that no other of its tree comes before, at its commit instant, commits alone. -/
theorem Dev.commit_first (hp : d.pitch k frame pid = some p)
    (hfirst : ∀ q ∈ (d.tree k).pitches, q.phase = 0 → d.pastCommit k q = true → d.pitchBefore k q p = false) :
    d.commit k frame pid keyBad = d.commitOne k frame pid keyBad := by
  have hnone : ((d.tree k).pitches.filter fun q => q.phase == 0 && d.pastCommit k q && d.pitchBefore k q p) = [] := by
    refine List.filter_eq_nil_iff.2 fun q hq h => ?_
    simp only [Bool.and_eq_true, beq_iff_eq] at h
    exact absurd h.2 (by simp [hfirst q hq h.1.1 h.1.2])
  simp only [Dev.commit, hp, hnone]
  rfl

theorem Dev.noteStd_not_std (hstd : p.std = false) : d.noteStd k p = d := if_neg (by simp [hstd])

theorem Dev.countWindow_traffic (haid : p.aid ≠ Config.aidAnnounce) : d.countWindow k p = d := if_neg (by simp [haid])

theorem Dev.commitOne_withheld (hp : d.pitch k frame pid = some p) (hphase : p.phase = 0) (hpast : d.pastCommit k p = true)
    (hdt : (d.ilFreeze k frame pid).dtApplies k = true) (hstd : p.std = false) :
    d.commitOne k frame pid keyBad = (((d.ilFreeze k frame pid).bump .pitchWithheld k 0).skipPitch k p (d.pitchS k p)).openAll (sliceOfTree k) := by
  simp only [Dev.commitOne, hp, hphase, hpast, hdt, Dev.noteStd_not_std hstd, bne_self_eq_false, Bool.not_true, Bool.or_self,
    Bool.false_eq_true, if_false, if_true]

/-- A Pitch that carries a burst and whose assembly was open: its key switches where it says so, and its burst is fixed. -/
theorem Dev.commitOne_burst (hp : d.pitch k frame pid = some p) (hphase : p.phase = 0) (hpast : d.pastCommit k p = true)
    (hdt : (d.ilFreeze k frame pid).dtApplies k = false) (hsel : p.reserved = true ∨ (d.ilFreeze k frame pid).selected k = true)
    (hdup : ((d.ilFreeze k frame pid).tree k).fr.dup = false) (hstd : p.std = false) (haid : p.aid ≠ Config.aidAnnounce)
    (hignored : ((d.ilFreeze k frame pid).tree k).newIgnored p = 0) (hlanes : ((d.ilFreeze k frame pid).tree k).namedLanes p ≠ [])
    (hopened : p.opened = true) (hskips : p.skips = false) :
    d.commitOne k frame pid keyBad =
      ((if p.ksw && !p.answering then ((d.ilFreeze k frame pid).bumpN .pitchMaskIgnored k 0 0).kswCommit k p.aid.toNat
        else (d.ilFreeze k frame pid).bumpN .pitchMaskIgnored k 0 0).commitBurst k p (d.pitchS k p) keyBad).openAll (sliceOfTree k) := by
  have hmay : (!p.reserved && !(d.ilFreeze k frame pid).selected k) = false := by
    rcases hsel with h | h <;> simp [h]
  have htree : ((d.ilFreeze k frame pid).bumpN .pitchMaskIgnored k 0 0).tree k = (d.ilFreeze k frame pid).tree k := rfl
  simp only [Dev.commitOne, hp, hphase, hpast, hdt, hmay, hdup, Dev.noteStd_not_std hstd, Dev.countWindow_traffic haid, hignored, htree,
    List.isEmpty_eq_false_iff.2 hlanes, hopened, hskips, bne_self_eq_false, Bool.not_true, Bool.or_self, Bool.false_eq_true, if_false, if_true]

end

/-! ### The burst and its close (R128, R138, R139) -/

section
variable {d : Dev} {k frame pid : Nat} {p : Pitch}

theorem Dev.burstStart_held {c : Nat} (hp : d.pitch k frame pid = some p) (hphase : p.phase = 1) (hstart : p.fixedS.getD 0 ≤ d.now)
    (hheld : d.heldOff k = some c) : d.burstStart k frame pid = (d.trip (portOfTree k) c).cutPitch k p := by
  simp only [Dev.burstStart, hp, hphase, hheld, decide_eq_false (Nat.not_lt.2 hstart), bne_self_eq_false, Bool.or_self, Bool.false_eq_true,
    if_false]

theorem Dev.burstStart_late (hp : d.pitch k frame pid = some p) (hphase : p.phase = 1) (hstart : p.fixedS.getD 0 ≤ d.now)
    (hheld : d.heldOff k = none) (hclose : d.pitchClose k p ≤ d.now) :
    d.burstStart k frame pid = (d.trip (portOfTree k) tripWindow).cutPitch k p := by
  simp only [Dev.burstStart, hp, hphase, hheld, decide_eq_false (Nat.not_lt.2 hstart), hclose, bne_self_eq_false, Bool.or_self,
    Bool.false_eq_true, if_false, if_true]

/-- A burst that the interlock allows leaves its lanes. -/
theorem Dev.burstStart_sends (hp : d.pitch k frame pid = some p) (hphase : p.phase = 1) (hstart : p.fixedS.getD 0 ≤ d.now)
    (hheld : d.heldOff k = none) (hopen : d.now < d.pitchClose k p) :
    let S := p.fixedS.getD 0
    let e := d.wake (pdLtx (portOfTree k)) causePitch
    let errors := (p.names.getD []).map fun i => (((e.tree k).laneOf i).map fun l => [(e.txLane l).error]).getD []
    let f := e.forEach p.lanes fun l d => d.modTx l fun x => { x.intoBurst with driveAt := S + p.tonUi * Config.ui }
    d.burstStart k frame pid =
      (((f.setDrive p.lanes true).out (.burst k S p.hdr (p.sent.flatMap (f.itemBlocks k)))).bump .burstsSent k 0).modPitch k frame pid
        fun x => { x with phase := 3, tx := errors } := by
  simp only [Dev.burstStart, hp, hphase, hheld, decide_eq_false (Nat.not_lt.2 hstart), if_neg (Nat.not_le.2 hopen), bne_self_eq_false,
    Bool.or_self, Bool.false_eq_true, if_false]

theorem Dev.burstEnd_last (hp : d.pitch k frame pid = some p) (hphase : p.phase = 3)
    (hlast : p.fixedS.getD 0 + (p.lead + 2700 * if p.answering then 1 else p.codewords) * Config.ui ≤ d.now) :
    d.burstEnd k frame pid =
      ((d.forEach p.lanes fun l d => d.modTx l fun x =>
        x.countSymbols (p.lead - p.tonUi + 2700 * if p.answering then 1 else p.codewords)).laneEnd p.lanes).modPitch k frame pid
        fun p => { p with phase := 4 } := by
  have hover : d.now < p.burstUi * Config.ui + p.fixedS.getD 0 ↔ False :=
    iff_of_false (Nat.not_lt.2 (Nat.add_comm _ _ ▸ hlast)) not_false
  simp only [Dev.burstEnd, hp, hphase, hover, decide_false, bne_self_eq_false, Bool.or_self, Bool.false_eq_true, if_false]
  rfl

theorem Dev.pitchCloses_ended (hp : d.pitch k frame pid = some p) (hphase : p.phase = 4) (hclose : d.pitchClose k p ≤ d.now) :
    d.pitchCloses k frame pid = (d.modTree k fun x =>
      { x with
        pitches := x.pitches.filter fun q => !q.is frame pid
        il := x.il.filter fun w => !w.is frame pid }).openAll (sliceOfTree k) := by
  simp only [Dev.pitchCloses, hp, hphase, if_neg (Nat.not_lt.2 hclose), Nat.reduceEqDiff, if_false]

end

/-! ### Buffers that have been read (R136, R265, R357) -/

/-- The Pitch of a tree of slice n whose burst is to read a buffer. -/
def Dev.readFor (d : Dev) (n pool index : Nat) : Option (Nat × Pitch) :=
  (treesOf n).findSome? fun k =>
    ((d.tree k).pitches.find? fun p => p.phase != 0 && p.takes.any fun t => t.desc.pool == pool && t.desc.index == index).map fun p => (k, p)

section
variable {d : Dev} {n k pool index : Nat} {p : Pitch} {stageBad : Bool}

theorem Dev.readDone_plain (h : d.readFor n pool index = some (k, p)) (hts : (d.buffer n pool index).frame.ts = none) :
    d.readDone n 10 n pool index stageBad =
      ((d.modPitch k p.frame p.pid fun x =>
        { x with takes := x.takes.filter fun e => !(e.desc.pool == pool && e.desc.index == index) }).mothClose n
          (d.buffer n pool index).frame.moth 0 (d.buffer n pool index).frame.bytes.length).freeBuf n 10 pool index := by
  simp only [Dev.readFor] at h
  simp only [Dev.readDone, h, hts, Nat.reduceEqDiff, false_and, and_false, and_self, if_false, if_true]

/-- A parcel whose sending is to be stamped: its stamp waits for the end of its sending. -/
theorem Dev.readDone_stamped {ring id : Nat} {x : Take} (h : d.readFor n pool index = some (k, p))
    (hts : (d.buffer n pool index).frame.ts = some (ring, id))
    (htake : (p.takes.find? fun e => e.desc.pool == pool && e.desc.index == index) = some x) :
    d.readDone n 10 n pool index stageBad =
      ((((d.waitStamp { ring := ring, id := id, stamp := (d.buffer n pool index).frame.stamp,
                        at_ := p.fixedS.getD 0 + p.blockUi ((d.tree k).namedLanes p).length (x.pos + 1) * Config.ui,
                        done := p.itemEnd ((d.tree k).namedLanes p).length x.pos x.blocks, tree := k, frame := p.frame,
                        pid := p.pid }).passStamps.modPitch k p.frame p.pid fun x =>
        { x with takes := x.takes.filter fun e => !(e.desc.pool == pool && e.desc.index == index) }).mothClose n
          (d.buffer n pool index).frame.moth 0 (d.buffer n pool index).frame.bytes.length).freeBuf n 10 pool index) := by
  simp only [Dev.readFor] at h
  simp only [Dev.readDone, h, hts, htake, Nat.reduceEqDiff, false_and, and_false, and_self, if_false, if_true]

/-- A free of another slice's buffer, or by a party that reads nothing, is decided by its handle alone. -/
theorem Dev.readDone_handle {party slice : Nat} (h : slice ≠ n ∨ party ≠ 10 ∧ party ≠ 11) :
    d.readDone n party slice pool index stageBad = d.freeHandle n party slice pool index := by
  rcases h with h | ⟨h10, h11⟩
  · simp only [Dev.readDone, h, false_and, if_false]
  · simp only [Dev.readDone, h10, h11, false_and, and_false, if_false]

/-- A frame that a system port was reading has been read. -/
theorem Dev.readDone_egress (h : ((d.slice n).buf.reads.any fun r => r.desc.pool == pool && r.desc.index == index) = true) :
    d.readDone n 11 n pool index stageBad = d.egressRead n pool index stageBad :=
  if_pos ⟨rfl, rfl, h⟩

end

/-- Settles O54. -/
theorem burstEventsComplete : Obligations.BurstEventsComplete := by
  intro s t d
  have hd : s.dev.begin t = d := rfl
  clear_value d
  refine ⟨?_, ?_, ?_, ?_, ?_, ?_, ?_, ?_, ?_, ?_⟩
  · exact fun k aid qf => completes_of_act hd rfl rfl
  · intro k aid qf e hending c
    refine ⟨?_, ?_, ?_, ?_⟩
    · exact fun hdt => (Dev.endBarrow_assemble hending).trans (if_pos hdt)
    · intro haid hdt hkeyed hremoving hrank hroom hlog hranging hanswering
      exact (Dev.endBarrow_assemble hending).trans (Dev.barrowStep_serves haid hdt hkeyed hremoving hrank hroom hlog hranging hanswering)
    · rintro rfl hdt hranging
      exact (Dev.endBarrow_assemble hending).trans ((Dev.barrowStep_eq hdt hranging).trans (if_pos rfl))
    · rintro p a rest rfl hdt hranging hanswers hone hrng hroom hfits
      exact (Dev.endBarrow_assemble hending).trans ((Dev.barrowStep_eq hdt hranging).trans
        ((if_neg (by decide)).trans ((if_pos rfl).trans (Dev.placeAnswer_only hanswers hone hrng hroom hfits))))
  · intro k frame pid p keyBad flaws e hp hphase hpast hfirst S f
    have he : d.forEach flaws (fun x d => d.damage (sliceOfTree k.val) x.1 x.2) = e := rfl
    have harm : exec (.pitchCommit t k frame pid keyBad flaws) s =
      act t (fun d => (d.forEach flaws fun x d => d.damage (sliceOfTree k.val) x.1 x.2).commit k.val frame pid keyBad) s := rfl
    clear_value e
    refine ⟨?_, ?_⟩
    · intro hdt hsel hdup hstd haid hignored hlanes hopened hskips g
      refine completes_of_act hd harm ?_
      rw [he, Dev.commit_first hp hfirst]
      exact Dev.commitOne_burst hp hphase hpast hdt hsel hdup hstd haid hignored hlanes hopened hskips
    · intro hdt hstd
      refine completes_of_act hd harm ?_
      rw [he, Dev.commit_first hp hfirst]
      exact Dev.commitOne_withheld hp hphase hpast hdt hstd
  · intro k frame pid p hp S port
    refine ⟨?_, ?_, ?_, ?_, ?_⟩
    · exact fun hphase hstart hheld hopen => completes_of_act hd rfl (Dev.burstStart_sends hp hphase hstart hheld hopen)
    · exact fun c hphase hstart hheld => completes_of_act hd rfl (Dev.burstStart_held hp hphase hstart hheld)
    · exact fun hphase hstart hheld hclose => completes_of_act hd rfl (Dev.burstStart_late hp hphase hstart hheld hclose)
    · exact fun hphase hlast => completes_of_act hd rfl (Dev.burstEnd_last hp hphase hlast)
    · exact fun hphase hclose => completes_of_act hd rfl (Dev.pitchCloses_ended hp hphase hclose)
  · exact fun n pool index stageBad k p hread hts => completes_of_act hd rfl (Dev.readDone_plain hread hts)
  · exact fun n pool index stageBad k p ring id x hread hts htake => completes_of_act hd rfl (Dev.readDone_stamped hread hts htake)
  · intro n slice pool party index stageBad h
    exact completes_of_act hd rfl (Dev.readDone_handle (h.imp_left fun hne heq => hne (Fin.ext heq)))
  · exact fun n pool index stageBad h => completes_of_act hd rfl (Dev.readDone_egress h)
  · intro p seen outs bad
    exact ⟨fun h => completes_of_act hd rfl (if_pos (List.isEmpty_iff.2 h)),
      fun h => completes_of_act hd rfl (if_neg fun hempty => h (List.isEmpty_iff.1 hempty))⟩
  · intro b
    exact ⟨fun h => completes_of_act hd rfl (if_pos h), fun h => completes_of_act hd rfl (if_neg (by simp [h])), completes_of_act hd rfl rfl⟩

end Sys2Proof
end

section
/-! Ingress, dispatch, reorder, host rings and pauses (R45, R186, R204, R205, R234, R264, R273, R416, R417, R452). -/

namespace Sys2Proof

open Machine

/-! ### A frame at a system port (R45, R186, R273, R452) -/

/-- The counts of the frame's bytes at the port, whatever becomes of it. -/
def Dev.sysFrameIn (p : Nat) (f : List Byte) (d : Dev) : Dev := (d.bumpN .macRx p 22 f.length).bwAdd (p / 32) (2 * (p % 32)) f.length

/-- The counts of a frame that its port's MAC accepts. -/
def Dev.sysFrameOk (p : Nat) (f : List Byte) (d : Dev) : Dev :=
  (d.sysFrameIn p f).macOk .macRx p (((d.sysFrameIn p f).slice (p / 32)).tab.tags f).tagged f

section
variable {d : Dev} {p : Nat} {f : List Byte} {at_ : Ticks} {ue : List (Nat × Nat)}

theorem Dev.sysFrame_down (h : (d.sysPort p).width = 0 ∨ (d.sysPort p).enabled = false ∨ (d.sysPort p).up = false) :
    d.sysFrame p f at_ ue = d :=
  if_pos (by rcases h with h | h | h <;> simp [h])

section
variable (hwidth : (d.sysPort p).width ≠ 0) (henabled : (d.sysPort p).enabled = true) (hup : (d.sysPort p).up = true)
include hwidth henabled hup

theorem Dev.sysFrame_bad {c : Nat} (hbad : macBad f = some c) : d.sysFrame p f at_ ue = (d.sysFrameIn p f).bump .macRx p c := by
  simp only [Dev.sysFrame, hwidth, henabled, hup, hbad, decide_false, Bool.not_true, Bool.or_self, Bool.false_eq_true, if_false]
  rfl

/-- A frame that the MAC accepts pauses its port where the port takes such a frame, else it goes on to the ingress. -/
theorem Dev.sysFrame_ok (hok : macBad f = none) :
    d.sysFrame p f at_ ue =
      let g := d.sysFrameOk p f
      if (g.egress p).pauseEn && isPause f then g.pauseFrame p f
      else if (g.egress p).pfcEn && isPfc f then g.pfcFrame p f
      else g.ingress (p / 32) (ue.filter fun x => Nat.ble x.1 2)
        { bytes := f, dir := .up, port := p % 32, stamp := g.devAt at_, arrFrc := g.time.frcNs } := by
  simp only [Dev.sysFrame, hwidth, henabled, hup, hok, decide_false, Bool.not_true, Bool.or_self, Bool.false_eq_true, if_false]
  rfl

end

end

/-! ### Dispatch and release (R203 to R205, R263) -/

section
variable {d : Dev} {n : Nat} {dir : Dir} {ue : List (Nat × Nat)}

/-- With no priority frame ready, the head of a normal backlog goes to the next pipeline. -/
theorem Dev.dispatchFrame_normal {w : Waiting} (hroom : (d.disp n dir).reorder.length < 4096)
    (hprio : nextHead ((d.disp n dir).prio.filter fun w => !d.behind n dir w) (d.disp n dir).ptrPrio = none)
    (hnormal : nextHead ((d.disp n dir).normal.filter fun w => !d.behind n dir w) (d.disp n dir).ptrNormal = some w) :
    let x := d.disp n dir
    let e := d.modDisp n dir fun x =>
      { x with normal := x.normal.erase w, busyAt := d.now, pipe := (x.pipe + 1) % 4, ptrNormal := (w.port + 1) % portsOf dir }
    let f := (e.perf n 2 dir.num 0 1).mothStage n (e.buffer n w.pool w.index).frame.moth 3
    let r := (f.badWords n (ue.filter fun x => Nat.ble 4 x.1)).pipeline n x.pipe dir w
      { pool := w.pool, index := w.index, port := w.port, prio := false, pipe := x.pipe }
    d.dispatchFrame n dir ue = r.2.modDisp n dir fun x => { x with reorder := x.reorder ++ [r.1] } := by
  simp only [Dev.dispatchFrame, if_neg (Nat.not_le.2 hroom), hprio, hnormal, Option.orElse_none, Option.isSome_none, Bool.false_eq_true,
    if_false]

section
variable {port : Nat} {prio : Bool} {qf : QFault} {meterBad : Bool} {v : Verdict}
variable (hv : ((d.disp n dir).reorder.find? fun v => v.port == port && v.prio == prio) = some v)
include hv

/-- The release of the next frame of a port and backlog, by what became of it in its pipeline. -/
theorem Dev.releaseFrame_eq :
    d.releaseFrame n dir port prio qf meterBad =
      let e := d.modDisp n dir fun x => { x with reorder := x.reorder.erase v, busyAt := d.now }
      if v.drop then e
      else if (d.buffer n v.pool v.index).left != 0 then d
      else
        let f := e.mothStage n (d.buffer n v.pool v.index).frame.moth 4
        { f with ending := f.ending ++ [.meter n dir v qf meterBad] } := by
  simp only [Dev.releaseFrame, hv]

end
end

/-! ### Host transmit rings (R417) -/

section
variable {d : Dev} {r : Nat} {ws : List Dword} {bytes : List Byte}

/-- The frame of transmit descriptor c of ring r, as the ingress takes it. -/
def Dev.txFrame (e : Dev) (r slice : Nat) (c : TxDesc) (bytes : List Byte) : Frame :=
  { bytes := withFcs ((bytes ++ List.replicate (c.len - bytes.length) 0).take c.len)
    dir := if c.path = 2 then .down else .up, port := c.port, cls := c.cls
    soft := if c.path = 0 then none else some c.cls, stamp := e.devLin.toNat, arrFrc := e.time.frcNs, lastBit := e.now
    ing := (e.slice slice).tab.cfg (ingressNo (if c.path = 2 then .down else .up) c.port)
    ts := if c.ts then some (r, c.id) else none, ring := some r }

theorem Dev.txRead_eq (hreg : (d.txRing r).reg = true) (havail : (d.txRing r).idx.avail (d.txRing r).entries ≠ 0)
    (hdma : d.dmaHalted (32 + r / 4) = false) :
    d.txRead r ws bytes =
      let x := d.txRing r
      let e := (d.modTxRing r fun x => { x with idx := x.idx.push x.entries }).due (336 + r)
      let c := txDescOf ws
      if c.bad then e.bump .badDesc 0 r
      else if c.path != 0 && (e.txFrame r x.slice c bytes).ing.bad then
        (e.bump .actBad x.slice (e.txFrame r x.slice c bytes).dir.num).tsNotSent (e.txFrame r x.slice c bytes) none
      else e.request x.slice
        { pool := firstPool (e.txFrame r x.slice c bytes).bytes.length, party := 8, holder := x.stallholder, frame := e.txFrame r x.slice c bytes
          path := if c.path = 0 then 1 else 0, arg := c.cls } := by
  simp only [Dev.txRead, hreg, havail, hdma, decide_false, Bool.not_true, Bool.or_self, Bool.false_eq_true, if_false]
  rfl

end

/-- The copy of a frame to a host ring that stands first is made, in a slice with a rank in service. -/
theorem Dev.ringCopy_first {d : Dev} {n : Nat} {qf : QFault} {stageBad : Bool} {c : RingCopy} {cs : List RingCopy} (hrank : d.noRank n = false)
    (hcopies : (d.slice n).buf.copies = c :: cs) :
    d.ringCopy n qf stageBad = ((d.modBuf n fun b => { b with copies := cs }).readStaging n c.pool c.index stageBad).toRing n c 8 false true := by
  simp only [Dev.ringCopy, hrank, hcopies, Bool.false_eq_true, if_false]

/-- Settles O55. -/
theorem ingressEventsComplete : Obligations.IngressEventsComplete := by
  intro s t d
  have hd : s.dev.begin t = d := rfl
  clear_value d
  refine ⟨?_, ?_, ?_⟩
  · intro p f stamp ue sp e
    have hpause : exec (.pauseReceived t p f) s = act t (fun d => if isPause f then d.sysFrame p.val f d.now [] else d) s := rfl
    have hpfc : exec (.pfcReceived t p f) s = act t (fun d => if isPfc f then d.sysFrame p.val f d.now [] else d) s := rfl
    refine ⟨?_, ?_, ?_, ?_, ?_⟩
    · exact fun hdown => completes_of_act hd rfl (Dev.sysFrame_down hdown)
    · intro hwidth henabled hup
      refine ⟨fun c hbad => completes_of_act hd rfl (Dev.sysFrame_bad hwidth henabled hup hbad), ?_⟩
      intro hok g
      refine ⟨?_, ?_, ?_⟩
      · intro hnp hnq
        exact completes_of_act hd rfl ((Dev.sysFrame_ok hwidth henabled hup hok).trans
          ((if_neg (by simp [hnp])).trans (if_neg (by simp [hnq]))))
      · intro hp hen
        exact completes_of_act hd hpause ((if_pos hp).trans ((Dev.sysFrame_ok hwidth henabled hup hok).trans
          (if_pos (Bool.and_eq_true_iff.2 ⟨hen, hp⟩))))
      · intro hnp hq hen
        exact completes_of_act hd hpfc ((if_pos hq).trans ((Dev.sysFrame_ok hwidth henabled hup hok).trans
          ((if_neg (by simp [hnp])).trans (if_pos (Bool.and_eq_true_iff.2 ⟨hen, hq⟩)))))
    · exact fun h => completes_of_act hd hpause (if_neg (by simp [h]))
    · exact fun h => completes_of_act hd hpfc (if_neg (by simp [h]))
    · exact completes_of_act hd rfl rfl
  · intro n b
    refine ⟨?_, ?_, ?_, ?_, ?_, ?_⟩
    · intro h
      simp only [b] at h
      exact completes_of_act hd rfl (by simp only [Dev.spillUp, h])
    · intro r rs h
      simp only [b] at h
      exact completes_of_act hd rfl (by simp only [Dev.spillUp, h])
    · exact fun dir ue h => completes_of_act hd rfl (if_pos h)
    · exact fun dir ue w hroom hprio hnormal => completes_of_act hd rfl (Dev.dispatchFrame_normal hroom hprio hnormal)
    · intro dir port prio qf meterBad v hv e b
      refine ⟨?_, ?_, ?_⟩
      · exact fun hdrop => completes_of_act hd rfl ((Dev.releaseFrame_eq hv).trans (if_pos hdrop))
      · exact fun hkeep hleft => completes_of_act hd rfl ((Dev.releaseFrame_eq hv).trans
          ((if_neg (by simp [hkeep])).trans (if_pos (bne_iff_ne.2 hleft))))
      · exact fun hkeep hleft => completes_of_act hd rfl ((Dev.releaseFrame_eq hv).trans
          ((if_neg (by simp [hkeep])).trans (if_neg (fun h => bne_iff_ne.1 h hleft))))
    · exact fun qf stageBad c cs hrank hcopies => completes_of_act hd rfl (Dev.ringCopy_first hrank hcopies)
  · intro r ws bytes x hreg havail hdma e c body
    refine ⟨?_, ?_⟩
    · exact fun hbad => completes_of_act hd rfl ((Dev.txRead_eq hreg havail hdma).trans (if_pos hbad))
    · intro hgood f
      refine ⟨?_, ?_⟩
      · exact fun hpath hing => completes_of_act hd rfl ((Dev.txRead_eq hreg havail hdma).trans
          ((if_neg (Bool.eq_false_iff.1 hgood)).trans (if_pos (Bool.and_eq_true_iff.2 ⟨bne_iff_ne.2 hpath, hing⟩))))
      · intro hor
        refine completes_of_act hd rfl ((Dev.txRead_eq hreg havail hdma).trans
          ((if_neg (Bool.eq_false_iff.1 hgood)).trans (if_neg fun h => ?_)))
        obtain ⟨hpath, hing⟩ := Bool.and_eq_true_iff.1 h
        exact hor.elim (bne_iff_ne.1 hpath) fun hok => Bool.eq_false_iff.1 hok hing

end Sys2Proof
end

section
/-! The downstream commands (R20, R86, R90, R100, R101, R103, Table 3.13). -/

namespace Sys2Proof

open Machine

theorem cmdAcceptRebuild_eq (rq : Req) (d : Dev) :
    cmdAcceptRebuild rq d =
      let a := (d.tree (rq.prm 0)).acc
      let words := ((a.bits.map (·.1) ++ a.view.map (·.1)).map (· / 32)).eraseDups
      let r := words.foldl (fun (r : Nat × Accept) w => (r.1 + (r.2.rewrite w).1, (r.2.rewrite w).2)) (0, a)
      withChecks (treeChecks rq d 1) d
        (okWith (d.modTree (rq.prm 0) fun x => { x with acc := { r.2 with badWords := [] } }) (resWide 20 r.1)) := by
  simp only [cmdAcceptRebuild]

/-- What `tree_skew_read` says of logical lane i: its device lane, its skew and its place in the stripe (Table 3.13; log entry 21). -/
def Dev.skewRow (d : Dev) (k i : Nat) : List Nat :=
  let x := d.tree k
  let p : Nat × Nat := match x.laneOf i, d.claims k i with
    | some l, _ => (l, if x.cfg.removed.contains i then 1 else if x.stripe.contains i then 0 else 3)
    | none, some l => (l, 2)
    | none, none => (0, 3)
  let w := if p.2 = 3 then 0 else (d.align p.1).skew
  [p.1, if skewLimit < w then 0xFFFFF else w, p.2]

theorem cmdTreeSkewRead_eq (rq : Req) (d : Dev) :
    cmdTreeSkewRead rq d = withChecks (treeChecks rq d 1) d (okWith d (toDwords ((List.range 16).flatMap (d.skewRow (rq.prm 0))))) := by
  simp only [cmdTreeSkewRead]
  congr 4

/-- Settles O56. -/
theorem downstreamCommandsComplete : Obligations.DownstreamCommandsComplete := by
  intro s t rq d k
  have hd : s.dev.begin t = d := rfl
  clear_value d
  refine ⟨?_, ?_, ?_, ?_⟩
  · intro ⟨hnow, hlen, hready⟩ hk hdma hfirst hcount hend halign hcfg a
    simp only [k] at hk hcfg
    exact completes_of_checks hd rfl hnow rfl (passes_cons (chkLen_none hlen) (passes_cons (failIf_false _ _ hdma)
      (passes_cons (chkReady_port hk (hready _ (List.mem_singleton_self _))) (passes_cons (chkRange_none (by simp; omega))
        (passes_cons (failIf_false _ _ (by simp [hfirst])) (passes_cons (failIf_false _ _ (by simp [hcount]; omega))
          (passes_cons (failIf_false _ _ (by simp [halign])) (passes_cons (failIf_false _ _ (by simp [hcfg])) passes_nil)))))))) rfl
  · intro ⟨hnow, hlen, hready⟩ hk hcfg a words r
    exact completes_of_checks hd rfl hnow (cmdAcceptRebuild_eq rq d)
      (treeChecks_pass hlen hk (hready _ (List.mem_singleton_self _)) hcfg) rfl
  · intro ⟨hnow, hlen, hready⟩ hk h2 h8 hcfg
    simp only [k] at hk hcfg
    exact completes_of_checks hd rfl hnow rfl (passes_cons (chkLen_none hlen)
      (passes_cons (chkReady_port hk (hready _ (List.mem_singleton_self _))) (passes_cons (chkRange_none (by simp; omega))
        (passes_cons (failIf_false _ _ (by simp [hcfg])) passes_nil)))) rfl
  · intro ⟨hnow, hlen, hready⟩ hk hcfg x
    exact completes_of_checks hd rfl hnow (cmdTreeSkewRead_eq rq d)
      (treeChecks_pass hlen hk (hready _ (List.mem_singleton_self _)) hcfg) rfl

end Sys2Proof
end

section
/-! The locks of a lane and of the frames of a tree (R20, R31, R41, R51, R75, R80, R82 to R91, R103, R105, R136, R139, R347). -/

namespace Sys2Proof

open Machine

/-! ### A lane in frame lock (R85, R105) -/

section
variable {d : Dev} {l : Nat} {arrival pos : Nat} {cw : List RxBlock} {x : LaneTail}

/-- The frame start of a lane in frame lock, one frame after the last: what stands on the lane before its check counts. -/
def Dev.frameHeard (l : Nat) (arrival : Nat) (cw : List RxBlock) (d : Dev) : Dev :=
  (d.countTypes l (wrongTypes cw)).modAlign l fun b => { b with arrival := arrival, interval := arrival - b.arrival, fresh := true }

theorem Dev.frameStartDecision_unlocked (h : (d.align l).st = 0) : d.frameStartDecision l arrival pos cw x = d := if_pos h

/-- In block lock a lane looks for frame lock. -/
theorem Dev.frameStartDecision_seeks (h : (d.align l).st = 1) :
    d.frameStartDecision l arrival pos cw x = (d.pmTail l x).seekFrame l arrival pos (frameStartOf cw) := by
  simp only [Dev.frameStartDecision, h, Nat.reduceEqDiff, if_false, if_true]

/-- A frame start that does not pass ends the lane's row of passing ones. -/
theorem Dev.seekFrame_failed {f : FrameStart} (h : f.passed = false) :
    d.seekFrame l arrival pos f = d.modAlign l fun a => { a with passes := 0, passed := false } :=
  if_pos (by simp [h])

theorem Dev.frameStartDecision_elsewhere (h : (d.align l).st = 2) (hpos : pos ≠ 196800) :
    d.frameStartDecision l arrival pos cw x = d.pmTail l x := by
  simp only [Dev.frameStartDecision, h, framePositions, bne_iff_ne.2 hpos, Nat.reduceEqDiff, if_false, if_true]

theorem Dev.frameStartDecision_follows (h : (d.align l).st = 2) :
    d.frameStartDecision l arrival 196800 cw x =
      ((d.pmTail l x).countTypes l (wrongTypes cw)).followFrame l arrival (frameStartOf cw) := by
  simp only [Dev.frameStartDecision, h, framePositions, bne_self_eq_false, Bool.false_eq_true, Nat.reduceEqDiff, if_false]

theorem Dev.followFrame_passed (h : (frameStartOf cw).passed = true) :
    (d.countTypes l (wrongTypes cw)).followFrame l arrival (frameStartOf cw) =
      ((d.frameHeard l arrival cw).modAlign l fun a => a.adopt (frameStartOf cw)).remapLane l :=
  if_pos h

/-- A frame start that does not pass is flywheeled. -/
theorem Dev.followFrame_failed (h : (frameStartOf cw).passed = false) :
    (d.countTypes l (wrongTypes cw)).followFrame l arrival (frameStartOf cw) =
      (d.frameHeard l arrival cw).modAlign l fun a =>
        { a with fc := a.fc + 1, passed := false, fails := a.fails + 1 }.note ((d.frameHeard l arrival cw).inLatched (arrival + Config.cwt))
          Pm.addFs :=
  if_neg (Bool.eq_false_iff.1 h)

/-- Frame lock goes after eight frame starts in a row that do not pass. -/
theorem Dev.frameLockLoss_drops (h : (d.align l).st = 2) (hfails : 8 ≤ (d.align l).fails) :
    d.frameLockLoss l = ((d.raise (d.laneQueue l) 0x03 1 l [2, 0]).modAlign l fun a =>
      { a with st := 1, passes := 0, fails := 0, passed := false, fresh := false, prevSkew := 0, pm := { a.pm with lol := 1 } }).remapLane l :=
  if_neg (by simp [h, hfails])

/-- A lane identifier is taken in block lock, and in frame lock in a frame whose start passes. -/
theorem Dev.laneIdentifier_takes {blk : Block} (htype : fld 8 120 blk = 0x2D)
    (h : (d.align l).st = 1 ∨ (d.align l).st = 2 ∧ (d.align l).passed = true) :
    d.laneIdentifier l blk = (d.modAlign l fun a =>
      { a with
        ident :=
          some { treeId := (fld 32 88 blk).toNat, logical := (fld 4 84 blk).toNat, laneCount := (fld 5 79 blk).toNat
                 serial := (fld 64 0 blk).toNat } }).remapLane l := by
  have hident : identOf { ctl := true, pl := blk } =
      some { treeId := (fld 32 88 blk).toNat, logical := (fld 4 84 blk).toNat, laneCount := (fld 5 79 blk).toNat,
             serial := (fld 64 0 blk).toNat } := if_pos (by simp [htype])
  simp only [Dev.laneIdentifier, hident]
  rcases h with h | ⟨h, hpassed⟩
  · rw [if_neg (by simp [h]), if_pos (by simp [h])]
  · rw [if_neg (by simp [h]), if_pos (by simp [h, hpassed])]

end

/-! ### A tree decides its frame (R86 to R91) -/

section
variable {d : Dev} {k draw : Nat}

/-- The block as tree k has formed its lane map and read LANE_COUNT, before it decides a frame. -/
def Dev.frameMap (k : Nat) (d : Dev) : Dev := (d.remap k).noteCount k

/-- The logical lanes that the next frame of tree k needs. -/
def Dev.nextNeed (d : Dev) (k : Nat) : List Nat := (d.tree k).needed ((d.tree k).fr.fc + 1)

/-- The skews of the frame that tree k decides, measured. -/
def Dev.frameSkews (k : Nat) (d : Dev) : Dev :=
  ((d.noteStream k d.now).modPwr fun w => { w with streamCw := w.streamCw.set 0 k 0 }).measure k (d.nextNeed k)

theorem Dev.treeFrame_unconfigured (h : (d.tree k).cfg.configured = false) : d.treeFrame k draw = d := if_pos (by simp [h])

theorem Dev.treeFrame_waits (hcfg : (d.tree k).cfg.configured = true)
    (hdue : (d.frameMap k).frameDue k (((d.frameMap k).nextNeed k).filterMap ((d.frameMap k).tree k).laneOf) = false) :
    d.treeFrame k draw = d.frameMap k := by
  simp only [Dev.frameMap, Dev.nextNeed] at hdue
  simp only [Dev.treeFrame, hcfg, hdue, Bool.not_true, Bool.not_false, Bool.false_eq_true, if_false, if_true]
  rfl

/-- The frame in progress becomes the one that starts at an instant: x is the tree as it was before, ls the frame's needed lanes, gain and fail
say whether the tree gains tree frame lock or its frame fails, and ref is what the passing frame start of the reference lane says (R86 to R91). -/
def Dev.enterFrame (k : Nat) (start : Ticks × Ticks) (x : Tree) (ls : List Nat) (gain fail : Bool) (ref : Option Align) (d : Dev) : Dev :=
  let d := if gain then d.gainTree k (((x.refLane.map d.align).map (·.fc)).getD 0) else d.countFrame k (if x.fr.tfl then ref.map (·.fc) else none)
  let d := d.forEach ls fun l d => d.modAlign l fun a => { a with fresh := false }
  let past := if x.fr.tfl then (x.fr.refArr :: x.fr.refPast).take 16 else []
  let d := d.modTree k fun x =>
    { x with fr := { x.fr with refArr := start.1, refInt := start.2, refPast := past, fails := if fail then x.fr.fails + 1 else 0,
                               listBad := false, listSeen := 0, listIds := [], listNew := [] } }
  let late := d.inLatched (start.1 + Config.cwt)
  if fail then d.modTree k fun x => { x with fr := x.fr.note late Pm.addFs } else d

/-- What a tree in tree frame lock takes from the frame start of its reference lane (R103, R347). -/
def Dev.readFrame (k draw : Nat) (ref : Option Align) (d : Dev) : Dev :=
  if (d.tree k).fr.tfl then
    let d := d.modTree k fun x => { x with fr := x.fr.run (ref.bind (·.sr)) }
    let d := (d.overlapFrame k).treeTime k (ref.bind (·.tod))
    (d.reselect k).tryDraw k draw
  else d

/-- The decision of a frame whose skews are measured, over the needed lanes of the tree as it was. -/
def Dev.decideFrame (k draw : Nat) (start : Ticks × Ticks) (x : Tree) (need ls : List Nat) (d : Dev) : Dev :=
  let ref := (x.refLane.map d.align).bind fun a => if a.st == 2 && a.fresh && a.passed then some a else none
  (d.enterFrame k start x ls (!x.fr.tfl && d.lockOk x need) (x.fr.tfl && !d.frameOk x need) ref).readFrame k draw ref

theorem Dev.treeFrame_due (hcfg : (d.tree k).cfg.configured = true)
    (hdue : (d.frameMap k).frameDue k (((d.frameMap k).nextNeed k).filterMap ((d.frameMap k).tree k).laneOf) = true) :
    d.treeFrame k draw =
      ((d.frameMap k).frameSkews k).decideFrame k draw ((d.frameMap k).refArrival k) ((d.frameMap k).tree k) ((d.frameMap k).nextNeed k)
        (((d.frameMap k).nextNeed k).filterMap ((d.frameMap k).tree k).laneOf) := by
  simp only [Dev.frameMap, Dev.nextNeed] at hdue
  simp only [Dev.treeFrame, hcfg, hdue, Bool.not_true, Bool.false_eq_true, if_false]
  rfl

/-- A tree that holds tree frame lock takes the count of the passing frame start of its reference lane. -/
theorem Dev.enterFrame_holds {start : Ticks × Ticks} {x : Tree} {ls : List Nat} {a : Align} (htfl : x.fr.tfl = true) :
    d.enterFrame k start x ls false false (some a) =
      ((d.countFrame k (some a.fc)).forEach ls fun l d => d.modAlign l fun a => { a with fresh := false }).modTree k fun y =>
        { y with
          fr :=
            { y.fr with
              refArr := start.1, refInt := start.2, refPast := (x.fr.refArr :: x.fr.refPast).take 16
              fails := 0, listBad := false, listSeen := 0, listIds := [], listNew := [] } } := by
  simp only [Dev.enterFrame, htfl, Option.map_some, Bool.false_eq_true, if_false, if_true]

/-- A frame whose start passes on the reference lane, and which does not fail, is decided with what that start says. -/
theorem Dev.decideFrame_passed {start : Ticks × Ticks} {x : Tree} {need ls : List Nat} {l : Nat} (htfl : x.fr.tfl = true)
    (hok : d.frameOk x need = true) (href : x.refLane = some l) (hst : (d.align l).st = 2) (hfresh : (d.align l).fresh = true)
    (hpassed : (d.align l).passed = true) :
    d.decideFrame k draw start x need ls = (d.enterFrame k start x ls false false (some (d.align l))).readFrame k draw (some (d.align l)) := by
  have hread : ((x.refLane.map d.align).bind fun a => if a.st == 2 && a.fresh && a.passed then some a else none) = some (d.align l) := by
    simp [href, hst, hfresh, hpassed]
  simp only [Dev.decideFrame, hread, htfl, hok, Bool.not_true, Bool.false_and, Bool.and_false]

theorem Dev.readFrame_held {a : Align} (htfl : (d.tree k).fr.tfl = true) :
    d.readFrame k draw (some a) =
      ((((d.modTree k fun y => { y with fr := y.fr.run a.sr }).overlapFrame k).treeTime k a.tod).reselect k).tryDraw k draw :=
  if_pos htfl

/-- A tree that holds tree frame lock through a frame whose start passes on its reference lane. -/
theorem Dev.decideFrame_holds {start : Ticks × Ticks} {x : Tree} {need ls : List Nat} {l : Nat} (htfl : x.fr.tfl = true)
    (hok : d.frameOk x need = true) (href : x.refLane = some l) (hst : (d.align l).st = 2) (hfresh : (d.align l).fresh = true)
    (hpassed : (d.align l).passed = true) {d3 : Dev}
    (hd3 : ((d.countFrame k (some (d.align l).fc)).forEach ls fun l d => d.modAlign l fun a => { a with fresh := false }).modTree k (fun y =>
      { y with
        fr :=
          { y.fr with
            refArr := start.1, refInt := start.2, refPast := (x.fr.refArr :: x.fr.refPast).take 16
            fails := 0, listBad := false, listSeen := 0, listIds := [], listNew := [] } }) = d3)
    (hheld : (d3.tree k).fr.tfl = true) :
    d.decideFrame k draw start x need ls =
      ((((d3.modTree k fun y => { y with fr := y.fr.run (d.align l).sr }).overlapFrame k).treeTime k (d.align l).tod).reselect k).tryDraw k
        draw := by
  rw [Dev.decideFrame_passed htfl hok href hst hfresh hpassed, Dev.enterFrame_holds htfl, hd3, Dev.readFrame_held hheld]

end

/-! ### The loss of tree frame lock (R41, R87) -/

section
variable {d : Dev} {k : Nat}

theorem Dev.entryToLost_loses (htfl : (d.tree k).fr.tfl = true) (hfails : 8 ≤ (d.tree k).fr.fails) (hst : (d.tree k).join.st ≠ 0) :
    let lost := (((((d.commitDue k).undoTree k).raise (qTree k) 0x01 5 k []).loseTree k).dropCommitted k).modTree k fun x =>
      { x with pitches := [], il := [], cfg := { x.cfg with removed := [], changes := [] } }
    d.entryToLost k = (lost.discardTree k).resetTaps (lost.groupLanes k) :=
  if_neg (by simp [htfl, hfails, hst])

theorem Dev.listeningLoss_loses (htfl : (d.tree k).fr.tfl = true) (hfails : 8 ≤ (d.tree k).fr.fails) (hst : (d.tree k).join.st = 0) :
    d.listeningLoss k = (d.commitDue k).loseTree k :=
  if_neg (by simp [htfl, hfails, hst])

end

/-- Settles O57. -/
theorem lockEventsComplete : Obligations.LockEventsComplete := by
  intro s t d
  have hd : s.dev.begin t = d := rfl
  clear_value d
  refine ⟨?_, ?_, ?_, ?_⟩
  · intro l arrival pos cw x a f run e
    refine ⟨?_, ?_, ?_, ?_, ?_⟩
    · exact fun hst => completes_of_act hd rfl (Dev.frameStartDecision_unlocked hst)
    · exact fun hst hfail => completes_of_act hd rfl ((Dev.frameStartDecision_seeks hst).trans (Dev.seekFrame_failed hfail))
    · exact fun hst hpass => completes_of_act hd rfl (Dev.frameStartDecision_seeks hst)
    · exact fun hst hpos => completes_of_act hd rfl (Dev.frameStartDecision_elsewhere hst hpos)
    · rintro hst rfl g late
      refine ⟨?_, ?_⟩
      · exact fun hpass => completes_of_act hd rfl ((Dev.frameStartDecision_follows hst).trans (Dev.followFrame_passed hpass))
      · exact fun hfail => completes_of_act hd rfl ((Dev.frameStartDecision_follows hst).trans (Dev.followFrame_failed hfail))
  · intro l blk a
    refine ⟨?_, ?_, ?_⟩
    · exact fun hst hfails => completes_of_act hd rfl (if_pos (by simp only [a] at hfails; simp [hfails]))
    · exact fun hst hfails => completes_of_act hd rfl (Dev.frameLockLoss_drops hst hfails)
    · exact fun htype h => completes_of_act hd rfl (Dev.laneIdentifier_takes htype h)
  · intro k draw l run d1 x need ls d2 a
    refine ⟨?_, ?_, ?_⟩
    · exact fun hcfg => completes_of_act hd rfl (Dev.treeFrame_unconfigured hcfg)
    · exact fun hcfg hdue => completes_of_act hd rfl (Dev.treeFrame_waits hcfg hdue)
    · intro hcfg hdue htfl hok href hst hfresh hpassed d3 hheld d4
      exact completes_of_act hd rfl ((Dev.treeFrame_due hcfg hdue).trans (Dev.decideFrame_holds htfl hok href hst hfresh hpassed rfl hheld))
  · intro k x htfl hfails
    exact ⟨fun hst => completes_of_act hd rfl (Dev.entryToLost_loses htfl hfails hst),
      fun hst => completes_of_act hd rfl (Dev.listeningLoss_loses htfl hfails hst)⟩

end Sys2Proof
end

section
/-! Switching requests, the Pitch list, parcels, lane changes, accept bits and EqD (R39, R75, R92, R93, R95 to R101, R103, R109, R110, R129, R131,
R497, Table 3.9). -/

namespace Sys2Proof

open Machine

section
variable {d : Dev} {k : Nat}

/-! ### Switching (R39, R103) -/

theorem Dev.srAccept_new (htfl : (d.tree k).fr.tfl = true) (hrun : (d.tree k).fr.srN ≤ (d.tree k).fr.srRun)
    (hnew : (d.tree k).fr.sr ≠ some (d.tree k).fr.srVal) :
    d.srAccept k = (d.modTree k fun x => { x with fr := { x.fr with sr := some x.fr.srVal } }).reselect k :=
  if_pos (by simp [htfl, hrun, hnew])

/-- A switch that was under way is complete: the member that no longer carries the traffic gives back what it has assembled. -/
theorem Dev.switchDone_pair {o : Nat} {v : Bool} (hpair : (d.tree (d.pairKey k)).cfg.pair = some o)
    (hswitching : (d.tree (d.pairKey k)).cfg.switching = some v) :
    let w := d.pairKey k
    let off := if v then w else o
    let e := ((d.commitDue w).commitDue o).modTree w fun x => { x with cfg := { x.cfg with selProtect := v, switching := none } }
    let ps := e.inOrder off ((e.tree off).pitches.filter fun p => p.phase == 0 && p.opened && !p.reserved)
    d.switchDone k = ((e.undoAll off ps).modTree off fun x =>
      { x with pitches := x.pitches.map fun p => if p.phase == 0 && !p.reserved then { p with opened := false } else p }).openAll
        (sliceOfTree w) := by
  simp only [Dev.switchDone, hpair, hswitching]

/-! ### The Pitch list (R95, R109, R110, R131) -/

/-- An entry of the list has arrived: it counts as seen, and its Pitch's number is named. -/
def Dev.entryNamed (k pid : Nat) (d : Dev) : Dev :=
  (d.modTree k fun x => { x with fr := { x.fr with listSeen := x.fr.listSeen + 1 } }).modTree k fun x =>
    { x with fr := { x.fr with listIds := x.fr.listIds ++ [pid] } }

/-- An entry in place for the leaf, of an AID that carries traffic, is judged by its allocation, its form and the numbers before it. -/
theorem Dev.listEntry_judged {hdr blk : RxBlock} {n m : Nat} {p : Pitch} (hp : p = pitchOf blk.pl ((d.tree k).fr.fc + 2))
    (hcfg : (d.tree k).cfg.configured = true) (htfl : (d.tree k).fr.tfl = true) (hhdr : d.listHeader k hdr = some (n, m))
    (hseen : (d.tree k).fr.listSeen < n) (hunc : blk.unc = false) (hctl : blk.ctl = false) (hchk : blockChk blk.pl = fld 16 0 blk.pl)
    (hleaf : (d.tree k).join.leaf = some p.leaf) (hreserved : p.reserved = false) :
    d.listEntry k hdr blk =
      if !(d.tree k).upAlloc p.aid then (d.entryNamed k p.pid).bump .entryUnknown k 0
      else if p.malformed then (d.entryNamed k p.pid).bump .pitchMalformed k 0
      else if (d.tree k).fr.listIds.contains p.pid then (d.entryNamed k p.pid).bump .entryDup k 0
      else (d.entryNamed k p.pid).modTree k fun x => { x with fr := { x.fr with listNew := x.fr.listNew ++ [p] } } := by
  have hmore : Nat.ble n (d.tree k).fr.listSeen = false := Bool.eq_false_iff.2 fun h => absurd (Nat.le_of_ble_eq_true h) (Nat.not_le.2 hseen)
  subst hp
  simp only [Dev.listEntry, hcfg, htfl, hhdr, hmore, hunc, hctl, hchk, hleaf, hreserved, bne_self_eq_false, Option.isNone_some,
    Option.isSome_some, Bool.not_true, Bool.not_false, Bool.true_and, Bool.false_and, Bool.and_false, Bool.or_self, Bool.false_eq_true,
    if_false]
  rfl

/-- The last entry has been received: the EqD that wait take their frame, and the entries become used Pitches. -/
theorem Dev.listComplete_uses {hdr : RxBlock} {nm : Nat × Nat} (hcfg : (d.tree k).cfg.configured = true) (htfl : (d.tree k).fr.tfl = true)
    (hhdr : d.listHeader k hdr = some nm) (hall : nm.1 ≤ (d.tree k).fr.listSeen) :
    let x := d.tree k
    let name := fun (xs : List (Nat × Option Nat)) => xs.map fun e => if e.2.isNone then (e.1, some (x.fr.fc + 2)) else e
    let e := d.modTree k fun x =>
      { x with
        fr := { x.fr with listNew := [], listDone := ((d.now, x.fr.fc) :: x.fr.listDone).take 64 }
        eqd := { x.eqd with next := name x.eqd.next, rangeNext := name x.eqd.rangeNext, roundNext := name x.eqd.roundNext } }
    let off := if x.fr.listNew.isEmpty then [] else (e.pairLtx k).filter fun q => (e.dom q).st == 2
    d.listComplete k hdr = (e.wakeAll (pdBarrow (sliceOfTree k) :: off) causePitch).useList k x.fr.listNew := by
  have hdone : Nat.blt (d.tree k).fr.listSeen nm.1 = false := Bool.eq_false_iff.2 fun h => by simp at h; omega
  simp only [Dev.listComplete, hcfg, htfl, hhdr, hdone, Option.map_some, Option.getD_some, Bool.not_true, Bool.or_self, Bool.false_eq_true,
    if_false]

/-! ### Parcels (R75, R96 to R101) -/

theorem Dev.streamItem_outside {i : StreamItem} {keyBad : Bool} {ue : List (Nat × Nat)}
    (h : (d.tree k).cfg.configured = false ∨ (d.tree k).fr.tfl = false) : d.streamItem k i keyBad ue = d :=
  if_pos (by rcases h with h | h <;> simp [h])

section
variable {keyBad : Bool} {ue : List (Nat × Nat)} (hcfg : (d.tree k).cfg.configured = true) (htfl : (d.tree k).fr.tfl = true)
include hcfg htfl

theorem Dev.streamItem_stray {n : Nat} :
    d.streamItem k (.stray n) keyBad ue = if (d.tree k).fr.resync then d else d.bumpN .strayData k 0 n :=
  if_neg (by simp [hcfg, htfl])

theorem Dev.streamItem_overhead {typ : BitVec 8} :
    d.streamItem k (.overhead typ) keyBad ue = if typ == 0x1E then d else d.bump .badType k 0 :=
  if_neg (by simp [hcfg, htfl])

theorem Dev.streamItem_body {rest : List RxBlock} {stampAt tagAt : Ticks} :
    d.streamItem k (.body rest stampAt tagAt) keyBad ue = d.parcelOver k rest stampAt tagAt keyBad (ue.filter fun e => Nat.ble e.1 2) :=
  if_neg (by simp [hcfg, htfl])

variable {b : RxBlock} {accBad : Bool}

theorem Dev.streamItem_control :
    d.streamItem k (.control b accBad) keyBad ue =
      if (d.tree k).fr.resync && (!b.ctl || b.unc) then d
      else
        let e := d.parcelOver k [] d.now d.now false []
        if !b.ctl then e.bump .strayData k 0
        else if fld 8 120 b.pl == 0x78 then e.parcelHeader k b accBad (ue.filter fun e => Nat.ble e.1 2)
        else
          let f := e.modTree k fun x => { x with fr := { x.fr with resync := false } }
          if fld 8 120 b.pl == 0x1E then f else f.bump .badType k 0 :=
  if_neg (by simp [hcfg, htfl])

/-- While blocks are skipped, data blocks and control blocks of an uncorrectable codeword are skipped too. -/
theorem Dev.streamItem_skips (hresync : (d.tree k).fr.resync = true) (hskip : b.ctl = false ∨ b.unc = true) :
    d.streamItem k (.control b accBad) keyBad ue = d :=
  (Dev.streamItem_control hcfg htfl).trans (if_pos (by rcases hskip with h | h <;> simp [hresync, h]))

theorem Dev.streamItem_data (hresync : (d.tree k).fr.resync = false) (hctl : b.ctl = false) :
    d.streamItem k (.control b accBad) keyBad ue = (d.parcelOver k [] d.now d.now false []).bump .strayData k 0 :=
  (Dev.streamItem_control hcfg htfl).trans ((if_neg (by simp [hresync])).trans (if_pos (by simp [hctl])))

section
variable (hctl : b.ctl = true) (htrust : (d.tree k).fr.resync = false ∨ b.unc = false)
include hctl htrust

/-- A control block that is heard ends the parcel in reception, and is taken by its type. -/
theorem Dev.streamItem_heard :
    d.streamItem k (.control b accBad) keyBad ue =
      let e := d.parcelOver k [] d.now d.now false []
      if fld 8 120 b.pl == 0x78 then e.parcelHeader k b accBad (ue.filter fun e => Nat.ble e.1 2)
      else
        let f := e.modTree k fun x => { x with fr := { x.fr with resync := false } }
        if fld 8 120 b.pl == 0x1E then f else f.bump .badType k 0 :=
  (Dev.streamItem_control hcfg htfl).trans
    ((if_neg (by rcases htrust with h | h <;> simp [hctl, h])).trans (if_neg (by simp [hctl])))

theorem Dev.streamItem_header (htype : fld 8 120 b.pl = 0x78) :
    d.streamItem k (.control b accBad) keyBad ue =
      (d.parcelOver k [] d.now d.now false []).parcelHeader k b accBad (ue.filter fun e => Nat.ble e.1 2) :=
  (Dev.streamItem_heard hcfg htfl hctl htrust).trans (if_pos (beq_iff_eq.2 htype))

/-- A block of another type ends the skipping; one that is not idle counts. -/
theorem Dev.streamItem_type (htype : fld 8 120 b.pl ≠ 0x78) :
    d.streamItem k (.control b accBad) keyBad ue =
      let f := (d.parcelOver k [] d.now d.now false []).modTree k fun x => { x with fr := { x.fr with resync := false } }
      if fld 8 120 b.pl == 0x1E then f else f.bump .badType k 0 :=
  (Dev.streamItem_heard hcfg htfl hctl htrust).trans (if_neg fun h => htype (beq_iff_eq.1 h))

end

end

theorem Dev.parcelOver_none {rest : List RxBlock} {stampAt tagAt : Ticks} {keyBad : Bool} {ue : List (Nat × Nat)}
    (h : (d.tree k).fr.recv = none) : d.parcelOver k rest stampAt tagAt keyBad ue = d := by
  simp only [Dev.parcelOver, h]

/-- The parcel in reception is over: what its kind makes of the blocks that came, and the blocks after its end are stray. -/
theorem Dev.parcelOver_some {rest : List RxBlock} {stampAt tagAt : Ticks} {keyBad : Bool} {ue : List (Nat × Nat)} {r : Reception}
    (h : (d.tree k).fr.recv = some r) :
    d.parcelOver k rest stampAt tagAt keyBad ue =
      let data := parcelData r.hdr rest
      let e := d.modTree k fun y => { y with fr := { y.fr with recv := none } }
      let short := !noticeParcelOk r.hdr || decide (data.length < hdrLength r.hdr / 16 + 1)
      (if r.kept = 1 then e.parcelBody k r data keyBad ue stampAt tagAt
       else if r.kept = 2 ∧ short = true then e.bump .noticeBad k 0 else e).bumpN .strayData k 0 (strayAfter r.hdr rest) := by
  simp only [Dev.parcelOver, h, Bool.and_eq_true, decide_eq_true_eq]

section
variable {rest : List RxBlock} {stampAt tagAt : Ticks} {keyBad : Bool} {ue : List (Nat × Nat)} {r : Reception} (h : (d.tree k).fr.recv = some r)
include h

/-- A parcel that passed checks 2 to 5 goes on to its other checks. -/
theorem Dev.parcelOver_kept (hkept : r.kept = 1) :
    d.parcelOver k rest stampAt tagAt keyBad ue =
      ((d.modTree k fun y => { y with fr := { y.fr with recv := none } }).parcelBody k r (parcelData r.hdr rest) keyBad ue stampAt tagAt).bumpN
        .strayData k 0 (strayAfter r.hdr rest) := by
  simp only [Dev.parcelOver_some h, hkept, if_true]

/-- A notice parcel needs its form and all of its blocks. -/
theorem Dev.parcelOver_notice (hkept : r.kept = 2) :
    d.parcelOver k rest stampAt tagAt keyBad ue =
      let e := d.modTree k fun y => { y with fr := { y.fr with recv := none } }
      let short := !noticeParcelOk r.hdr || decide ((parcelData r.hdr rest).length < hdrLength r.hdr / 16 + 1)
      (if short then e.bump .noticeBad k 0 else e).bumpN .strayData k 0 (strayAfter r.hdr rest) := by
  simp only [Dev.parcelOver_some h, hkept, Nat.reduceEqDiff, true_and, if_false]

/-- A parcel discarded at checks 2 to 5 was only followed. -/
theorem Dev.parcelOver_followed (h1 : r.kept ≠ 1) (h2 : r.kept ≠ 2) :
    d.parcelOver k rest stampAt tagAt keyBad ue =
      (d.modTree k fun y => { y with fr := { y.fr with recv := none } }).bumpN .strayData k 0 (strayAfter r.hdr rest) := by
  simp only [Dev.parcelOver_some h, h1, h2, false_and, if_false]

end

theorem headerOk_eq_false {b : RxBlock} (h : b.unc = true ∨ blockChk b.pl ≠ fld 16 0 b.pl) : headerOk b = false := by
  rcases h with h | h <;> simp [headerOk, h]

section
variable {b : RxBlock} {accBad : Bool} {ue : List (Nat × Nat)}

/-- A header that can be trusted begins its parcel. -/
theorem Dev.parcelHeader_trusted (hunc : b.unc = false) (hchk : blockChk b.pl = fld 16 0 b.pl) :
    d.parcelHeader k b accBad ue =
      (d.modTree k fun x => { x with fr := { x.fr with resync := false, recv := some { hdr := b.pl } } }).parcelChecks k b.pl accBad ue :=
  if_neg (by simp [headerOk, hunc, hchk])

theorem Dev.parcelHeader_untrusted (h : b.unc = true ∨ blockChk b.pl ≠ fld 16 0 b.pl) :
    d.parcelHeader k b accBad ue = (d.modTree k fun x => { x with fr := { x.fr with resync := true } }).bump .parHdr k 0 :=
  if_pos (by simp [headerOk_eq_false h])

end

/-- The accept bits as check 5 reads them: those due have changed, and a word found uncorrectable is marked (R100, R101). -/
def Dev.acceptRead (k word : Nat) (accBad : Bool) (d : Dev) : Dev :=
  let g := d.acceptBoundary k
  let g' := (g.sramBad (sliceOfTree k) 11 word).modTree k fun x =>
    { x with acc := { x.acc with badWords := word :: x.acc.badWords.filter fun w => w != word } }
  if accBad then g' else g

section
variable {h : Block} {accBad : Bool} {ue : List (Nat × Nat)}

theorem Dev.parcelChecks_notice (haid : hdrAid h = Config.aidNotice.toNat) :
    d.parcelChecks k h accBad ue = d.modTree k fun x => { x with fr := { x.fr with recv := some { hdr := h, kept := 2 } } } :=
  if_pos haid

/-- A parcel of an AID that is no notice's goes through checks 2 to 5 in turn (Table 3.9). -/
theorem Dev.parcelChecks_eq (haid : hdrAid h ≠ Config.aidNotice.toNat) :
    d.parcelChecks k h accBad ue =
      if Config.aidReserved (fld 20 100 h) then d.bump .parRsvd k 0
      else if hdrLength h < 64 ∨ 10240 < hdrLength h then d.bump .parLen k 0
      else if !d.selected k then d.bump .parNotsel k 0
      else
        let g := d.acceptRead k (hdrAid h / 32) accBad
        if !(g.tree k).acc.passes (hdrAid h) then g.bump .parUnacc k 0 else g.parcelBegin k h ue := by
  simp only [Dev.parcelChecks, if_neg haid]
  rfl

end

/-! ### Changes at positions 40 and 200 (R93, R100, R101) -/

theorem Dev.acceptRewrite_word {word : Nat} (hword : word < 32768) (hcfg : (d.tree k).cfg.configured = true) :
    d.acceptRewrite k word = (d.modTree k fun x => { x with acc := (x.acc.rewrite word).2 }).raise (qTree k) 0x03 5 k [word] :=
  if_pos (by simp [hcfg, hword])

end

/-- Settles O58. -/
theorem streamEventsComplete : Obligations.StreamEventsComplete := by
  intro s t d
  have hd : s.dev.begin t = d := rfl
  clear_value d
  intro k x
  refine ⟨?_, ?_, ?_, ?_, ?_, ?_, ?_, ?_, ?_, ?_⟩
  · exact fun htfl hrun hnew => completes_of_act hd rfl (Dev.srAccept_new htfl hrun hnew)
  · exact fun o v hpair hswitching => completes_of_act hd rfl (Dev.switchDone_pair hpair hswitching)
  · intro hdr blk n m p hcfg htfl hhdr hseen hunc hctl hchk hleaf hreserved e
    have hjudged := Dev.listEntry_judged (p := p) rfl hcfg htfl hhdr hseen hunc hctl hchk hleaf hreserved
    refine ⟨?_, ?_, ?_, ?_⟩
    · exact fun hup => completes_of_act hd rfl (hjudged.trans (if_pos (by simpa using hup)))
    · exact fun hup hbad => completes_of_act hd rfl (hjudged.trans ((if_neg (by simpa using hup)).trans (if_pos hbad)))
    · exact fun hup hgood hdup => completes_of_act hd rfl (hjudged.trans ((if_neg (by simpa using hup)).trans
        ((if_neg (Bool.eq_false_iff.1 hgood)).trans (if_pos hdup))))
    · exact fun hup hgood hnew => completes_of_act hd rfl (hjudged.trans ((if_neg (by simpa using hup)).trans
        ((if_neg (Bool.eq_false_iff.1 hgood)).trans (if_neg (Bool.eq_false_iff.1 hnew)))))
  · exact fun hdr nm hcfg htfl hhdr hall => completes_of_act hd rfl (Dev.listComplete_uses hcfg htfl hhdr hall)
  · exact fun h item keyBad ue => completes_of_act hd rfl (Dev.streamItem_outside h)
  · intro hcfg htfl keyBad ue low
    refine ⟨?_, ?_, ?_, ?_⟩
    · exact fun n => completes_of_act hd rfl (Dev.streamItem_stray hcfg htfl)
    · exact fun typ => completes_of_act hd rfl (Dev.streamItem_overhead hcfg htfl)
    · intro rest stampAt tagAt run
      refine ⟨?_, ?_⟩
      · exact fun hnone => completes_of_act hd rfl ((Dev.streamItem_body hcfg htfl).trans (Dev.parcelOver_none hnone))
      · intro r hsome data e short last
        have hbody := Dev.streamItem_body (keyBad := keyBad) (ue := ue) (rest := rest) (stampAt := stampAt) (tagAt := tagAt) hcfg htfl
        refine ⟨?_, ?_, ?_⟩
        · exact fun hkept => completes_of_act hd rfl (hbody.trans (Dev.parcelOver_kept hsome hkept))
        · exact fun hkept => completes_of_act hd rfl (hbody.trans (Dev.parcelOver_notice hsome hkept))
        · exact fun h1 h2 => completes_of_act hd rfl (hbody.trans (Dev.parcelOver_followed hsome h1 h2))
    · intro b accBad run e
      refine ⟨?_, ?_, ?_⟩
      · exact fun hresync hskip => completes_of_act hd rfl (Dev.streamItem_skips hcfg htfl hresync hskip)
      · exact fun hresync hctl => completes_of_act hd rfl (Dev.streamItem_data hcfg htfl hresync hctl)
      · intro hctl htrust f h len e'
        refine ⟨?_, ?_, ?_⟩
        · exact fun htype => completes_of_act hd rfl (Dev.streamItem_type hcfg htfl hctl htrust htype)
        · exact fun htype hbad => completes_of_act hd rfl ((Dev.streamItem_header hcfg htfl hctl htrust htype).trans (Dev.parcelHeader_untrusted hbad))
        · intro htype hunc hchk
          have hhdr := (Dev.streamItem_header (keyBad := keyBad) (ue := ue) (accBad := accBad) hcfg htfl hctl htrust htype).trans
            (Dev.parcelHeader_trusted hunc hchk)
          refine ⟨?_, ?_, ?_⟩
          · exact fun haid => completes_of_act hd rfl (hhdr.trans (Dev.parcelChecks_notice haid))
          · exact fun haid hrsvd => completes_of_act hd rfl (hhdr.trans ((Dev.parcelChecks_eq haid).trans (if_pos hrsvd)))
          · intro haid htraffic
            have hlen := hhdr.trans ((Dev.parcelChecks_eq haid).trans (if_neg (Bool.eq_false_iff.1 htraffic)))
            refine ⟨?_, ?_⟩
            · exact fun hout => completes_of_act hd rfl (hlen.trans (if_pos hout))
            · intro hmin hmax
              have hsel := hlen.trans (if_neg (by omega))
              refine ⟨?_, ?_⟩
              · exact fun hnot => completes_of_act hd rfl (hsel.trans (if_pos (by simpa using hnot)))
              · intro hselected g word g'
                have hacc := hsel.trans (if_neg (by simpa using hselected))
                refine ⟨?_, ?_⟩
                · exact fun hno => completes_of_act hd rfl (hacc.trans (if_pos ((Bool.not_eq_true' _).mpr hno)))
                · exact fun hyes => completes_of_act hd rfl (hacc.trans (if_neg fun hno =>
                    Bool.eq_false_iff.1 ((Bool.not_eq_true' _).mp hno) hyes))
  · exact completes_of_act hd rfl rfl
  · intro held due next e
    refine ⟨?_, ?_⟩
    · exact fun hnone => completes_of_act hd rfl (if_pos (List.isEmpty_iff.2 hnone))
    · exact fun hsome => completes_of_act hd rfl (if_neg fun h => hsome (List.isEmpty_iff.1 h))
  · exact fun word hword hcfg => completes_of_act hd rfl (Dev.acceptRewrite_word hword hcfg)
  · exact completes_of_act hd rfl rfl

end Sys2Proof
end

section
/-! The join commands and the timers of a leaf (R153, R157, R158, R166, R168, R174, R177, R184, R402, Tables 5.17 and 5.18). -/

namespace Sys2Proof

open Machine

/-! ### Timers (R153, R157, R158) -/

theorem past_of_le {now : Ticks} {e : Option Ticks} (h : ∃ b, e = some b ∧ b ≤ now) : past now e = true := by
  obtain ⟨b, rfl, hb⟩ := h
  simp [past, hb]

section
variable {d : Dev} {k draw : Nat}

theorem Dev.assignExpiry_past (hst : (d.tree k).join.st = 0) (h : ∃ b, (d.tree k).join.tAssign = some b ∧ b ≤ d.now) :
    d.assignExpiry k draw =
      ((d.modTree k fun x => { x with join := { x.join with tAssign := none, k := min (x.join.k + 1) 10 } }).bump .assignTimeout k 0).tryDraw
        k draw :=
  if_pos (by simp [hst, past_of_le h])

theorem Dev.announcedExpiry_past (hst : (d.tree k).join.st = 1) (h : ∃ b, (d.tree k).join.tAnnounced = some b ∧ b ≤ d.now) :
    d.announcedExpiry k draw = ((d.commitDue k).deregister k 0 d.now).tryDraw k draw :=
  if_pos (by simp [hst, past_of_le h])

theorem Dev.rangedExpiry_past (hst : (d.tree k).join.st = 2) (h : ∃ b, (d.tree k).join.tRanged = some b ∧ b ≤ d.now) :
    d.rangedExpiry k draw = ((d.commitDue k).deregister k 0 d.now).tryDraw k draw :=
  if_pos (by simp [hst, past_of_le h])

end

/-! ### The share of a key exchange (R168) -/

section
variable {d : Dev} {k eph : Nat} {nonce : BitVec 256}

theorem Dev.kexReady_not
    (h : (d.tree k).ex.kexShare = none ∨ (d.tree k).join.st ≠ 2 ∨ d.vault.sign.waiting k d.now = true) : d.kexReady k eph nonce = d := by
  cases hshare : (d.tree k).ex.kexShare with
  | none => simp only [Dev.kexReady, hshare]
  | some q =>
    have hnot : (d.tree k).join.st ≠ 2 ∨ d.vault.sign.waiting k d.now = true := h.resolve_left (by simp [hshare])
    simp only [Dev.kexReady, hshare]
    exact if_pos (by rcases hnot with h | h <;> simp [h])

/-- The share of a Ranged leaf that waits for no turn of the P-384 unit is answered. -/
theorem Dev.kexReady_answers {q : NoticeQ} (hshare : (d.tree k).ex.kexShare = some q) (hst : (d.tree k).join.st = 2)
    (hturn : d.vault.sign.waiting k d.now = false) :
    d.kexReady k eph nonce =
      let share := d.kexShare k q eph nonce
      ((d.modVault fun v =>
        { v with kex := v.kex.set {} k { active := true, cand := share.2 }, sign := v.sign.done k d.now }).modTree k fun x =>
        { x with ex := { x.ex with kexShare := none } }).reply k q
          { atype := 0x44, nseq := q.nseq, ntype := 0x05, body := blocksOfBytes share.1, param := 1 } := by
  simp only [Dev.kexReady, hshare, hst, hturn, bne_self_eq_false, Bool.or_self, Bool.false_eq_true, if_false]

end

/-! ### Answers that have become stale (R153) -/

/-- The answers in the assemblies of some Pitches. -/
def placedAnswers (ps : List Pitch) : List Answer := (ps.filter fun p => p.phase == 0).flatMap (·.answers)

theorem foldl_placedAnswers (old : Answer → Bool) (ps : List Pitch) (n : Nat) :
    ps.foldl (fun n p => if p.phase == 0 then n + (p.answers.filter old).length else n) n = n + ((placedAnswers ps).filter old).length := by
  induction ps generalizing n with
  | nil => rfl
  | cons p ps ih =>
    rw [List.foldl_cons, ih]
    cases h : p.phase == 0 <;> simp [placedAnswers, h, Nat.add_assoc]

theorem any_placedAnswers (stale : Answer → Bool) (ps : List Pitch) :
    (placedAnswers ps).any stale = ps.any fun p => p.phase == 0 && p.answers.any stale := by
  simp only [placedAnswers, List.any_flatMap, List.any_filter]

theorem Dev.answersStale_eq (d : Dev) (k : Nat) :
    d.answersStale k =
      let e := d.commitDue k
      let y := e.tree k
      let old := fun (a : Answer) => decide (a.ready + Config.sec ≤ e.now)
      let placed := placedAnswers y.pitches
      (e.bumpN .ansStale k 0 ((placed ++ y.ex.answers ++ y.ex.ranges ++ y.join.pass.toList).filter old).length).modTree k fun x =>
        { x with
          pitches := x.pitches.map fun p => if p.phase == 0 then { p with answers := p.answers.filter fun a => !old a } else p
          join := { x.join with pass := x.join.pass.filter fun a => !old a }
          ex :=
            { x.ex with
              answers := x.ex.answers.filter (fun a => !old a), ranges := x.ex.ranges.filter (fun a => !old a)
              respKind := if (y.ex.answers ++ placed).any fun a => old a && a.atype == 0x45 then 0 else x.ex.respKind } } := by
  simp only [Dev.answersStale, foldl_placedAnswers, List.any_append, any_placedAnswers, List.filter_append, List.length_append, Nat.zero_add,
    Nat.add_assoc]

/-- Settles O59. -/
theorem joinCommandsComplete : Obligations.JoinCommandsComplete := by
  intro s t rq d k
  have hd : s.dev.begin t = d := rfl
  clear_value d
  refine ⟨?_, ?_⟩
  · intro hk hcfg
    simp only [k] at hk hcfg
    refine ⟨?_, ?_, ?_⟩
    · intro ⟨hnow, hlen, hready⟩
      exact completes_of_checks hd rfl hnow rfl (treeChecks_pass hlen hk (hready _ (List.mem_singleton_self _)) hcfg) rfl
    · intro ⟨hnow, hlen, hready⟩ h1 h4 hslots
      have hport := hready (fnPort (portOfTree k)) (by simp)
      have hslice := hready (fnUs (k / 8)) (by simp)
      simp only [k] at hport hslice
      refine completes_of_checks hd rfl hnow rfl (passes_cons (failIf_false _ _ (by simp [hlen])) (passes_cons (chkReady_none ?_)
        (passes_cons (chkRange_none (by simp; omega)) (passes_cons (List.findSome?_eq_none_iff.2 fun j hj => chkRange_none ?_)
          (passes_cons (failIf_false _ _ (by simp [hcfg])) (passes_cons (failIf_false _ _ ?_)
            (passes_cons (find?_map_none fun j hj => ?_) passes_nil))))))) rfl
      · simp [needPortOf, Nat.lt_succ_of_le hk, hport, hslice]
      · obtain ⟨hlo, hhi, -⟩ := hslots j (List.mem_range.1 hj)
        simp [hlo, hhi]
      · refine List.any_eq_false.2 fun j hj => ?_
        obtain ⟨-, -, hus⟩ := hslots j (List.mem_range.1 hj)
        simp only [k] at hus
        simp [Alloc.dirs, hus]
      · obtain ⟨-, -, hus⟩ := hslots j (List.mem_range.1 hj)
        simp only [k] at hus
        simp [hus]
    · intro ⟨hnow, hlen, hready⟩ hdma halign
      exact completes_of_checks hd rfl hnow rfl (passes_append (passes_append (passes_cons (chkLen_none hlen)
        (passes_cons (failIf_false _ _ hdma) passes_nil)) fun x hx =>
          treeChecks_pass hlen hk (hready _ (List.mem_singleton_self _)) hcfg x (List.mem_of_mem_drop (i := 1) hx))
        (passes_cons (failIf_false _ _ (by simp [halign])) passes_nil)) rfl
  · intro k draw x past
    refine ⟨?_, ?_, ?_, ?_, ?_, ?_, ?_⟩
    · exact fun hst hpast => completes_of_act hd rfl (Dev.assignExpiry_past hst hpast)
    · exact fun hst hpast => completes_of_act hd rfl (Dev.announcedExpiry_past hst hpast)
    · exact fun hst hpast => completes_of_act hd rfl (Dev.rangedExpiry_past hst hpast)
    · exact fun hpast => completes_of_act hd rfl (if_pos (past_of_le hpast))
    · exact fun hpast => completes_of_act hd rfl (if_pos (past_of_le hpast))
    · exact fun eph nonce => ⟨fun h => completes_of_act hd rfl (Dev.kexReady_not h),
        fun q hshare hst hturn => completes_of_act hd rfl (Dev.kexReady_answers hshare hst hturn)⟩
    · exact completes_of_act hd rfl (Dev.answersStale_eq d k.val)

end Sys2Proof
end
